-- ==== Sys2Proof/Word.lean ====
section
/-! DEFINITION. The word types of the device and the sparse maps its storage is held in. -/

namespace Sys2Proof

/-- One byte (R5). -/
abbrev Byte := BitVec 8
/-- A 16-bit field. -/
abbrev W16 := BitVec 16
/-- A 32-bit register or field. -/
abbrev W32 := BitVec 32
/-- A 64-bit register or field. -/
abbrev W64 := BitVec 64
/-- A vector register V0-V15 (R201). -/
abbrev V128 := BitVec 128
/-- A microword (R202). -/
abbrev MicroWord := BitVec 48

/-- A sparse store: key and value pairs with strictly rising keys, none of them holding the store's default
value. What an unlisted key reads as is given where the store is read. -/
abbrev FMap (α : Type) := List (Nat × α)

end Sys2Proof
end

