-- ==== Sys2Proof/Machine/UnitsHost.lean ====
section
/-! DEFINITION. The state of the host side of the device: supplies and pins, chip mode and conditions, link, HDM window,
slices, queue pairs and jobs (chapters 01 to 04, 21). -/

namespace Sys2Proof.Machine

/-- The chip modes (R39). -/
inductive Mode where
  | boot | assay | ceremony | service | drain | maintenance | umbra | halt
  deriving DecidableEq, Repr

/-- The life-cycle states (CHIP_MODE.LC, R94). -/
inductive Lc where
  | blank | factory | sealed | owned | returned | scrapped
  deriving DecidableEq, Repr

/-- The slice states (SL_STATE.STATE, R115). -/
inductive SliceState where
  | absent | configured | active | quiescing | resetting
  deriving DecidableEq, Repr

/-- Supplies, resets and reference pins (R511 to R513, R526). -/
structure Supply where
  /-- Every rail is in tolerance. -/
  railsGood : Bool
  /-- Power-on reset is held. -/
  por : Bool
  /-- RESET# is low. -/
  resetLow : Bool
  /-- RESET# was asserted and waits for record writes in flight (R343). -/
  resetWaiting : Bool
  /-- Held in reset until RESET# returns high (R526). -/
  resetHeld : Bool
  /-- When a supply warning was raised (R512). -/
  warnedAt : Option Nat
  /-- SYS_CLK is present (R511). -/
  sysClk : Bool
  /-- The root domain runs from VDD_AUX; otherwise from VBAT (R513). -/
  onAux : Bool
  /-- Uptime at which VDD_AUX became good; none when it has been good for longer than 50 ms (R112). -/
  auxAt : Option Nat
  /-- VBAT is present (R510). -/
  vbat : Bool
  deriving DecidableEq, Repr

/-- The output pins whose level the spec fixes: true is asserted. -/
structure Pins where
  /-- FAULT# (R479). -/
  faultN : Bool
  /-- ALERT# (R528). -/
  alertN : Bool
  /-- SMBALERT# (R114). -/
  smbAlertN : Bool
  /-- TPPS_OUT is high (R354). -/
  tppsOut : Bool
  deriving DecidableEq, Repr

/-- The chip-level mirrors and controls (R39, R51, R92 to R94, R112). -/
structure Chip where
  mode : Mode
  lc : Lc
  /-- The drained flag (R51). -/
  drained : Bool
  /-- CHIP_HEARTBEAT.COUNT. -/
  heartbeat : W32
  /-- CHIP_HOSTERR.BADACC. -/
  hostErr : W16
  /-- The latched high half of each 64-bit register whose low half was read last, by the register's offset (R93). -/
  lowLatch : FMap (Option W32)
  /-- Viral is signalled (R110). -/
  viral : Bool
  /-- The function is in D3hot (R81). -/
  d3hot : Bool
  /-- The active management core, 0 or 1 (R489). -/
  activeMgmt : Nat
  /-- MCTP endpoint ID (R112). -/
  eid : Byte
  /-- The cause of the last entry into BOOT, by the trigger codes of R539, kept in the root domain. -/
  bootCause : Nat
  /-- The firmware image in use: 0 A, 1 B; none before one has verified (R458). -/
  runImage : Option Nat
  /-- How often BOOT has begun: it selects the generations the volatile handles start from (R144). -/
  boots : Nat
  deriving DecidableEq, Repr

/-- One IDE stream: 0 link stream, 1 selective stream, 2 CXL.cachemem stream (R81, R91). -/
structure IdeStream where
  configured : Bool
  /-- Key sets programmed for the directions: bit 0 receive, bit 1 transmit; bits 2 and 3 say that K_SET_GO has activated them. -/
  keys : Nat
  secure : Bool
  deriving DecidableEq, Repr

/-- An ATS invalidation that waits for the DMAs that use the translation (R102). -/
structure AtsInv where
  tag : Nat
  pasid : Option (BitVec 20)
  addr : Nat
  len : Nat
  deriving DecidableEq, Repr

/-- The attachment (R82 to R104). -/
structure Link where
  up : Bool
  /-- CXL mode (R83). -/
  cxl : Bool
  /-- CHIP_LINK.SPEED code. -/
  speed : Nat
  /-- CHIP_LINK.WIDTH. -/
  width : Nat
  /-- CXL.cache enabled. -/
  cacheEn : Bool
  /-- Bus mastering enabled (Command register). -/
  busMaster : Bool
  /-- ATS enabled (R100). -/
  atsEn : Bool
  /-- The IDE_REQUIRED control (R91). -/
  ideReq : Bool
  ide : FMap IdeStream
  /-- A secured SPDM session is open (R88). -/
  spdm : Bool
  /-- The owner certificate of SPDM slot 1 (R89). -/
  cert1 : List Byte
  /-- ATS invalidations waiting for their DMAs (R102). -/
  ats : List AtsInv
  /-- Base addresses written to the configuration header, by offset (R85). -/
  bars : FMap W32
  /-- MSI-X table words that differ from their reset value (R85, R104). -/
  msix : FMap W32
  /-- MSI-X vectors pending while masked. -/
  msixPend : List Nat
  deriving DecidableEq, Repr

/-- The HDM bulk window (R95 to R98). -/
structure Hdm where
  /-- Window size in units of 256 MiB. -/
  size : Nat
  committed : Bool
  /-- Base programmed in the decoder. -/
  base : W64
  /-- Size programmed in the decoder, in units of 256 MiB. -/
  span : Nat
  /-- The 2 MiB pages in device bias, by window page number. -/
  devBias : FMap Bool
  /-- Window content by window offset; unlisted bytes read 0. -/
  mem : FMap Byte
  /-- Window lines (64 bytes, by line number) whose tag fails. -/
  poison : FMap Bool
  deriving DecidableEq, Repr

/-- The slice configuration block (R118). -/
structure SliceCfg where
  version : Nat
  settings : Nat
  weight : Nat
  lc0Cells : Nat
  lc1En : Nat
  maxOut : Nat
  keySlots : Nat
  hbmGib : Nat
  ports : Nat
  events : Nat
  leafBatch : Nat
  epochOrigin : Nat
  epochLength : Nat
  deriving DecidableEq, Repr

/-- What a PASID index of a slice holds (R121, R534). -/
inductive PasidBind where
  | unbound
  /-- The binding NONE: DMA carries no PASID prefix. -/
  | noPrefix
  | pasid (p : BitVec 20)
  deriving DecidableEq, Repr

/-- A slice reset or removal in progress (R139). -/
structure ResetRec where
  /-- The state held before. -/
  prior : SliceState
  /-- The command whose completion ends it: its job number; none for a host-side reset (R105). -/
  job : Option Nat
  removal : Bool
  /-- The reset is a host-side one: no completion is written (R105). -/
  hostSide : Bool
  deriving DecidableEq, Repr

/-- One slice (R115 to R123, R136). -/
structure Slice where
  state : SliceState
  cfg : SliceCfg
  /-- Bound PASIDs by index 0-7 (R121). -/
  pasids : FMap PasidBind
  /-- Aperture offset and size in GiB (R96). -/
  apOff : Nat
  apSize : Nat
  /-- SL_NOTIFY. -/
  notify : Byte
  /-- Virtual time (R136). -/
  vtime : Rat
  /-- HBM charged to the quota by peer keys, in MiB (R158). -/
  hbmMib : Nat
  /-- The HBM key generation: a new key at creation and at each scrub (R115, R139); none once discarded (R55). -/
  hbmKey : Option Nat
  /-- Increments of every volatile generation of the slice (R144). -/
  volBump : Nat
  resetRec : Option ResetRec
  /-- A removal waiting for the reset in progress: its job (R138). -/
  removeWaits : Option Nat
  deriving DecidableEq, Repr

/-- One queue pair (R123 to R127). -/
structure Qp where
  sqBase : W64
  cqBase : W64
  coherent : Bool
  pasidIdx : Nat
  depth : Nat
  enable : Bool
  /-- ENABLE was cleared and admitted jobs drain (R124). -/
  draining : Bool
  sqTail : Nat
  sqHead : Nat
  cqHead : Nat
  cqTail : Nat
  phase : Bool
  stopped : Bool
  cause : Nat
  /-- The doorbell writes whose entries are not fetched yet, oldest first: how many entries each made available, and the uptime of its
  arrival (R32, R125). -/
  bells : List (Nat × Nat)
  deriving DecidableEq, Repr

/-- A descriptor (R128). -/
structure Desc where
  opcode : Nat
  flags : Nat
  tag : W32
  keyHandle : W64
  inAddr : Nat
  inLen : Nat
  outCap : Nat
  outAddr : Nat
  params : List Byte
  deriving DecidableEq, Repr

/-- Where the value of a key comes from (R329, R333). -/
inductive KeySrc where
  /-- The value itself, read from the volatile tables. -/
  | value (v : List Byte)
  /-- The slot and its generation. -/
  | slot (index gen : Nat)
  /-- The child of another source under a 32-byte label (R326). -/
  | child (parent : KeySrc) (label : List Byte)
  deriving DecidableEq, Repr

/-- A key a job resolved at its admission and holds until it ends (R164). -/
structure KeyRef where
  handle : W64
  kind : Nat
  alg : Nat
  policy : Nat
  depth : Nat
  parent : W64
  label : List Byte
  created : Nat
  rooted : Bool
  src : KeySrc
  deriving DecidableEq, Repr

/-- Where a job stands on its path (R18, R19, R28). -/
inductive JobPos where
  /-- Admitted, no region had room: at the dispatcher. -/
  | waiting
  /-- Queued in region `r`. -/
  | region (r : Nat)
  /-- Queued in block `b`. -/
  | block (b : Nat)
  /-- Running on the unit with this UNIT code (R131). -/
  | running (unit : Nat)
  /-- Waiting for the requests it passed to the block's BNE. -/
  | onBne (b : Nat)
  /-- Result staged; `check` says a check before release is outstanding (R25, R27). -/
  | staged (check : Bool)
  /-- Waiting for its Almanac writes. -/
  | committing
  deriving DecidableEq, Repr

/-- A volatile key a job fills at its release (R143). -/
structure VolFill where
  kind : Nat
  index : Nat
  alg : Nat
  policy : Nat
  value : List Byte
  pub : List Byte
  depth : Nat
  parent : W64
  label : List Byte
  src : Option KeySrc
  rooted : Bool
  hbmMib : Nat
  deriving DecidableEq, Repr

/-- A slot record a job will write (R322). -/
structure SlotNew where
  index : Nat
  alg : Nat
  policy : Nat
  origin : Nat
  seed : List Byte
  pub : List Byte
  /-- LEVELS and the leaf count of a stateful key (R183, R344). -/
  stateful : Option (Nat × Nat × Nat)
  deriving DecidableEq, Repr

/-- An expanded form a job's attempt built or used (R18, R158): the key's handle, none for the peer the job itself fills, its ALG and the
value or public key it is built from, its size in KiB, and the region. -/
structure FormUse where
  handle : Option W64
  alg : Nat
  key : List Byte
  size : Nat
  region : Nat
  deriving DecidableEq, Repr

/-- The staged result of a job (R23). -/
structure JobRes where
  status : Nat
  detail : Nat
  out : List Byte
  /-- The bytes needed, reported with E_CAPACITY. -/
  outNeed : Nat
  result : Nat
  /-- Guarantee flags (R131). -/
  guarantee : Nat
  fills : List VolFill
  slot : Option SlotNew
  /-- Expanded forms the attempt built or used: they enter the region's cache at the release (R18, R21). -/
  forms : List FormUse
  /-- The two reads of the message differed: the signature fails its check (R175). -/
  spoilt : Bool
  deriving DecidableEq, Repr

/-- One admitted job. -/
structure Job where
  id : Nat
  slice : Nat
  qp : Nat
  desc : Desc
  /-- The latency class it runs in. -/
  lc : Nat
  pos : JobPos
  region : Nat
  block : Nat
  /-- The cell, or the other unit of the UNIT field, that runs it. -/
  unit : Nat
  replays : Nat
  /-- Attempts that failed their check before release (R28). -/
  checkFails : Nat
  keys : List KeyRef
  /-- The slice's configuration when the job was admitted (R119). -/
  cfg : SliceCfg
  /-- Uptime of its doorbell write (R32). -/
  since : Nat
  /-- Host read latency of its descriptor's fetch beyond 0.4 µs, in ns: it is added to the LC0 bound (R541). -/
  slack : Nat
  dual : Bool
  res : Option JobRes
  /-- TAI instant of its release. -/
  released : Option Nat
  /-- The time flags of its guarantee as they stood when that instant was taken (R131). -/
  relFlags : Nat
  /-- The reserved slot index (R151). -/
  reserved : Option Nat
  /-- The stateful leaf handed to its attempt (R187). -/
  leaf : Option Nat
  /-- Ledger writes outstanding. -/
  writes : Nat
  /-- Byte strings one part of the job leaves for the next. -/
  saved : List (List Byte)
  /-- The customer image it runs: slice and image sequence (R236). -/
  image : List Byte
  /-- It waits for a condition its command names (a declaration, a ceremony step, a prefill). -/
  parked : Bool
  /-- The UNIT code its last attempt ran on: a replay goes to a different unit (R28). -/
  avoid : Option Nat
  /-- Uptime at which its wait at the dispatcher began. -/
  waitFrom : Nat
  /-- The values of its keys, once an engine has started for it (R164, R333). -/
  vals : Option (List (List Byte))
  /-- The cell of the check before release or of the second execution, once it has started there (R25, R27). -/
  second : Option Nat
  /-- Key blocks of a keyed function that a cached keyed state spares the job (R284, R286). -/
  spared : Nat
  /-- Bytes of the input stream delivered so far (R288). -/
  got : Nat
  /-- What the BNE of the second execution of a hybrid encapsulation has left (R168). -/
  twin : Option (List Byte)
  /-- It waited at the dispatcher for more than 100 µs, and replays of other slices were picked ahead of it (R485). -/
  waitedLong : Bool
  jumped : Bool
  deriving DecidableEq, Repr

/-- What the device sends out, in order of issue. -/
inductive Out where
  /-- Output bytes of a job, posted to host memory under the queue pair's PASID (R100). -/
  | dmaWrite (slice qp : Nat) (pasid : Option (BitVec 20)) (addr : Nat) (bytes : List Byte)
  /-- A completion at an entry of a completion ring, written under the queue pair's PASID (R100, R126). -/
  | completion (slice qp : Nat) (pasid : Option (BitVec 20)) (entry : Nat) (bytes : List Byte)
  /-- A read of descriptors of a submission ring under the queue pair's PASID; coherent through CXL.cache, else by CXL.io (R81, R100). -/
  | ringRead (slice qp : Nat) (pasid : Option (BitVec 20)) (coherent : Bool) (addr len : Nat)
  /-- A read of a job's input from host memory under the queue pair's PASID (R100). -/
  | dmaRead (slice qp : Nat) (pasid : Option (BitVec 20)) (addr len : Nat)
  /-- An MSI-X vector (R99). -/
  | msix (vector : Nat)
  /-- A read result: BAR0, HDM or a configuration read. -/
  | readData (bytes : List Byte)
  /-- Poisoned read data (R96). -/
  | poison
  /-- A DOE or SPDM response: a name for its kind, and its content. -/
  | spdm (kind : Nat) (bytes : List Byte)
  /-- Sideband response bytes (R113). -/
  | sideband (bytes : List Byte)
  /-- An acknowledgement: 0 GPF, 1 ATS invalidation, 2 IDE key, 3 device-bias ownership. -/
  | ack (kind tag : Nat)
  /-- A frame on key lane `port` (R382 and after). -/
  | frame (port : Nat) (bytes : List Byte)
  /-- A command frame or data sent to a custodian card (R406). -/
  | card (slot cmd : Nat) (bytes : List Byte)
  /-- Bits shifted out of, or pins driven by, the debug port (R462). -/
  | tap (kind : Nat) (bytes : List Byte)
  /-- An uncorrectable internal error through AER (R110). -/
  | aer
  deriving DecidableEq, Repr

end Sys2Proof.Machine
end

