-- ==== Sys2Proof/Machine/UnitsStore.lean ====
section
/-! DEFINITION. The state of the stores and of the timed units: root record, volatile keys and working-key caches, the
Almanac, the timebase and its events, the key lanes, the custodian cards and the ceremony (chapters 05, 12 to 16). -/

namespace Sys2Proof.Machine

/-- One index of a volatile handle table (R142 to R144). -/
structure VolEnt where
  /-- Fills and emptyings since BOOT: added to the index's starting generation. -/
  bumps : Nat
  full : Bool
  alg : Nat
  policy : Nat
  /-- The value of an ephemeral key or the public key of a peer; a derived key holds none (R329). -/
  value : List Byte
  pub : List Byte
  depth : Nat
  parent : W64
  label : List Byte
  src : Option KeySrc
  created : Nat
  rooted : Bool
  /-- HBM charged for a Classic McEliece peer (R158). -/
  hbmMib : Nat
  /-- A slot of its chain was withdrawn: later admissions answer E_SLOT_CORRUPT (R325). -/
  corrupt : Bool
  deriving DecidableEq, Repr

/-- An entry of a working-key cache (R332). -/
structure CacheEnt where
  handle : W64
  slice : Nat
  value : List Byte
  /-- Uptime of the last use. -/
  used : Nat
  /-- Handles of its ancestors, nearest first (R334). -/
  chain : List W64
  deriving DecidableEq, Repr

/-- An expanded-key cache entry of one region (R158 to R160): the form of ALG `alg` built from `key`, and the bytes microcode has stored over
it (R216). -/
structure ExpEnt where
  handle : W64
  slice : Nat
  alg : Nat
  key : List Byte
  stored : FMap (Option Byte)
  /-- Handles of the key's ancestors, nearest first. -/
  chain : List W64
  /-- Size in KiB. -/
  size : Nat
  pinned : Bool
  used : Nat
  deriving DecidableEq, Repr

/-- A scrub waiting for jobs admitted before an event (R334): the handle, and the first job number admitted after it. -/
structure ScrubWait where
  handle : W64
  before : Nat
  /-- Only the key's expanded entries go, once the jobs using the key have ended (R160). -/
  expOnly : Bool
  deriving DecidableEq, Repr

/-- A slot-table entry (R321): state 0 FREE, 1 LIVE, 2 ZEROING, 3 WITHDRAWN, 4 DEAD. -/
structure SlotEnt where
  gen : Nat
  state : Nat
  slice : Nat
  alg : Nat
  policy : Nat
  deriving DecidableEq, Repr

/-- The life-cycle intent (R346). -/
structure Intent where
  active : Bool
  fromLc : Nat
  target : Nat
  erase : Nat
  done : Nat
  fuses : Nat
  time : Nat
  /-- Owner key hash and enrolment word to be programmed with the change to OWNED (R454). -/
  ownerHash : List Byte
  enrol : Nat
  deriving DecidableEq, Repr

/-- One custodian of the list (R318). -/
structure Custodian where
  cardId : List Byte
  enrolled : Bool
  deriving DecidableEq, Repr

/-- The custodian list (R318). -/
structure CustList where
  epoch : Nat
  m : Nat
  rootCheck : List Byte
  rootId : List Byte
  /-- CREATED of the root, restored at reassembly (R319). -/
  created : Nat
  cards : FMap (Option Custodian)
  deriving DecidableEq, Repr

/-- A key-lane port's 12-byte entry of the device settings (R389). -/
structure PortEnt where
  slot : Nat
  slotGen : Nat
  g : Nat
  paired : Bool
  quarantined : Bool
  deriving DecidableEq, Repr

/-- The device settings (ledger record 2: R211, R366, R389). -/
structure Settings where
  wdogExp : Nat
  budget : Nat
  ppsDelay : Int
  tppsOutEn : Bool
  ports : FMap PortEnt
  deriving DecidableEq, Repr

/-- Recovery record content (R477): record 4 holds the settings and entries 0-19, records 5 to 7 the entries 20-103. -/
structure Recovery where
  /-- Severity overrides by source code: 0 the default, 1-5 the severities 0-4. -/
  severity : FMap Nat
  /-- QUIET in ms, LIMIT, WINDOW in hours. -/
  quiet : Nat
  limit : Nat
  window : Nat
  /-- Recovery entries: unit number and timebase second; 0 for one made while the timebase was unset. -/
  ents : FMap (Option (Nat × Nat))
  /-- Units held FAILED, by bit index. -/
  failed : FMap Bool
  deriving DecidableEq, Repr

/-- A slice's first ledger record (R117, R337). -/
structure SliceRec where
  state : SliceState
  cfg : SliceCfg
  removal : Bool
  deriving DecidableEq, Repr

/-- A slice's second ledger record (R242, R390). -/
structure ImageRec where
  seq : Nat
  digest : List Byte
  bindings : FMap W64
  deriving DecidableEq, Repr

/-- A leaf record (R344). -/
structure Leaf where
  slot : Nat
  gen : Nat
  alg : Nat
  levels : Nat
  lower : Nat
  slice : Nat
  total : Nat
  highWater : Nat
  nextAtCommit : Nat
  burned : Nat
  batch : Nat
  deriving DecidableEq, Repr

/-- An event specification (R368). -/
structure EvSpec where
  kind : Nat
  flags : Nat
  instant : Nat
  arg0 : Nat
  arg1 : Nat
  arg2 : Nat
  cookie : Nat
  deriving DecidableEq, Repr

/-- A durable event's entry (R371). -/
structure EvEnt where
  id : Nat
  slice : Nat
  state : Nat
  spec : EvSpec
  deriving DecidableEq, Repr

/-- An entry of the spare map (R341): the record, or none for a spare marked bad. -/
structure SpareEnt where
  record : Option Nat
  spare : Nat
  baseSeq : Nat
  deriving DecidableEq, Repr

/-- The payload of a ledger record, by its TYPE (R337, R338). -/
inductive Payload where
  | empty
  | intent (i : Intent)
  | custodian (c : CustList)
  | settings (c : Settings)
  | recovery (r : Recovery)
  | slice (r : SliceRec)
  | image (r : ImageRec)
  | slots (m : FMap SlotEnt)
  | leaf (l : Leaf)
  | events (m : FMap (Option EvEnt))
  | spares (l : List SpareEnt)
  deriving DecidableEq, Repr

/-- One bank of a ledger pair (R338, R339): its CHECK is the tag under the root it names, or a CRC. -/
inductive Bank where
  | blank
  | written (seq : Nat) (p : Payload) (root : List Byte)
  /-- Fails its check: torn, or an uncorrectable error. -/
  | damaged
  deriving DecidableEq, Repr

/-- A bank pair. -/
structure Pair where
  a : Bank
  b : Bank
  deriving DecidableEq, Repr

/-- One change to a ledger record. -/
inductive AlmOp where
  | intent (i : Intent)
  | custodian (c : CustList)
  | wdog (exp : Nat)
  | timeCfg (budget : Nat) (delay : Int) (en : Bool)
  | port (n : Nat) (e : PortEnt)
  | recovery (n : Nat) (r : Recovery)
  /-- FAULT_CONFIG: source and override, QUIET, or LIMIT and WINDOW (R478). -/
  | faultSev (src o : Nat)
  | faultQuiet (ms : Nat)
  | faultLimit (limit window : Nat)
  /-- FAULT_CLEAR of a FAILED unit: its bit index and number. -/
  | faultClear (k u : Nat)
  | slice (n : Nat) (r : SliceRec)
  /-- The slice's record is erased (R117). -/
  | sliceErase (n : Nat)
  /-- The image registered, with its SEQ and digest. -/
  | image (n : Nat) (seq : Nat) (digest img : List Byte)
  | imageErase (n : Nat)
  | binding (n b : Nat) (h : W64)
  | slotEnt (index : Nat) (e : SlotEnt)
  | leaf (rid : Nat) (l : Leaf)
  | leafErase (rid : Nat)
  | event (index : Nat) (e : Option EvEnt)
  /-- A slot record is written (R322), or zeroed (R324). -/
  | slotWrite (index : Nat) (bytes : List Byte)
  | slotZero (index : Nat)
  /-- The custodian list, settings or another record is committed again unchanged (R342). -/
  | copy (rid : Nat)
  deriving DecidableEq, Repr

/-- A requested ledger write: the job it belongs to, if any. -/
structure AlmReq where
  job : Option Nat
  op : AlmOp
  deriving DecidableEq, Repr

/-- The writes of one record (R342): the requests the write carries, whether it is in flight (its content is fixed then),
and the requests merged into the follow-up write. -/
structure WriteQ where
  started : Bool
  /-- Priority: 0 intent, 1 leaf reservation, 2 to 4 other writes by latency class, 5 zeroing. -/
  prio : Nat
  age : Nat
  reqs : List AlmReq
  follow : List AlmReq
  deriving DecidableEq, Repr

/-- An event-log entry (R348). -/
structure LogEnt where
  seq : Nat
  time : Nat
  source : Nat
  code : Nat
  severity : Nat
  /-- The 36 bytes of DATA; missing ones are 0. -/
  data : List Byte
  /-- Its CRC fails: torn by a power loss. -/
  torn : Bool
  deriving DecidableEq, Repr

/-- A progress page (R344): its sequence number and, by leaf record, HIGH_WATER and NEXT. -/
structure ProgPage where
  seq : Nat
  ents : FMap (Nat × Nat)
  deriving DecidableEq, Repr

/-- The running state of a stateful key, by leaf record (R185 to R189). -/
structure Tree where
  next : Nat
  burned : Nat
  topReady : Bool
  lowerReady : Bool
  nextReady : Bool
  percent : Nat
  /-- Used since the last progress page. -/
  dirty : Bool
  /-- The leaf record must be committed before the first leaf (R345). -/
  startCommit : Bool
  deriving DecidableEq, Repr

/-- The Almanac and its controller (R336 to R349). -/
structure Almanac where
  /-- Slot records by index: 256 bytes; an unlisted record is all 0. -/
  slots : FMap (List Byte)
  /-- Slot records whose read reports an uncorrectable error (R337). -/
  slotBad : FMap Bool
  /-- Ledger pairs by pair number, spares at 64,512 and above. -/
  pairs : FMap Pair
  imageA : List Byte
  imageB : List Byte
  /-- The event log, oldest first. -/
  log : List LogEnt
  logSeq : Nat
  pageA : Option ProgPage
  pageB : Option ProgPage
  /-- Writes waiting and in flight: ledger records at their ID, slot records at 2^20 + index, zeroings at 2^21 + index. -/
  writes : FMap WriteQ
  /-- Writes requested so far: it gives them their age. -/
  writeAge : Nat
  /-- Lost records since BOOT (R349). -/
  lost : Nat
  /-- Records handled as lost since BOOT because a write of a released job could not be made (R341). -/
  gone : List Nat
  /-- Uptimes of the commits of the last second. -/
  commits : List Nat
  deriving DecidableEq, Repr

/-- The root domain (R310 to R315, R440 to R445, R539). -/
structure RootDom where
  /-- The 64 bytes of the root record. -/
  record : List Byte
  /-- The device keys are held in the root wrap engine (R315). -/
  keysLoaded : Bool
  /-- The lock latch word. -/
  latch : W32
  /-- The retention check word is good (R440). -/
  retOk : Bool
  /-- BTIME (R443). -/
  btime : Nat
  /-- The battery event log: up to 32 entries of 8 bytes (R444). -/
  batLog : List (List Byte)
  overflow : Nat
  /-- The life-cycle state the root domain holds (R442). -/
  lcHeld : Nat
  deriving DecidableEq, Repr

/-- A time condition (CHIP_MODE.TIME). -/
inductive Cond where
  | referenced | holdover | untimed
  deriving DecidableEq, Repr

/-- The timebase (R351 to R365). -/
structure Timebase where
  set : Bool
  time : Nat
  cond : Cond
  confirmed : Bool
  /-- Edges of the current run, saturating at 8. -/
  run : Nat
  /-- The second that a declaration gives the last edge of the run (R360). -/
  number : Option Nat
  /-- Uptime of the last edge of the run (R358). -/
  runEdge : Option Nat
  /-- 0 lost, 1 10 MHz, 2 25 MHz. -/
  tref : Nat
  /-- The second whose window closes next (R355). -/
  win : Nat
  /-- That window has had an edge; it held an accepted edge. -/
  winEdge : Bool
  winAccepted : Bool
  /-- The last closed window held an accepted edge (PPS_OK). -/
  ppsOk : Bool
  /-- Consecutive missing windows, and those of them that closed while TREF_IN was lost. -/
  missRun : Nat
  missLost : Nat
  /-- Uptimes of rejected edges within the last second. -/
  rejTimes : List Nat
  accepted : Nat
  rejected : Nat
  missing : Nat
  /-- Offset of the last accepted edge. -/
  offset : Int
  /-- Elapsed holdover in ns. -/
  hold : Nat
  expired : Bool
  /-- PPS_DELAY in force (R366). -/
  delay : Int
  /-- Backward correction left to absorb, in ns of the timebase; the phase of the half rate. -/
  slew : Option Nat
  slewPhase : Bool
  /-- Consecutive missing edges of the slew; 2 stays (R363). -/
  slewMiss : Nat
  /-- The frequency correction in parts per 10^9, and what it has accumulated of a tick, in 10^-9 ns (R357). -/
  steer : Int
  steerAcc : Int
  deriving DecidableEq, Repr

/-- An event with its outcome (R368 to R373). -/
structure EvRec where
  id : Nat
  slice : Nat
  spec : EvSpec
  /-- 0 PENDING, 1 PREPARED, 2 FIRED, 3 FIRED_LATE, 4 SKIPPED, 5 SUSPENDED, 6 CANCELLED, 7 FAILED. -/
  state : Nat
  cond : Nat
  status : Nat
  fired : Nat
  lateness : Nat
  /-- PRECOMPUTE_POOL: the generation filled at each index. -/
  gens : List Nat
  /-- Its slot read failed at preparation (R380). -/
  corrupt : Bool
  /-- Uptime of its outcome (R372). -/
  endedAt : Nat
  deriving DecidableEq, Repr

/-- The Ephemeris (R366 to R380). -/
structure Ephemeris where
  events : FMap (Option EvRec)
  /-- Generations used since BOOT by event index. -/
  bumps : FMap Nat
  /-- Last activated epoch by slot index, plus one; 0 none. -/
  active : FMap Nat
  /-- Prepared epoch by slot index, plus one; 0 none. -/
  prepared : FMap Nat
  late : W32
  deriving DecidableEq, Repr

/-- A sealed frame of a port's cache (R396). -/
structure Sealed where
  binding : Nat
  channel : Nat
  epoch : Nat
  bytes : List Byte
  /-- A frame of the prepared next epoch. -/
  isNext : Bool
  used : Nat
  deriving DecidableEq, Repr

/-- A key-lane request accepted but not yet answered (R393, R398). -/
structure KlReq where
  op : Nat
  tag : Nat
  selector : Nat
  epoch : Nat
  /-- The instant it arrived, on the uptime. -/
  arrived : Nat
  deriving DecidableEq, Repr

/-- A frame waiting for a port's transmitter; `credit` says that sending it returns one. -/
inductive TxFrame where
  /-- A sealed frame, with its TAG spliced in. -/
  | sealed (bytes : List Byte) (credit : Bool)
  /-- A NAK and its REASON, or, with REASON 0, a PONG: built as it is sent (R394). -/
  | nak (tag reason : Nat) (credit : Bool)
  deriving DecidableEq, Repr

/-- A parent key or base the key-lane complex holds (R398): of a base handle, for an epoch or not. -/
structure LaneKey where
  slice : Nat
  handle : W64
  epoch : Option Nat
  value : List Byte
  deriving DecidableEq, Repr

/-- One key-lane port (R381 to R402). -/
structure Port where
  linkUp : Bool
  /-- Free credits (R393). -/
  credits : Nat
  cache : List Sealed
  /-- SEK and SMK of the committed seal generation (R386); none until one has been committed since the port was last disabled. -/
  seals : Option (List Byte × List Byte)
  /-- The last nonce allocated under them (R388). -/
  nonce : Nat
  /-- The expected request counter (R393). -/
  expected : Option Nat
  /-- Uptimes of the counted NAKs of the last second. -/
  nakTimes : List Nat
  nakCrc : Nat
  nakCounter : Nat
  nakCredit : Nat
  hits : W32
  misses : W32
  epochSent : Nat
  pendingMiss : List KlReq
  tx : List TxFrame
  /-- A seal-generation commit is in progress (R388). -/
  rekey : Bool
  /-- The sealed EPOCH frame of the prepared Meridian. -/
  epochFrame : Option (Nat × List Byte)
  deriving DecidableEq, Repr

/-- One card slot (R403 to R427). -/
structure CardSlot where
  /-- 0 EMPTY, 1 DEBOUNCING, 2 POWERING, 3 IDENTIFYING, 4 READY, 5 BUSY, 6 REFUSED. -/
  state : Nat
  det : Bool
  wp : Bool
  pwren : Bool
  clkOn : Bool
  width : Nat
  rate : Nat
  tap : Nat
  life : Nat
  errors : Nat
  cardId : List Byte
  mfgTime : Nat
  writesLeft : Nat
  ceremoniesLeft : Nat
  cert : List Byte
  certOk : Bool
  /-- The command in progress: its opcode and argument, retries so far, and whether the card is busy. -/
  cmd : Option (Nat × Nat)
  retries : Nat
  /-- Consecutive CRC failures. -/
  crcFails : Nat
  busy : Bool
  /-- The response has come and its data block has not. -/
  data : Bool
  /-- Uptime of the power-up, of the last written data or of the start of BUSY. -/
  since : Nat
  /-- A TUNE sweep in progress: the taps that passed so far. -/
  tuning : Option (List Bool)
  deriving DecidableEq, Repr

/-- The card step in progress (R419, R420). Positions: 0 and 1 the bank reads, 2 SE_OPEN, 3 SE_SEAL or SE_UNSEAL, 4 its BUSY,
5 + k SE_RESULT k, 20 WRITE_BLOCK, 21 its BUSY, 22 the read-back. -/
structure CardStep where
  cs : Nat
  write : Bool
  x : Nat
  pos : Nat
  /-- The banks as read; none where invalid. -/
  bankA : Option (List Byte)
  bankB : Option (List Byte)
  useB : Bool
  /-- Bytes 0 to 39 of the record. -/
  header : List Byte
  /-- What SE_SEAL, SE_UNSEAL or WRITE_BLOCK sends. -/
  block : List Byte
  /-- The randomness of the step: of the encapsulation, or the seed of the ephemeral key and the challenge. -/
  rnd : List Byte
  result : List Byte
  rewrites : Nat
  deriving DecidableEq, Repr

/-- A ceremony in progress (R422 to R426). -/
structure Ceremony where
  kind : Nat
  m : Nat
  n : Nat
  x : Nat
  timeout : Nat
  /-- The mode it began from. -/
  fromMode : Mode
  stepsDone : Nat
  stepsTotal : Nat
  /-- Uptime at which the present card wait began. -/
  waitFrom : Nat
  /-- Shares held: x-coordinate and the 32 bytes. -/
  shares : List (Nat × List Byte)
  /-- Cards written in this ceremony: x-coordinate and card id. -/
  written : List (Nat × List Byte)
  /-- The M of the shares being written and their epoch. -/
  newM : Nat
  newEpoch : Nat
  ownerHash : List Byte
  /-- The enrolled x to retire is `x`; the job of the CEREMONY_STEP that runs, and its card part. -/
  stepJob : Option Nat
  step : Option CardStep
  /-- Jobs admitted before this number were admitted before the entry (R48). -/
  firstJob : Nat
  deriving DecidableEq, Repr

end Sys2Proof.Machine
end

