-- ==== Sys2Proof/Machine/UnitsEngine.lean ====
section
/-! DEFINITION. The state of the shared engines: big-number engine (chapter 09), digest engine (10), random bit chain
(11), and the region and block units (01, 19). -/

namespace Sys2Proof.Machine

/-- A request to a BNE (R259). -/
structure BneReq where
  /-- The job it serves. -/
  job : Nat
  /-- The cell that issued it by BNEREQ; none for a whole job. -/
  cell : Option Nat
  func : Nat
  sel : Nat
  alg : Nat
  mode : Nat
  hash : Nat
  lc : Nat
  inOff : Nat
  inLen : Nat
  outOff : Nat
  outCap : Nat
  /-- A misaligned block or reserved content (R259). -/
  bad : Bool
  /-- The input bytes the block control core mapped. -/
  input : List Byte
  slice : Nat
  handle : W64
  /-- The key's seed. -/
  key : List Byte
  /-- The public key a verification or an agreement uses, the context and the salt length of a signature. -/
  pub : List Byte
  ctx : List Byte
  sig : List Byte
  salt : Nat
  /-- Window offset of the request block of a BNEREQ. -/
  blkOff : Nat
  /-- The key load it skipped (1) or the wipe it waited for (2) under KEEP_WITHIN_SLICE (R267, R276). -/
  adj : Nat
  /-- Randomness drawn once for the job (R168, R259). -/
  rnd : List Byte
  /-- Order of arrival. -/
  age : Nat
  /-- It serves the second execution of a hybrid encapsulation (R168). -/
  twin : Bool
  /-- A signature whose message was read twice with different content: it fails its check (R175). -/
  spoilt : Bool
  /-- The blinding and randomisers drawn for it from the blinding buffer before its first cycle (R274). -/
  blind : List Byte
  deriving DecidableEq, Repr

/-- What a BNE function leaves. -/
structure BneRes where
  status : Nat
  result : Nat
  detail : Nat
  out : List Byte
  /-- The check before release passed (R277). -/
  checked : Bool
  deriving DecidableEq, Repr

/-- One big-number engine (R253 to R279). -/
structure Bne where
  queue : List BneReq
  /-- The request in H0, and its result once its function has run. -/
  run : Option BneReq
  res : Option BneRes
  /-- The long operation in H1 and its result; `paused` between segments. -/
  long : Option BneReq
  longRes : Option BneRes
  paused : Bool
  /-- Cycles run in H0 since the last segment ended (R262). -/
  spent : Nat
  /-- What the digest engine has sent back for the request in H0, and for the long operation (R260, R292). -/
  hashed : Option (List Byte)
  longHashed : Option (List Byte)
  /-- H0's tag under KEEP_WITHIN_SLICE: slice and key handle (R267). -/
  h0 : Option (Nat × W64)
  /-- The slice whose content H0 holds until it is wiped (R269). -/
  owner : Option Nat
  /-- H0 or H1 hold operand content. -/
  h0Used : Bool
  h1Used : Bool
  /-- The 512 words of each half of the operand memory (R253). -/
  h0Mem : FMap (BitVec 256)
  h1Mem : FMap (BitVec 256)
  /-- The multiplier pipeline and the internal registers hold content of a request (R265). -/
  pipe : Bool
  /-- Uptime at which the last wipe of H0, and of H1, has finished (R265). -/
  till0 : Nat
  till1 : Nat
  dirty : Bool
  /-- The control store: the bytes of the microprogram set copied there at the end of BOOT (R257). -/
  ctl : List Byte
  /-- Bytes in the blinding buffer, at most 4,096 (R253, R274). -/
  blind : Nat
  /-- Second requests of whole jobs that the block control core holds until the queue has room (R253). -/
  held : List BneReq
  /-- The request block the block control core built for the last whole job, as the BNE left it (R259). -/
  block : List Byte
  /-- Out of service (R257, R279). -/
  out : Bool
  /-- Uptimes of double-bit errors (R279). -/
  ueTimes : List Nat
  deriving DecidableEq, Repr

/-- A requester of a digest-engine context (R281, R282). -/
structure DeReq where
  job : Nat
  /-- A hashing request of the block's BNE (R260). -/
  bne : Bool
  slice : Nat
  lc : Nat
  hash : Nat
  priv : Bool
  since : Nat
  deriving DecidableEq, Repr

/-- One message as the digest engine runs it, block by block (R280, R286). -/
structure DePlan where
  /-- 0 SHA-256, 1 SHA-384 and SHA-512, 2 Keccak. -/
  fam : Nat
  /-- Block bytes. -/
  rate : Nat
  /-- Digest bytes: what an HMAC's outer compression takes of the inner state. -/
  size : Nat
  /-- Blocks that absorb the key first: none for an unkeyed function, and none where the keyed state came from the cache. -/
  keyBlocks : Nat
  /-- The state the message starts from: the initial value, or the keyed state. -/
  start : List Byte
  /-- The outer chaining value of an HMAC. -/
  outer : List Byte
  /-- The padded message. -/
  body : List Byte
  /-- Blocks after it: the outer compression of an HMAC, the further squeeze blocks of an XOF. -/
  tail : Nat
  deriving DecidableEq, Repr

/-- A context of a digest engine (R281). -/
structure DeCtx where
  req : DeReq
  /-- It has input ready, and since when it waits to run. -/
  ready : Bool
  waitFrom : Nat
  /-- The messages it still has to run, the first of them in progress: its blocks run, and its chaining or Keccak state. -/
  plans : List DePlan
  ran : Nat
  st : List Byte
  /-- A keyed state that enters the cache once the key blocks have run (R286): HASH and S. -/
  keep : Option (Nat × List Byte)
  /-- The hash a BNE asked for (R292). -/
  value : List Byte
  /-- Its message has ended, and its result is not yet copied (R291). -/
  done : Bool
  /-- It has waited 2^20 cycles with input ready (R283). -/
  starved : Bool
  deriving DecidableEq, Repr

/-- A keyed-state cache entry (R285). -/
structure Ksc where
  handle : W64
  slice : Nat
  hash : Nat
  cust : List Byte
  used : Nat
  /-- Inner and outer chaining values of an HMAC; the Keccak state of a KMAC. -/
  inner : List Byte
  outer : List Byte
  /-- Handles of its key's ancestors, nearest first. -/
  chain : List W64
  deriving DecidableEq, Repr

/-- One digest engine (R280 to R294). -/
structure De where
  ctx : FMap (Option DeCtx)
  waiting : List DeReq
  /-- The context loaded on the engine, and its consecutive blocks. -/
  running : Option Nat
  blocks : Nat
  /-- The running context was chosen for having starved: it keeps the engine for 64 blocks (R283). -/
  hold64 : Bool
  ksc : List Ksc
  /-- The result registers of each context: what the last public result left there (R291). -/
  results : FMap (List Byte)
  deriving DecidableEq, Repr

/-- A unit's recovery state (R71, R469 to R477). -/
inductive UnitState where
  | online | fenced | recovering | failed
  deriving DecidableEq, Repr

/-- The random bit chain of one region (R295 to R309). -/
structure Rng where
  /-- 0 OFF, 1 STARTUP, 2 OK, 3 RESTARTING, 4 FAILED. -/
  src : Nat
  cause : Nat
  /-- Uptimes of the health-test failures within 3,600 s. -/
  failTimes : List Nat
  rct : Nat
  apt : Nat
  seedSrc : Nat
  /-- Conditioned blocks waiting, at most four. -/
  blocks : List (List Byte)
  /-- The conditioner state s[126:0]. -/
  cond : BitVec 127
  /-- Consecutive startup failures (R301). -/
  startFails : Nat
  /-- 0 UNINSTANTIATED, 1 READY, 2 RESEEDING, 3 TESTING, 4 FAILED. -/
  drbg : Nat
  reseeds : BitVec 24
  /-- Generate calls and uptime since the last reseed (R302). -/
  calls : Nat
  seededAt : Nat
  /-- A source that serves several regions hands out its blocks in turn: the region served last (R306). -/
  turn : Nat
  deriving DecidableEq, Repr

/-- One block: its unit state and caches (R332, R236). -/
structure Block where
  bne : Bne
  de : De
  cache : List CacheEnt
  deriving DecidableEq, Repr

/-- One region. -/
structure Region where
  rng : Rng
  cache : List CacheEnt
  expanded : List ExpEnt
  /-- HBM pages retired after an uncorrectable line, by address / 4096 (R467). -/
  retired : FMap Bool
  deriving DecidableEq, Repr

/-- A customer image registered for a slice (R236, R241). -/
structure Micro where
  image : List Byte
  seq : Nat
  digest : List Byte
  deriving DecidableEq, Repr

end Sys2Proof.Machine
end

