-- ==== Sys2Proof/Machine/UnitsChip.lean ====
section
/-! DEFINITION. The state of the tamper logic, the fault hub, the interrupt controller, the power domains, the temperature
sensors and the debug port (chapters 17 to 21). -/

namespace Sys2Proof.Machine

/-- A tamper source: a loop, a case switch or a cell's clock monitor (R441). -/
structure TmpSrc where
  /-- In alarm, or not yet re-armed. -/
  tripped : Bool
  /-- Uptime of its last alarm. -/
  lastAt : Nat
  deriving DecidableEq, Repr

/-- The tamper logic (R429 to R447); the latch, BTIME and the battery log lie in the root domain. -/
structure Tamper where
  /-- Sources 0-15 loops, 16 and 17 case switches, 32 + n the clock monitor of cell n. -/
  src : FMap TmpSrc
  /-- A survey's enrolment word, staged until the change to OWNED (R436). -/
  staged : Option Nat
  /-- TMP_STAT.LAST. -/
  last : Nat
  /-- TMP_LAST. -/
  lastSource : Nat
  lastKind : Nat
  lastCell : Nat
  /-- TMP_COUNT. -/
  loopCase : Nat
  clock : Nat
  /-- TMP_STAT.BATCOPIED and OVERFLOW. -/
  batCopied : Nat
  overflowAtStart : Nat
  /-- PRBS seeds of the loops (R434); an unlisted loop runs static. -/
  seeds : FMap (BitVec 15)
  deriving DecidableEq, Repr

/-- A fault record (R471). -/
structure FaultRec where
  src : Nat
  severity : Nat
  unit : Nat
  merged : Nat
  lastSrc : Nat
  acted : Bool
  replayed : Bool
  failed : Bool
  time : Nat
  info : Nat
  slice : Nat
  replays : Nat
  seq : Nat
  deriving DecidableEq, Repr

/-- An error handler (R471 to R473). -/
structure Handler where
  first : Option FaultRec
  /-- The history queue, newest first, at most 16. -/
  hist : List FaultRec
  /-- Records created. -/
  count : Nat
  /-- SEQ of the record being handled, and the units whose action is not complete. -/
  handling : Option (Nat × List Nat)
  deriving DecidableEq, Repr

/-- A unit that can be fenced, by bit index (R468, R475). -/
structure FltUnit where
  state : UnitState
  /-- Fencing has begun and is not ACTED. -/
  acting : Bool
  /-- Uptime at which the present quiet period began. -/
  quietFrom : Option Nat
  /-- The source that contained it last. -/
  src : Nat
  deriving DecidableEq, Repr

/-- The rate limit of R474 for one source and unit: uptimes of the entries of the last second, and the entries held. -/
structure FltRate where
  times : List Nat
  held : Nat
  deriving DecidableEq, Repr

/-- The fault hub and the handlers (R465 to R479): handler 0 the chip's, 1-4 the regions', 5-20 the blocks', 21-148 the
cells'. -/
structure FaultHub where
  units : FMap FltUnit
  handlers : FMap Handler
  fatal : Bool
  /-- The severities, settings and recovery entries in force (R477). -/
  recov : Recovery
  /-- Uptimes of duplicated-datapath mismatches of the chip KMAC unit. -/
  kmac : List Nat
  rate : FMap FltRate
  deriving DecidableEq, Repr

/-- State of an interrupt source (R491). -/
inductive IcState where
  | idle | pending | active | activePending
  deriving DecidableEq, Repr

/-- An interrupt source (IC_SRC_CFGn). -/
structure IcSrc where
  enable : Bool
  asserted : Bool
  state : IcState
  priority : Nat
  storm : Bool
  targets : BitVec 22
  /-- The processor it is ACTIVE under. -/
  proc : Nat
  /-- Completions at which a level source was still asserted (R497). -/
  count : Nat
  /-- Uptime of the last poll of a stormed source. -/
  polled : Nat
  deriving DecidableEq, Repr

/-- A processor's side of the controller (IC_PROCp). -/
structure IcProc where
  notified : Bool
  badcomp : Nat
  deriving DecidableEq, Repr

/-- The interrupt controller (R490 to R497). -/
structure Intc where
  src : FMap IcSrc
  proc : FMap IcProc
  deriving DecidableEq, Repr

/-- A power domain (R498 to R507). -/
structure Dom where
  /-- The state code 0-4. -/
  state : Nat
  target : Nat
  forced : Bool
  aborted : Bool
  failed : Bool
  retLost : Nat
  aborts : Nat
  /-- An entry was begun and no wake has come since: the uptime it began. -/
  entry : Option Nat
  /-- An exit in progress: the uptime of the wake. -/
  waking : Option Nat
  /-- The banks woken whose retention check has not ended (R505). -/
  checks : List Nat
  /-- The check words of its retained banks, as copied at its last entry, and the woken banks that read back with another (R504). -/
  words : FMap Nat
  differ : List Nat
  deriving DecidableEq, Repr

/-- The temperature sensors 0-8 (R527, R528). -/
structure Thermal where
  /-- Last reported value, in units of 0.125 degrees C; an unlisted sensor reads its free first value. -/
  temp : FMap (Option Int)
  warning : FMap Bool
  critical : FMap Bool
  /-- The HBM stacks whose refresh rate is doubled. -/
  hot : FMap Bool
  deriving DecidableEq, Repr

/-- The debug port (R462, R463). -/
structure Tap where
  /-- The instruction register's selection. -/
  instr : Nat
  /-- The column of the voted state has been taken. -/
  voted : Bool
  /-- The boundary register preloaded by SAMPLE/PRELOAD. -/
  boundary : List Byte
  deriving DecidableEq, Repr

end Sys2Proof.Machine
end

