-- ==== Sys2Proof/Machine/UnitsIo.lean ====
section
/-! DEFINITION. What a command brings from outside the block as data: the bytes a DMA read delivers, the outcome of host
transfers, read-backs of the Almanac, answers of cards, debug requests. -/

namespace Sys2Proof.Machine

/-- A segment of a scatter list as read from host memory (R130), and the bytes it delivers. -/
structure Seg where
  len : Nat
  flags : Nat
  bytes : List Byte
  deriving DecidableEq, Repr

/-- What the host side gives a job. -/
structure JobIo where
  /-- The input buffer as delivered, when IN_SGL is clear. -/
  input : List Byte
  /-- What a second read of the input buffer delivers, where it differs (R22, R175). -/
  again : Option (List Byte)
  /-- The scatter list with what each segment delivers, when IN_SGL is set. -/
  segs : List Seg
  /-- A translation fails, or a read is refused (R101). -/
  dmaFault : Bool
  /-- Input data arrives poisoned (R101). -/
  poison : Bool
  /-- The byte of the input stream whose read fails, and the byte that arrives poisoned: events are decided in stream order (R290). -/
  faultAt : Nat := 0
  poisonAt : Nat := 0
  /-- After release, an output write fails translation once this many bytes are out (R102). -/
  outFault : Option Nat
  /-- The completion write fails translation (R103). -/
  cplFault : Bool
  /-- Engine time the job used, in cell cycles (R136). -/
  cycles : Nat
  /-- A write of an image area reads back as written (R460). -/
  storeOk : Bool
  /-- The level of CSn_WP of the slot a step names (R405). -/
  wp : Bool
  /-- Outcomes of the tests a command runs, in order: conditioner, expander, startup (R308); one not given passes. -/
  tests : List Bool
  deriving DecidableEq, Repr

/-- A read of up to 8 contiguous descriptors (R541). -/
structure FetchIo where
  /-- The 64-byte descriptors. -/
  descs : List (List Byte)
  /-- The labels of the DERIVE descriptors among them, by position, which check 2 judges (R154, R327). -/
  labels : List (List Byte)
  /-- The read fails translation or returns poisoned data (R127). -/
  fault : Bool
  /-- Completion writes of descriptors that fail admission fail translation (R103). -/
  cplFault : Bool
  /-- The time the host takes to answer the read, in ns (R541). -/
  latency : Nat
  deriving DecidableEq, Repr

/-- The Almanac writes that had reached their bank write when power fell or an alarm arrived (R56, R343): those that
complete, and those that tear. -/
structure WriteIo where
  ledger : List Nat
  slots : List Nat
  tornLedger : List Nat
  tornSlots : List Nat
  /-- The root domain's SRAM has lost VBAT (R440). -/
  sramLost : Bool
  /-- The event-log entry being written tears (R348). -/
  tornLog : Bool
  deriving DecidableEq, Repr

/-- Results of the tests of ASSAY, or of the start-up of R538. -/
structure AssayIo where
  /-- Regions whose own tests pass. -/
  regionOk : List Bool
  /-- Regions whose RNG startup passes. -/
  rngOk : List Bool
  /-- The chip-level units pass (R45). -/
  chipOk : Bool
  /-- Fuse bits that stay 0 after 8 pulses (R453), by bit number in the array. -/
  deadFuses : List Nat
  /-- Blocks whose BNE's control store does not match after its reload (R257). -/
  storeBad : List Nat := []
  /-- Blocks whose BNE fails its known-answer test (R257). -/
  bneBad : List Nat := []
  deriving DecidableEq, Repr

/-- A place the host addresses: in BAR0, or with `cfg` in configuration space (R85, R92). -/
structure HostAddr where
  cfg : Bool
  off : Nat
  deriving DecidableEq, Repr

/-- A host read of `size` bytes. -/
structure HostRead where
  addr : HostAddr
  size : Nat
  deriving DecidableEq, Repr

/-- What the host programs into the HDM decoder: commit or uncommit, base, size in units of 256 MiB, interleave ways (R95). -/
structure DecoderSet where
  commit : Bool
  base : Nat
  size : Nat
  ways : Nat
  deriving DecidableEq, Repr

/-- What the host negotiates at a link training (R82, R83). -/
structure TrainIo where
  offersCxl : Bool
  /-- Lanes that pass, counted from lane 0 in either direction. -/
  lanes : Nat
  /-- The highest rate host and channel share, by SPEED code. -/
  rate : Nat
  cache : Bool
  busMaster : Bool
  ats : Bool
  deriving DecidableEq, Repr

/-- A request through the debug port's DBG_ACCESS (R464). -/
inductive DbgOp where
  | almRead (addr n : Nat)
  | imageWrite (imgB : Bool) (off : Nat) (bytes : List Byte)
  | fuseRead (off n : Nat)
  | scratchRead (cell addr n : Nat)
  | scratchWrite (cell addr : Nat) (bytes : List Byte)
  | microRead (cell addr : Nat)
  | microWrite (cell addr : Nat) (word : MicroWord)
  | regRead (cell n : Nat)
  | regWrite (cell n : Nat) (val : W64)
  | operandRead (blk : Nat) (h1 : Bool) (addr : Nat)
  | operandWrite (blk : Nat) (h1 : Bool) (addr : Nat) (word : BitVec 256)
  | hdmRead (addr n : Nat)
  | hdmWrite (addr : Nat) (bytes : List Byte)
  deriving DecidableEq, Repr

/-- What a card answers during a ceremony step or an identification. -/
inductive CardAns where
  | frame (bytes : List Byte)
  | silent
  | stuckBusy
  | removed
  deriving DecidableEq, Repr

end Sys2Proof.Machine
end

