-- ==== Sys2Proof/Syntax.lean ====
section
/-! DEFINITION. The commands of the block: one constructor per row of the opcode table, with the operands each brings.
Operands are numbers of units and data from outside; ranges are checked by Instr.wf. -/

namespace Sys2Proof

open Machine in
/-- A command: the summary of its row and the rule of the spec it is defined by. -/
inductive Instr where
  /-- POWER_ON_RESET (R511): Rails come up or a rail falls below its reset level; the device holds power-on reset and loses all volatile state. -/
  | powerOnReset (w : WriteIo)
  /-- POR_RELEASE (R511): Every rail has stayed in tolerance for 1 ms plus 10 ms, so the device leaves power-on reset and BOOT begins unless RESET# is low. -/
  | porRelease
  /-- RESET_ASSERT (R526): RESET# is asserted for at least 10 µs; the device waits for record writes in flight to finish. -/
  | resetAssert
  /-- RESET_TAKE_EFFECT (R343): Record writes in flight have ended, so RESET# takes effect and the device enters BOOT. -/
  | resetTakeEffect
  /-- SUPPLY_WARNING (R512): A rail falls below its warning level; the device gates the engines, abandons unreleased jobs and starts the progress-page write. -/
  | supplyWarning (rail : Nat)
  /-- SUPPLY_WARNING_TIMEOUT (R512): 10 µs after a supply warning, the device enters power-on reset even if the rail has recovered. -/
  | supplyWarningTimeout
  /-- SYS_CLK_LOST (R511): SYS_CLK is lost; every region PLL loses lock while the chip clock generator holds its frequency. -/
  | sysClkLost
  /-- ROOT_SUPPLY_SWITCH (R513): VDD_AUX crosses its threshold and the root domain switches between VDD_AUX and VBAT without a gap in tamper sampling. -/
  | rootSupplySwitch (aux : Bool)
  /-- BOOT_END (R44): BOOT finishes its fuse vote, intent roll-forward and image checks, and the device enters ASSAY, UMBRA or HALT. -/
  | bootEnd (io : AssayIo)
  /-- ASSAY_END (R45): ASSAY finishes its tests and the device enters SERVICE, MAINTENANCE or HALT. -/
  | assayEnd (io : AssayIo)
  /-- HEARTBEAT_TICK (R94): Every 1 ms the active management core increments CHIP_HEARTBEAT. -/
  | heartbeatTick
  /-- LINK_TRAINING (R82): The link trains to the widest passing width and the highest shared rate, and the attachment mode is fixed. -/
  | linkTraining (tr : TrainIo)
  /-- PERST (R104): PERST# is asserted; the PHY is held and slices go through the host-side reset. -/
  | perst
  /-- FLR (R104): A function-level reset resets the function registers and puts every slice through the host-side reset. -/
  | flr
  /-- CXL_RESET (R104): A CXL Reset uncommits the HDM decoder, zeroes the window and resets every slice. -/
  | cxlReset
  /-- HOT_RESET (R104): A hot reset retrains the link, ends SPDM sessions and IDE keys, and resets every slice. -/
  | hotReset
  /-- LINK_LOSS (R109): The link goes down without a host reset and is handled as a hot reset. -/
  | linkLoss
  /-- GPF_REQUEST (R86): On a GPF request, the device commits every pending Almanac write and a progress page, then acknowledges. -/
  | gpfRequest
  /-- HDM_DECODER_COMMIT (R95): Host software programs and commits the HDM decoder with 1-way interleave. -/
  | hdmDecoderCommit (base : DecoderSet)
  /-- HDM_ACCESS (R96): A host access to the HDM window is served under the aperture's slice key, flipping the page to host bias first if needed. -/
  | hdmAccess (addr : Nat) (wr : Option (List Byte))
  /-- ATS_INVALIDATE (R102): The host invalidates a translation; the device waits for DMAs using it. -/
  | atsInvalidate (inv : AtsInv)
  /-- ATS_INVALIDATE_COMPLETE (R102): Every DMA using the invalidated translation has finished, so the device completes the invalidation. -/
  | atsInvalidateComplete (tag : Nat)
  /-- DOE_REQUEST (R87): A DOE mailbox request is served, or answered Busy in BOOT, or limited to Discovery in SCRAPPED. -/
  | doeRequest (proto : Nat) (body : List Byte)
  /-- SPDM_REQUEST (R88): An SPDM request is answered under the advertised capabilities and algorithms. -/
  | spdmRequest (code : Nat) (body : List Byte)
  /-- GET_CERTIFICATE (R89): SPDM GET_CERTIFICATE returns the chain in slot 0 or slot 1, or an error in BLANK. -/
  | getCertificate (slotId : Nat) (off : Nat) (len : Nat)
  /-- GET_MEASUREMENTS (R90): SPDM GET_MEASUREMENTS reports the five SHA-384 measurement indices. -/
  | getMeasurements (index : Nat)
  /-- IDE_KM (R91): IDE keys are programmed for a stream and direction over a secured SPDM session. -/
  | ideKm (stream : Nat) (dir : Nat)
  /-- K_SET_GO (R91): An IDE key set is activated or refreshed. -/
  | kSetGo (stream : Nat) (dir : Nat)
  /-- IDE_STREAM_SECURE (R91): A configured IDE stream becomes Secure, and held fetches and releases proceed when IDE_REQUIRED is set. -/
  | ideStreamSecure (stream : Nat)
  /-- SET_ENDPOINT_ID (R113): MCTP Set Endpoint ID assigns the sideband endpoint ID. -/
  | setEndpointId (eid : Byte)
  /-- GET_ENDPOINT_ID (R113): MCTP Get Endpoint ID returns the sideband endpoint ID. -/
  | getEndpointId
  /-- GET_MCTP_VERSION_SUPPORT (R113): MCTP Get MCTP Version Support is answered on the sideband. -/
  | getMctpVersionSupport
  /-- GET_MESSAGE_TYPE_SUPPORT (R113): MCTP Get Message Type Support is answered on the sideband. -/
  | getMessageTypeSupport
  /-- GET_VENDOR_DEFINED_MESSAGE_SUPPORT (R113): MCTP Get Vendor Defined Message Support is answered on the sideband. -/
  | getVendorDefinedMessageSupport
  /-- GET_HEALTH_TEMP (R113): The sideband returns nine temperatures. -/
  | getHealthTemp
  /-- GET_HEALTH_MODE (R113): The sideband returns CHIP_MODE and CHIP_COND, or CHIP_ID in SCRAPPED. -/
  | getHealthMode
  /-- GET_FAULT_SUMMARY (R474): The sideband returns the chip first-error record and latest SEQ, and SMBALERT# deasserts. -/
  | getFaultSummary
  /-- SIDEBAND_UNSUPPORTED (R113): An undefined health command is answered with completion code 0x05. -/
  | sidebandUnsupported (cmd : Byte)
  /-- BAR0_BAD_ACCESS (R93): A BAR0 access of the wrong size or alignment reads 0 or is ignored, and CHIP_HOSTERR increments. -/
  | bar0BadAccess (wr : Bool) (addr : Nat) (size : Nat)
  /-- BAR0_LOW_HALF_READ (R93): A 4-byte read of the low half of a 64-bit register latches the high half for the next read. -/
  | bar0LowHalfRead (addr : HostRead)
  /-- REGISTER_WRITE (R7): A write to a register field with no behaviour of its own stores or ignores the value per its access type. -/
  | registerWrite (addr : HostAddr) (size val : Nat)
  /-- SQ_DOORBELL (R125): A write of QPq_SQ_TAIL makes descriptors available, or stops the queue pair when TAIL is not less than the depth. -/
  | sqDoorbell (sl : Nat) (qp : Nat) (tail : Nat)
  /-- CQ_HEAD_WRITE (R126): A write of QPq_CQ_HEAD consumes completions, or stops the queue pair when outside the span. -/
  | cqHeadWrite (sl : Nat) (qp : Nat) (head : Nat)
  /-- QP_ENABLE (R124): A write setting ENABLE checks the configuration and either enables the queue pair with pointers at 0 or records cause 4. -/
  | qpEnable (sl : Nat) (qp : Nat) (cfg : Nat)
  /-- QP_DISABLE (R124): A write clearing ENABLE stops fetching at once while admitted jobs drain. -/
  | qpDisable (sl : Nat) (qp : Nat)
  /-- QP_DISABLE_DONE (R124): The last admitted job of the queue pair completes and ENABLE reads 0. -/
  | qpDisableDone (sl : Nat) (qp : Nat)
  /-- SL_NOTIFY_CLEAR (R7): A W1C write clears bits of SL_NOTIFY. -/
  | slNotifyClear (sl : Nat) (mask : Byte)
  /-- DESCRIPTOR_FETCH (R541): The dispatcher reads up to 8 contiguous descriptors of one queue pair once a completion entry can be reserved. -/
  | descriptorFetch (sl : Nat) (qp : Nat) (f : FetchIo)
  /-- DISPATCH_PICK (R135): When a region queue of a class gains room, the dispatcher picks a waiting job by class and virtual time. -/
  | dispatchPick (rgn : Nat) (lc : Nat)
  /-- BLOCK_ASSIGN (R19): The region arbiter gives a queued job to the block with fewest queued jobs of its class. -/
  | blockAssign (job : Nat)
  /-- CELL_JOB_START (R19): The block arbiter starts a job on a free cell, loading the customer window if needed. -/
  | cellJobStart (cell : Nat)
  /-- JOB_RELEASE (R20): A job reaches its release point from its staged result and its output writes begin. -/
  | jobRelease (job : Nat) (io : JobIo)
  /-- VERIFY_BEFORE_RELEASE_DONE (R25): The check of a signature on another cell ends; a failure discards the attempt and replays the job. -/
  | verifyBeforeReleaseDone (job : Nat) (ok : Bool) (io : JobIo)
  /-- DUAL_COMPARE (R27): Both executions of a dual encapsulation end and are compared byte for byte. -/
  | dualCompare (job : Nat) (ok : Bool) (io : JobIo)
  /-- UNASSIGNED_BOUND_EXPIRE (R72): A job still waiting unassigned when its latency-class bound passes completes with E_RETRY_EXHAUSTED. -/
  | unassignedBoundExpire (job : Nat) (io : JobIo)
  /-- JOB_ABANDON_TIMEOUT (R482): An unreleased job still outstanding 8 s after its bound is abandoned with E_RETRY_EXHAUSTED. -/
  | jobAbandonTimeout (job : Nat) (io : JobIo)
  /-- DRAINED (R51): No admitted job and no Almanac write remain in DRAIN, so the drained flag sets. -/
  | drained
  /-- QUIESCE_COMPLETE (R115): The last admitted job of a QUIESCING slice completes and the slice becomes CONFIGURED. -/
  | quiesceComplete (sl : Nat)
  /-- SLICE_RESET_DONE (R139): A slice reset finishes its scrub, writes its completion and returns the slice to its prior state. -/
  | sliceResetDone (sl : Nat) (io : JobIo)
  /-- SLICE_REMOVE_DONE (R139): A slice removal finishes its scrub and R117 steps and the slice becomes ABSENT. -/
  | sliceRemoveDone (sl : Nat) (io : JobIo)
  /-- KEY_SCRUB_AFTER_JOBS (R334): The jobs admitted before a retirement or release have ended, so the cache entries are scrubbed. -/
  | keyScrubAfterJobs (handle : W64)
  /-- DEVICE_QUERY (R122): Returns the chip mirrors and device-wide free allocations. -/
  | deviceQuery (job : Nat) (io : JobIo)
  /-- SLICE_QUERY (R122): Returns a slice's configuration block and use. -/
  | sliceQuery (job : Nat) (io : JobIo)
  /-- SLICE_CREATE (R118): Commits a new slice configuration and moves the slice from ABSENT to CONFIGURED. -/
  | sliceCreate (job : Nat) (io : JobIo)
  /-- SLICE_CONFIGURE (R118): Changes a slice's configuration block within the live-field and quota rules. -/
  | sliceConfigure (job : Nat) (io : JobIo)
  /-- SLICE_ACTIVATE (R115): Moves a slice from CONFIGURED to ACTIVE. -/
  | sliceActivate (job : Nat) (io : JobIo)
  /-- SLICE_QUIESCE (R115): Moves a slice from ACTIVE to QUIESCING. -/
  | sliceQuiesce (job : Nat) (io : JobIo)
  /-- SLICE_RESET (R139): Starts the reset sequence of a slice, squashing its unreleased jobs. -/
  | sliceReset (job : Nat) (io : JobIo)
  /-- SLICE_REMOVE (R139): Starts the removal of a slice, with an intent record first. -/
  | sliceRemove (job : Nat) (io : JobIo)
  /-- PASID_BIND (R121): Binds a host PASID at an index of a slice. -/
  | pasidBind (job : Nat) (io : JobIo)
  /-- PASID_UNBIND (R121): Unbinds the PASID at an index of a slice. -/
  | pasidUnbind (job : Nat) (io : JobIo)
  /-- HDM_WINDOW_SET (R95): Sets the HDM bulk window size in multiples of 256 MiB. -/
  | hdmWindowSet (job : Nat) (io : JobIo)
  /-- HDM_APERTURE_SET (R96): Assigns a slice its aperture within the window. -/
  | hdmApertureSet (job : Nat) (io : JobIo)
  /-- BIAS_SET (R98): Flips pages of a slice's aperture between host and device bias. -/
  | biasSet (job : Nat) (io : JobIo)
  /-- IDE_REQUIRED_SET (R91): Sets or clears the IDE_REQUIRED control. -/
  | ideRequiredSet (job : Nat) (io : JobIo)
  /-- OWNER_CERT_INSTALL (R89): Installs the owner-issued certificate in SPDM slot 1. -/
  | ownerCertInstall (job : Nat) (io : JobIo)
  /-- DRAIN_BEGIN (R51): Moves the device from SERVICE to DRAIN. -/
  | drainBegin (job : Nat) (io : JobIo)
  /-- DRAIN_CANCEL (R52): Returns the device from DRAIN to SERVICE. -/
  | drainCancel (job : Nat) (io : JobIo)
  /-- MAINT_ENTER (R53): Moves a drained OWNED device into MAINTENANCE. -/
  | maintEnter (job : Nat) (io : JobIo)
  /-- DEVICE_RESET (R60): Writes its completion and then resets the device into BOOT. -/
  | deviceReset (job : Nat) (io : JobIo)
  /-- KEY_GENERATE (R151): Generates a seed and writes a new slot key at a reserved index. -/
  | keyGenerate (job : Nat) (io : JobIo)
  /-- KEY_QUERY (R150): Returns the 64-byte record of a key. -/
  | keyQuery (job : Nat) (io : JobIo)
  /-- KEY_PUBLIC (R149): Returns the public key of an asymmetric key. -/
  | keyPublic (job : Nat) (io : JobIo)
  /-- KEY_RETIRE (R152): Commits the retirement of a slot key and moves it to ZEROING. -/
  | keyRetire (job : Nat) (io : JobIo)
  /-- DERIVE (R154): Computes a child key from its parent and label and fills a derived index. -/
  | derive (job : Nat) (io : JobIo)
  /-- EPOCH_HANDLE (R157): Fills a derived index with the epoch key of a slot. -/
  | epochHandle (job : Nat) (io : JobIo)
  /-- PEER_LOAD (R158): Checks a public key and fills a peer-public index. -/
  | peerLoad (job : Nat) (io : JobIo)
  /-- HANDLE_RELEASE (R156): Releases a volatile handle and makes its descendants stale. -/
  | handleRelease (job : Nat) (io : JobIo)
  /-- CACHE_CONTROL (R160): Prefetches, pins, unpins or evicts a key's expanded-key cache entries. -/
  | cacheControl (job : Nat) (io : JobIo)
  /-- TRANSPORT_ESTABLISH (R161): Encapsulates to a peer and places transport key T in an ephemeral index. -/
  | transportEstablish (job : Nat) (io : JobIo)
  /-- TRANSPORT_ACCEPT (R161): Decapsulates a ciphertext and places transport key T in an ephemeral index. -/
  | transportAccept (job : Nat) (io : JobIo)
  /-- KEY_EXPORT (R162): Writes a wrapped export blob of a key. -/
  | keyExport (job : Nat) (io : JobIo)
  /-- KEY_IMPORT (R163): Checks and unwraps a blob and writes a new slot. -/
  | keyImport (job : Nat) (io : JobIo)
  /-- KEM_KEYGEN (R165): Generates a KEM key pair into an ephemeral index and outputs the public key. -/
  | kemKeygen (job : Nat) (io : JobIo)
  /-- KEM_ENCAPS (R165): Encapsulates to a public key and outputs the ciphertext and secret. -/
  | kemEncaps (job : Nat) (io : JobIo)
  /-- KEM_DECAPS (R26): Decapsulates with the re-encryption check and implicit rejection. -/
  | kemDecaps (job : Nat) (io : JobIo)
  /-- DH_AGREE (R165): Computes a classical key agreement on a BNE. -/
  | dhAgree (job : Nat) (io : JobIo)
  /-- HYBRID_ENCAPS (R169): Runs a hybrid encapsulation and combines the two secrets. -/
  | hybridEncaps (job : Nat) (io : JobIo)
  /-- HYBRID_DECAPS (R169): Runs a hybrid decapsulation and combines the two secrets. -/
  | hybridDecaps (job : Nat) (io : JobIo)
  /-- SIG_KEYGEN (R171): Generates a signature key pair into an ephemeral index. -/
  | sigKeygen (job : Nat) (io : JobIo)
  /-- SIGN (R181): Signs a message, verifying before release. -/
  | sign (job : Nat) (io : JobIo)
  /-- VERIFY (R180): Verifies a signature and reports a verdict in RESULT. -/
  | verify (job : Nat) (io : JobIo)
  /-- STATEFUL_CREATE (R183): Creates a stateful hash-based key slot and its leaf record. -/
  | statefulCreate (job : Nat) (io : JobIo)
  /-- STATEFUL_QUERY (R191): Returns the leaf accounting of a stateful key. -/
  | statefulQuery (job : Nat) (io : JobIo)
  /-- TREE_BUILD_DONE (R186): A stateful key's tree cache finishes building and signing can start. -/
  | treeBuildDone (rid : Nat) (part : Nat)
  /-- DIGEST (R192): Computes a hash or XOF on a digest engine. -/
  | digest (job : Nat) (io : JobIo)
  /-- MAC_GENERATE (R193): Computes an HMAC or KMAC tag. -/
  | macGenerate (job : Nat) (io : JobIo)
  /-- MAC_VERIFY (R192): Compares a MAC tag in constant time and reports the verdict. -/
  | macVerify (job : Nat) (io : JobIo)
  /-- KDF (R194): Derives a key by KMAC or HKDF to an ephemeral index or the output. -/
  | kdf (job : Nat) (io : JobIo)
  /-- GET_RANDOM (R196): Returns DRBG output, with prediction resistance if requested. -/
  | getRandom (job : Nat) (io : JobIo)
  /-- SET_NEXT_SECOND (R359): Declares the TAI second that the next qualifying edge marks. -/
  | setNextSecond (job : Nat) (io : JobIo)
  /-- SET_NEXT_SECOND_TIMEOUT (R359): No qualifying edge arrives within 2 s, so the declaration completes with E_TIME. -/
  | setNextSecondTimeout (io : JobIo)
  /-- TIME_QUERY (R367): Returns the timebase and time-condition record. -/
  | timeQuery (job : Nat) (io : JobIo)
  /-- TIME_CONFIG (R366): Sets BUDGET, PPS_DELAY and TPPS_OUT_EN. -/
  | timeConfig (job : Nat) (io : JobIo)
  /-- EVENT_SCHEDULE (R370): Checks an event specification and makes the event pending. -/
  | eventSchedule (job : Nat) (io : JobIo)
  /-- EVENT_CANCEL (R373): Moves a pending or suspended event to CANCELLED. -/
  | eventCancel (job : Nat) (io : JobIo)
  /-- EVENT_QUERY (R373): Returns an event's outcome record. -/
  | eventQuery (job : Nat) (io : JobIo)
  /-- LANE_PAIR (R392): Pairs a key-lane port with a lane key and raises its seal generation. -/
  | lanePair (job : Nat) (io : JobIo)
  /-- LANE_UNPAIR (R392): Unpairs a port and scrubs its cache. -/
  | laneUnpair (job : Nat) (io : JobIo)
  /-- LANE_BIND (R390): Binds a base key to a binding entry of the slice. -/
  | laneBind (job : Nat) (io : JobIo)
  /-- LANE_UNBIND (R391): Empties a binding entry of the slice. -/
  | laneUnbind (job : Nat) (io : JobIo)
  /-- LANE_QUERY (R391): Returns a port's status and the slice's bindings. -/
  | laneQuery (job : Nat) (io : JobIo)
  /-- LANE_PREFILL (R391): Seals KEY_CUR and KEY_NEXT frames for a range of channels on every paired port. -/
  | lanePrefill (job : Nat) (io : JobIo)
  /-- LANE_LOOPBACK (R391): Runs PING frames through a port's PHY loopback. -/
  | laneLoopback (job : Nat) (io : JobIo)
  /-- CARD_QUERY (R422): Returns the state and identity of a card slot. -/
  | cardQuery (job : Nat) (io : JobIo)
  /-- CEREMONY_BEGIN (R423): Checks a ceremony kind and enters CEREMONY. -/
  | ceremonyBegin (job : Nat) (io : JobIo)
  /-- CEREMONY_STEP (R424): Runs the next card step of the ceremony and its commit or final action. -/
  | ceremonyStep (job : Nat) (io : JobIo)
  /-- CEREMONY_ABORT (R425): Ends the ceremony as an abort, zeroing held shares. -/
  | ceremonyAbort (job : Nat) (io : JobIo)
  /-- CEREMONY_QUERY (R422): Returns the progress of the ceremony. -/
  | ceremonyQuery (job : Nat) (io : JobIo)
  /-- CEREMONY_TIMEOUT (R50): A card wait reaches the ceremony time-out and the ceremony ends as an abort. -/
  | ceremonyTimeout (io : JobIo)
  /-- MICRO_LOAD (R241): Checks and registers a customer microcode image and copies it to every block. -/
  | microLoad (job : Nat) (io : JobIo)
  /-- MICRO_UNLOAD (R243): Ends a slice's microcode registration. -/
  | microUnload (job : Nat) (io : JobIo)
  /-- MICRO_QUERY (R244): Returns a slice's registration record. -/
  | microQuery (job : Nat) (io : JobIo)
  /-- CUSTOMER_MACRO_OP (R245): Invokes a registered customer macro-op on a cell. -/
  | customerMacroOp (job : Nat) (io : JobIo)
  /-- WDOG_CONFIG (R211): Commits the cell watchdog exponent. -/
  | wdogConfig (job : Nat) (io : JobIo)
  /-- FAULT_CONFIG (R478): Sets a source severity, QUIET, LIMIT or WINDOW. -/
  | faultConfig (job : Nat) (io : JobIo)
  /-- FAULT_QUERY (R478): Returns a unit's state and its handler's records. -/
  | faultQuery (job : Nat) (io : JobIo)
  /-- FAULT_CLEAR (R478): Clears a handler's records or returns a FAILED unit to RECOVERING. -/
  | faultClear (job : Nat) (io : JobIo)
  /-- FAULT_INJECT (R478): Raises a fault source as though detected. -/
  | faultInject (job : Nat) (io : JobIo)
  /-- POWER_FORCE (R506): Forces a domain into a power state or releases it. -/
  | powerForce (job : Nat) (io : JobIo)
  /-- RNG_TEST (R308): Runs the known-answer tests or restarts a region's source. -/
  | rngTest (job : Nat) (io : JobIo)
  /-- ALMANAC_QUERY (R349): Returns Almanac spare, loss and log statistics. -/
  | almanacQuery (job : Nat) (io : JobIo)
  /-- LOG_READ (R349): Returns event-log entries from a SEQ. -/
  | logRead (job : Nat) (io : JobIo)
  /-- LC_ADVANCE (R456): Records a life-cycle intent to be completed at the next BOOT. -/
  | lcAdvance (job : Nat) (io : JobIo)
  /-- FW_UPDATE (R460): Checks and writes a firmware image to the area not running. -/
  | fwUpdate (job : Nat) (io : JobIo)
  /-- NOP (R212): No operation. -/
  | nop (cell : Nat)
  /-- ADD (R212): Adds two scalar registers and sets flags. -/
  | add (cell : Nat)
  /-- SUB (R212): Subtracts two scalar registers and sets flags. -/
  | sub (cell : Nat)
  /-- ADDI (R212): Adds a sign-extended immediate to a scalar register. -/
  | addi (cell : Nat)
  /-- AND (R212): Bitwise AND of two scalar registers. -/
  | andOp (cell : Nat)
  /-- OR (R212): Bitwise OR of two scalar registers. -/
  | orOp (cell : Nat)
  /-- XOR (R212): Bitwise XOR of two scalar registers. -/
  | xor (cell : Nat)
  /-- SHL (R212): Shifts a scalar register left. -/
  | shl (cell : Nat)
  /-- SHR (R212): Shifts a scalar register right logically. -/
  | shr (cell : Nat)
  /-- SAR (R212): Shifts a scalar register right arithmetically. -/
  | sar (cell : Nat)
  /-- MUL (R212): Low 64 bits of a scalar product. -/
  | mul (cell : Nat)
  /-- MULHU (R212): High 64 bits of an unsigned scalar product. -/
  | mulhu (cell : Nat)
  /-- LDS (R212): Shifts a register left by 9 and ORs in the immediate. -/
  | lds (cell : Nat)
  /-- CMP (R213): Sets flags from a scalar subtraction. -/
  | cmp (cell : Nat)
  /-- LD (R214): Loads a 64-bit word from cell data space. -/
  | ld (cell : Nat)
  /-- ST (R214): Stores a 64-bit word to cell data space. -/
  | st (cell : Nat)
  /-- MFC (R215): Reads a cell register into a scalar register. -/
  | mfc (cell : Nat)
  /-- MTC (R215): Writes a scalar register to a cell register. -/
  | mtc (cell : Nat)
  /-- CELL_MSG_READ (R234): A read of CELL_MSG returns and removes the oldest message from the block control core. -/
  | cellMsgRead (cell : Nat)
  /-- CALL (R207): Pushes a return address and goes to NEXT. -/
  | call (cell : Nat)
  /-- RET (R207): Pops the return stack, or performs the fault return. -/
  | ret (cell : Nat)
  /-- MSG (R212): Sends a scalar register to the block control core. -/
  | msg (cell : Nat)
  /-- PWAIT (R500): Starts a cell's entry into the power state in CELL_PWR.TARGET. `core` is what the block control core has written to
  TARGET since the microcode's MTC, if it has. -/
  | pwait (cell : Nat) (core : Option Nat)
  /-- DMAIN (R216): Issues a transfer from a DMA stream into cell memory. -/
  | dmain (cell : Nat)
  /-- DMAOUT (R216): Issues a transfer from cell memory to a DMA stream. -/
  | dmaout (cell : Nat)
  /-- LOADKEY (R217): Issues the writing of a key as three tagged shares. -/
  | loadkey (cell : Nat)
  /-- BNEREQ (R217): Passes a request block to the block's BNE. -/
  | bnereq (cell : Nat)
  /-- SCHK (R226): Issues the combining of accumulated share projections. -/
  | schk (cell : Nat)
  /-- HINIT (R227): Selects the hash unit's function. -/
  | hinit (cell : Nat)
  /-- HABS (R227): Issues absorption of bytes into the hash unit. -/
  | habs (cell : Nat)
  /-- HSQZ (R227): Issues squeezing of hash output. -/
  | hsqz (cell : Nat)
  /-- GADGET (R229): Runs a masked gadget on share triples. -/
  | gadget (cell : Nat)
  /-- UNMASK (R231): Sums the three shares of a triple into an untagged register. -/
  | unmask (cell : Nat)
  /-- NTT (R225): Forward number-theoretic transform. -/
  | ntt (cell : Nat)
  /-- INTT (R225): Inverse number-theoretic transform. -/
  | intt (cell : Nat)
  /-- PMUL (R225): Pointwise polynomial multiplication. -/
  | pmul (cell : Nat)
  /-- PMAC (R225): Pointwise polynomial multiply-accumulate. -/
  | pmac (cell : Nat)
  /-- PADD (R225): Polynomial addition. -/
  | padd (cell : Nat)
  /-- PSUB (R225): Polynomial subtraction. -/
  | psub (cell : Nat)
  /-- VLD (R219): Loads a vector register. -/
  | vld (cell : Nat)
  /-- VST (R219): Stores a vector register. -/
  | vst (cell : Nat)
  /-- VBCAST (R219): Broadcasts a scalar to vector elements. -/
  | vbcast (cell : Nat)
  /-- VEXT (R219): Extracts a vector element to a scalar. -/
  | vext (cell : Nat)
  /-- VADD (R219): Element addition modulo 2^w. -/
  | vadd (cell : Nat)
  /-- VSUB (R219): Element subtraction modulo 2^w. -/
  | vsub (cell : Nat)
  /-- VADDM (R220): Element modular addition. -/
  | vaddm (cell : Nat)
  /-- VSUBM (R220): Element modular subtraction. -/
  | vsubm (cell : Nat)
  /-- VADDS (R220): Element saturating addition. -/
  | vadds (cell : Nat)
  /-- VSUBS (R220): Element saturating subtraction. -/
  | vsubs (cell : Nat)
  /-- VMUL (R219): Element multiplication modulo 2^w. -/
  | vmul (cell : Nat)
  /-- VMULHR (R220): Signed multiply-high with rounding. -/
  | vmulhr (cell : Nat)
  /-- VRSHR (R220): Element round-shift right. -/
  | vrshr (cell : Nat)
  /-- VSH (R219): Element shift left or logical right. -/
  | vsh (cell : Nat)
  /-- VAND (R219): Element AND. -/
  | vand (cell : Nat)
  /-- VOR (R219): Element OR. -/
  | vor (cell : Nat)
  /-- VXOR (R219): Element XOR. -/
  | vxor (cell : Nat)
  /-- VCMP (R219): Element compare, setting VZ. -/
  | vcmp (cell : Nat)
  /-- VCOMP (R221): FIPS 203 Compress_d on elements. -/
  | vcomp (cell : Nat)
  /-- VDECOMP (R221): FIPS 203 Decompress_d on elements. -/
  | vdecomp (cell : Nat)
  /-- VPERM (R219): Permutes vector elements. -/
  | vperm (cell : Nat)
  /-- VGATH (R222): Gathers elements from memory. -/
  | vgath (cell : Nat)
  /-- VSCAT (R222): Scatters elements to memory. -/
  | vscat (cell : Nat)
  /-- DMA_TRANSFER_DONE (R216): A cell DMA transfer finishes. -/
  | dmaTransferDone (cell : Nat) (io : JobIo)
  /-- HASH_OP_DONE (R227): A hash unit absorb or squeeze finishes. -/
  | hashOpDone (cell : Nat)
  /-- SCHK_DONE (R226): A share check completes, raising SHARE on a non-zero sum. -/
  | schkDone (cell : Nat) (ok : Bool)
  /-- WAIT_CONDITION_MET (R204): A holding word's wait condition comes to hold and its successor is taken. -/
  | waitConditionMet (cell : Nat)
  /-- WAIT_TIMEOUT (R209): The watchdog count reaches 2^EXP and the cell raises WAIT_TIMEOUT. -/
  | waitTimeout (cell : Nat)
  /-- CELL_TIMER_EXPIRE (R234): CELL_TIMER reaches 0. -/
  | cellTimerExpire (cell : Nat)
  /-- JOBLIM (R232): CELL_JOBLIM reaches 0 and the customer job ends with E_MICROCODE. -/
  | joblim (cell : Nat)
  /-- CELL_JOB_ABORT (R232): CELL_JOB.ABORT sets and a customer job is aborted at the next word boundary. -/
  | cellJobAbort (cell : Nat)
  /-- MASK_RESEED (R228): After 2^20 outputs the mask generator reseeds its key from the region DRBG. -/
  | maskReseed (cell : Nat)
  /-- GET_PARAMS (R249): Service gate loading PARAMS bytes, IN_LEN and OUT_CAP into registers. -/
  | getParams (cell : Nat)
  /-- SET_RESULT (R250): Service gate setting OUT_LEN and RESULT. -/
  | setResult (cell : Nat)
  /-- PUT_KEY (R251): Service gate storing a made key as an ephemeral key of the slice. -/
  | putKey (cell : Nat)
  /-- RANDOM (R249): Service gate writing fresh DRBG bytes. -/
  | random (cell : Nat)
  /-- BNE_REQUEST_START (R261): The BNE takes the next request from its queue by class and age. -/
  | bneRequestStart (blk : Nat)
  /-- PUBLIC (R259): BNE function computing a public key. -/
  | bnePublic (blk : Nat)
  /-- AGREE (R259): BNE function computing a shared secret. -/
  | agree (blk : Nat)
  /-- EPHEMERAL_AGREE (R259): BNE function making an ephemeral key and a shared secret. -/
  | ephemeralAgree (blk : Nat)
  /-- ECDSA_SIGN (R277): BNE ECDSA signing with its pre-release check. -/
  | ecdsaSign (blk : Nat)
  /-- ECDSA_VERIFY (R259): BNE ECDSA verification. -/
  | ecdsaVerify (blk : Nat)
  /-- EDDSA_SIGN (R277): BNE EdDSA signing with its pre-release check. -/
  | eddsaSign (blk : Nat)
  /-- EDDSA_VERIFY (R259): BNE EdDSA verification. -/
  | eddsaVerify (blk : Nat)
  /-- RSA_SIGN (R277): BNE RSA private operation with its pre-release check. -/
  | rsaSign (blk : Nat)
  /-- RSA_VERIFY (R259): BNE RSA verification. -/
  | rsaVerify (blk : Nat)
  /-- RSA_KEYGEN (R276): BNE RSA key generation as a long operation. -/
  | rsaKeygen (blk : Nat)
  /-- RSA_REBUILD (R259): BNE rebuild of an RSA private form from its seed. -/
  | rsaRebuild (blk : Nat)
  /-- VALIDATE (R270): BNE validation of a public key. -/
  | validate (blk : Nat)
  /-- SCALAR_CHECK (R270): BNE range check of an imported scalar. -/
  | scalarCheck (blk : Nat)
  /-- BNE_REQUEST_DONE (R259): A BNE request ends, writing its status and starting the wipe per policy. -/
  | bneRequestDone (blk : Nat) (io : JobIo)
  /-- BNE_SEGMENT_END (R262): A long-operation segment reaches 262,144 cycles and queued H0 work runs. -/
  | bneSegmentEnd (blk : Nat)
  /-- DE_CONTEXT_GRANT (R282): A waiting requester receives a digest-engine context. -/
  | deContextGrant (blk : Nat)
  /-- DE_BLOCK_DONE (R283): The digest engine finishes a block and decides which context runs next. -/
  | deBlockDone (blk : Nat) (more : Bool)
  /-- DE_STARVATION_EXPIRE (R283): A context has had input ready for 2^20 cycles and is chosen first. -/
  | deStarvationExpire (blk : Nat)
  /-- LEDGER_COMMIT (R341): A ledger write completes its read-back and the record is committed, or is remapped to a spare. -/
  | ledgerCommit (rid : Nat) (rb : List Bool) (io : JobIo)
  /-- SLOT_WRITE_COMMIT (R322): A slot record is written, read back and its slot-table entry committed LIVE. -/
  | slotWriteCommit (job : Nat) (ok : Bool)
  /-- SLOT_ZEROING (R324): A retired slot record is zeroed and read back and the index returns to FREE or DEAD. -/
  | slotZeroing (idx : Nat) (ok : Bool)
  /-- PROGRESS_PAGE_WRITE (R344): Every 1 ms the next-leaf progress table is written to a progress page. -/
  | progressPageWrite (ok : Bool)
  /-- ALMANAC_SCRUB (R342): Every 24 h the controller reads and renews every ledger bank and LIVE slot record. -/
  | almanacScrub (pairs : List Nat) (slots : List Nat)
  /-- PPS_EDGE (R356): A TPPS_IN edge is time-stamped, judged, and extends or starts a run. -/
  | ppsEdge (io : JobIo)
  /-- PPS_WINDOW_CLOSE (R356): A window closes, counting a missing edge if none was accepted. -/
  | ppsWindowClose
  /-- PPS_RUN_END (R358): 1 s plus 50 µs passes without an extending edge and the run ends. -/
  | ppsRunEnd
  /-- SLEW_END (R363): A backward slew is absorbed and REFERENCED begins if its conditions still hold. -/
  | slewEnd
  /-- HOLDOVER_EXPIRED (R364): Elapsed holdover time reaches BUDGET and EXPIRED sets. -/
  | holdoverExpired
  /-- TREF_QUALIFIED (R352): TREF_IN stays within tolerance for 100 ms and becomes good. -/
  | trefQualified (code : Nat)
  /-- TREF_LOST (R352): TREF_IN has no edge for 500 ns or leaves tolerance and is lost. -/
  | trefLost
  /-- TPPS_OUT_SECOND (R354): The timebase reaches a whole second and TPPS_OUT rises. -/
  | tppsOutSecond
  /-- TPPS_OUT_FALL (R354): TPPS_OUT falls 100 ms after it rose. -/
  | tppsOutFall
  /-- EVENT_PREPARE (R380): At INSTANT minus 1 ms, an epoch activation derives its key and seals frames. -/
  | eventPrepare (ev : Nat)
  /-- EVENT_FIRE (R374): The timebase equals an event's INSTANT and the strobe fires its actions. -/
  | eventFire (tests : List Bool)
  /-- EVENT_CATCH_UP (R378): Events that could not fire become able to fire and are skipped or fired late. -/
  | eventCatchUp (tests : List Bool)
  /-- EVENT_INDEX_FREE (R372): 60 s after an event's outcome, its index is freed. -/
  | eventIndexFree (ev : Nat)
  /-- KEY_CUR (R394): A key-lane request for the active-epoch key is checked and answered by hit, miss or NAK. -/
  | keyCur (port : Nat) (frame : List Byte)
  /-- KEY_NEXT (R394): A key-lane request for the prepared next-epoch key. -/
  | keyNext (port : Nat) (frame : List Byte)
  /-- KEY_PREV (R394): A key-lane request for the previous-epoch key, served by the miss path. -/
  | keyPrev (port : Nat) (frame : List Byte)
  /-- PING (R394): A key-lane PING answered with PONG. -/
  | ping (port : Nat) (frame : List Byte)
  /-- KL_MISS_DONE (R398): The chip KMAC unit finishes deriving and sealing a miss frame. -/
  | klMissDone (port : Nat)
  /-- KL_RESPONSE_SEND (R397): The port's transmitter sends a response frame and returns the credit. -/
  | klResponseSend (port : Nat)
  /-- KL_REKEY (R388): The nonce reaches 2^28 − 2^16 and the seal generation is raised, committed and announced by a REKEY frame. -/
  | klRekey (port : Nat)
  /-- KL_RX_LINK_LOSS (R383): KLn_RXC has not toggled for 1 µs and the receive link is down. -/
  | klRxLinkLoss (port : Nat)
  /-- CARD_DETECT_RISE (R404): CSn_DET# rises; the device stops the clock, releases the bus and cuts slot power within 1 µs. -/
  | cardDetectRise (cs : Nat)
  /-- CARD_DEBOUNCED_INSERT (R404): CSn_DET# has stayed low for 10 ms and the device powers the slot. -/
  | cardDebouncedInsert (cs : Nat) (wp : Bool)
  /-- CARD_IDENTIFY (R404): 10 ms after power-up the device reads IDENT and the certificate, judges life and raises the bus. -/
  | cardIdentify (cs : Nat) (ans : List (List Byte))
  /-- CARD_RESPONSE (R406): A response frame arrives from the card. -/
  | cardResponse (cs : Nat) (bytes : List Byte) (wp : Bool)
  /-- CARD_RESPONSE_TIMEOUT (R411): No response within 64 clocks, so the command is retried or the step fails. -/
  | cardResponseTimeout (cs : Nat)
  /-- CARD_STATUS_POLL (R408): Every 20 µs while busy, the device polls STATUS. -/
  | cardStatusPoll (cs : Nat) (status : Nat) (wp : Bool)
  /-- CARD_BUSY_TIMEOUT (R411): BUSY lasts over 10 ms and the step completes with E_CARD_IO. -/
  | cardBusyTimeout (cs : Nat)
  /-- CLOCK_MONITOR_TRIP (R430): A cell's clock monitor trips and the cell halts. -/
  | clockMonitorTrip (cell : Nat) (kind : Nat) (w : WriteIo)
  /-- LOOP_ALARM (R434): An enrolled loop reads open, short, mismatched or in pair disagreement. -/
  | loopAlarm (loop : Nat) (kind : Nat) (w : WriteIo)
  /-- CASE_ALARM (R435): An enrolled case switch reads open. -/
  | caseAlarm (sw : Nat) (kind : Nat) (w : WriteIo)
  /-- SENSOR_REARM (R441): A sensor has read good for 1 s and re-arms. -/
  | sensorRearm (tsrc : Nat)
  /-- BATTERY_LOOP_PULSE (R442): Every 250 µs on VBAT the root domain pulses and samples the enrolled loops and switches. -/
  | batteryLoopPulse (opens : List Nat) (shorts : List Nat)
  /-- BTIME_TICK (R443): Each second BTIME advances or is loaded from the timebase. -/
  | btimeTick
  /-- BATTERY_LOG_COPY (R445): The management core copies a new battery-log entry to the event log and removes it. -/
  | batteryLogCopy
  /-- HEALTH_TEST_FAILURE (R305): A region's health test alarms; its expander is zeroized and reads move to another region. -/
  | healthTestFailure (rgn : Nat) (kind : Nat)
  /-- RNG_STARTUP_DONE (R305): A restarted source passes its startup test and its expander is instantiated. -/
  | rngStartupDone (rgn : Nat) (ok : Bool)
  /-- CONDITIONER_BLOCK_READY (R297): The conditioner completes a 384-bit block. -/
  | conditionerBlockReady (rgn : Nat) (raw : BitVec 1024)
  /-- DRBG_AUTO_RESEED (R302): After 2^20 calls or 1 s the expander reseeds with an unused block. -/
  | drbgAutoReseed (rgn : Nat)
  /-- RNG_FAILURE_WINDOW_EXPIRE (R306): A health-test failure leaves the 3,600 s window. -/
  | rngFailureWindowExpire (rgn : Nat)
  /-- FAULT_DETECT (R465): A fault source raises a fault, which is recorded and acted on by its severity. -/
  | faultDetect (src : Nat) (unit : Nat) (info : Nat)
  /-- FENCE_ACTED (R469): A fenced unit's scrub ends, ACTED sets and the quiet period starts. -/
  | fenceActed (fu : Nat)
  /-- QUIET_PERIOD_END (R475): A quiet period ends and the unit enters RECOVERING and runs its test. -/
  | quietPeriodEnd (fu : Nat)
  /-- RECOVERY_TEST_DONE (R475): A recovery test ends; the unit returns ONLINE or is contained again or FAILED. -/
  | recoveryTestDone (fu : Nat) (ok : Bool)
  /-- MGMT_TAKEOVER (R540): The standby management core becomes active and replays unreleased commands. -/
  | mgmtTakeover
  /-- FATAL_HALT (R479): Admitted jobs complete with E_INTERNAL and the device enters HALT. -/
  | fatalHalt (io : JobIo)
  /-- IC_SOURCE_ASSERT (R491): An interrupt source asserts or edges and becomes PENDING. -/
  | icSourceAssert (id : Nat) (on : Bool)
  /-- IC_CLAIM (R492): A read of IC_CLAIMp claims the highest-priority eligible source. -/
  | icClaim (proc : Nat)
  /-- IC_COMPLETE (R493): A write of IC_COMPLETEp completes a claimed source. -/
  | icComplete (proc : Nat) (id : Nat)
  /-- IC_SRC_ENABLE (R497): A write of ENABLE clears STORM and the storm count. -/
  | icSrcEnable (id : Nat) (val : W32)
  /-- INT_STORM_POLL (R497): Every 1 ms the owning core polls a stormed source and re-enables it once deasserted. -/
  | intStormPoll (id : Nat)
  /-- CORE_WAIT (R499): A block or region control core's wait instruction starts its domain's power entry. -/
  | coreWait (dom : Nat) (target : Nat)
  /-- PWR_CTL_ENTRY (R499): A core enters an HBM stack or PHY into a power state by PWR_CTL. -/
  | pwrCtlEntry (dom : Nat) (target : Nat)
  /-- PWR_STAT_ABORTED_CLEAR (R506): A W1C write clears ABORTED in the owner's PWR_STAT or CELL_PWR. -/
  | pwrStatAbortedClear (dom : Nat)
  /-- DOMAIN_WAKE (R501): A wake event abandons an entry before its last abort point or starts the exit sequence. -/
  | domainWake (dom : Nat) (early : Bool)
  /-- WAKE_COMPLETE (R503): Power-good and PLL lock arrive and the domain runs again. -/
  | wakeComplete (dom : Nat)
  /-- WAKE_FAIL (R503): Power-good or lock is not seen within four times nominal and the domain is FAILED. -/
  | wakeFail (dom : Nat)
  /-- RETENTION_CHECK_DONE (R505): A retained bank's check ends; a mismatch scrubs it and replays jobs that used it. -/
  | retentionCheckDone (dom : Nat) (bank : Nat) (ok : Bool)
  /-- TEMPERATURE_WARNING (R528): A sensor passes its warning limit; SMBALERT# asserts and an entry is logged. -/
  | temperatureWarning (sensor : Nat) (temp : Int)
  /-- TEMPERATURE_CRITICAL (R528): A sensor passes its critical limit and ALERT# asserts. -/
  | temperatureCritical (sensor : Nat) (temp : Int)
  /-- TEMPERATURE_NORMAL (R528): Every sensor is below critical less hysteresis and ALERT# deasserts. -/
  | temperatureNormal (sensor : Nat) (temp : Int)
  /-- HBM_HOT (R528): An HBM stack passes 85 °C and its refresh rate doubles. -/
  | hbmHot (rgn : Nat) (temp : Int)
  /-- EXTEST (R462): JTAG EXTEST instruction. -/
  | extest (pins : List Byte)
  /-- SAMPLE_PRELOAD (R462): JTAG SAMPLE/PRELOAD instruction. -/
  | samplePreload (pins : List Byte)
  /-- CLAMP (R462): JTAG CLAMP instruction. -/
  | clamp
  /-- HIGHZ (R462): JTAG HIGHZ instruction. -/
  | highz
  /-- DBG_ACCESS (R464): Debug access to cores, SRAMs, HBM, Almanac and fuse reads. -/
  | dbgAccess (req : DbgOp)
  /-- DBG_FUSE (R464): Programs fuse fields allowed in BLANK and FACTORY. -/
  | dbgFuse (off : Nat) (bytes : List Byte)
  /-- BYPASS (R462): JTAG BYPASS instruction. -/
  | bypass
  /-- RESET_RELEASE (R511): RESET# returns high while the device is held in reset, and BOOT begins. -/
  | resetRelease
  /-- KL_RX_LINK_UP (R383): KLn_RXC starts toggling again and the port's receive link comes up, setting KL_SUMMARY.LINK. -/
  | klRxLinkUp (port : Nat)
  /-- INVALID_OPCODE_REQUEST (R394): A key-lane request frame arrives whose OPCODE is not KEY_CUR, KEY_NEXT, KEY_PREV or PING and is answered with a NAK that counts toward quarantine. -/
  | invalidOpcodeRequest (port : Nat) (frame : List Byte)
  /-- RESERVED_OP (R203): The sequencer fetches a microword whose OP is reserved (0x26, 0x27 or 0x3F) and the word raises ILLEGAL. -/
  | reservedOp (cell : Nat)
  /-- TRST_ASSERT (R462): TRST# is asserted and the debug test access port is forced to Test-Logic-Reset with BYPASS selected. -/
  | trstAssert
  /-- D3HOT (R81): Host software writes the function's power state between D0 and D3hot, and D3hot stops host-side traffic only. -/
  | d3hot (on : Bool)
  deriving DecidableEq, Repr

end Sys2Proof
end

