-- ==== Sys2Proof/Decode.lean ====
section
/-! DEFINITION. Words that spell a command by the bits of the opcode table: no row gives bits, so there are none. -/

namespace Sys2Proof

/-- The command a word of `nbits` bits spells. -/
def decodeTableWord (_nbits _w : Nat) : Option Instr := none

end Sys2Proof
end

