-- ==== Sys2Proof/Config.lean ====
section
/-! DEFINITION. What an implementation fixes, the free values, and the algorithms of external standards that the spec names
without giving: they are uninterpreted, so that nothing proved depends on a value chosen here. -/

namespace Sys2Proof.Config

/-- The functions of the external standards the spec refers to (scope chapter, R147, R167, R178). -/
inductive StdFn where
  /-- Public key of a seed under an ALG (R147). -/
  | publicKey
  /-- Ciphertext and shared secret of an encapsulation under an ALG: key, randomness. -/
  | encapsCt | encapsSs
  /-- Shared secret of a decapsulation, implicit rejection included (R26). -/
  | decaps
  /-- Key agreement of a scalar and a public key; the ephemeral scalar's public key. -/
  | agree
  /-- Signature of a message under a key and a mode. -/
  | sign
  /-- A verdict: 0 valid, otherwise the DETAIL of R180. -/
  | verdict
  /-- Whether a public key or encoding decodes: 0 accepted, 1 refused. -/
  | wellFormed
  /-- RSA seed form, modulus and private form (R148, R259). -/
  | rsaSeed | rsaModulus | rsaPrivate
  /-- Boot ROM and firmware contents the spec does not give: measured contents, CA keys. -/
  | rom
  /-- SPDM answers whose content the standard fixes. -/
  | spdm
  /-- Number-theoretic transforms whose order the spec leaves to the device (R225). -/
  | ntt | intt | baseMul
  /-- The expanded form of a key as a region's cache holds it, whose layout is the device's own (R158). -/
  | expanded
  deriving DecidableEq, Repr

/-- Byte `i` of the answer a standard's function gives on its arguments. -/
opaque stdByte : StdFn → List (List (BitVec 8)) → Nat → BitVec 8

/-- A transform whose order is internal to the device: coefficient `i` (R225). -/
opaque stdCoef : StdFn → Nat → List Nat → List Nat → Nat → Nat

/-- Free values: random draws, and results the spec leaves open, by stream and index. -/
opaque freeWord : Nat → Nat → BitVec 64

/-- The generation a volatile handle index or an event index starts from at a BOOT (R144, R371). -/
opaque freeGen : Nat → Nat → BitVec 16

/-- Mask units of 128 bits that a share check draws for the next projection vector (R226, R228): the spec gives no count. -/
opaque checkMask : Fin 16385

/-- Bytes a private operation of a BNE takes from the blinding buffer, by ALG and FUNC (R274): the spec gives no count. -/
opaque blindBytes : Nat → Nat → Fin 2049

/-- The macro-op number CELL_JOB shows for the maker macro-op of an opcode (R234): the spec gives none but that 0xC0 to 0xFF are the
customer's. -/
opaque makerOp : Nat → Fin 0xC0

/-- The frequency correction an accepted PPS edge leaves, in parts per 10^9 above -2,000 (R357): the spec gives its bound and no law. -/
opaque steering : Nat → Fin 4001

/-- The order in which the device holds a transform modulo 12,289 of a length, as the exchanges that lead to it (R225). -/
opaque nttSwaps : Nat → List (Nat × Nat)

/-- The lengths of an HQC parameter set that its specification fixes (R147): quantity 0 seed, 1 public key, 2 ciphertext, 3 shared
secret, for set 1 to 3. -/
opaque hqcLen : Nat → Nat → Nat

/-- Nominal power draw, temperatures and other measured values that only the environment gives start here:
the temperature a sensor reads before it was first reported (R113), in units of 0.125 degrees. -/
opaque freeTemp : Nat → BitVec 16

end Sys2Proof.Config
end

