-- ==== Sys2Proof/Machine/Bits.lean ====
section
/-! DEFINITION. Byte order, bit fields and byte-string helpers (R4 to R6). -/

namespace Sys2Proof.Machine

/-- `n` bytes of `v`, least significant first (R5). -/
def leBytes : Nat → Nat → List Byte
  | 0, _ => []
  | n + 1, v => BitVec.ofNat 8 v :: leBytes n (v / 256)

/-- The number a little-endian byte string spells. -/
def leNat : List Byte → Nat
  | [] => 0
  | b :: bs => b.toNat + 256 * leNat bs

/-- `n` bytes of `v`, most significant first. -/
def beBytes (n v : Nat) : List Byte := (leBytes n v).reverse

/-- The number a big-endian byte string spells. -/
def beNat (bs : List Byte) : Nat := leNat bs.reverse

/-- `n` bytes from position `i`; positions beyond the end read 0. -/
def sub (bs : List Byte) (i n : Nat) : List Byte :=
  let t := (bs.drop i).take n
  t ++ List.replicate (n - t.length) 0

/-- The little-endian field of `n` bytes at `i`. -/
def fieldLe (bs : List Byte) (i n : Nat) : Nat := leNat (sub bs i n)

/-- One byte as a number. -/
def byteAt (bs : List Byte) (i : Nat) : Nat := (bs.getD i 0).toNat

/-- Every byte from `i` up to but not including `j` is 0. -/
def zeros (bs : List Byte) (i j : Nat) : Bool := ((bs.drop i).take (j - i)).all (· == 0)

/-- The string padded with zeros, or cut, to `n` bytes. -/
def padTo (n : Nat) (bs : List Byte) : List Byte := sub bs 0 n

/-- Bitwise exclusive or of two strings, the shorter length. -/
def xorBytes (a b : List Byte) : List Byte := List.zipWith (· ^^^ ·) a b

/-- Bit `i` of a number. -/
def bit (v i : Nat) : Bool := v.testBit i

/-- Bits `hi` down to `lo` of a number (R4). -/
def bits (v hi lo : Nat) : Nat := (v / 2 ^ lo) % 2 ^ (hi + 1 - lo)

/-- 1 for true. -/
def b2n (b : Bool) : Nat := if b then 1 else 0

/-- The bytes of an ASCII string. -/
def ascii (t : String) : List Byte := t.toList.map (fun c => BitVec.ofNat 8 c.toNat)

/-- The two's-complement bytes of an integer. -/
def leInt (n : Nat) (v : Int) : List Byte := leBytes n ((v % (256 ^ n : Nat)).toNat)

/-- Sign extension of the low `w` bits. -/
def sextNat (w v : Nat) : Int := if v.testBit (w - 1) then (v % 2 ^ w : Int) - 2 ^ w else ((v % 2 ^ w : Nat) : Int)

/-- A byte string as a bit mask of set positions. -/
def maskOf (p : Nat → Bool) (n : Nat) : Nat := (List.range n).foldl (fun a i => if p i then a + 2 ^ i else a) 0

/-- Saturating increment. -/
def satInc (m v : Nat) : Nat := if v < m then v + 1 else m

end Sys2Proof.Machine
end

