-- ==== Sys2Proof/Machine/FMap.lean ====
section
/-! DEFINITION. The operations of the sparse stores: every memory and every table of like units is held in one
canonical form (strictly rising keys, no entry equal to what an unlisted key reads as), so that equal contents are
equal data. -/

namespace Sys2Proof.Machine

/-- What key `k` holds; `d` where the store lists nothing. -/
def mapGet {α : Type} (d : α) : FMap α → Nat → α
  | [], _ => d
  | (k', v) :: m, k => if k' = k then v else mapGet d m k

/-- Take key `k` out of the store. -/
def mapErase {α : Type} : FMap α → Nat → FMap α
  | [], _ => []
  | (k', v) :: m, k => if k' = k then mapErase m k else (k', v) :: mapErase m k

/-- Put an entry at its place. -/
def mapInsert {α : Type} : FMap α → Nat → α → FMap α
  | [], k, v => [(k, v)]
  | (k', v') :: m, k, v => if k < k' then (k, v) :: (k', v') :: m else (k', v') :: mapInsert m k v

/-- Store `v` at `k`: an entry equal to the default is not kept. -/
def mapSet {α : Type} [DecidableEq α] (d : α) (m : FMap α) (k : Nat) (v : α) : FMap α :=
  if v = d then mapErase m k else mapInsert (mapErase m k) k v

/-- Change what key `k` holds. -/
def mapMod {α : Type} [DecidableEq α] (d : α) (m : FMap α) (k : Nat) (f : α → α) : FMap α :=
  mapSet d m k (f (mapGet d m k))

/-- Every listed key is above `b`, the keys rise strictly, and no entry holds the default. -/
def mapWfFrom {α : Type} [DecidableEq α] (d : α) : Option Nat → FMap α → Bool
  | _, [] => true
  | b, (k, v) :: m =>
    (match b with
      | none => true
      | some b => decide (b < k)) && decide (v ≠ d) && mapWfFrom d (some k) m

/-- The canonical form. -/
def mapWf {α : Type} [DecidableEq α] (d : α) (m : FMap α) : Bool := mapWfFrom d none m

/-- Apply `f` to every listed value, dropping those that become the default. -/
def mapAll {α : Type} [DecidableEq α] (d : α) (f : Nat → α → α) : FMap α → FMap α
  | [] => []
  | (k, v) :: m => if f k v = d then mapAll d f m else (k, f k v) :: mapAll d f m

/-- Keep the entries whose key satisfies `p`. -/
def mapFilter {α : Type} (p : Nat → α → Bool) : FMap α → FMap α
  | [] => []
  | (k, v) :: m => if p k v then (k, v) :: mapFilter p m else mapFilter p m

/-- One byte of a byte store whose unlisted addresses read as 0. -/
def byteGet (m : List Host.Cell) (a : Nat) : Byte := mapGet 0 m a

/-- Store one byte. -/
def byteSet (m : List Host.Cell) (a : Nat) (b : Byte) : List Host.Cell := mapSet 0 m a b

/-- `n` bytes from address `a` upwards. -/
def bytesGet (m : List Host.Cell) (a : Nat) : Nat → List Byte
  | 0 => []
  | n + 1 => byteGet m a :: bytesGet m (a + 1) n

/-- Store bytes from address `a` upwards. -/
def bytesSet (m : List Host.Cell) (a : Nat) : List Byte → List Host.Cell
  | [] => m
  | b :: bs => bytesSet (byteSet m a b) (a + 1) bs

end Sys2Proof.Machine
end

