-- ==== Sys2Proof/Machine/UnitsCell.lean ====
section
/-! DEFINITION. The state of a cell (chapter 07) and of the memories its microcode reaches. -/

namespace Sys2Proof.Machine

/-- A transfer a cell has issued and that is not finished (R216, R217). -/
structure DmaOp where
  /-- 0 DMAIN, 1 DMAOUT, 2 LOADKEY. -/
  kind : Nat
  stream : Nat
  offset : Nat
  addr : Nat
  len : Nat
  deriving DecidableEq, Repr

/-- The hash unit of a cell (R227, R248). -/
structure HashUnit where
  func : Nat
  masked : Bool
  /-- Rate in bytes of raw Keccak. -/
  rate : Nat
  /-- Bytes absorbed since HINIT (shares recombined in masked mode). -/
  input : List Byte
  /-- Output bytes already squeezed. -/
  squeezed : Nat
  /-- Absorbed again after a squeeze: the output is not stated from then on. -/
  odd : Bool
  /-- The operation in progress: squeeze, address, length. -/
  busy : Option (Bool × Nat × Nat)
  /-- Mask units of 128 bits the operation in progress still has to draw (R227). -/
  due : Nat
  deriving DecidableEq, Repr

/-- What one masked polynomial operation added to the share lanes' projections (R226): its modulus, and the projection of each share's
inputs and of its outputs. -/
structure LaneSums where
  q : Nat
  ins : List Nat
  outs : List Nat
  deriving DecidableEq, Repr

/-- A key a macro-op made through PUT_KEY (R251). -/
structure PutKey where
  index : Nat
  policy : Nat
  alg : Nat
  value : List Byte
  deriving DecidableEq, Repr

/-- One cell (R198 to R234). -/
structure Cell where
  x : FMap W64
  v : FMap V128
  z : Bool
  n : Bool
  c : Bool
  vz : Bool
  /-- Share tags of X registers, V registers and 64-byte lines of the cell data space, by address / 64 (R230). -/
  xt : FMap Nat
  vt : FMap Nat
  lt : FMap Nat
  scratch : FMap Byte
  /-- The running job's slice window in block SRAM, by offset, and its mapped pages. -/
  win : FMap Byte
  pages : FMap Bool
  pc : Nat
  stack : List Nat
  /-- The word at `pc` has executed and holds on its COND (R204). -/
  hold : Bool
  /-- The word at `pc` stalls: an empty mask pool, a full DMA queue, a busy unit (R209). -/
  stalled : Bool
  /-- The watchdog count. -/
  wd : Nat
  /-- Microstore words that differ from 0 (R235: words not loaded are 0). -/
  store : FMap MicroWord
  /-- Microstore words whose stored parity is damaged are stored as they read. The customer window's tag (R235). -/
  winTag : Option Nat
  /-- The image the customer window was loaded from. -/
  winImage : List Byte
  /-- The running job. -/
  job : Option Nat
  macroOp : Nat
  abort : Bool
  customOut : Bool
  lc : Nat
  slice : Nat
  /-- CELL_FAULT and CELL_FAULT_ADDR. -/
  fValid : Bool
  fRestart : Bool
  fKind : Nat
  fElem : Nat
  fPc : Nat
  fAddr : W32
  /-- CELL_MCHK. -/
  mCause : Nat
  mPc : Nat
  wdogExp : Nat
  /-- CELL_JOBLIM in units of 1,024 cycles, and the cycles counted of the present unit. -/
  jobLim : Nat
  jobSub : Nat
  timer : Nat
  vmod : BitVec 24
  puq : BitVec 24
  vbound : W32
  maskLevel : Nat
  maskLow : BitVec 14
  /-- Generator outputs since its last reseed (R228). -/
  maskOut : Nat
  maskStopped : Bool
  hash : HashUnit
  dma : List DmaOp
  /-- BNE requests of the cell pending. -/
  bnePend : Nat
  /-- Masked polynomial operations since the last share check; a check in progress (R226). -/
  unchecked : Bool
  schk : Bool
  /-- The projections since the last check, the draw their vector was made from, and whether the sums of the check in progress are 0. -/
  projs : List LaneSums
  projVec : Nat
  schkOk : Bool
  /-- END was reached and waits for its implicit check. -/
  ending : Bool
  /-- CELL_PWR. -/
  pwrTarget : Nat
  pwrAborted : Bool
  msgs : List W64
  /-- Messages the cell has sent to its block control core, oldest first (R212). -/
  sent : List W64
  /-- Stream 1 staging, and what SET_RESULT and PUT_KEY left (R250, R251). -/
  outBytes : FMap Byte
  outLen : Option Nat
  result : W32
  putKey : Option PutKey
  /-- The clock monitor halted the cell (R432). -/
  halted : Bool
  /-- Free values drawn so far: the model's own counter. -/
  draws : Nat
  deriving DecidableEq, Repr

end Sys2Proof.Machine
end

