-- ==== Sys2Proof/Machine/CellCore.lean ====
section
/-! DEFINITION. The microword (R201 to R205), the cell's registers, tags and data space (R198 to R200, R218, R223,
R230, R234), and the frame every microword operation runs in. -/

namespace Sys2Proof.Machine

/-- A hash unit after HINIT has not run. -/
def HashUnit.idle : HashUnit := ⟨0, false, 0, [], 0, false, none, 0⟩

/-- A cell after power-on: nothing in it, no job, the registers at their Reset values (R200, R234). -/
def Cell.reset : Cell :=
  { x := [], v := [], z := false, n := false, c := false, vz := false, xt := [], vt := [], lt := [], scratch := [],
    win := [], pages := [], pc := 0, stack := [], hold := false, stalled := false, wd := 0, store := [], winTag := none,
    winImage := [], job := none, macroOp := 0, abort := false, customOut := false, lc := 0, slice := 0, fValid := false,
    fRestart := false, fKind := 0, fElem := 0, fPc := 0, fAddr := 0, mCause := 0, mPc := 0, wdogExp := 20, jobLim := 0,
    jobSub := 0, timer := 0, vmod := 0xD01, puq := 0xD01, vbound := 0, maskLevel := 0, maskLow := 0x30, maskOut := 0,
    maskStopped := false, hash := HashUnit.idle, dma := [], bnePend := 0, unchecked := false, schk := false, projs := [], projVec := 0,
    schkOk := true, ending := false, pwrTarget := 0, pwrAborted := false, msgs := [], sent := [], outBytes := [], outLen := none, result := 0,
    putKey := none, halted := false, draws := 0 }

/-- The job-end wipe and the values a job starts with (R200): scratch, registers and tags at 0, the return stack empty,
RW registers at their Reset values. The mask pool, the microstore and CELL_MCHK are kept. -/
def Cell.wipe (c : Cell) : Cell :=
  { Cell.reset with
    store := c.store, winTag := c.winTag, winImage := c.winImage, wdogExp := c.wdogExp, maskLevel := c.maskLevel,
    maskOut := c.maskOut, maskStopped := c.maskStopped, mCause := c.mCause, mPc := c.mPc, halted := c.halted,
    draws := c.draws }

/-- The three sums of a masked operation agree modulo its modulus (R226). -/
def LaneSums.zero (p : LaneSums) : Bool := p.q == 0 || p.outs.sum % p.q == p.ins.sum % p.q

/-- A check starts: it combines the projections accumulated since the last one (R226). -/
def Cell.startCheck (c : Cell) : Cell :=
  { c with schkOk := (!c.schk || c.schkOk) && c.projs.all LaneSums.zero, schk := true, unchecked := false, projs := [] }

/-- The next projection vector is drawn from the mask pool (R226). At a job's start the pool supplies what it holds, and the generator the
rest. The number of bits is the implementation's. -/
def Cell.drawProj (c : Cell) : Cell :=
  { c with projVec := c.draws, draws := c.draws + 1024, maskLevel := c.maskLevel - Config.checkMask.val }

/-- Maker banks reloaded from the signed image (R232, R475, R503, R505), whose words the spec does not give: the model's is empty (log entry
9). -/
def Cell.reloadMaker (c : Cell) (bank : Nat → Bool) : Cell :=
  { c with store := mapFilter (fun a _ => decide (0xC00 ≤ a) || !bank (a / 1024)) c.store }

/-- What the job gives the microcode: IN_LEN, OUT_CAP, PARAMS, the lengths of the keys admission resolved by selector,
the sizes of the cache entries of streams 2 and 3, and whether the BNE's queue has room. -/
structure CellCtx where
  inLen : Nat
  outCap : Nat
  params : List Byte
  keyLens : List Nat
  ext2 : Nat
  ext3 : Nat
  bneRoom : Bool
  deriving DecidableEq, Repr

/-- How the OP of a word ends. -/
inductive WordEnd where
  /-- Its effect is in the cell; the successor is taken next. -/
  | done (c : Cell)
  /-- A CALL, RET or fault return: it names its successor itself. -/
  | goto (c : Cell) (pc : Nat)
  /-- It stalls and runs again (R209). -/
  | stall
  /-- A machine check (R232) with its cause; the cell holds the fault record. -/
  | check (c : Cell) (cause : Nat)
  /-- A restartable fault (R224): element and address. -/
  | restart (elem addr : Nat)
  deriving DecidableEq, Repr

/-! ### The fields of a word (R201) -/

/-- OP. -/
def wOp (w : MicroWord) : Nat := bits w.toNat 47 42
/-- A. -/
def wA (w : MicroWord) : Nat := bits w.toNat 41 37
/-- B. -/
def wB (w : MicroWord) : Nat := bits w.toNat 36 32
/-- C. -/
def wC (w : MicroWord) : Nat := bits w.toNat 31 27
/-- IMM. -/
def wImm (w : MicroWord) : Nat := bits w.toNat 26 18
/-- COND. -/
def wCond (w : MicroWord) : Nat := bits w.toNat 17 14
/-- NEXT. -/
def wNext (w : MicroWord) : Nat := bits w.toNat 13 2
/-- The return address a CALL holds in bits 38:27 (R207). -/
def wRet (w : MicroWord) : Nat := bits w.toNat 38 27

/-- The exclusive or of bits `hi` down to `lo`. -/
def parityOf (v hi lo : Nat) : Bool := (List.range (hi + 1 - lo)).foldl (fun a i => Bool.xor a (bit v (lo + i))) false

/-- Both parity checks of R202 hold. -/
def wParityOk (w : MicroWord) : Bool :=
  Bool.xor (parityOf w.toNat 47 24) (bit w.toNat 1) == false && parityOf w.toNat 23 0 == false

/-- An illegal word: machine check 4 (R203, R232). -/
def illegal (c : Cell) : WordEnd := .check c 4

/-- Run the operation only where its operands are legal. -/
def legalIf (c : Cell) (p : Bool) (e : WordEnd) : WordEnd := if p then e else illegal c

/-! ### Registers and tags -/

/-- X[i]. -/
def getX (c : Cell) (i : Nat) : W64 := mapGet 0 c.x i
/-- V[i]. -/
def getV (c : Cell) (i : Nat) : V128 := mapGet 0 c.v i
/-- The tag of X[i]. -/
def tagX (c : Cell) (i : Nat) : Nat := mapGet 0 c.xt i
/-- The tag of V[i]. -/
def tagV (c : Cell) (i : Nat) : Nat := mapGet 0 c.vt i
/-- Write X[i] with a tag. -/
def setX (c : Cell) (i : Nat) (v : W64) (t : Nat) : Cell := { c with x := mapSet 0 c.x i v, xt := mapSet 0 c.xt i t }
/-- Write V[i] with a tag. -/
def setV (c : Cell) (i : Nat) (v : V128) (t : Nat) : Cell := { c with v := mapSet 0 c.v i v, vt := mapSet 0 c.vt i t }

/-- The tag of a result of two sources; none where different shares meet (R230). -/
def joinTag (a b : Nat) : Option Nat := if a = 0 then some b else if b = 0 ∨ a = b then some a else none

/-- The tag of a result of which at most one source may be tagged. -/
def oneTag (a b : Nat) : Option Nat := if a = 0 then some b else if b = 0 then some a else none

/-- The value of CELL_FLAGS. -/
def cellFlags (c : Cell) : Nat := b2n c.z + 2 * b2n c.n + 4 * b2n c.c + 8 * b2n c.vz

/-- A register number of a scalar or memory OP is 0-15 (R214), of a vector OP too (R218). -/
def reg (i : Nat) : Bool := i < 16

/-- The word is in the customer window (R206). -/
def custPc (c : Cell) : Bool := 0xC00 ≤ c.pc

/-! ### Cell data space (R198, R223) -/

/-- What an access of `n` bytes at address `a` meets: 0 it may go ahead, else the KIND of the fault (R234). One that is both misaligned and
forbidden records KIND 3: DESIGN CHOICE, log entry 47. -/
def accessKind (c : Cell) (a n : Nat) : Nat :=
  if a % n ≠ 0 then 3
  else if a + n ≤ 0x10000 then 0
  else if 0x100000 ≤ a ∧ a + n ≤ 0x140000 then
    (if mapGet false c.pages ((a - 0x100000) / 4096) then 0 else 1)
  else 2

/-- Read bytes of the cell data space. -/
def cread (c : Cell) (a n : Nat) : List Byte :=
  if a < 0x10000 then bytesGet c.scratch a n else bytesGet c.win (a - 0x100000) n

/-- Write bytes of the cell data space. -/
def cwrite (c : Cell) (a : Nat) (bs : List Byte) : Cell :=
  if a < 0x10000 then { c with scratch := bytesSet c.scratch a bs } else { c with win := bytesSet c.win (a - 0x100000) bs }

/-- The share tag of the line of an address. Lines of the window carry tags as those of scratch do (R230), so that no share reaches an
output stream through the window (R246): DESIGN CHOICE, log entry 50. -/
def tagAt (c : Cell) (a : Nat) : Nat := mapGet 0 c.lt (a / 64)

/-- Give a line a tag. -/
def setTagAt (c : Cell) (a t : Nat) : Cell := { c with lt := mapSet 0 c.lt (a / 64) t }

/-- A store of data with tag `t` at `a` is legal (R230). -/
def storeTagOk (c : Cell) (a t : Nat) : Bool := t == 0 || tagAt c a == 0 || tagAt c a == t

/-- Store bytes with tag `t`: public stores leave the line's tag (R230). -/
def storeTagged (c : Cell) (a : Nat) (bs : List Byte) (t : Nat) : Cell :=
  let c' := cwrite c a bs
  if t = 0 then c' else setTagAt c' a t

/-- The start addresses of the lines `n` bytes at `a` touch. -/
def linesOf (a n : Nat) : List Nat :=
  if n = 0 then [] else (List.range ((a + n - 1) / 64 - a / 64 + 1)).map (fun i => (a / 64 + i) * 64)

/-- Record a fault in CELL_FAULT and CELL_FAULT_ADDR. -/
def recordFault (c : Cell) (restart : Bool) (kind elem addr : Nat) : Cell :=
  { c with fValid := true, fRestart := restart, fKind := kind, fElem := elem % 16, fPc := c.pc, fAddr := BitVec.ofNat 32 addr }

/-- The common tag of the lines of a list of addresses; none where shares differ. -/
def joinTags (c : Cell) : List Nat → Option Nat
  | [] => some 0
  | a :: as =>
    match joinTags c as with
    | some t => joinTag (tagAt c a) t
    | none => none

/-- An unrestartable fault: ACCESS with its record, or NESTED while a record is held (R223, R224). -/
def accessFault (c : Cell) (kind elem addr : Nat) : WordEnd :=
  if c.fValid then .check c 6 else .check (recordFault c false kind elem addr) 5

/-- The first access of the list, by index, whose fault satisfies `p`. -/
def firstFault (c : Cell) (n : Nat) (p : Nat → Bool) : Nat → List Nat → Option (Nat × Nat × Nat)
  | _, [] => none
  | i, a :: as =>
    let k := accessKind c a n
    if p k then some (i, a, k) else firstFault c n p (i + 1) as

/-- An unrestartable fault of any element is an ACCESS machine check (R198, R223). A fault raised while VALID is 1 is NESTED (R224); the
first record then stays, as it does for a restartable one (DESIGN CHOICE, log entry 50). -/
def guardForbidden (c : Cell) (n : Nat) (as : List Nat) (e : WordEnd) : WordEnd :=
  match firstFault c n (fun k => decide (2 ≤ k)) 0 as with
  | some (i, a, k) => accessFault c k i a
  | none => e

/-- R223: an unrestartable fault of any element wins; otherwise the lowest restartable element faults restartably; otherwise the word goes
ahead. -/
def guardAccess (c : Cell) (n : Nat) (as : List Nat) (e : WordEnd) : WordEnd :=
  guardForbidden c n as
    (match firstFault c n (fun k => k == 1) 0 as with
     | some (i, a, _) => .restart i a
     | none => e)

/-- The accesses of a byte range, one per page or range edge: every byte must lie in one of the two ranges. A range longer than the window
leaves both within its first 256 KiB and one byte. ELEM of a fault is the index of the probe and ADDR its address: DESIGN CHOICE, log
entry 47. -/
def rangeProbe (a len : Nat) : List Nat :=
  let n := min len 0x40001
  if n = 0 then []
  else a :: (List.range ((a + n - 1) / 4096 - a / 4096)).map (fun i => (a / 4096 + 1 + i) * 4096) ++ [a + n - 1]

/-! ### Free values -/

/-- The free values of a cell: draw number `k` of cell-side stream. -/
def freeBits (c : Cell) (k : Nat) : W64 := Config.freeWord 1 (c.draws + k)

/-- Note `k` draws. -/
def drew (c : Cell) (k : Nat) : Cell := { c with draws := c.draws + k }

/-- `n` free bytes. -/
def freeByteList (stream base n : Nat) : List Byte :=
  (List.range n).map (fun i => BitVec.truncate 8 (Config.freeWord stream (base + i)))

/-! ### Elements of a vector register (R218) -/

/-- The element width of IMM[1:0]. -/
def elemW (imm : Nat) : Nat := 8 * 2 ^ (imm % 4)

/-- The elements of a register at width `w`. -/
def elems (w : Nat) (v : V128) : List Nat := (List.range (128 / w)).map (fun i => v.toNat / 2 ^ (i * w) % 2 ^ w)

/-- The register holding elements of width `w`. -/
def ofElems (w : Nat) (es : List Nat) : V128 :=
  BitVec.ofNat 128 (((List.range es.length).map (fun i => es.getD i 0 % 2 ^ w * 2 ^ (i * w))).sum)

/-- A register as an exclusive or of three. -/
def xor3 (a b d : V128) : V128 := a ^^^ b ^^^ d

/-! ### Successors (R204 to R206) -/

/-- Whether a wait condition holds. -/
def condHolds (c : Cell) (cond : Nat) : Bool :=
  match cond with
  | 8 => c.hash.busy.isNone
  | 9 => c.dma.isEmpty
  | 10 => decide (c.maskLow.toNat ≤ c.maskLevel)
  | 11 => c.bnePend == 0
  | 12 => c.timer == 0
  | 13 => !c.schk
  | 14 => !c.msgs.isEmpty
  | 15 => false
  | _ => true

/-- NEXT, or NEXT with bit 0 inverted. -/
def pairNext (next : Nat) (t : Bool) : Nat := if t then next else next ^^^ 1

/-- The successor COND names, with LOOP's decrement applied; none while a wait does not hold. -/
def successor (c : Cell) (w : MicroWord) : Option (Cell × Nat) :=
  let n := wNext w
  match wCond w with
  | 0 => some (c, n)
  | 1 => some (c, pairNext n c.z)
  | 2 => some (c, pairNext n (!c.z))
  | 3 => some (c, pairNext n c.n)
  | 4 => some (c, pairNext n c.c)
  | 5 =>
    let v := getX c 15 - 1
    some (setX c 15 v (tagX c 15), pairNext n (v != 0))
  | 6 => some (c, pairNext n c.vz)
  | 7 => some (c, pairNext n c.abort)
  | k => if condHolds c k then some (c, n) else none

/-- The gate entries a customer CALL may name (R206, R249). -/
def gateEntry (a : Nat) : Bool := a == 0x004 || a == 0x008 || a == 0x00C || a == 0x010

/-- A transfer from the customer window to `pc` is legal: inside it, or to END (R206). -/
def transferOk (c : Cell) (pc : Nat) : Bool := !custPc c || decide (0xC00 ≤ pc) || pc == 1

end Sys2Proof.Machine
end

