-- ==== Sys2Proof/Machine/State.lean ====
section
/-! DEFINITION. The state of the FY-4128 as plain data, the reasons a step can stop, and the state right after a power-on
reset. -/

namespace Sys2Proof.Machine

/-- The machine. -/
structure State where
  /-- Commands waiting, first in first out. -/
  pending : List Instr
  /-- Nanoseconds since power-on: the clocks of R3, kept by the model. -/
  uptime : Nat
  /-- The model's own counter of free values drawn (Config.freeWord): no statement rests on its value. -/
  freeCtr : Nat
  /-- The model's own number for the next admitted job: it gives jobs their age (R19). -/
  nextJob : Nat
  /-- What the device has sent out, oldest first. -/
  out : List Out
  supply : Supply
  pins : Pins
  chip : Chip
  link : Link
  hdm : Hdm
  /-- Slices by number. -/
  slices : FMap Slice
  /-- Queue pairs, at 4 × slice + q. -/
  qps : FMap Qp
  /-- Admitted jobs whose completions are not written, oldest first. -/
  jobs : List Job
  /-- Volatile handle tables, at (4 × slice + kind) × 2^24 + index (R142 to R144). -/
  vols : FMap VolEnt
  /-- The regions that hold the copies of the volatile tables and of the tree caches (R144, R185). -/
  copies : List Nat
  /-- Scrubs that wait for jobs (R334). -/
  scrubs : List ScrubWait
  /-- Customer images registered, by slice (R236). -/
  micro : FMap (Option Micro)
  /-- Running state of the stateful keys, by leaf record (R185 to R189). -/
  trees : FMap Tree
  regions : FMap Region
  blocks : FMap Block
  cells : FMap Cell
  alm : Almanac
  root : RootDom
  /-- The fuse array, by byte (R448). -/
  fuses : FMap Byte
  tamper : Tamper
  tb : Timebase
  eph : Ephemeris
  ports : FMap Port
  /-- The parents and bases held in the key-lane complex (R398). -/
  laneKeys : List LaneKey
  cards : FMap CardSlot
  /-- The ceremony in progress. -/
  cer : Option Ceremony
  flt : FaultHub
  intc : Intc
  power : FMap Dom
  thermal : Thermal
  tap : Tap
  deriving DecidableEq, Repr

/-- Why a step can fault. -/
inductive Fault where
  /-- Raised by a meaning whose command names a unit the spec says does not exist (slice 64, cell 128, and so on), which a
  well-formed command never does. Safe: the hardware has no such command. -/
  | noSuchUnit
  deriving DecidableEq, Repr

/-- Why a step can be refused. -/
inductive Refusal where
  /-- Raised by the dispatcher for a command that has no meaning in the model yet, by its mnemonic. Safe: the machine
  stops. -/
  | notModelled (mnemonic : String)
  deriving DecidableEq, Repr

/-- The recovery settings of R475 to R477 with nothing recorded. -/
def Recovery.initial : Recovery :=
  { severity := [], quiet := 250, limit := 4, window := 24, ents := [], failed := [] }

/-- The machine right after a power-on reset, at the start of BOOT: fuses unprogrammed, the Almanac never written, no
volatile state. Values the spec does not state are named in notes/assumptions/3.md. -/
def State.reset : State :=
  { pending := [], uptime := 0, freeCtr := 0, nextJob := 0, out := [],
    supply := { railsGood := true, por := false, resetLow := false, resetWaiting := false, resetHeld := false,
                warnedAt := none, sysClk := true, onAux := true, auxAt := none, vbat := true },
    pins := { faultN := false, alertN := false, smbAlertN := false, tppsOut := false },
    chip := { mode := .boot, lc := .blank, drained := false, heartbeat := 0, hostErr := 0, lowLatch := [], viral := false,
              d3hot := false, activeMgmt := 0, eid := 0, bootCause := 1, runImage := none, boots := 0 },
    link := { up := false, cxl := false, speed := 0, width := 0, cacheEn := false, busMaster := false, atsEn := false,
              ideReq := false, ide := [], spdm := false, cert1 := [], ats := [], bars := [], msix := [], msixPend := [] },
    hdm := { size := 0, committed := false, base := 0, span := 0, devBias := [], mem := [], poison := [] },
    slices := [], qps := [], jobs := [], vols := [], copies := [], scrubs := [], micro := [], trees := [],
    regions := [], blocks := [], cells := [],
    alm := { slots := [], slotBad := [], pairs := [], imageA := [], imageB := [], log := [], logSeq := 1, pageA := none,
             pageB := none, writes := [], writeAge := 0, lost := 0, gone := [], commits := [] },
    root := { record := [], keysLoaded := false, latch := 0, retOk := true, btime := 0, batLog := [], overflow := 0,
              lcHeld := 0 },
    fuses := [],
    tamper := { src := [], staged := none, last := 0, lastSource := 0, lastKind := 0, lastCell := 0, loopCase := 0,
                clock := 0, batCopied := 0, overflowAtStart := 0, seeds := [] },
    tb := { set := false, time := 0, cond := .untimed, confirmed := false, run := 0, number := none, runEdge := none,
            tref := 0, win := 0, winEdge := false, winAccepted := false, ppsOk := false, missRun := 0, missLost := 0,
            rejTimes := [], accepted := 0, rejected := 0, missing := 0, offset := 0, hold := 0, expired := false,
            delay := 0, slew := none, slewPhase := false, slewMiss := 0, steer := 0, steerAcc := 0 },
    eph := { events := [], bumps := [], active := [], prepared := [], late := 0 },
    ports := [], laneKeys := [], cards := [], cer := none,
    flt := { units := [], handlers := [], fatal := false, recov := Recovery.initial, kmac := [], rate := [] },
    intc := { src := [], proc := [] },
    power := [],
    thermal := { temp := [], warning := [], critical := [], hot := [] },
    tap := { instr := 0xFF, voted := false, boundary := [] } }

end Sys2Proof.Machine
end

