-- ==== Sys2Proof/Machine/Ops.lean ====
section
/-! DEFINITION. The named operations over the state: what units hold when nothing is listed for them, reading and changing
one unit, time, random bits, outputs, MSI-X vectors, slice notifications and the event log. -/

namespace Sys2Proof.Machine

/-- How a meaning answers. -/
abbrev Res := Host.Outcome State Fault Refusal

/-! ### Units as they are when nothing is listed -/

/-- The default configuration block (R118). -/
def SliceCfg.dflt : SliceCfg :=
  { version := 1, settings := 0, weight := 100, lc0Cells := 1, lc1En := 1, maxOut := 8192, keySlots := 1024, hbmGib := 4,
    ports := 0, events := 256, leafBatch := 1024, epochOrigin := 0, epochLength := 0 }

/-- A slice that does not exist. -/
def Slice.absent : Slice :=
  { state := .absent, cfg := SliceCfg.dflt, pasids := [], apOff := 0, apSize := 0, notify := 0, vtime := 0, hbmMib := 0,
    hbmKey := none, volBump := 0, resetRec := none, removeWaits := none }

/-- A queue pair after a power-on reset. -/
def Qp.reset : Qp :=
  { sqBase := 0, cqBase := 0, coherent := false, pasidIdx := 0, depth := 0, enable := false, draining := false, sqTail := 0,
    sqHead := 0, cqHead := 0, cqTail := 0, phase := false, stopped := false, cause := 0, bells := [] }

/-- An empty index of a volatile table. -/
def VolEnt.empty : VolEnt :=
  { bumps := 0, full := false, alg := 0, policy := 0, value := [], pub := [], depth := 0, parent := 0, label := [],
    src := none, created := 0, rooted := false, hbmMib := 0, corrupt := false }

/-- A random bit chain with its source off. -/
def Rng.off : Rng :=
  { src := 0, cause := 0, failTimes := [], rct := 0, apt := 0, seedSrc := 0, blocks := [], cond := 0, startFails := 0,
    drbg := 0, reseeds := 0, calls := 0, seededAt := 0, turn := 0 }

/-- A big-number engine with nothing queued. -/
def Bne.idle : Bne :=
  { queue := [], run := none, res := none, long := none, longRes := none, paused := false, spent := 0, hashed := none, longHashed := none,
    h0 := none, owner := none, h0Used := false, h1Used := false, h0Mem := [], h1Mem := [], pipe := false, till0 := 0, till1 := 0,
    dirty := false, ctl := [], blind := 0, held := [], block := [], out := false, ueTimes := [] }

/-- Time a wipe of a half, or of both, takes: 256 cycles (R265), in ns. -/
def wipeNs : Nat := 160

/-- A wipe of H0 that starts at `now`: its words, the multiplier pipeline and the internal registers are cleared, and the dirty flag
(R265). -/
def Bne.wipe0 (e : Bne) (now : Nat) : Bne :=
  { e with h0Mem := [], h0Used := false, h0 := none, owner := none, pipe := false, dirty := false, till0 := now + wipeNs }

/-- A wipe of H1. -/
def Bne.wipe1 (e : Bne) (now : Nat) : Bne := { e with h1Mem := [], h1Used := false, pipe := false, till1 := now + wipeNs }

/-- A BNE that starts anew, with its control store and its record of errors. -/
def Bne.fresh (e : Bne) : Bne := { Bne.idle with out := e.out, ueTimes := e.ueTimes, ctl := e.ctl }

/-- A digest engine with no context held. -/
def De.idle : De := { ctx := [], waiting := [], running := none, blocks := 0, hold64 := false, ksc := [], results := [] }

/-- A block with nothing in it. -/
def Block.idle : Block := { bne := Bne.idle, de := De.idle, cache := [] }

/-- A region with nothing in it. -/
def Region.idle : Region := { rng := Rng.off, cache := [], expanded := [], retired := [] }

/-- A fenceable unit in service. -/
def FltUnit.inService : FltUnit := { state := .online, acting := false, quietFrom := none, src := 0 }

/-- A handler that has recorded nothing. -/
def Handler.empty : Handler := { first := none, hist := [], count := 0, handling := none }

/-- An interrupt source after reset. -/
def IcSrc.idle : IcSrc :=
  { enable := false, asserted := false, state := .idle, priority := 0, storm := false, targets := 0, proc := 0, count := 0,
    polled := 0 }

/-- A processor's side of the interrupt controller after reset. -/
def IcProc.idle : IcProc := { notified := false, badcomp := 0 }

/-- A power domain in ACTIVE. -/
def Dom.active : Dom :=
  { state := 0, target := 0, forced := false, aborted := false, failed := false, retLost := 0, aborts := 0, entry := none,
    waking := none, checks := [], words := [], differ := [] }

/-- An unpaired key-lane port with its receive link down. -/
def Port.idle : Port :=
  { linkUp := false, credits := 16, cache := [], seals := none, nonce := 0, expected := none, nakTimes := [], nakCrc := 0,
    nakCounter := 0, nakCredit := 0, hits := 0, misses := 0, epochSent := 0, pendingMiss := [], tx := [], rekey := false,
    epochFrame := none }

/-- A port entry of the device settings for an unpaired port. -/
def PortEnt.none : PortEnt := { slot := 0, slotGen := 0, g := 0, paired := false, quarantined := false }

/-- An empty card slot. -/
def CardSlot.empty : CardSlot :=
  { state := 0, det := false, wp := false, pwren := false, clkOn := false, width := 0, rate := 0, tap := 0, life := 0,
    errors := 0, cardId := [], mfgTime := 0, writesLeft := 0, ceremoniesLeft := 0, cert := [], certOk := false, cmd := none,
    retries := 0, crcFails := 0, busy := false, data := false, since := 0, tuning := none }

/-- A stateful key none of whose running state is known. -/
def Tree.none : Tree :=
  { next := 0, burned := 0, topReady := false, lowerReady := false, nextReady := false, percent := 0, dirty := false,
    startCommit := false }

/-- An IDE stream that is not configured. -/
def IdeStream.none : IdeStream := { configured := false, keys := 0, secure := false }

/-- A tamper source that is armed. -/
def TmpSrc.armed : TmpSrc := { tripped := false, lastAt := 0 }

/-- A slot-table entry never used (R321). -/
def SlotEnt.free : SlotEnt := { gen := 0, state := 0, slice := 0, alg := 0, policy := 0 }

/-- A bank pair never written. -/
def Pair.blank : Pair := { a := .blank, b := .blank }

/-! ### One unit -/

/-- Slice `n`. -/
def getSlice (s : State) (n : Nat) : Slice := mapGet Slice.absent s.slices n
/-- Change slice `n`. -/
def modSlice (s : State) (n : Nat) (f : Slice → Slice) : State := { s with slices := mapMod Slice.absent s.slices n f }
/-- Queue pair `q` of slice `n`. -/
def getQp (s : State) (n q : Nat) : Qp := mapGet Qp.reset s.qps (4 * n + q)
/-- Change queue pair `q` of slice `n`. -/
def modQp (s : State) (n q : Nat) (f : Qp → Qp) : State := { s with qps := mapMod Qp.reset s.qps (4 * n + q) f }
/-- Cell `n`. -/
def getCell (s : State) (n : Nat) : Cell := mapGet Cell.reset s.cells n
/-- Change cell `n`. -/
def modCell (s : State) (n : Nat) (f : Cell → Cell) : State := { s with cells := mapMod Cell.reset s.cells n f }
/-- Block `n`. -/
def getBlock (s : State) (n : Nat) : Block := mapGet Block.idle s.blocks n
/-- Change block `n`. -/
def modBlock (s : State) (n : Nat) (f : Block → Block) : State := { s with blocks := mapMod Block.idle s.blocks n f }
/-- Change the BNE of block `n`. -/
def modBne (s : State) (n : Nat) (f : Bne → Bne) : State := modBlock s n (fun b => { b with bne := f b.bne })
/-- Change the digest engine of block `n`. -/
def modDe (s : State) (n : Nat) (f : De → De) : State := modBlock s n (fun b => { b with de := f b.de })
/-- Region `n`. -/
def getRegion (s : State) (n : Nat) : Region := mapGet Region.idle s.regions n
/-- Change region `n`. -/
def modRegion (s : State) (n : Nat) (f : Region → Region) : State := { s with regions := mapMod Region.idle s.regions n f }
/-- Change the random bit chain of region `n`. -/
def modRng (s : State) (n : Nat) (f : Rng → Rng) : State := modRegion s n (fun r => { r with rng := f r.rng })
/-- Key-lane port `n`. -/
def getPort (s : State) (n : Nat) : Port := mapGet Port.idle s.ports n
/-- Change key-lane port `n`. -/
def modPort (s : State) (n : Nat) (f : Port → Port) : State := { s with ports := mapMod Port.idle s.ports n f }
/-- Card slot `n`. -/
def getCard (s : State) (n : Nat) : CardSlot := mapGet CardSlot.empty s.cards n
/-- Change card slot `n`. -/
def modCard (s : State) (n : Nat) (f : CardSlot → CardSlot) : State := { s with cards := mapMod CardSlot.empty s.cards n f }
/-- Power domain `n`. -/
def getDom (s : State) (n : Nat) : Dom := mapGet Dom.active s.power n
/-- Change power domain `n`. -/
def modDom (s : State) (n : Nat) (f : Dom → Dom) : State := { s with power := mapMod Dom.active s.power n f }
/-- The fenceable unit of bit index `n`. -/
def getUnit (s : State) (n : Nat) : FltUnit := mapGet FltUnit.inService s.flt.units n
/-- Change the fenceable unit of bit index `n`. -/
def modUnit (s : State) (n : Nat) (f : FltUnit → FltUnit) : State :=
  { s with flt := { s.flt with units := mapMod FltUnit.inService s.flt.units n f } }
/-- Handler `n`. -/
def getHandler (s : State) (n : Nat) : Handler := mapGet Handler.empty s.flt.handlers n
/-- Change handler `n`. -/
def modHandler (s : State) (n : Nat) (f : Handler → Handler) : State :=
  { s with flt := { s.flt with handlers := mapMod Handler.empty s.flt.handlers n f } }
/-- The volatile index at a key of the tables. -/
def getVol (s : State) (k : Nat) : VolEnt := mapGet VolEnt.empty s.vols k
/-- Change a volatile index. -/
def modVol (s : State) (k : Nat) (f : VolEnt → VolEnt) : State := { s with vols := mapMod VolEnt.empty s.vols k f }
/-- The running state of the stateful key of a leaf record. -/
def getTree (s : State) (rid : Nat) : Tree := mapGet Tree.none s.trees rid
/-- Change it. -/
def modTree (s : State) (rid : Nat) (f : Tree → Tree) : State := { s with trees := mapMod Tree.none s.trees rid f }
/-- The job of number `k`. -/
def getJob (s : State) (k : Nat) : Option Job := s.jobs.find? (fun j => j.id == k)
/-- Change job `k`. -/
def modJob (s : State) (k : Nat) (f : Job → Job) : State :=
  { s with jobs := s.jobs.map (fun j => if j.id = k then f j else j) }

/-! ### Answers -/

/-- The effect happens only where its condition holds; otherwise nothing happens (assumption 1). -/
def doIf (s : State) (p : Bool) (t : State) : Res := .next (if p then t else s)

/-- A command that names a unit which does not exist faults (assumption 6). -/
def known (p : Bool) (r : Res) : Res := if p then r else .fault .noSuchUnit

/-- Power-on reset and RESET# are not held (R511, R526). -/
def alive (s : State) : Bool := !s.supply.por && !s.supply.resetHeld

/-- Engines run and descriptors are fetched: no supply warning is in force (R512). -/
def ungated (s : State) : Bool := alive s && s.supply.warnedAt.isNone

/-! ### Time, random bits, outputs -/

/-- The last instant the timebase reads: the next value means never (R12). -/
def lastTime : Nat := 2 ^ 64 - 2

/-- The TAI instant for records: 0 before the first time declaration (R348). -/
def now (s : State) : Nat := if s.tb.set then s.tb.time else 0

/-- `n` bytes of the region DRBGs: free values (assumption 7). -/
def drawBytes (s : State) (n : Nat) : List Byte := freeByteList 0 s.freeCtr n

/-- Note that `n` free values were drawn. -/
def drew' (s : State) (n : Nat) : State := { s with freeCtr := s.freeCtr + n }

/-- Send something out. -/
def emit (s : State) (o : Out) : State := { s with out := s.out ++ [o] }

/-- Signal an MSI-X vector: a masked one becomes pending (R85, assumption 4). -/
def signalVector (s : State) (v : Nat) : State :=
  if (mapGet 1 s.link.msix (4 * v + 3)).getLsbD 0 then
    (if s.link.msixPend.contains v then s else { s with link := { s.link with msixPend := s.link.msixPend ++ [v] } })
  else emit s (.msix v)

/-- Set bits of SL_NOTIFY: a bit that sets while it is 0 signals vector 32n + 4 (R123). -/
def notifySlice (s : State) (n : Nat) (m : Byte) : State :=
  let old := (getSlice s n).notify
  let t := modSlice s n (fun x => { x with notify := x.notify ||| m })
  if old ||| m = old then t else signalVector t (32 * n + 4)

/-- SL_NOTIFY.STATE_CHG, RESET_DONE, EVENT. -/
def notifyState (s : State) (n : Nat) : State := notifySlice s n 1
/-- SL_NOTIFY.RESET_DONE. -/
def notifyReset (s : State) (n : Nat) : State := notifySlice s n 2
/-- SL_NOTIFY.EVENT. -/
def notifyEvent (s : State) (n : Nat) : State := notifySlice s n 4

/-- SMBALERT# asserts (R114). -/
def smbAlert (s : State) : State := { s with pins := { s.pins with smbAlertN := true } }

/-! ### The event log (R348) -/

/-- Entries the ring holds. -/
def logDepth : Nat := 131072

/-- Append an entry with its TIME; the oldest falls out of a full ring. -/
def logEventAt (s : State) (time source code severity : Nat) (data : List Byte) : State :=
  let e : LogEnt := { seq := s.alm.logSeq, time, source, code, severity, data, torn := false }
  let l := s.alm.log ++ [e]
  { s with alm := { s.alm with log := l.drop (l.length - logDepth), logSeq := s.alm.logSeq + 1 } }

/-- Append an entry now. -/
def logEvent (s : State) (source code severity : Nat) (data : List Byte) : State :=
  logEventAt s (now s) source code severity data

/-- SEQ of the newest entry. -/
def lastLogSeq (s : State) : Nat := s.alm.logSeq - 1

/-! ### Codes -/

/-- The chip mode codes (R39). -/
def Mode.code : Mode → Nat
  | .boot => 0 | .assay => 1 | .ceremony => 2 | .service => 3 | .drain => 4 | .maintenance => 5 | .umbra => 6 | .halt => 7

/-- The life-cycle codes (R94). -/
def Lc.code : Lc → Nat
  | .blank => 0 | .factory => 1 | .sealed => 2 | .owned => 3 | .returned => 4 | .scrapped => 5

/-- The life-cycle state of a code. -/
def Lc.ofCode : Nat → Lc
  | 0 => .blank | 1 => .factory | 2 => .sealed | 3 => .owned | 4 => .returned | _ => .scrapped

/-- The slice state codes (SL_STATE.STATE). -/
def SliceState.code : SliceState → Nat
  | .absent => 0 | .configured => 1 | .active => 2 | .quiescing => 3 | .resetting => 4

/-- The unit state codes. -/
def UnitState.code : UnitState → Nat
  | .online => 0 | .fenced => 1 | .recovering => 2 | .failed => 3

/-- CHIP_MODE.TIME. -/
def Cond.code : Cond → Nat
  | .referenced => 0 | .holdover => 1 | .untimed => 2

/-- A response to a tamper alarm is more than LOG in this state (R438). -/
def Lc.armed (l : Lc) : Bool := l == .sealed || l == .owned

/-! ### Units in service (R34, R468, R469) -/

/-- The unit of bit index `n` is ONLINE itself. -/
def unitOnline (s : State) (n : Nat) : Bool := (getUnit s n).state == .online

/-- Region `r` is ONLINE. -/
def regionOnline (s : State) (r : Nat) : Bool := unitOnline s (144 + r)

/-- Block `b` is in service: it and its region are ONLINE. -/
def blockServes (s : State) (b : Nat) : Bool := unitOnline s (128 + b) && regionOnline s (b / 4)

/-- Cell `c` is in service. -/
def cellServes (s : State) (c : Nat) : Bool := unitOnline s c && blockServes s (c / 8)

/-- The BNE of block `b` is in service (R257, R279). -/
def bneServes (s : State) (b : Nat) : Bool := unitOnline s (148 + b) && blockServes s b && !(getBlock s b).bne.out

/-- Whether no region is ONLINE. -/
def noRegion (s : State) : Bool := (List.range 4).all (fun r => !regionOnline s r)

/-! ### S00's vectors (R99) -/

/-- Fault hub. -/
def vecFault (s : State) : State := signalVector s 8
/-- Mode change. -/
def vecMode (s : State) : State := signalVector s 9
/-- Time-condition change. -/
def vecTime (s : State) : State := signalVector s 10
/-- Key-lane quarantine. -/
def vecQuarantine (s : State) : State := signalVector s 11
/-- Card detect. -/
def vecCard (s : State) : State := signalVector s 12
/-- Region state change. -/
def vecRegion (s : State) : State := signalVector s 13

end Sys2Proof.Machine
end

