-- ==== Sys2Proof/Machine/Fuse.lean ====
section
/-! DEFINITION. The fuse array (R448 to R453): reading with majority, programming, the life-cycle codes and the vote. -/

namespace Sys2Proof.Machine

/-- Bytes of the array. -/
def fuseBytes (s : State) (off n : Nat) : List Byte := bytesGet s.fuses off n

/-- A field held in three copies of `n` bytes, decided bit by bit by majority. -/
def fuseVoted (s : State) (off n : Nat) : List Byte :=
  (List.range n).map (fun i =>
    let a := byteGet s.fuses (off + i)
    let b := byteGet s.fuses (off + n + i)
    let c := byteGet s.fuses (off + 2 * n + i)
    (a &&& b) ||| (a &&& c) ||| (b &&& c))

/-- Program bits: a bit only ever goes from 0 to 1; the dead bits (by bit number in the array) stay as they are (R453). -/
def fuseByteOr (dead : List Nat) (a : Nat) (old v : Byte) : Byte :=
  BitVec.ofNat 8 (maskOf (fun i => old.getLsbD i || (v.getLsbD i && !dead.contains (8 * a + i))) 8)

/-- Program a byte string from an offset upwards. -/
def fuseProg (dead : List Nat) (s : State) (off : Nat) : List Byte → State
  | [] => s
  | b :: bs =>
    fuseProg dead { s with fuses := byteSet s.fuses off (fuseByteOr dead off (byteGet s.fuses off) b) } (off + 1) bs

/-- Program three copies of a field. -/
def fuseProg3 (dead : List Nat) (s : State) (off : Nat) (bs : List Byte) : State :=
  fuseProg dead (fuseProg dead (fuseProg dead s off bs) (off + bs.length) bs) (off + 2 * bs.length) bs

/-- Whether the programming of a string left a bit unprogrammed. -/
def fuseMissed (s : State) (off : Nat) (bs : List Byte) : Bool :=
  decide (List.zipWith (fun a b => a &&& b) (fuseBytes s off bs.length) bs ≠ bs)

/-- The life-cycle codes (R449). -/
def lcCode : Lc → Nat
  | .blank => 0x00000000
  | .factory => 0x000000C3
  | .sealed => 0x00003CC3
  | .owned => 0x00963CC3
  | .returned => 0x69963CC3
  | .scrapped => 0xFFFFFFFF

/-- LC copy `k`. -/
def lcCopy (s : State) (k : Nat) : Nat := leNat (fuseBytes s (4 * k) 4)

/-- The vote of one copy: any value but a code votes SCRAPPED (R450). -/
def lcVoteOf (v : Nat) : Lc :=
  if v = lcCode .blank then .blank
  else if v = lcCode .factory then .factory
  else if v = lcCode .sealed then .sealed
  else if v = lcCode .owned then .owned
  else if v = lcCode .returned then .returned
  else .scrapped

/-- Rank of a state, most restrictive first (R450). -/
def lcRank : Lc → Nat
  | .scrapped => 0 | .sealed => 1 | .owned => 2 | .returned => 3 | .factory => 4 | .blank => 5

/-- The vote of three copies (R450). -/
def lcVote3 (a b c : Lc) : Lc :=
  if a = b ∨ a = c then a
  else if b = c then b
  else if lcRank a ≤ lcRank b ∧ lcRank a ≤ lcRank c then a
  else if lcRank b ≤ lcRank c then b else c

/-- The life-cycle state the array gives. -/
def lcVote (s : State) : Lc := lcVote3 (lcVoteOf (lcCopy s 0)) (lcVoteOf (lcCopy s 1)) (lcVoteOf (lcCopy s 2))

/-- CHIP_SERIAL. -/
def fuseSerial (s : State) : Nat := leNat (fuseBytes s 0x010 8)
/-- GRADE. -/
def fuseGrade (s : State) : Nat := leNat (fuseBytes s 0x018 1)
/-- ENTROPY_H in units of 1/256 bit per sample. -/
def fuseEntropy (s : State) : Nat := leNat (fuseBytes s 0x100 4)
/-- FW_KEY_HASH. -/
def fuseFwHash (s : State) : List Byte := fuseVoted s 0x108 48
/-- BNE_KEY_HASH. -/
def fuseBneHash (s : State) : List Byte := fuseVoted s 0x198 48
/-- The SVN floor: the number of SVN_FLOOR bits that read 1 (R459). -/
def fuseFloor (s : State) : Nat :=
  let v := leNat (fuseVoted s 0x228 8)
  ((List.range 64).filter (fun i => v.testBit i)).length
/-- SPDM_SECRET. -/
def fuseSpdm (s : State) : List Byte := fuseBytes s 0x240 32
/-- OWNER_HASH. -/
def fuseOwner (s : State) : List Byte := fuseVoted s 0x260 48
/-- The voted enrolment word: LOOP_USE, LOOP_PRBS, CASE_USE (R436). -/
def fuseEnrol (s : State) : Nat := leNat (fuseVoted s 0x2F0 8)

/-- Loop or case switch `n` (16 and 17 the switches) is enrolled: only in OWNED and RETURNED (R437, R442). -/
def enrolled (s : State) (lc n : Nat) : Bool :=
  (lc == 3 || lc == 4) && (if n < 16 then (fuseEnrol s).testBit n else (fuseEnrol s).testBit (32 + (n - 16)))

/-- Loop `n` is enrolled to run PRBS. -/
def enrolledPrbs (s : State) (n : Nat) : Bool := (fuseEnrol s).testBit (16 + n)

end Sys2Proof.Machine
end

