-- ==== Sys2Proof/Machine/Crc.lean ====
section
/-! DEFINITION. The cyclic redundancy checks the spec names: CRC-32C of ledger banks, log entries and pages (R338, R344, R348),
CRC-64 of retained banks (R504), CRC-8 of key-lane frames (R383) and CRC-16 of card frames (R406). -/

namespace Sys2Proof.Machine

/-- `n` steps of a reflected CRC register. -/
def crcRefl (poly : Nat) : Nat → Nat → Nat
  | 0, c => c
  | n + 1, c => crcRefl poly n (if c % 2 = 1 then c / 2 ^^^ poly else c / 2)

/-- CRC-32C: reflected polynomial 0x82F63B78, initial value and final exclusive or all ones. -/
def crc32c (bs : List Byte) : Nat := bs.foldl (fun c b => crcRefl 0x82F63B78 8 (c ^^^ b.toNat)) 0xFFFFFFFF ^^^ 0xFFFFFFFF

/-- `n` steps of a CRC register of width `w`, most significant bit first. -/
def crcFwd (w poly : Nat) : Nat → Nat → Nat
  | 0, c => c
  | n + 1, c => crcFwd w poly n (if 2 ^ (w - 1) ≤ c then (c * 2) % 2 ^ w ^^^ poly else c * 2)

/-- A CRC of width `w`, most significant bit first. -/
def crcMsb (w poly init : Nat) (bs : List Byte) : Nat :=
  bs.foldl (fun c b => crcFwd w poly 8 (c ^^^ b.toNat * 2 ^ (w - 8))) init

/-- CRC-64 with the ECMA-182 polynomial, initial value 0 and no final exclusive or (R504). -/
def crc64 (bs : List Byte) : Nat := crcMsb 64 0x42F0E1EBA9EA3693 0 bs

end Sys2Proof.Machine
end

