-- ==== Sys2Proof/Machine/IntcOps.lean ====
section
/-! DEFINITION. Interrupt sources and processors as the fault hub and the controller read and change them (R490 to R492). -/

namespace Sys2Proof.Machine

/-- A source that exists (R490). -/
def icExists (id : Nat) : Bool := decide (1 ≤ id) && decide (id ≤ 291)

/-- An edge source: core exceptions, doorbells, the Ephemeris strobe, the time-condition change. -/
def icEdge (id : Nat) : Bool :=
  (decide (177 ≤ id) && decide (id ≤ 192)) || (decide (205 ≤ id) && decide (id ≤ 272)) || id == 285 || id == 286

/-- Source `id`. -/
def getIc (s : State) (id : Nat) : IcSrc := mapGet IcSrc.idle s.intc.src id
/-- Change source `id`. -/
def modIc (s : State) (id : Nat) (f : IcSrc → IcSrc) : State :=
  { s with intc := { s.intc with src := mapMod IcSrc.idle s.intc.src id f } }
/-- Processor `p`'s side. -/
def getProc (s : State) (p : Nat) : IcProc := mapGet IcProc.idle s.intc.proc p
/-- Change it. -/
def modProc (s : State) (p : Nat) (f : IcProc → IcProc) : State :=
  { s with intc := { s.intc with proc := mapMod IcProc.idle s.intc.proc p f } }

/-- The standby management core is absent from every target mask (R491). -/
def procPresent (s : State) (p : Nat) : Bool := p != 20 + (1 - s.chip.activeMgmt)

/-- Source `x` is eligible for processor `p` (R491). -/
def icEligible (s : State) (x : IcSrc) (p : Nat) : Bool :=
  x.state == .pending && x.enable && x.priority != 0 && x.targets.getLsbD p && procPresent s p

/-- The interrupt line of processor `p`. -/
def icLine (s : State) (p : Nat) : Bool := s.intc.src.any (fun e => icEligible s e.2 p)

/-- NOTIFIED is set where the line is asserted (R492). -/
def icNotify (s : State) : State :=
  (List.range 22).foldl (fun t p => if icLine s p then modProc t p (fun x => { x with notified := true }) else t) s

/-- The domain of a processor; the management cores' is the chip, always ACTIVE (R488). -/
def procDom (p : Nat) : Option Nat := if p < 16 then some (128 + p) else if p < 20 then some (144 + (p - 16)) else none

/-- A processor's domain is ACTIVE. -/
def procAwake (s : State) (p : Nat) : Bool := match procDom p with | some d => decide ((getDom s d).state = 0) | none => true

/-! ### Waking a power domain (R500, R501, R507) -/

/-- The kind of a domain: 0 cell, 1 block, 2 region, 3 HBM stack, 4 key-lane PHY (R507). -/
def domKind (d : Nat) : Nat := if d < 128 then 0 else if d < 144 then 1 else if d < 148 then 2 else if d < 152 then 3 else 4

/-- The domains that enclose a domain, outermost first. -/
def domParents (d : Nat) : List Nat :=
  match domKind d with
  | 0 => [144 + d / 32, 128 + d / 8]
  | 1 => [144 + (d - 128) / 4]
  | _ => []

/-- A cell that holds on COND 15 goes on after its PWAIT (R204, R500). -/
def resumePwait (c : Cell) : Cell :=
  let w := mapGet 0 c.store c.pc
  if c.hold ∧ wCond w = 15 then { c with hold := false, pc := wNext w } else c

/-- Wake one domain: an entry before its last abort point is abandoned; after it the exit runs (R500). -/
def wakeOne (early : Bool) (s : State) (d : Nat) : State :=
  let x := getDom s d
  if x.state = 0 ∨ x.forced ∨ x.failed ∨ x.waking.isSome then s
  else if early ∧ x.entry.isSome then
    let t := modDom s d (fun x => { x with state := 0, entry := none, aborted := true, aborts := satInc 0xFF x.aborts })
    if d < 128 then modCell t d (fun c => { resumePwait c with pwrAborted := true }) else t
  else modDom s d (fun x => { x with entry := none, waking := some s.uptime })

/-- A wake event: each enclosing domain is woken first (R501). `early` says that the event came before the last abort point of an entry in
progress; a wake by work assigned to the domain is taken to come after it (R74). (DESIGN CHOICE, log entry 47). -/
def wakeUnit (early : Bool) (s : State) (d : Nat) : State := wakeOne early ((domParents d).foldl (wakeOne early) s) d

/-- The domain runs. -/
def domAwake (s : State) (d : Nat) : Bool := (getDom s d).state == 0 && (getDom s d).waking.isNone

/-- Block `b` and its region run. -/
def blockAwake (s : State) (b : Nat) : Bool := domAwake s (128 + b) && domAwake s (144 + b / 4)

end Sys2Proof.Machine
end

