-- ==== Sys2Proof/Machine/Aes.lean ====
section
/-! DEFINITION. Arithmetic in GF(2^8) with the polynomial 0x11B, Shamir's scheme over it (R316, R319), and AES-256 with the
key wrap of SP 800-38F (R320). The S-box is computed from its definition. -/

namespace Sys2Proof.Machine

/-- Multiply by x. -/
def xtime (a : Nat) : Nat := if 128 ≤ a then (a * 2) % 256 ^^^ 0x1B else a * 2

/-- Product in GF(2^8): `n` bits of `b` are left. -/
def gfMulN : Nat → Nat → Nat → Nat
  | 0, _, _ => 0
  | n + 1, a, b => (if b % 2 = 1 then a else 0) ^^^ gfMulN n (xtime a) (b / 2)

/-- Product in GF(2^8). -/
def gfMul (a b : Nat) : Nat := gfMulN 8 a b

/-- Power in GF(2^8). -/
def gfPow (a : Nat) : Nat → Nat
  | 0 => 1
  | n + 1 => gfMul a (gfPow a n)

/-- Square in GF(2^8). -/
def gfSq (a : Nat) : Nat := gfMul a a

/-- Inverse in GF(2^8): a^254, so 0 for 0. -/
def gfInv (a : Nat) : Nat :=
  (List.range 6).foldl (fun r _ => gfMul (gfSq r) (gfSq a)) (gfSq a)

/-- The S-box of AES. -/
def sbox (v : Nat) : Nat :=
  let b := gfInv v
  let r := fun k => (b * 2 ^ k ||| b / 2 ^ (8 - k)) % 256
  b ^^^ r 1 ^^^ r 2 ^^^ r 3 ^^^ r 4 ^^^ 0x63

/-! A block is held as a number, its first byte lowest; a table of 256 bytes the same way. -/

/-- Byte `i`. -/
def byteNo (v i : Nat) : Nat := v / 256 ^ i % 256

/-- The number of the `n` bytes that `f` gives. -/
def packBytes (n : Nat) (f : Nat → Nat) : Nat := (List.range n).foldl (fun a i => a + f i * 256 ^ i) 0

/-- The S-box as a table. -/
def sboxTable : Nat := packBytes 256 sbox

/-- The inverse S-box as a table. -/
def invSboxTable (t : Nat) : Nat := (List.range 256).foldl (fun a v => a + v * 256 ^ byteNo t v) 0

/-- The bytes of an `n`-byte number through a table. -/
def subBytes (t n v : Nat) : Nat := packBytes n (fun i => byteNo t (byteNo v i))

/-- The key schedule of AES-256: words of four bytes, newest first; `n` more from index `i`. -/
def aesExpand (t : Nat) : Nat → Nat → Nat → List Nat → List Nat
  | 0, _, _, ws => ws
  | n + 1, i, rc, ws =>
    let p := ws.getD 0 0
    let g :=
      if i % 8 = 0 then subBytes t 4 (p / 256 + p % 256 * 256 ^ 3) ^^^ rc
      else if i % 8 = 4 then subBytes t 4 p else p
    aesExpand t n (i + 1) (if i % 8 = 0 then xtime rc else rc) ((ws.getD 7 0 ^^^ g) :: ws)

/-- The 15 round keys of 16 bytes. -/
def aesKeys (t : Nat) (key : List Byte) : List Nat :=
  let k := leNat key
  let ws := (aesExpand t 52 8 1 ((List.range 8).reverse.map (fun i => k / 256 ^ (4 * i) % 256 ^ 4))).reverse
  (List.range 15).map (fun r => (List.range 4).foldl (fun a i => a + ws.getD (4 * r + i) 0 * 256 ^ (4 * i)) 0)

/-- ShiftRows by `k` steps per row. -/
def shiftRows (k v : Nat) : Nat := packBytes 16 (fun i => byteNo v ((i + 4 * (k * (i % 4))) % 16))

/-- Sixteen copies of a byte. -/
def sixteen (b : Nat) : Nat := packBytes 16 (fun _ => b)

/-- Multiply every byte by x. -/
def xtimes (v : Nat) : Nat := (v &&& sixteen 0x7F) * 2 ^^^ (v / 128 &&& sixteen 1) * 0x1B

/-- Each column turned up by `k` bytes. -/
def turnCols (k v : Nat) : Nat := packBytes 16 (fun i => byteNo v (i / 4 * 4 + (i + k) % 4))

/-- MixColumns: 2, 3, 1, 1. -/
def mixCols (v : Nat) : Nat :=
  let r := turnCols 1 v
  xtimes v ^^^ xtimes r ^^^ r ^^^ turnCols 2 v ^^^ turnCols 3 v

/-- Its inverse: 14, 11, 13, 9. -/
def unmixCols (v : Nat) : Nat :=
  let a := xtimes v
  let b := xtimes a
  let c := xtimes b
  (c ^^^ b ^^^ a) ^^^ turnCols 1 (c ^^^ a ^^^ v) ^^^ turnCols 2 (c ^^^ b ^^^ v) ^^^ turnCols 3 (c ^^^ v)

/-- Encrypt one block under expanded keys. -/
def aesEncrypt (t : Nat) (ks : List Nat) (blk : Nat) : Nat :=
  let s := (List.range 13).foldl (fun s r => mixCols (shiftRows 1 (subBytes t 16 s)) ^^^ ks.getD (r + 1) 0) (blk ^^^ ks.getD 0 0)
  shiftRows 1 (subBytes t 16 s) ^^^ ks.getD 14 0

/-- Decrypt one block, with the inverse table. -/
def aesDecrypt (ti : Nat) (ks : List Nat) (blk : Nat) : Nat :=
  let s := (List.range 13).foldl (fun s r => subBytes ti 16 (shiftRows 3 (unmixCols (s ^^^ ks.getD (13 - r) 0))))
    (subBytes ti 16 (shiftRows 3 (blk ^^^ ks.getD 14 0)))
  s ^^^ ks.getD 0 0

/-- Semiblocks of eight bytes. -/
def words8 (n v : Nat) : List Nat := (List.range n).map (fun i => v / 256 ^ (8 * i) % 256 ^ 8)

/-- The number of semiblocks of eight bytes. -/
def join8 (l : List Nat) : Nat := l.foldr (fun w a => w + 256 ^ 8 * a) 0

/-- The step counter as eight bytes, most significant first. -/
def kwCount (k : Nat) : Nat := leNat (beBytes 8 (k + 1))

/-- One step of the wrapping function: step number and semiblock. -/
def kwStep (enc : Nat → Nat) (n : Nat) (st : Nat × List Nat) (k : Nat) : Nat × List Nat :=
  let b := enc (st.1 + 256 ^ 8 * st.2.getD (k % n) 0)
  (b % 256 ^ 8 ^^^ kwCount k, st.2.set (k % n) (b / 256 ^ 8))

/-- One step of the unwrapping function. -/
def kuStep (dec : Nat → Nat) (n : Nat) (st : Nat × List Nat) (k : Nat) : Nat × List Nat :=
  let b := dec ((st.1 ^^^ kwCount k) + 256 ^ 8 * st.2.getD (k % n) 0)
  (b % 256 ^ 8, st.2.set (k % n) (b / 256 ^ 8))

/-- AES-256-KWP (SP 800-38F) of a byte string. -/
def kwpWrap (key m : List Byte) : List Byte :=
  let t := sboxTable
  let ks := aesKeys t key
  let n := (m.length + 7) / 8
  let icv := leNat ([0xA6, 0x59, 0x59, 0xA6] ++ beBytes 4 m.length)
  let p := leNat m
  if n = 1 then leBytes 16 (aesEncrypt t ks (icv + 256 ^ 8 * p))
  else
    let o := (List.range (6 * n)).foldl (kwStep (aesEncrypt t ks) n) (icv, words8 n p)
    leBytes (8 * n + 8) (o.1 + 256 ^ 8 * join8 o.2)

/-- The inverse; none when the check value does not match. -/
def kwpUnwrap (key c : List Byte) : Option (List Byte) :=
  let t := sboxTable
  let ks := aesKeys t key
  let ti := invSboxTable t
  let n := c.length / 8 - 1
  let x := leNat c
  let o : Nat × Nat :=
    if n = 1 then let b := aesDecrypt ti ks x; (b % 256 ^ 8, b / 256 ^ 8)
    else
      let r := ((List.range (6 * n)).reverse).foldl (kuStep (aesDecrypt ti ks) n) (x % 256 ^ 8, words8 n (x / 256 ^ 8))
      (r.1, join8 r.2)
  let icv := leBytes 8 o.1
  let len := beNat (icv.drop 4)
  let p := leBytes (8 * n) o.2
  if c.length % 8 = 0 ∧ 16 ≤ c.length ∧ icv.take 4 = [0xA6, 0x59, 0x59, 0xA6] ∧ 8 * (n - 1) < len ∧ len ≤ 8 * n ∧
      zeros p len (8 * n) then some (p.take len)
  else none

/-- AES-256 counter mode: keystream blocks from a 16-byte counter value, incremented as a big-endian number. -/
def aesCtr (key ctr : List Byte) (n : Nat) : List Byte :=
  let t := sboxTable
  let ks := aesKeys t key
  let c := beNat ctr
  (((List.range ((n + 15) / 16)).map (fun i => leBytes 16 (aesEncrypt t ks (leNat (beBytes 16 (c + i)))))).flatten).take n

/-! ### Shamir's scheme (R316, R319) -/

/-- The share byte at x of a secret byte and its coefficients a_1, a_2, … -/
def shareByte (secret : Nat) (coefs : List Nat) (x : Nat) : Nat :=
  (List.range coefs.length).foldl (fun a j => a ^^^ gfMul (coefs.getD j 0) (gfPow x (j + 1))) secret

/-- The weight of the share at index `k` of the x-coordinates. -/
def lagrange (xs : List Nat) (k : Nat) : Nat :=
  let xk := xs.getD k 0
  (xs.filter (· != xk)).foldl (fun a xm => gfMul a (gfMul xm (gfInv (xk ^^^ xm)))) 1

/-- The byte at `i` of the secret that shares (x, 32 bytes) give. -/
def combineByte (shares : List (Nat × List Byte)) (i : Nat) : Nat :=
  (List.range shares.length).foldl
    (fun a k => a ^^^ gfMul (byteAt (shares.getD k (0, [])).2 i) (lagrange (shares.map Prod.fst) k)) 0

/-- The 32-byte secret. -/
def combineShares (shares : List (Nat × List Byte)) : List Byte :=
  (List.range 32).map (fun i => BitVec.ofNat 8 (combineByte shares i))

end Sys2Proof.Machine
end

