-- ==== Sys2Proof/Machine/Keccak.lean ====
section
/-! DEFINITION. Keccak-f[1600] and the functions of FIPS 202 and SP 800-185 that the device computes: SHA-3, SHAKE, cSHAKE256
and KMAC256 (R6, R156, R227, R326). -/

namespace Sys2Proof.Machine

/-- The state: the 1,600-bit string of FIPS 202, whose lane (x, y) is the bits from 64 (x + 5 y). -/
abbrev KState := BitVec 1600

/-- Lane number `i`. -/
def kLane (a : KState) (i : Nat) : W64 := a.extractLsb' (64 * i) 64

/-- The state of 25 lanes. -/
def kJoin (f : Nat → W64) : KState := BitVec.ofNat 1600 ((List.range 25).foldl (fun r i => r + (f i).toNat * 2 ^ (64 * i)) 0)

/-- The number of lane (x, y). -/
def kAt (x y : Nat) : Nat := x % 5 + 5 * (y % 5)

/-- The rotation offsets of the lanes, in the order of the state. -/
def kRot : List Nat :=
  [0, 1, 62, 28, 27, 36, 44, 6, 55, 20, 3, 10, 43, 25, 39, 41, 45, 15, 21, 8, 18, 2, 61, 56, 14]

/-- The round constants. -/
def kRc : List W64 :=
  [0x0000000000000001, 0x0000000000008082, 0x800000000000808A, 0x8000000080008000, 0x000000000000808B, 0x0000000080000001,
   0x8000000080008081, 0x8000000000008009, 0x000000000000008A, 0x0000000000000088, 0x0000000080008009, 0x000000008000000A] ++
  [0x000000008000808B, 0x800000000000008B, 0x8000000000008089, 0x8000000000008003, 0x8000000000008002, 0x8000000000000080,
   0x000000000000800A, 0x800000008000000A, 0x8000000080008081, 0x8000000000008080, 0x0000000080000001, 0x8000000080008008]

/-- Theta: what column `x` adds to its lanes. -/
def kColumn (a : KState) (x : Nat) : W64 := kLane a (kAt x 0) ^^^ kLane a (kAt x 1) ^^^ kLane a (kAt x 2) ^^^ kLane a (kAt x 3) ^^^ kLane a (kAt x 4)

/-- Theta and rho. -/
def kTheta (a : KState) : KState :=
  let c := kJoin (fun x => if x < 5 then kColumn a x else 0)
  kJoin (fun i => (kLane a i ^^^ kLane c ((i + 4) % 5) ^^^ (kLane c ((i + 1) % 5)).rotateLeft 1).rotateLeft (kRot.getD i 0))

/-- Pi. -/
def kPi (t : KState) : KState := kJoin (fun i => kLane t (kAt (i % 5 + 3 * (i / 5)) (i % 5)))

/-- Chi, and iota with the round's constant. -/
def kChi (b : KState) (rc : W64) : KState :=
  kJoin (fun i =>
    let x := i % 5; let y := i / 5
    kLane b i ^^^ (~~~ kLane b (kAt (x + 1) y) &&& kLane b (kAt (x + 2) y)) ^^^ (if i = 0 then rc else 0))

/-- One round. -/
def kRound (a : KState) (rc : W64) : KState := kChi (kPi (kTheta a)) rc

/-- The permutation. -/
def keccakF (a : KState) : KState := kRc.foldl kRound a

/-- Exclusive or of a block of bytes into a state. -/
def kAbsorb (a : KState) (bs : List Byte) : KState := a ^^^ BitVec.ofNat 1600 (leNat bs)

/-- The bytes of a state. -/
def kBytes (a : KState) : List Byte := leBytes 200 a.toNat

/-- Absorb `n` blocks of `rate` bytes. -/
def kAbsorbAll (rate : Nat) : Nat → KState → List Byte → KState
  | 0, a, _ => a
  | n + 1, a, m => kAbsorbAll rate n (keccakF (kAbsorb a (m.take rate))) (m.drop rate)

/-- Squeeze `n` blocks of `rate` bytes. -/
def kSqueeze (rate : Nat) : Nat → KState → List Byte
  | 0, _ => []
  | n + 1, a => (kBytes a).take rate ++ kSqueeze rate n (keccakF a)

/-- A message with the domain byte and the closing bit of the padding. -/
def kPad (rate : Nat) (dom : Byte) (m : List Byte) : List Byte :=
  let k := rate - m.length % rate
  if k = 1 then m ++ [dom ||| 0x80] else m ++ [dom] ++ List.replicate (k - 2) 0 ++ [0x80]

/-- The sponge: `n` bytes of output. -/
def sponge (rate : Nat) (dom : Byte) (m : List Byte) (n : Nat) : List Byte :=
  let p := kPad rate dom m
  (kSqueeze rate ((n + rate - 1) / rate) (kAbsorbAll rate (p.length / rate) 0 p)).take n

/-- SHA3-256. -/
def sha3_256 (m : List Byte) : List Byte := sponge 136 0x06 m 32
/-- SHA3-384. -/
def sha3_384 (m : List Byte) : List Byte := sponge 104 0x06 m 48
/-- SHA3-512. -/
def sha3_512 (m : List Byte) : List Byte := sponge 72 0x06 m 64
/-- SHA3-224. -/
def sha3_224 (m : List Byte) : List Byte := sponge 144 0x06 m 28
/-- SHAKE128. -/
def shake128 (m : List Byte) (n : Nat) : List Byte := sponge 168 0x1F m n
/-- SHAKE256. -/
def shake256 (m : List Byte) (n : Nat) : List Byte := sponge 136 0x1F m n

/-- The bytes of a number without leading zeros, at least one. -/
def encBytes (v : Nat) : List Byte :=
  let n := if v < 2 ^ 8 then 1 else if v < 2 ^ 16 then 2 else if v < 2 ^ 24 then 3 else if v < 2 ^ 32 then 4 else 8
  beBytes n v

/-- left_encode of SP 800-185. -/
def leftEncode (v : Nat) : List Byte := BitVec.ofNat 8 (encBytes v).length :: encBytes v
/-- right_encode. -/
def rightEncode (v : Nat) : List Byte := encBytes v ++ [BitVec.ofNat 8 (encBytes v).length]
/-- encode_string. -/
def encodeString (m : List Byte) : List Byte := leftEncode (8 * m.length) ++ m
/-- bytepad. -/
def bytepad (m : List Byte) (w : Nat) : List Byte :=
  let z := leftEncode w ++ m
  z ++ List.replicate ((w - z.length % w) % w) 0

/-- cSHAKE256 with function name and customisation. -/
def cshake256 (m : List Byte) (n : Nat) (name cust : List Byte) : List Byte :=
  if name = [] ∧ cust = [] then shake256 m n
  else sponge 136 0x04 (bytepad (encodeString name ++ encodeString cust) 136 ++ m) n

/-- cSHAKE128. -/
def cshake128 (m : List Byte) (n : Nat) (name cust : List Byte) : List Byte :=
  if name = [] ∧ cust = [] then shake128 m n
  else sponge 168 0x04 (bytepad (encodeString name ++ encodeString cust) 168 ++ m) n

/-- KMAC256 with `n` bytes of output. -/
def kmac256 (key m : List Byte) (n : Nat) (cust : List Byte) : List Byte :=
  cshake256 (bytepad (encodeString key) 136 ++ m ++ rightEncode (8 * n)) n (ascii "KMAC") cust

/-- KMACXOF256. -/
def kmacXof256 (key m : List Byte) (n : Nat) (cust : List Byte) : List Byte :=
  cshake256 (bytepad (encodeString key) 136 ++ m ++ rightEncode 0) n (ascii "KMAC") cust

/-- KMAC128. -/
def kmac128 (key m : List Byte) (n : Nat) (cust : List Byte) : List Byte :=
  cshake128 (bytepad (encodeString key) 168 ++ m ++ rightEncode (8 * n)) n (ascii "KMAC") cust

end Sys2Proof.Machine
end

