-- ==== Sys2Proof/Machine/Ledger.lean ====
section
/-! DEFINITION. The records of the Almanac: judging banks (R339, R340), the spare map and commits with remapping (R341), the
queue of writes (R342), and the typed content of each record. -/

namespace Sys2Proof.Machine

/-! ### The root (R310 to R315) -/

/-- The root secret. -/
def rootSecret (s : State) : List Byte := sub s.root.record 0 32

/-- The root is PRESENT: its device keys are in the root wrap engine. -/
def rootPresent (s : State) : Bool := s.root.keysLoaded

/-- ROOT_CHECK of a root. -/
def rootCheckOf (r : List Byte) : List Byte := kmac256 r [] 16 (ascii "FY4128-RCK")
/-- ROOT_ID of a root. -/
def rootIdOf (r : List Byte) : List Byte := kmac256 r [] 4 (ascii "FY4128-RID")

/-- The root record of a root generated at `t`. -/
def rootRecord (r : List Byte) (t : Nat) : List Byte :=
  r ++ rootCheckOf r ++ rootIdOf r ++ [0xA5] ++ List.replicate 3 0 ++ leBytes 8 t

/-- The ROM's judgement: PRESENT (R313). -/
def rootGood (s : State) : Bool :=
  byteAt s.root.record 52 == 0xA5 && sub s.root.record 32 16 == rootCheckOf (rootSecret s)

/-- The ROM's judgement: ABSENT. -/
def rootZero (s : State) : Bool := s.root.record.all (· == 0)

/-- Zeroization: the root record and every device key (R314). -/
def zeroizeRoot (s : State) : State := { s with root := { s.root with record := [], keysLoaded := false } }

/-- Install a root (R312, R319). -/
def installRoot (s : State) (r : List Byte) (t : Nat) : State :=
  { s with root := { s.root with record := rootRecord r t, keysLoaded := true } }

/-! ### Banks and records -/

/-- The record's banks carry a tag under the root; otherwise a CRC (R337). -/
def recTagged (rid : Nat) : Bool := rid != 0 && decide (rid < 64432)

/-- What a record reads as (R340). -/
inductive RecView where
  | empty
  | cur (inA : Bool) (seq : Nat) (p : Payload)
  | lost
  deriving DecidableEq, Repr

/-- A bank's SEQ and payload when it is valid (R339). -/
def bankValid (s : State) (rid : Nat) (b : Bank) : Option (Nat × Payload) :=
  match b with
  | .written q p r => if !recTagged rid || r == rootSecret s then some (q, p) else none
  | _ => none

/-- The record's state from its two banks. -/
def viewPair (s : State) (rid : Nat) (p : Pair) : RecView :=
  match bankValid s rid p.a, bankValid s rid p.b with
  | some (q, c), none => .cur true q c
  | none, some (q, c) => .cur false q c
  | some (q, c), some (q', c') => if q = q' then .lost else if q' < q then .cur true q c else .cur false q' c'
  | none, none => if p.a = .blank ∨ p.b = .blank then .empty else .lost

/-- The spare-map entries, in the order they were committed. -/
def spareEnts (s : State) : List SpareEnt :=
  ((List.range 80).map (fun k =>
    match viewPair s (64432 + k) (mapGet Pair.blank s.alm.pairs (64432 + k)) with
    | .cur _ _ (.spares l) => l
    | _ => [])).flatten

/-- The entry that names record `rid` last. -/
def spareOf (s : State) (rid : Nat) : Option SpareEnt := (spareEnts s).reverse.find? (fun e => e.record == some rid)

/-- The number of the pair that holds record `rid`. -/
def pairNo (s : State) (rid : Nat) : Nat :=
  if 64432 ≤ rid then rid else
  match spareOf s rid with
  | some e => 64512 + e.spare
  | none => rid

/-- BASE_SEQ of a record's pair: 0 for one never remapped (R342). -/
def baseSeq (s : State) (rid : Nat) : Nat := match spareOf s rid with | some e => e.baseSeq | none => 0

/-- The bank pair of a record. -/
def pairOf (s : State) (rid : Nat) : Pair := mapGet Pair.blank s.alm.pairs (pairNo s rid)

/-- What a record reads as: a tagged one reads as empty while the root is ABSENT (R339). -/
def viewRec (s : State) (rid : Nat) : RecView :=
  if recTagged rid && !rootPresent s then .empty else if s.alm.gone.contains rid then .lost else viewPair s rid (pairOf s rid)

/-- The current payload. -/
def payload (s : State) (rid : Nat) : Payload := match viewRec s rid with | .cur _ _ p => p | _ => .empty

/-- The current SEQ, 0 for an empty record. -/
def curSeq (s : State) (rid : Nat) : Nat := match viewRec s rid with | .cur _ q _ => q | _ => 0

/-- The record is lost. -/
def recLost (s : State) (rid : Nat) : Bool := viewRec s rid == .lost

/-! ### Record IDs (R337) -/

/-- The slice record of slice `n`. -/
def ridSlice (n : Nat) : Nat := 16 + 2 * n
/-- The image record of slice `n`. -/
def ridImage (n : Nat) : Nat := 17 + 2 * n
/-- The slot-table record of an index. -/
def ridSlot (i : Nat) : Nat := 1024 + i / 16
/-- The durable-event record of an event index. -/
def ridEvent (i : Nat) : Nat := 33792 + i / 4
/-- Key of a slot-record write. -/
def keySlotWrite (i : Nat) : Nat := 2 ^ 20 + i
/-- Key of a zeroing write. -/
def keySlotZero (i : Nat) : Nat := 2 ^ 21 + i

/-! ### Typed content -/

/-- The device settings with nothing recorded (R211, R366, R389). -/
def Settings.dflt : Settings := { wdogExp := 20, budget := 14400, ppsDelay := 0, tppsOutEn := true, ports := [] }

/-- The device settings in force; the defaults while the record is empty or lost. -/
def settings (s : State) : Settings := match payload s 2 with | .settings c => c | _ => Settings.dflt

/-- The settings entry of a port. -/
def portEnt (s : State) (n : Nat) : PortEnt := mapGet PortEnt.none (settings s).ports n

/-- The life-cycle intent. -/
def intentOf (s : State) : Option Intent := match payload s 0 with | .intent i => if i.active then some i else none | _ => none

/-- The custodian list; while the root is ABSENT it is read without its tag, for reassembly (R318). -/
def custOf (s : State) : Option CustList :=
  if rootPresent s then (match payload s 1 with | .custodian c => some c | _ => none)
  else
    match (pairOf s 1).a, (pairOf s 1).b with
    | .written q (.custodian c) _, .written q' (.custodian c') _ => if q' < q then some c else some c'
    | .written _ (.custodian c) _, _ => some c
    | _, .written _ (.custodian c) _ => some c
    | _, _ => none

/-- The slice record of slice `n`. -/
def sliceRecOf (s : State) (n : Nat) : Option SliceRec := match payload s (ridSlice n) with | .slice r => some r | _ => none

/-- The image record of slice `n`. -/
def imageRecOf (s : State) (n : Nat) : ImageRec :=
  match payload s (ridImage n) with | .image r => r | _ => { seq := 0, digest := [], bindings := [] }

/-- The 256 bytes of a slot record. -/
def slotBytes (s : State) (i : Nat) : List Byte := padTo 256 (mapGet [] s.alm.slots i)

/-- A slot record holds nothing. -/
def slotZeroed (s : State) (i : Nat) : Bool := (mapGet [] s.alm.slots i).all (· == 0)

/-- The slot-table entry of an index; the indices of a lost record are WITHDRAWN, or DEAD with a zero slot record
(R340). -/
def slotEnt (s : State) (i : Nat) : SlotEnt :=
  match viewRec s (ridSlot i) with
  | .cur _ _ (.slots m) => mapGet SlotEnt.free m (i % 16)
  | .lost => { SlotEnt.free with state := if slotZeroed s i then 4 else 3 }
  | _ => SlotEnt.free

/-- The leaf record at a record ID. -/
def leafOf (s : State) (rid : Nat) : Option Leaf := match payload s rid with | .leaf l => some l | _ => none

/-- The leaf records in use, with their IDs. -/
def leafRids (s : State) : List (Nat × Leaf) :=
  s.alm.pairs.filterMap (fun e =>
    if 17408 ≤ e.1 ∧ e.1 < 33792 then (leafOf s e.1).map (fun l => (e.1, l)) else none)

/-- The leaf record of a slot at a generation. -/
def leafFor (s : State) (slot gen : Nat) : Option (Nat × Leaf) :=
  (leafRids s).find? (fun e => e.2.slot == slot && e.2.gen == gen)

/-- The first number from `k` on, among `n`, that satisfies `p`. -/
def firstFrom (p : Nat → Bool) : Nat → Nat → Option Nat
  | _, 0 => none
  | k, n + 1 => if p k then some k else firstFrom p (k + 1) n

/-- A durable event's entry. -/
def eventEnt (s : State) (i : Nat) : Option EvEnt :=
  match payload s (ridEvent i) with | .events m => mapGet none m (i % 4) | _ => none

/-- Slots a slice's KEY_SLOTS quota counts: LIVE, ZEROING and WITHDRAWN entries (R321). -/
def slotsUsed (s : State) (n : Nat) : Nat :=
  (s.alm.pairs.map (fun e =>
    if 1024 ≤ e.1 ∧ e.1 < 17408 then
      ((List.range 16).filter (fun k =>
        let x := slotEnt s ((e.1 - 1024) * 16 + k)
        x.slice == n && (x.state == 1 || x.state == 2 || x.state == 3))).length
    else 0)).sum

/-! ### What a change does to a payload -/

/-- The settings of a payload. -/
def settingsIn (p : Payload) : Settings := match p with | .settings c => c | _ => Settings.dflt

/-- The slot entries of a payload. -/
def slotsIn (p : Payload) : FMap SlotEnt := match p with | .slots m => m | _ => []

/-- The image record in a payload. -/
def imageIn (p : Payload) : ImageRec := match p with | .image r => r | _ => { seq := 0, digest := [], bindings := [] }

/-- The recovery content of a payload. -/
def recovIn (p : Payload) : Recovery := match p with | .recovery r => r | _ => Recovery.initial

/-- A FAILED unit is taken out and its recoveries are forgotten (R476). -/
def Recovery.cleared (r : Recovery) (k u : Nat) : Recovery :=
  { r with failed := mapErase r.failed k,
           ents := mapFilter (fun _ e => match e with | some (v, _) => v != u | none => false) r.ents }

/-- The record a change belongs to. -/
def AlmOp.rid : AlmOp → Nat
  | .intent _ => 0
  | .custodian _ => 1
  | .wdog _ => 2
  | .timeCfg _ _ _ => 2
  | .port _ _ => 2
  | .recovery n _ => n
  | .faultSev _ _ => 4
  | .faultQuiet _ => 4
  | .faultLimit _ _ => 4
  | .faultClear _ _ => 4
  | .slice n _ => ridSlice n
  | .sliceErase n => ridSlice n
  | .image n _ _ _ => ridImage n
  | .imageErase n => ridImage n
  | .binding n _ _ => ridImage n
  | .slotEnt i _ => ridSlot i
  | .leaf r _ => r
  | .leafErase r => r
  | .event i _ => ridEvent i
  | .slotWrite i _ => keySlotWrite i
  | .slotZero i => keySlotZero i
  | .copy r => r

/-- The payload after a change. -/
def applyOp (p : Payload) (o : AlmOp) : Payload :=
  match o with
  | .intent i => .intent i
  | .custodian c => .custodian c
  | .wdog e => .settings { settingsIn p with wdogExp := e }
  | .timeCfg b d en => .settings { settingsIn p with budget := b, ppsDelay := d, tppsOutEn := en }
  | .port n e => .settings { settingsIn p with ports := mapSet PortEnt.none (settingsIn p).ports n e }
  | .recovery _ r => .recovery { recovIn p with ents := r.ents, failed := r.failed }
  | .faultSev c v => .recovery { recovIn p with severity := mapSet 0 (recovIn p).severity c v }
  | .faultQuiet v => .recovery { recovIn p with quiet := v }
  | .faultLimit l w => .recovery { recovIn p with limit := l, window := w }
  | .faultClear k u => .recovery ((recovIn p).cleared k u)
  | .slice _ r => .slice r
  | .sliceErase _ => .empty
  | .image _ q d _ => .image { imageIn p with seq := q, digest := d }
  | .imageErase _ => .image { imageIn p with seq := 0, digest := [] }
  | .binding _ b h => .image { imageIn p with bindings := mapSet 0 (imageIn p).bindings b h }
  | .slotEnt i e => .slots (mapSet SlotEnt.free (slotsIn p) (i % 16) e)
  | .leaf _ l => .leaf l
  | .leafErase _ => .empty
  | .event i e => .events (mapSet none (match p with | .events m => m | _ => []) (i % 4) e)
  | _ => p

/-! ### Commits (R341) -/

/-- Of up to `n` attempts, whether one reads back; the outcomes left. An outcome not given is good. -/
def tryWrites : Nat → List Bool → Bool × List Bool
  | 0, rb => (false, rb)
  | _ + 1, [] => (true, [])
  | n + 1, b :: rb => if b then (true, rb) else tryWrites n rb

/-- Put a bank into a pair. -/
def setBank (s : State) (pn : Nat) (inA : Bool) (b : Bank) : State :=
  { s with alm := { s.alm with
      pairs := mapMod Pair.blank s.alm.pairs pn (fun p => if inA then { p with a := b } else { p with b := b }) } }

/-- The next content of a record: the bank that is not current, SEQ + 1 (R341 steps 1 to 3). -/
def writeBank (s : State) (rid : Nat) (p : Payload) (ok : Bool) : State :=
  let v := viewRec s rid
  let inA := match v with | .cur a _ _ => !a | _ => true
  setBank s (pairNo s rid) inA
    (if ok then .written (curSeq s rid + 1) p (if recTagged rid then rootSecret s else []) else .damaged)

/-- Commit a spare-map entry: the first spare-map record with room. The answer is the state, whether it is committed, and the outcomes left: a
write that fails three times leaves the bank it wrote damaged, and the record its older one. -/
def commitSpare (s : State) (e : SpareEnt) (rb : List Bool) : State × Bool × List Bool :=
  let full := fun k => match payload s (64432 + k) with | .spares l => decide (14 ≤ l.length) | _ => false
  match firstFrom (fun k => !full k) 0 80 with
  | none => (s, false, rb)
  | some k =>
    let l := match payload s (64432 + k) with | .spares l => l | _ => []
    let r := tryWrites 3 rb
    (writeBank s (64432 + k) (.spares (l ++ [e])) r.1, r)

/-- The lowest spare that no entry names. -/
def freeSpare (s : State) : Option Nat := firstFrom (fun k => (spareEnts s).all (fun e => e.spare != k)) 0 1024

/-- Try up to `n` spares for a record's content. The answer is the state and whether the record is committed. -/
def trySpares (rid : Nat) (p : Payload) : Nat → State → List Bool → State × Bool
  | 0, s, _ => (s, false)
  | n + 1, s, rb =>
    match freeSpare s with
    | none => (s, false)
    | some k =>
      let q := curSeq s rid
      let r := tryWrites 3 rb
      if r.1 then
        let t := setBank s (64512 + k) true (.written (q + 1) p (if recTagged rid then rootSecret s else []))
        match commitSpare t { record := some rid, spare := k, baseSeq := q } r.2 with
        | (u, ok, _) => (u, ok)
      else
        match commitSpare (setBank s (64512 + k) true .damaged) { record := none, spare := k, baseSeq := 0 } r.2 with
        | (u, true, rb') => trySpares rid p n u rb'
        | (u, false, _) => (u, false)

/-- Writes of a pair after which it is retired (R342). -/
def retireSeq : Nat := 1800000000000

/-- Commit a record: three tries in place, then spares. The answer is the state and whether it is committed. -/
def commitRec (s : State) (rid : Nat) (p : Payload) (rb : List Bool) : State × Bool :=
  if decide (retireSeq ≤ curSeq s rid - baseSeq s rid) && decide (rid < 64432) then trySpares rid p 3 s rb
  else
    let r := tryWrites 3 rb
    if r.1 then (writeBank s rid p true, true)
    else if 64432 ≤ rid then (writeBank s rid p false, false)
    else trySpares rid p 3 (writeBank s rid p false) r.2

/-! ### The queue of writes (R342) -/

/-- Writes in flight. -/
def inFlight (s : State) : Nat := (s.alm.writes.filter (fun e => e.2.started)).length

/-- Whether `a` is taken before `b`. -/
def writeFirst (a b : WriteQ) : Bool := decide (a.prio < b.prio) || (a.prio == b.prio && decide (a.age < b.age))

/-- The waiting write to be taken next. -/
def nextWrite : FMap WriteQ → Option (Nat × WriteQ)
  | [] => none
  | (k, w) :: m =>
    match nextWrite m with
    | none => if w.started then none else some (k, w)
    | some (k', w') => if w.started then some (k', w') else if writeFirst w w' then some (k, w) else some (k', w')

/-- A write record that is never listed. -/
def WriteQ.none : WriteQ := { started := false, prio := 0, age := 0, reqs := [], follow := [] }

/-- Change the write at a key. -/
def modWrite (s : State) (k : Nat) (f : WriteQ → WriteQ) : State :=
  { s with alm := { s.alm with writes := mapMod WriteQ.none s.alm.writes k f } }

/-- Start waiting writes while fewer than eight are in flight; none once a supply warning is raised, RESET# waits or a FATAL fault has
occurred (R343, R479, R512). -/
def startWrites : Nat → State → State
  | 0, s => s
  | n + 1, s =>
    if decide (8 ≤ inFlight s) || s.supply.resetWaiting || s.supply.warnedAt.isSome || s.flt.fatal then s
    else
      match nextWrite s.alm.writes with
      | none => s
      | some (k, _) => startWrites n (modWrite s k (fun w => { w with started := true }))

/-- Request a write. A write of the record in flight takes no further request: the request is merged into the follow-up
write; one not yet in flight carries it. -/
def requestWrite (s : State) (prio : Nat) (r : AlmReq) : State :=
  let k := r.op.rid
  let w := mapGet WriteQ.none s.alm.writes k
  if w.reqs = [] then
    startWrites 8 { s with alm := { s.alm with
      writes := mapSet WriteQ.none s.alm.writes k
        { started := false, prio, age := s.alm.writeAge + 1, reqs := [r], follow := [] },
      writeAge := s.alm.writeAge + 1 } }
  -- A started write is ordered no more: its priority and age are those of the follow-up it leads to.
  else if w.started then
    modWrite { s with alm := { s.alm with writeAge := s.alm.writeAge + 1 } } k (fun w =>
      { w with follow := w.follow ++ [r], prio := if w.follow = [] then prio else min w.prio prio,
               age := if w.follow = [] then s.alm.writeAge + 1 else w.age })
  else startWrites 8 (modWrite s k (fun w => { w with reqs := w.reqs ++ [r], prio := min w.prio prio }))

/-- The write at a key has ended: its follow-up waits, and waiting writes start. -/
def endWrite (s : State) (k : Nat) : State :=
  let w := mapGet WriteQ.none s.alm.writes k
  startWrites 8
    (if w.follow = [] then { s with alm := { s.alm with writes := mapErase s.alm.writes k } }
     else { s with alm := { s.alm with
       writes := mapSet WriteQ.none s.alm.writes k { started := false, prio := w.prio, age := w.age, reqs := w.follow, follow := [] } } })

/-- Take the requests of a job out of every write that is not in flight; a write left with none is dropped. -/
def dropWrites (s : State) (job : Nat) : State :=
  let keep := fun (r : AlmReq) => r.job != some job
  { s with alm := { s.alm with
      writes := mapAll WriteQ.none (fun _ w =>
        if w.started then { w with follow := w.follow.filter keep }
        else
          let rs := w.reqs.filter keep
          if rs = [] then WriteQ.none else { w with reqs := rs }) s.alm.writes } }

/-- No write is pending. -/
def noWrites (s : State) : Bool := s.alm.writes.isEmpty

/-- Note a record commit for ALMANAC_QUERY: uptimes of the commits of the last second. -/
def noteCommit (s : State) : State :=
  { s with alm := { s.alm with
      commits := (s.alm.commits.filter (fun t => decide (s.uptime < t + 1000000000))) ++ [s.uptime] } }

/-! ### Ports and bindings (R389, R390) -/

/-- The slice whose PORTS mask holds port `p`. -/
def portSlice (s : State) (p : Nat) : Option Nat :=
  firstFrom (fun n => (getSlice s n).state != .absent && (getSlice s n).cfg.ports.testBit p) 0 64

/-- The base handle of a binding of a slice; 0 for an empty entry. -/
def bindingOf (s : State) (n b : Nat) : W64 := mapGet 0 (imageRecOf s n).bindings b

/-- The sealed frames of a slice's bindings whose base satisfies `q`, and what the key-lane complex holds of those bases, are
scrubbed (R380, R396). -/
def scrubLane (s : State) (n : Nat) (q : W64 → Bool) : State :=
  { s with
    ports := mapAll Port.idle (fun p x =>
      if portSlice s p = some n then { x with cache := x.cache.filter (fun e => !q (bindingOf s n e.binding)) } else x) s.ports,
    laneKeys := s.laneKeys.filter (fun k => k.slice != n || !q k.handle) }

/-- Binding entries of a slice whose base is volatile are dropped (R390). -/
def dropVolBindings (s : State) (n : Nat) : State :=
  (List.range 16).foldl (fun t b =>
    if bindingOf s n b ≠ 0 ∧ (bindingOf s n b).toNat / 2 ^ 56 % 4 ≠ 0 then requestWrite t 4 { job := none, op := .binding n b 0 } else t) s

/-- The settings entry of a port as the writes not yet committed leave it. -/
def portNow (s : State) (p : Nat) : PortEnt :=
  let w := mapGet WriteQ.none s.alm.writes 2
  (w.reqs ++ w.follow).foldl (fun e r => match r.op with | .port n x => if n = p then x else e | _ => e) (portEnt s p)

end Sys2Proof.Machine
end

