-- ==== Sys2Proof/Machine/JobOps.lean ====
section
/-! DEFINITION. What happens to an admitted job: region assignment (R18), completion (R24, R126, R131), the end of a job, its
replay (R28 to R31), its abandonment, and the release of its volatile results (R143). -/

namespace Sys2Proof.Machine

/-! ### Status codes (R134 and the tables of the chapters) -/

def stOk : Nat := 0x0000
def stBreach : Nat := 0x0001
def eOpcode : Nat := 0x0100
def eParam : Nat := 0x0101
def eAlign : Nat := 0x0102
def eLengthShort : Nat := 0x0103
def eLengthLong : Nat := 0x0104
def eCapacity : Nat := 0x0105
def eMode : Nat := 0x0110
def eLifecycle : Nat := 0x0111
def eQuota : Nat := 0x0112
def eHandle : Nat := 0x0120
def ePolicy : Nat := 0x0121
def eSlotCorrupt : Nat := 0x0122
def eSlotUsed : Nat := 0x0123
def eStateExhausted : Nat := 0x0124
def eInputRange : Nat := 0x0130
def ePointInvalid : Nat := 0x0131
def eDecode : Nat := 0x0132
def eSelfCheck : Nat := 0x0133
def eRng : Nat := 0x0140
def eTime : Nat := 0x0141
def eLate : Nat := 0x0142
def eAborted : Nat := 0x0150
def eRetryExhausted : Nat := 0x0151
def eUmbra : Nat := 0x0160
def eInternal : Nat := 0x01F0
def eDmaFault : Nat := 0x0200
def ePoison : Nat := 0x0201

/-! ### UNIT codes (R131) -/

/-- Management core. -/
def unitMgmt : Nat := 0xA0
/-- Chip KMAC unit. -/
def unitKmac : Nat := 0xA1
/-- Not run. -/
def unitNone : Nat := 0xFFFF

/-- The job runs on a chip-level unit: a management core or the chip KMAC unit. -/
def Job.onChip (j : Job) : Bool := j.pos == .running unitMgmt || j.pos == .running unitKmac

/-- The job is past its release point (R20): a record of it has committed, or its output has begun. -/
def Job.isReleased (j : Job) : Bool := j.released.isSome

/-- The job belongs to a cell, BNE or digest engine of a region: region 4 means none yet. -/
def Job.assigned (j : Job) : Bool := decide (j.region < 4)

/-! ### Completions -/

/-- What a completion reports. -/
structure Cpl where
  status : Nat
  detail : Nat
  outLen : Nat
  result : Nat
  time : Nat
  guarantee : Nat
  unit : Nat
  replays : Nat
  deriving DecidableEq, Repr

/-- TIME_EST and UNTIMED (R131). -/
def timeFlags (s : State) : Nat :=
  match s.tb.cond with
  | .referenced => 0
  | .holdover => 8
  | .untimed => 24

/-- A completion of a job that never released. -/
def Cpl.bare (s : State) (status detail unit : Nat) : Cpl :=
  { status, detail, outLen := 0, result := 0, time := now s, guarantee := timeFlags s, unit, replays := 0 }

/-- The 32 bytes of a completion (R131). -/
def Cpl.bytes (c : Cpl) (tag : W32) (phase : Bool) (sqHead : Nat) : List Byte :=
  leBytes 4 tag.toNat ++ leBytes 2 c.status ++ leBytes 2 c.detail ++ leBytes 4 c.outLen ++ leBytes 4 c.result ++
    leBytes 8 c.time ++ leBytes 2 c.guarantee ++ leBytes 2 c.unit ++ leBytes 1 c.replays ++ [0] ++
    leBytes 2 (b2n phase * 2 ^ 15 + sqHead)

/-- Entries of a queue pair's rings. -/
def Qp.entries (q : Qp) : Nat := 2 ^ q.depth

/-- Stop a queue pair (R127). -/
def stopQp (s : State) (n q cause : Nat) : State :=
  notifySlice (modQp s n q (fun x => { x with stopped := true, cause := cause })) n (BitVec.ofNat 8 (2 ^ (4 + q)))

/-- A host-side reset of the slice is in progress: no completion is written (R105). -/
def hostReset (s : State) (n : Nat) : Bool :=
  match (getSlice s n).resetRec with | some r => r.hostSide | none => false

/-- The PASID every DMA of a queue pair carries: its slice's binding at its index; none for the binding NONE (R100, R121, R534). -/
def qpPasid (s : State) (n q : Nat) : Option (BitVec 20) :=
  match mapGet PasidBind.unbound (getSlice s n).pasids (getQp s n q).pasidIdx with
  | .pasid p => some p
  | _ => none

/-- Write a completion to its ring (R126), unless one of the exceptions of R24 discards it. -/
def writeCpl (s : State) (n q : Nat) (tag : W32) (c : Cpl) (fault : Bool) : State :=
  let p := getQp s n q
  if p.stopped || hostReset s n then s
  else if fault then stopQp s n q 3
  else
    let t := emit s (.completion n q (qpPasid s n q) p.cqTail (c.bytes tag p.phase p.sqHead))
    let next := (p.cqTail + 1) % p.entries
    signalVector (modQp t n q (fun x => { x with cqTail := next, phase := if next = 0 then !x.phase else x.phase }))
      (32 * n + q)

/-! ### Admitted jobs -/

/-- Admitted jobs of a slice: SL_OUTSTANDING. -/
def outstanding (s : State) (n : Nat) : Nat := (s.jobs.filter (fun j => j.slice == n)).length

/-- The job waits in a queue: at the dispatcher, in its region or in its block. -/
def Job.queued (j : Job) : Bool :=
  match j.pos with | .waiting => true | .region _ => true | .block _ => true | _ => false

/-- A slice has queued jobs (R136). -/
def hasQueued (s : State) (n : Nat) : Bool := s.jobs.any (fun j => j.slice == n && j.queued)

/-- Jobs of a class assigned to region `r` that have not ended (R18). -/
def regionLoad (s : State) (r lc : Nat) : Nat := (s.jobs.filter (fun j => j.region == r && j.lc == lc)).length

/-- Jobs of a class in the queue of region `r`. -/
def regionQueue (s : State) (r lc : Nat) : Nat := (s.jobs.filter (fun j => j.pos == .region r && j.lc == lc)).length

/-- Region `r` is ONLINE and its queue for the class has room (R481). -/
def regionRoom (s : State) (r lc : Nat) : Bool := regionOnline s r && decide (regionQueue s r lc < 1024)

/-- Jobs of a class in block `b` that have not ended (R19). -/
def blockLoad (s : State) (b lc : Nat) : Nat :=
  (s.jobs.filter (fun j => j.region == b / 4 && j.block == b && j.lc == lc)).length

/-- Jobs waiting at block `b` (R481). -/
def blockQueue (s : State) (b : Nat) : Nat := (s.jobs.filter (fun j => j.pos == .block b)).length

/-- The number with the smallest measure among those that satisfy `p`, the lowest on a tie. -/
def leastOf (p : Nat → Bool) (f : Nat → Nat) : List Nat → Option Nat
  | [] => none
  | k :: ks =>
    match leastOf p f ks with
    | none => if p k then some k else none
    | some m => if p k && decide (f k ≤ f m) then some k else some m

/-- The region R18 chooses for a job: one that holds an expanded entry of its key, else the least loaded. -/
def chooseRegion (s : State) (j : Job) : Option Nat :=
  let hs := j.keys.map (fun k => k.handle)
  let cached := fun r => regionRoom s r j.lc && (getRegion s r).expanded.any (fun e => hs.contains e.handle)
  match firstFrom cached 0 4 with
  | some r => some r
  | none => leastOf (fun r => regionRoom s r j.lc) (fun r => regionLoad s r j.lc) (List.range 4)

/-- Where a job that needs an engine goes: to a region's queue, or it waits at the dispatcher (R135). -/
def placeJob (s : State) (j : Job) : Job :=
  match chooseRegion s j with
  | some r => { j with pos := .region r, region := r, block := 16, unit := unitNone }
  | none => { j with pos := .waiting, region := 4, block := 16, unit := unitNone, waitFrom := s.uptime }

/-- Put a changed job back. -/
def putJob (s : State) (j : Job) : State := modJob s j.id (fun _ => j)

/-- Take a job out of the device. -/
def dropJob (s : State) (k : Nat) : State := { s with jobs := s.jobs.filter (fun j => j.id != k) }

/-! ### Leaves (R187, R189) -/

/-- A leaf handed out and not released is burned. -/
def burnLeaf (s : State) (j : Job) : State :=
  match j.leaf, j.keys with
  | some _, k :: _ =>
    match k.src with
    | .slot i g =>
      match leafFor s i g with
      | some (rid, _) => modTree s rid (fun t => { t with burned := t.burned + 1, dirty := true })
      | none => s
    | _ => s
  | _, _ => s

/-! ### Latency bounds (R35, R480, R485) -/

/-- Block bytes, cycles per block, and the shape of a hash identifier: 0 SHA-2, 1 Keccak, 2 HMAC, 3 KMAC (R170, R280). -/
def hashBlock (h : Nat) : Nat × Nat × Nat :=
  match h with
  | 0x01 => (64, 68, 0)
  | 0x02 => (128, 84, 0)
  | 0x03 => (128, 84, 0)
  | 0x05 => (104, 28, 1)
  | 0x06 => (72, 28, 1)
  | 0x07 => (168, 28, 1)
  | 0x09 => (168, 28, 1)
  | 0x11 => (64, 68, 2)
  | 0x12 => (128, 84, 2)
  | 0x13 => (128, 84, 2)
  | 0x18 => (168, 28, 3)
  | 0x19 => (136, 28, 3)
  | _ => (136, 28, 1)

/-- Blocks of a SHA-2 message of `n` bytes with its padding and length field. -/
def sha2Count (b n : Nat) : Nat := (n + (if b = 64 then 9 else 17) + b - 1) / b

/-- Bytes of a string as cSHAKE and KMAC encode it: its bytes behind the encoding of their number. -/
def encLen (n : Nat) : Nat := n + (if n < 32 then 2 else 3)

/-- Blocks of a Keccak message of `n` bytes with padding, and the further squeeze blocks of `out` bytes of output. -/
def keccakBlocks (b n out : Nat) : Nat := n / b + 1 + (max out 1 - 1) / b

/-- Blocks of one HMAC of a message of `n` bytes: an inner and an outer key block, for a longer key those of its hash first, the
message's, and the outer one (R286). -/
def hmacBlocks (b key n : Nat) : Nat := (if b < key then sha2Count b key else 0) + 2 + sha2Count b n + 1

/-- Blocks of a KMAC of `n` bytes with a customization of `cust` bytes: the prefix, the key, the message with the encoded output length, and
the squeeze blocks. -/
def kmacBlocks (b cust n out : Nat) : Nat := (8 + encLen cust + b - 1) / b + 1 + keccakBlocks b (n + (if out < 32 then 2 else 3)) out

/-- Blocks of an HKDF: the extract, and one HMAC for each output block of `h` bytes (R286). -/
def hkdfCount (b h salt info out : Nat) : Nat :=
  hmacBlocks b salt 32 +
    ((List.range ((out + h - 1) / h)).map (fun i => hmacBlocks b 32 ((if i = 0 then 0 else h) + info + 1))).sum

/-- Blocks of a group 0x05 job and the cycles each takes (R280, R286). -/
def digestBlocks (d : Desc) : Nat × Nat :=
  let h := hashBlock (byteAt d.params 0)
  let s := byteAt d.params 7
  match d.opcode with
  | 0x0500 =>
    let n := byteAt d.params 6
    let pre := if n + s = 0 then 0 else (2 + encLen n + encLen s + h.1 - 1) / h.1
    (if h.2.2 = 0 then sha2Count h.1 d.inLen else pre + keccakBlocks h.1 (d.inLen - n - s) (fieldLe d.params 2 4), h.2.1)
  | 0x0503 =>
    let part := byteAt d.params 16
    let out := if byteAt d.params 10 = 0 then 32 else fieldLe d.params 12 4
    if byteAt d.params 0 = 0 then (kmacBlocks 136 part (d.inLen - part) out, 28)
    else
      let g := hashBlock (byteAt d.params 1)
      (hkdfCount g.1 (if g.1 = 64 then 32 else 48) part (d.inLen - part) out, g.2.1)
  | _ =>
    let tag := fieldLe d.params 2 2
    let n := d.inLen - s - (if d.opcode = 0x0502 then tag else 0)
    (if h.2.2 = 2 then hmacBlocks h.1 32 n else kmacBlocks h.1 s n tag, h.2.1)

/-- Engine time in ns of the blocks of a group 0x05 job: 5 ns in 8 cycles (R284). A keyed state found in the cache spares its key blocks
(R286). -/
def digestNs (j : Job) : Nat := ((digestBlocks j.desc).1 - j.spared) * (digestBlocks j.desc).2 * 5 / 8

/-- The operation time R276 states for RSA_KEYGEN: at most 4 s, for the commands that generate an RSA key. -/
def rsaKeygenNs (d : Desc) : Nat :=
  if (d.opcode = 0x0200 ∨ d.opcode = 0x0400) ∧ byteAt d.params 1 = 6 then 4000000000 else 0

/-- The bound of a job in ns: 12 µs and the host's read latency beyond 0.4 µs (R541), 500 µs, 2 s; an LC2 job of group 0x05 adds the engine time of its blocks, one that generates an
RSA key the time of R276 (R35, R284, R480). -/
def jobBound (j : Job) : Nat :=
  match j.lc with
  | 0 => 12000 + j.slack
  | 1 => 500000
  | _ => 2000000000 + (if j.desc.opcode / 256 = 5 then digestNs j else rsaKeygenNs j.desc)

/-- CELL_JOBLIM of a job: what is left of its class's bound, in units of 1,024 cycles. -/
def jobLimOf (s : State) (j : Job) : Nat := min (2 ^ 32 - 1) ((j.since + jobBound j - s.uptime) * 8 / 5 / 1024)

/-- The job is past its bound. -/
def lateJob (s : State) (j : Job) : Bool := decide (j.since + jobBound j < s.uptime)

/-- OK becomes OK_BREACH with the rank of the breached guarantee (R31, R485). -/
def breach (s : State) (j : Job) (status detail : Nat) : Nat × Nat :=
  if status = stOk ∧ detail = 0 then
    if lateJob s j then (stBreach, 4) else if j.waitedLong ∧ j.jumped then (stBreach, 5) else (status, detail)
  else if status = stOk ∧ lateJob s j then (stBreach, 4) else (status, detail)

/-! ### The end of a job -/

/-- Engine time in cell cycles raises a slice's virtual time at a weight (R136). -/
def chargeSlice (s : State) (n weight cycles : Nat) : State :=
  modSlice s n (fun x => { x with vtime := x.vtime + (cycles : Rat) * 1000 / (max weight 1 : Nat) })

/-- Charge engine time to the slice's virtual time (R136). -/
def charge (s : State) (j : Job) (cycles : Nat) : State := chargeSlice s j.slice j.cfg.weight cycles

/-- A customer window holds an image that is not registered and that no job but `k` uses (R242, R243). -/
def staleWindow (s : State) (k : Nat) (c : Cell) : Bool :=
  match c.winTag with
  | some n =>
    (match mapGet none s.micro n with | some m => m.image != c.winImage | none => true) &&
      s.jobs.all (fun j => j.id == k || j.image != c.winImage)
  | none => false

/-- The customer window is cleared, with its tag. -/
def Cell.clearWindow (c : Cell) : Cell :=
  { c with store := mapFilter (fun a _ => decide (a < 0xC00)) c.store, winTag := none, winImage := [] }

/-- The cells that run the job are freed, but one: the job-end wipe (R200). A window whose image was unloaded goes with its last job. -/
def freeCellsBut (s : State) (k : Nat) (but : Option Nat) : State :=
  { s with cells := mapAll Cell.reset (fun n c =>
      let d := if c.job = some k ∧ but ≠ some n then c.wipe else c
      if staleWindow s k d then d.clearWindow else d) s.cells }

/-- The cells that run the job are freed. -/
def freeCells (s : State) (k : Nat) : State := freeCellsBut s k none

/-- KEEP_WITHIN_SLICE is in force for a request: the setting its job was admitted with (R118, R119); in MAINTENANCE every request is
wiped (R269). -/
def keepsH0 (s : State) (r : BneReq) : Bool :=
  bit ((getJob s r.job).elim (getSlice s r.slice).cfg (fun j => j.cfg)).settings 0 && s.chip.mode != .maintenance

/-- The requests of a BNE that satisfy `own` are abandoned: H0 is wiped under WIPE_EACH_JOB and left dirty under KEEP_WITHIN_SLICE; H1 is
wiped (R265, R266, R268). -/
def Bne.drop (e : Bne) (s : State) (own : BneReq → Bool) : Bne :=
  let e1 : Bne := { e with queue := e.queue.filter (fun r => !own r), held := e.held.filter (fun r => !own r) }
  let e2 := match e.run with
    | some r =>
      if own r then
        let x : Bne := { e1 with run := none, res := none, hashed := none }
        if keepsH0 s r then { x with dirty := true, h0 := none } else x.wipe0 s.uptime
      else e1
    | none => e1
  if e.long.any own then { e2.wipe1 s.uptime with long := none, longRes := none, longHashed := none } else e2

/-- The job's requests that satisfy `p` leave the BNEs, and the job the digest engines; a request running is dropped with it. -/
def freeBnesIf (s : State) (k : Nat) (p : BneReq → Bool) : State :=
  let own := fun (r : BneReq) => r.job == k && p r
  { s with blocks := mapAll Block.idle (fun _ b =>
      { b with
        bne := b.bne.drop s own,
        de := { b.de with
          waiting := b.de.waiting.filter (fun r => r.job != k),
          ctx := mapAll none (fun _ c => c.filter (fun x => x.req.job != k)) b.de.ctx,
          -- A context that is wiped takes its result registers with it (R289, R294).
          results := mapFilter (fun i _ => (mapGet none b.de.ctx i).all (fun x => x.req.job != k)) b.de.results,
          running := b.de.running.filter (fun i =>
            match mapGet none b.de.ctx i with | some x => x.req.job != k | none => true) } }) s.blocks }

/-- All the job's requests leave the engines. -/
def freeBnes (s : State) (k : Nat) : State := freeBnesIf s k (fun _ => true)

/-- Everything a job holds on engines and in the write queues is given back. -/
def freeEngines (s : State) (k : Nat) : State := dropWrites (freeBnes (freeCells s k) k) k

/-- A job of an Ephemeris event (R369): it belongs to no queue pair and writes no completion; its queue pair number is 4 and its TAG the
EVENT_ID. -/
def Job.ofEvent (j : Job) : Bool := decide (4 ≤ j.qp)

/-- The generation a PRECOMPUTE_POOL job filled is noted in its event: 0 where the keygen failed (R373). -/
def poolDone (s : State) (j : Job) (gen : Nat) : State :=
  let i := j.desc.tag.toNat % 2 ^ 16
  match mapGet none s.eph.events i with
  | some v =>
    let k := fieldLe j.desc.params 4 4 - v.spec.arg2 % 2 ^ 32
    if v.id = j.desc.tag.toNat then
      { s with eph := { s.eph with events := mapSet none s.eph.events i (some { v with gens := v.gens.set k gen }) } }
    else s
  | none => s

/-- The job passes its release point now, unless it has: TIME is taken, with the time flags of this moment (R20, R131). -/
def Job.release (s : State) (j : Job) : Job :=
  if j.isReleased then j else { j with released := some (now s), relFlags := timeFlags s }

/-- The UNIT of a job's completion: the KMAC unit or the management core that runs it, else the engine that produced the result (R131). -/
def Job.cplUnit (j : Job) : Nat :=
  if j.pos = .running unitKmac then unitKmac
  else if j.onChip || j.pos == .committing && j.unit == unitNone then unitMgmt else j.unit

/-- End a job with a completion: it leaves the device exactly once (R24). -/
def endJob (s : State) (j : Job) (c : Cpl) (cycles : Nat) (fault : Bool) : State :=
  let b := breach s j c.status c.detail
  let t := freeEngines s j.id
  let u := if j.isReleased || c.status == stOk || c.status == stBreach then t else burnLeaf t j
  let v := charge (dropJob u j.id) j cycles
  if j.ofEvent then poolDone v j (if c.status = stOk then c.result else 0)
  else writeCpl v j.slice j.qp j.desc.tag { c with status := b.1, detail := b.2 } fault

/-- No engine of a region has worked for the job: it waits for its first one, or a management core runs it. -/
def Job.unspent (j : Job) : Bool := j.onChip || (j.queued && j.replays == 0)

/-- Engine time, in cell cycles, of a job that ends without a report of it: a free value (R136). -/
def Job.spent (j : Job) : Nat := if j.unspent then 0 else (Config.freeWord 8 j.id).toNat

/-- End a job with an error status before release; the result is discarded. -/
def failJob (s : State) (j : Job) (status detail : Nat) (fault : Bool) : State :=
  endJob s j { Cpl.bare s status detail j.cplUnit with replays := j.replays } j.spent fault

/-! ### Replay (R28, R30, R31) -/

/-- The slice of the job is being reset or removed. -/
def resetting (s : State) (n : Nat) : Bool := (getSlice s n).state == .resetting

/-- The completion of the job ends a reset or removal in progress. -/
def isResetJob (s : State) (j : Job) : Bool := s.slices.any (fun e => e.2.resetRec.any (fun r => r.job == some j.id))

/-- The job as it begins again: nothing of the attempt is left. -/
def Job.again (j : Job) (checkFail : Bool) : Job :=
  { j with replays := j.replays + 1, checkFails := j.checkFails + b2n checkFail, res := none, leaf := none, writes := 0,
           saved := if j.onChip || decide (4 ≤ j.region) then j.saved else [], parked := false, second := none, twin := none, vals := none, spared := 0, got := 0,
           avoid := if j.unit < 0xA0 then some j.unit else none }

/-- Region `r` has a unit in service of the kind of unit `u` beside it: another cell, BNE or digest engine (R28, R278, R294). -/
def otherUnit (s : State) (r u : Nat) : Bool :=
  if u < 0x80 then (List.range 32).any (fun i => 32 * r + i != u && cellServes s (32 * r + i))
  else if u < 0x90 then (List.range 4).any (fun i => 0x80 + (4 * r + i) != u && bneServes s (4 * r + i))
  else if u < 0xA0 then (List.range 4).any (fun i => 0x90 + (4 * r + i) != u && blockServes s (4 * r + i))
  else true

/-! ### The second cell (R25, R27) -/

/-- The cell of a dual encapsulation's first execution, or of the attempt whose signature is to be verified (R25, R27). -/
def Job.firstCell (j : Job) : Option Nat :=
  match j.pos with
  | .running u => if j.dual ∧ u < 128 then some u else none
  | .onBne _ => if j.dual ∧ j.unit < 128 then some j.unit else none
  | .staged true => some j.unit
  | _ => none

/-- A cell of block `b` is in service. -/
def blockHasCell (s : State) (b : Nat) : Bool := (List.range 8).any (fun i => cellServes s (8 * b + i))

/-- Cell `c` may run the verification of the signature cell `f` produced: any other cell (R25). -/
def checksOn (f c : Nat) : Bool := c != f

/-- Cell `c` may run the second execution of a dual encapsulation beside cell `f`: in another block of the region; if there is none in
service, in another region; if there is none, another cell of the block; if there is none, the same cell afterwards (R27). -/
def dualsOn (s : State) (j : Job) (f c : Nat) : Bool :=
  let r := f / 32
  let near := fun b => b / 4 == r && b != f / 8 && blockHasCell s b
  let far := fun b => b / 4 != r && blockHasCell s b
  if (List.range 16).any near then near (c / 8)
  else if (List.range 16).any far then far (c / 8)
  else if (List.range 8).any (fun i => 8 * (f / 8) + i != f && cellServes s (8 * (f / 8) + i)) then c / 8 == f / 8 && c != f
  else c == f && j.pos == .staged true

/-- A hybrid encapsulation has the cells its executions need: one, or two in the dual case where there is a second (R168). -/
def secondReady (s : State) (j : Job) : Bool := !j.dual || j.second.isSome || dualsOn s { j with pos := .staged true } j.unit j.unit

/-- The block whose BNE serves the second execution. -/
def Job.twinBlock (j : Job) : Nat := j.second.getD j.unit / 8

/-! ### Replays -/

/-- A job whose region has no other unit for its replay goes to another region while one has room (R278). -/
def placeAway (s : State) (r : Nat) (j : Job) : Job :=
  match leastOf (fun k => k != r && regionRoom s k j.lc) (fun k => regionLoad s k j.lc) (List.range 4) with
  | some k => { j with pos := .region k, region := k, block := 16, unit := unitNone }
  | none => placeJob s j

/-- Replay a job, or end it when it has made its four attempts, or squash it when its slice is being reset. A job past its
release point is not touched (R23). -/
def replayJob (s : State) (j : Job) (checkFail : Bool) : State :=
  if j.isReleased then s
  else if resetting s j.slice ∧ !isResetJob s j then failJob s j eAborted 0 false
  else if 3 ≤ j.replays then
    failJob s j (if j.checkFails + b2n checkFail = 4 then eSelfCheck else eRetryExhausted) 0 false
  else
    let t := burnLeaf (freeEngines s j.id) j
    let a := j.again checkFail
    if j.onChip then putJob t { a with pos := j.pos }
    else if j.pos = .committing ∧ 4 ≤ j.region then putJob t { a with pos := .running unitMgmt }
    else if !otherUnit t j.region j.unit then putJob t (placeAway t j.region a)
    else if regionRoom t j.region j.lc then putJob t { a with pos := .region j.region, block := 16, unit := unitNone }
    else putJob t (placeJob t a)

/-- Re-queue a job that waits for an engine and is not on one; it is not a replay (R30). -/
def requeueJob (s : State) (j : Job) : State :=
  if regionRoom s j.region j.lc then putJob s { j with pos := .region j.region, block := 16 }
  else putJob s (placeJob s j)

/-- Apply an operation to every job that satisfies `p`. -/
def forJobs (p : Job → Bool) (f : State → Job → State) (s : State) : State :=
  (s.jobs.filter p).foldl (fun t j => match getJob t j.id with | some j' => f t j' | none => t) s

/-! ### Volatile results (R143) -/

/-- The key of an index of a slice's volatile table. -/
def volKey (n kind i : Nat) : Nat := (4 * n + kind) * 2 ^ 24 + i

/-- The generation of an index of a volatile table (R143, R144): it starts at a BOOT from a free value. -/
def volGen (s : State) (n kind i : Nat) : Nat :=
  (Config.freeGen s.chip.boots (volKey n kind i)).toNat + (getVol s (volKey n kind i)).bumps + (getSlice s n).volBump

/-- The handle of an index (R141). -/
def mkHandle (kind n i gen : Nat) : W64 :=
  BitVec.ofNat 64 (n * 2 ^ 58 + kind * 2 ^ 56 + i * 2 ^ 32 + gen % 2 ^ 16 * 2 ^ 16)

/-- The present handle of a key of the volatile tables. -/
def volHandle (s : State) (k : Nat) : W64 :=
  let n := k / 2 ^ 24 / 4
  let kind := k / 2 ^ 24 % 4
  mkHandle kind n (k % 2 ^ 24) (volGen s n kind (k % 2 ^ 24))

/-- The derived handles whose chain leads through one of a list, one level further for each step of fuel (R154, R156). -/
def descendants (s : State) : Nat → List W64 → List W64
  | 0, hs => hs
  | n + 1, hs =>
    let next := s.vols.filterMap (fun e => if e.2.full && e.2.src.isSome && hs.contains e.2.parent then some (volHandle s e.1) else none)
    hs ++ descendants s n next

/-- A key ends: it and every descendant are stale from now on, and their cache entries go once the jobs admitted before have ended
(R143, R152, R156, R334). -/
def endKey (s : State) (h : W64) : State :=
  let dead := descendants s 6 [h]
  -- A binding ends with its base key (R390, R396).
  let n := h.toNat / 2 ^ 58
  let s := (List.range 16).foldl (fun t b =>
    if bindingOf s n b ≠ 0 ∧ dead.contains (bindingOf s n b) then requestWrite t 4 { job := none, op := .binding n b 0 } else t)
    (scrubLane s n dead.contains)
  { s with
    vols := mapAll VolEnt.empty (fun k e => if e.full && dead.contains (volHandle s k) then { VolEnt.empty with bumps := e.bumps } else e) s.vols,
    slices := mapAll Slice.absent (fun n x =>
      { x with hbmMib := x.hbmMib - (s.vols.map (fun e =>
          if e.1 / 2 ^ 24 / 4 = n ∧ e.2.full ∧ dead.contains (volHandle s e.1) then e.2.hbmMib else 0)).sum }) s.slices,
    scrubs := s.scrubs ++ [{ handle := h, before := s.nextJob, expOnly := false }] }

/-- A fill replaces the key its index holds: that key ends (R143). -/
def replaceKey (n : Nat) (s : State) (f : VolFill) : State :=
  if (getVol s (volKey n f.kind f.index)).full then endKey s (volHandle s (volKey n f.kind f.index)) else s

/-- The slice of a handle. -/
def hSlice (h : W64) : Nat := bits h.toNat 63 58
/-- The kind: 0 slot, 1 derived, 2 peer-public, 3 ephemeral. -/
def hKind (h : W64) : Nat := bits h.toNat 57 56
/-- The index. -/
def hIndex (h : W64) : Nat := bits h.toNat 55 32
/-- The generation. -/
def hGen (h : W64) : Nat := bits h.toNat 31 16

/-- Indices of a kind (R142). -/
def kindRange : Nat → Nat
  | 0 => 262144
  | 2 => 16384
  | _ => 65536

/-- The volatile entry a handle names at its present generation. -/
def volOf (s : State) (h : W64) : Option VolEnt :=
  let e := getVol s (volKey (hSlice h) (hKind h) (hIndex h))
  if hKind h ≠ 0 ∧ e.full ∧ volHandle s (volKey (hSlice h) (hKind h) (hIndex h)) = h then some e else none

/-- The key a derived key was made from is still the one its handle names: LIVE, or withdrawn (R152, R153). -/
def parentLive (s : State) (h : W64) : Bool :=
  if hKind h = 0 then
    let e := slotEnt s (hIndex h)
    (e.state == 1 || e.state == 3) && e.gen == hGen h && e.slice == hSlice h
  else (volOf s h).isSome

/-- The parent was withdrawn, or comes from a slot that was (R153). -/
def parentCorrupt (s : State) (h : W64) : Bool :=
  if hKind h = 0 then (slotEnt s (hIndex h)).state == 3 else (volOf s h).any (fun e => e.corrupt)

/-- Fill an index. A derived key whose ancestor ended meanwhile is stale at once (R152, R156); one whose slot was withdrawn is refused (R153). -/
def fillVol (n : Nat) (s : State) (f : VolFill) : State :=
  let child := f.src.isSome && f.kind == 1
  if child ∧ !parentLive s f.parent then modVol s (volKey n f.kind f.index) (fun e => { VolEnt.empty with bumps := e.bumps + 1 })
  else
  let t := modVol s (volKey n f.kind f.index) (fun e =>
    { bumps := e.bumps + 1, full := true, alg := f.alg, policy := f.policy, value := f.value, pub := f.pub,
      depth := f.depth, parent := f.parent, label := f.label, src := f.src, created := now s, rooted := f.rooted,
      hbmMib := f.hbmMib, corrupt := child && parentCorrupt s f.parent })
  modSlice t n (fun x => { x with hbmMib := x.hbmMib + f.hbmMib })

/-- Descriptor flags (R128). -/
def Job.hdm (j : Job) : Bool := j.desc.flags.testBit 3
/-- DUAL asked by the descriptor or forced by the slice (R118). -/
def Desc.dual (d : Desc) : Bool := d.flags.testBit 2

/-- Write bytes to the HDM window: a line written whole carries a good tag. -/
def hdmWrite (s : State) (a : Nat) (bs : List Byte) : State :=
  { s with hdm := { s.hdm with
      mem := bytesSet s.hdm.mem a bs,
      poison := mapFilter (fun l _ => decide (l * 64 < a) || decide (a + bs.length < l * 64 + 64)) s.hdm.poison } }

/-- The output writes of a released result: to host memory as posted writes, or to the slice's aperture (R97); nothing is written outside an
aperture (R96). -/
def putOutput (s : State) (j : Job) (bs : List Byte) : State :=
  if bs = [] ∨ j.ofEvent then s
  else if j.hdm ∧ (getSlice s j.slice).apSize * 2 ^ 30 < j.desc.outAddr + bs.length then s
  else if j.hdm then hdmWrite s ((getSlice s j.slice).apOff * 2 ^ 30 + j.desc.outAddr) bs
  else emit s (.dmaWrite j.slice j.qp (qpPasid s j.slice j.qp) j.desc.outAddr bs)

/-- The bytes of a result that reach the host: a write that fails translation ends the output there (R102). -/
def sentBytes (j : Job) (bs : List Byte) (cut : Option Nat) : List Byte :=
  match cut with
  | some n => if j.hdm then bs else bs.take n
  | none => bs

/-! ### The expanded-key cache of a region (R158 to R160) -/

/-- The capacity of a region's cache in KiB. -/
def expCap : Nat := 2 * 2 ^ 20

/-- Weights of the ACTIVE slices. -/
def activeWeight (s : State) : Nat := (s.slices.map (fun e => if e.2.state = .active then e.2.cfg.weight else 0)).sum

/-- A handle and the handles its chain leads through, nearest first. -/
def chainOf (s : State) : Nat → W64 → List W64
  | 0, _ => []
  | n + 1, h =>
    h :: (match volOf s h with
      | some e => if hKind h = 1 then chainOf s n e.parent else []
      | none => [])

/-- The share of a slice in KiB (R159). -/
def expShare (s : State) (n : Nat) : Nat :=
  if (getSlice s n).state = .active then expCap * (getSlice s n).cfg.weight / max (activeWeight s) 1 else 0

/-- KiB the entries of a list take that satisfy `p`. -/
def expUse (l : List ExpEnt) (p : ExpEnt → Bool) : Nat := ((l.filter p).map (fun e => e.size)).sum

/-- The least recently used entry that satisfies `p`. -/
def lruExp (l : List ExpEnt) (p : ExpEnt → Bool) : Option ExpEnt :=
  (l.filter p).foldl (fun a e => match a with | none => some e | some m => if e.used < m.used then some e else some m) none

/-- Evict until `size` KiB fit: from a slice above its share, else from the slice that needs the room. -/
def makeRoom (s : State) (n size : Nat) : Nat → List ExpEnt → List ExpEnt
  | 0, l => l
  | k + 1, l =>
    if expUse l (fun _ => true) + size ≤ expCap then l
    else
      let above := fun (e : ExpEnt) => !e.pinned && decide (expShare s e.slice < expUse l (fun x => x.slice == e.slice))
      match (match lruExp l above with | some e => some e | none => lruExp l (fun e => !e.pinned && e.slice == n)) with
      | some v => makeRoom s n size k (l.filter (fun e => e.handle != v.handle))
      | none => l

/-- Byte `i` of the expanded form of a key (R158): the private form of an RSA key, else the device's own layout. -/
def formByte (a : Nat) (key : List Byte) (i : Nat) : Byte :=
  if a / 256 = 6 then Config.stdByte .rsaPrivate [leBytes 2 a, key] i else Config.stdByte .expanded [leBytes 2 a, key] i

/-- Bytes of an expanded-key cache entry: what microcode stored there, else the form of its key, in the device's own layout (R158, R216). -/
def ExpEnt.bytes (e : ExpEnt) (off n : Nat) : List Byte :=
  (List.range n).map (fun i =>
    (mapGet none e.stored (off + i)).getD (formByte e.alg e.key (off + i)))

/-- Bytes stored into an expanded-key cache entry. -/
def ExpEnt.store (e : ExpEnt) (off : Nat) (bs : List Byte) : ExpEnt :=
  { e with stored := ((List.range bs.length).zip bs).foldl (fun m p => mapSet none m (off + p.1) (some p.2)) e.stored }

/-- The entry of a key in region `r`. -/
def expEntOf (s : State) (r : Nat) (h : W64) : Option ExpEnt := (getRegion s r).expanded.find? (fun e => e.handle == h)

/-- Build a key's expanded form in region `r`, or note its use. -/
def expand (s : State) (n r : Nat) (h : W64) (alg : Nat) (key : List Byte) (size : Nat) : State :=
  modRegion s r (fun x =>
    if x.expanded.any (fun e => e.handle == h) then
      { x with expanded := x.expanded.map (fun e => if e.handle = h then { e with used := s.uptime } else e) }
    else
      let l := makeRoom s n size x.expanded.length x.expanded
      if expUse l (fun _ => true) + size ≤ expCap then
        { x with expanded := l ++ [{ handle := h, slice := n, alg, key, stored := [], chain := (chainOf s 8 h).tail, size, pinned := false, used := s.uptime }] }
      else x)

/-- The forms an attempt used or built enter the cache (R18, R21): that of the peer the job fills, under the handle it has now. -/
def keepForm (n : Nat) (fills : List VolFill) (s : State) (f : FormUse) : State :=
  match f.handle with
  | some h => expand s n f.region h f.alg f.key f.size
  | none =>
    match fills with
    | v :: _ => expand s n f.region (volHandle s (volKey n v.kind v.index)) f.alg f.key f.size
    | [] => s

/-- Finish a job from its staged result (R23): volatile indices fill, expanded forms are kept, the output goes out, then the completion. -/
def finishJob (s : State) (j : Job) (r : JobRes) (io : JobIo) : State :=
  let j := j.release s
  let s0 := r.fills.foldl (fun t f => fillVol j.slice (replaceKey j.slice t f) f) s
  let s1 := r.forms.foldl (keepForm j.slice r.fills) s0
  let bs := sentBytes j r.out io.outFault
  let bad := decide (bs.length < r.out.length)
  let s2 := putOutput s1 j bs
  let c : Cpl :=
    { status := if bad then eDmaFault else r.status, detail := if bad then 0 else r.detail,
      outLen := if r.status = eCapacity then r.outNeed else bs.length,
      -- A command that fills an index returns the generation the index takes (R143).
      result := (match r.fills with | f :: _ => (volGen s j.slice f.kind f.index + 1) % 2 ^ 16 | [] => r.result),
      time := j.released.getD 0, guarantee := r.guarantee + j.relFlags + 64 * b2n (j.hdm && decide (0 < r.out.length)),
      unit := j.cplUnit, replays := j.replays }
  endJob s2 j c io.cycles io.cplFault

/-- A result with a status and nothing else. -/
def JobRes.status0 (st detail : Nat) : JobRes :=
  { status := st, detail, out := [], outNeed := 0, result := 0, guarantee := 0, fills := [], slot := none, forms := [], spoilt := false }

/-- A result of bytes and a RESULT value. -/
def JobRes.done (out : List Byte) (result : Nat) : JobRes :=
  { status := stOk, detail := 0, out, outNeed := 0, result, guarantee := 0, fills := [], slot := none, forms := [], spoilt := false }

/-- The result as released: one that does not fit its OUT_CAP becomes E_CAPACITY with the length needed (R129). -/
def JobRes.fit (r : JobRes) (cap : Nat) : JobRes :=
  if r.status = stOk ∧ cap < r.out.length then { JobRes.status0 eCapacity 0 with outNeed := r.out.length } else r

end Sys2Proof.Machine
end

