-- ==== Sys2Proof/Machine/FaultOps.lean ====
section
/-! DEFINITION. Fault handling: the source table (R467), units (R468), severities (R465, R466), records and merging (R471 to
R474), fencing (R469), escalation (R470) and FATAL (R479). -/

namespace Sys2Proof.Machine

/-! ### Sources (R467) -/

/-- A row of the source table: the level (0 cell, 1 block, 2 region, 3 chip, 4 BNE, 5 key-lane PHY, 6 any power domain, 7 cell,
block or region, 8 block or region), the default severity and the allowed severities. -/
structure SrcRow where
  src : Nat
  level : Nat
  dflt : Nat
  allowed : List Nat
  deriving DecidableEq, Repr

/-- The source table. -/
def srcTable : List SrcRow :=
  [⟨0x01, 0, 2, [0, 1, 2, 3]⟩, ⟨0x02, 0, 2, [0, 1, 2, 3]⟩, ⟨0x03, 0, 2, [2, 3, 4]⟩, ⟨0x04, 0, 2, [2, 3, 4]⟩,
   ⟨0x05, 0, 2, [0, 1, 2, 3]⟩, ⟨0x06, 0, 0, [0, 2]⟩, ⟨0x07, 7, 1, [1, 2, 3]⟩, ⟨0x08, 6, 2, [2]⟩, ⟨0x09, 0, 0, [0]⟩,
   ⟨0x10, 1, 2, [2]⟩, ⟨0x11, 1, 2, [2, 3, 4]⟩, ⟨0x12, 1, 1, [0, 1]⟩, ⟨0x13, 1, 2, [2, 3, 4]⟩, ⟨0x14, 1, 2, [2, 3, 4]⟩] ++
  [⟨0x15, 4, 1, [1, 2, 3]⟩, ⟨0x16, 4, 1, [0, 1]⟩, ⟨0x17, 4, 1, [1, 2, 3]⟩, ⟨0x18, 1, 1, [1, 2, 3]⟩, ⟨0x19, 8, 1, [1, 2, 3]⟩,
   ⟨0x20, 2, 2, [2]⟩, ⟨0x21, 2, 2, [2, 4]⟩, ⟨0x22, 2, 2, [2, 4]⟩, ⟨0x23, 2, 1, [0, 1]⟩, ⟨0x24, 2, 1, [1, 2, 4]⟩,
   ⟨0x25, 2, 2, [2, 4]⟩, ⟨0x26, 2, 1, [1, 2, 4]⟩, ⟨0x27, 2, 2, [2, 4]⟩, ⟨0x28, 2, 0, [0, 2]⟩, ⟨0x29, 2, 1, [1, 2, 4]⟩] ++
  [⟨0x30, 3, 2, [2, 4]⟩, ⟨0x31, 3, 4, [4]⟩, ⟨0x32, 3, 4, [4]⟩, ⟨0x33, 3, 0, [0, 4]⟩, ⟨0x34, 3, 0, [0, 4]⟩,
   ⟨0x35, 3, 0, [0, 4]⟩, ⟨0x36, 3, 1, [0, 1]⟩, ⟨0x37, 3, 0, [0]⟩, ⟨0x38, 3, 1, [1, 4]⟩, ⟨0x39, 5, 2, [2, 4]⟩,
   ⟨0x3A, 3, 4, [4]⟩, ⟨0x3B, 3, 4, [4]⟩, ⟨0x3C, 3, 4, [4]⟩, ⟨0x3D, 3, 0, [0, 4]⟩]

/-- The row of a source. -/
def srcRow (src : Nat) : Option SrcRow := srcTable.find? (fun r => r.src == src)

/-- The severity of a source at this moment: its override, else its default (R466). -/
def severityOf (s : State) (src : Nat) : Nat :=
  let o := mapGet 0 s.flt.recov.severity src
  if o = 0 then (match srcRow src with | some r => r.dflt | none => 0) else o - 1

/-! ### Units (R468) -/

/-- The bit index of a unit number that can be fenced. -/
def unitBit (u : Nat) : Option Nat :=
  if u < 0x80 then some u
  else if 0x80 ≤ u ∧ u < 0x90 then some (128 + (u - 0x80))
  else if 0x90 ≤ u ∧ u < 0x94 then some (144 + (u - 0x90))
  else if 0xD0 ≤ u ∧ u < 0xE0 then some (148 + (u - 0xD0))
  else if 0xE0 ≤ u ∧ u < 0xE8 then some (164 + (u - 0xE0))
  else if 0xA0 ≤ u ∧ u < 0xA2 then some (172 + (u - 0xA0))
  else none

/-- The unit number of a bit index. -/
def unitNo (k : Nat) : Nat :=
  if k < 128 then k
  else if k < 144 then 0x80 + (k - 128)
  else if k < 148 then 0x90 + (k - 144)
  else if k < 164 then 0xD0 + (k - 148)
  else if k < 172 then 0xE0 + (k - 164)
  else 0xA0 + (k - 172)

/-- A unit number of R468. -/
def unitKnown (u : Nat) : Bool := (unitBit u).isSome || u == 0xB0 || (decide (0xC0 ≤ u) && decide (u ≤ 0xC5))

/-- The handler of a unit's own level: the cell's, the block's (a BNE's too), the region's, else the chip's. -/
def handlerOf (u : Nat) : Nat :=
  if u < 0x80 then 21 + u
  else if u < 0x90 then 5 + (u - 0x80)
  else if 0x90 ≤ u ∧ u < 0x94 then 1 + (u - 0x90)
  else if 0xD0 ≤ u ∧ u < 0xE0 then 5 + (u - 0xD0)
  else 0

/-- The handler that fences the unit of a bit index: that of the level above it. -/
def fencerOf (k : Nat) : Nat :=
  if k < 128 then 5 + k / 8
  else if k < 144 then 1 + (k - 128) / 4
  else if 148 ≤ k ∧ k < 164 then 5 + (k - 148)
  else 0

/-- Whether a source may be raised by a unit. -/
def srcUnitOk (src u : Nat) : Bool :=
  match srcRow src with
  | none => false
  | some r =>
    match r.level with
    | 0 => decide (u < 0x80)
    | 1 => decide (0x80 ≤ u) && decide (u < 0x90)
    | 2 => decide (0x90 ≤ u) && decide (u < 0x94)
    | 4 => decide (0xD0 ≤ u) && decide (u < 0xE0)
    | 5 => decide (0xE0 ≤ u) && decide (u < 0xE8)
    | 6 => decide (u < 0x94) || (decide (0xE0 ≤ u) && decide (u < 0xE8))
    | 7 => decide (u < 0x94)
    | 8 => decide (0x80 ≤ u) && decide (u < 0x94)
    | _ =>
      match src with
      | 0x30 => u == 0xA0 || u == 0xA1
      | 0x34 => u == 0xC0
      | 0x35 => u == 0xC0
      | 0x36 => u == 0xC0
      | 0x3A => u == 0xC1
      | 0x38 => u == 0xC2
      | 0x3B => u == 0xC3
      | 0x3D => u == 0xC4
      | 0x3C => u == 0xB0
      | _ => u == 0xC5

/-! ### Records (R471) -/

/-- The 32 bytes of a record. -/
def FaultRec.bytes (r : FaultRec) : List Byte :=
  leBytes 1 r.src ++ leBytes 1 r.severity ++ leBytes 2 r.unit ++ leBytes 2 r.merged ++ leBytes 1 r.lastSrc ++
    leBytes 1 (1 + 2 * b2n r.acted + 4 * b2n r.replayed + 8 * b2n r.failed) ++ leBytes 8 r.time ++ leBytes 8 r.info ++
    leBytes 1 r.slice ++ leBytes 1 (min r.replays 255) ++ [0, 0] ++ leBytes 4 r.seq

/-- Change a record in the history and, when it is the same one, the first-error record. -/
def Handler.modRec (h : Handler) (seq : Nat) (f : FaultRec → FaultRec) : Handler :=
  { h with hist := h.hist.map (fun r => if r.seq = seq then f r else r),
           first := h.first.map (fun r => if r.seq = seq then f r else r) }

/-- Write a record to the event log; LOG and CORRECT at most 16 times a second for each source and unit (R474). -/
def logFault (s : State) (r : FaultRec) : State :=
  let k := r.src * 65536 + r.unit
  let q := mapGet ({ times := [], held := 0 } : FltRate) s.flt.rate k
  let ts := q.times.filter (fun t => decide (s.uptime < t + 1000000000))
  let put := fun (x : State) (v : FltRate) =>
    { x with flt := { x.flt with rate := mapSet ({ times := [], held := 0 } : FltRate) x.flt.rate k v } }
  if r.severity ≤ 1 ∧ 16 ≤ ts.length then put s { times := ts, held := q.held + 1 }
  else
    put (logEvent s r.unit (0x0200 + r.src) r.severity (r.bytes ++ leBytes 4 q.held)) { times := ts ++ [s.uptime], held := 0 }

/-- SMBALERT# asserts when the chip's first-error record has changed (R114). -/
def noteFirst (s t : State) : State := if (getHandler t 0).first = (getHandler s 0).first then t else smbAlert t

/-- A fault reaches handler `h`: it is merged into the record being handled, or a record is created (R472, R473). `todo` are
the units whose action is outstanding; with none the record is ACTED at once. -/
def record (s : State) (h : Nat) (r : FaultRec) (todo : List Nat) : State :=
  let x := getHandler s h
  match x.handling with
  | some (q, us) =>
    noteFirst s (modHandler s h (fun x =>
      { x.modRec q (fun o => { o with merged := satInc 0xFFFF o.merged, lastSrc := r.src, severity := max o.severity r.severity,
                                      replays := o.replays + r.replays, replayed := o.replayed || r.replayed,
                                      failed := o.failed || r.failed })
        with handling := some (q, us ++ todo) }))
  | none =>
    let q := x.count + 1
    let r' := { r with seq := q, acted := todo.isEmpty }
    let t := modHandler s h (fun x =>
      { first := (match x.first with | some f => some f | none => some r'),
        hist := (r' :: x.hist).take 16, count := q, handling := if todo.isEmpty then none else some (q, todo) })
    let u := logFault t r'
    if h = 0 then vecFault (noteFirst s u) else u

/-- A unit's action is complete: ACTED sets when no action of the record is left (R473). -/
def actedIn (s : State) (h k : Nat) : State :=
  match (getHandler s h).handling with
  | some (q, us) =>
    let us' := us.erase k
    noteFirst s (modHandler s h (fun x =>
      if us' = [] then { x.modRec q (fun r => { r with acted := true }) with handling := none }
      else { x with handling := some (q, us') }))
  | none => s

/-- A fresh record of a fault. -/
def newRec (s : State) (src sev u info : Nat) (js : List Job) : FaultRec :=
  { src, severity := sev, unit := u, merged := 0, lastSrc := 0, acted := true, replayed := !js.isEmpty, failed := false,
    time := now s, info, slice := (match js with | j :: _ => j.slice | [] => 0xFF), replays := js.length, seq := 0 }

/-! ### Recoveries (R476, R477) -/

/-- An entry lies inside the recovery window. -/
def entInside (s : State) (sec : Nat) : Bool :=
  sec == 0 || !s.tb.set || decide (s.tb.time / 1000000000 < sec + s.flt.recov.window * 3600)

/-- Recoveries of a unit within WINDOW. -/
def recoveries (s : State) (u : Nat) : Nat :=
  (s.flt.recov.ents.filter (fun e => match e.2 with | some (v, t) => v == u && entInside s t | none => false)).length

/-- The ring place a new recovery takes: an empty or expired entry, else the oldest. -/
def ringPlace (s : State) : Nat :=
  let e := fun k => mapGet none s.flt.recov.ents k
  match firstFrom (fun k => match e k with | some (_, t) => !entInside s t | none => true) 0 104 with
  | some k => k
  | none =>
    match leastOf (fun _ => true) (fun k => match e k with | some (_, t) => t | none => 0) (List.range 104) with
    | some k => k
    | none => 0

/-- The ledger record that holds ring entry `k`. -/
def ringRid (k : Nat) : Nat := if k < 20 then 4 else 5 + (k - 20) / 28

/-- The part of the recovery state that record `n` holds. -/
def recovPart (r : Recovery) (n : Nat) : Recovery :=
  let es := r.ents.filter (fun e => ringRid e.1 == n)
  if n = 4 then { r with ents := es } else { Recovery.initial with ents := es }

/-- Write the recovery records a change touches. -/
def saveRecov (s : State) (n : Nat) : State := requestWrite s 4 { job := none, op := .recovery n (recovPart s.flt.recov n) }

/-- Note the start of a recovery (R477). -/
def noteRecovery (s : State) (u : Nat) : State :=
  let k := ringPlace s
  let t := { s with flt := { s.flt with recov := { s.flt.recov with
    ents := mapSet none s.flt.recov.ents k (some (u, if s.tb.set then s.tb.time / 1000000000 else 0)) } } }
  saveRecov t (ringRid k)

/-! ### Scrubs and the jobs of a unit (R469) -/

/-- A BNE runs or holds a request of the job. -/
def Bne.has (e : Bne) (job : Nat) : Bool := (e.queue ++ e.held ++ e.run.toList ++ e.long.toList).any (fun r => r.job == job)

/-- The job's second cell satisfies `p`. -/
def Job.secondIs (j : Job) (p : Nat → Bool) : Bool := match j.second with | some c => p c | none => false

/-- A job is on the unit of bit index `k`: on its engines, or with its check or its second execution. -/
def jobOn (s : State) (k : Nat) (j : Job) : Bool :=
  if k < 128 then (j.assigned && j.unit == k && !j.queued) || j.secondIs (fun c => c == k)
  else if k < 144 then (j.assigned && j.block == k - 128 && !j.queued) || j.secondIs (fun c => c / 8 == k - 128)
  else if k < 148 then (j.region == k - 144 && !j.queued) || j.secondIs (fun c => c / 32 == k - 144)
  else if k < 164 then
    (j.assigned && (j.pos == .onBne (k - 148) || j.unit == 0x80 + (k - 148)) && !j.queued) || (getBlock s (k - 148)).bne.has j.id
  else false

/-- A job waits in the unit's queue. -/
def jobQueuedAt (k : Nat) (j : Job) : Bool :=
  if 128 ≤ k ∧ k < 144 then j.pos == .block (k - 128)
  else if 144 ≤ k ∧ k < 148 then
    (j.pos == .region (k - 144) || (match j.pos with | .block b => b / 4 == k - 144 | _ => false))
  else false

/-- A unit's domain: fencing below ACTIVE moves it straight to OFF (R506). -/
def domOff (s : State) (d : Nat) : State :=
  modDom s d (fun x => if x.state = 0 then x else { x with state := 4, entry := none, waking := none, checks := [] })

/-- A block's scrub: BNE operand memory, digest contexts, working-key and keyed-state caches. -/
def scrubBlock (s : State) (b : Nat) : State :=
  modBlock s b (fun x => { bne := x.bne.fresh, de := De.idle, cache := [] })

/-- A stateful key whose tree cache is lost (R186). -/
def Tree.rebuild (t : Tree) : Tree := { t with topReady := false, lowerReady := false, nextReady := false, percent := 0 }

/-- What lay in HBM is unreadable once its keys are gone (R46, R55, R142, R185): the volatile handle tables are empty, and tree caches must be
built again. -/
def loseHbm (s : State) : State :=
  { s with
    vols := mapAll VolEnt.empty (fun _ e => { VolEnt.empty with bumps := e.bumps }) s.vols,
    slices := mapAll Slice.absent (fun _ x => { x with hbmMib := 0 }) s.slices,
    trees := mapAll Tree.none (fun _ y => y.rebuild) s.trees }

/-- The two copies of what HBM holds for the whole device (R144, R185): a copy in a region that is not ONLINE is lost, the surviving one is
duplicated into another ONLINE region, and with none left the content is lost. DESIGN CHOICE (log entry 48): the lowest-numbered region. -/
def placeCopies (s : State) : State :=
  let live := s.copies.filter (regionOnline s)
  let others := (List.range 4).filter (fun r => regionOnline s r && !live.contains r)
  { (if live = [] then loseHbm s else s) with copies := (live ++ others).take 2 }

/-- A region's scrub: caches, and the content of its HBM stack (R96, R469). -/
def scrubRegion (s : State) (r : Nat) : State :=
  let t := placeCopies (modRegion s r (fun x => { x with cache := [], expanded := [] }))
  { t with hdm := { t.hdm with
      mem := mapFilter (fun a _ => decide (a / 4096 % 4 ≠ r)) t.hdm.mem,
      poison := mapFilter (fun l _ => decide (l * 64 / 4096 % 4 ≠ r)) t.hdm.poison } }

/-- The scrub of a unit. -/
def scrubUnit (s : State) (k : Nat) : State :=
  if k < 128 then domOff (modCell s k Cell.wipe) k
  else if k < 144 then domOff (scrubBlock s (k - 128)) k
  else if k < 148 then domOff ((List.range 4).foldl (fun t i => scrubBlock t (4 * (k - 144) + i)) (scrubRegion s (k - 144))) k
  else if k < 164 then modBne s (k - 148) Bne.fresh
  else if k < 172 then modPort (domOff s (k - 12)) (k - 164) (fun p =>
    -- A fenced port is disabled (R40, R466).
    { p with cache := [], tx := [], pendingMiss := [], credits := 16, expected := none, seals := none, rekey := false, epochFrame := none })
  else s

/-- A source ACTIVE under a processor whose domain is fenced returns to PENDING (R495). -/
def releaseProc (s : State) (p : Nat) : State :=
  icNotify { s with intc := { s.intc with
      src := mapAll IcSrc.idle (fun _ x =>
        if x.proc = p ∧ (x.state = .active ∨ x.state = .activePending) then { x with state := .pending } else x) s.intc.src } }

/-- The processor of a fenced unit loses its interrupts. -/
def unitProc (s : State) (k : Nat) : State :=
  if 128 ≤ k ∧ k < 144 then releaseProc s (k - 128)
  else if 144 ≤ k ∧ k < 148 then releaseProc s (16 + (k - 144))
  else if 172 ≤ k then releaseProc s (20 + (k - 172))
  else s

/-- Change the state of a unit; a region's change signals S00 (R99). -/
def setUnit (s : State) (k : Nat) (st : UnitState) : State :=
  let t := modUnit s k (fun x => { x with state := st })
  if 144 ≤ k ∧ k < 148 ∧ (getUnit s k).state ≠ st then vecRegion t else t

/-- Fence a unit (R469): no work is assigned to it, its jobs are replayed or re-queued, its state is scrubbed. ACTED follows by
FENCE_ACTED. -/
def fence (s : State) (k src : Nat) : State :=
  let t := modUnit (setUnit s k .fenced) k (fun x => { x with acting := true, quietFrom := none, src := src })
  let u := forJobs (jobQueuedAt k) requeueJob t
  let v := forJobs (jobOn u k) (fun x j => replayJob x j false) u
  unitProc (scrubUnit v k) k

/-- The unit goes to FAILED; the chip handler records the move (R472, R476). -/
def failUnit (s : State) (k src info : Nat) : State :=
  let t := modUnit (setUnit s k .failed) k (fun x => { x with acting := false, quietFrom := none, src := src })
  let u := { t with flt := { t.flt with recov := { t.flt.recov with failed := mapSet false t.flt.recov.failed k true } } }
  saveRecov (record u 0 { newRec u src 2 (unitNo k) info [] with failed := true } []) 4

/-! ### FATAL (R479, R110) -/

/-- FATAL takes effect: FAULT#, viral, AER; FATAL_HALT completes it. In HALT it adds nothing. -/
def goFatal (s : State) : State :=
  if s.flt.fatal then s
  else emit { s with flt := { s.flt with fatal := true }, pins := { s.pins with faultN := true },
                     chip := { s.chip with viral := true } } .aer

/-! ### Raising a fault (R465, R466, R470) -/

/-- Cells of block `b` that would be in service. -/
def cellsUp (s : State) (b : Nat) : Bool := (List.range 8).any (fun i => unitOnline s (8 * b + i))

/-- A region keeps a block, a cell, a BNE and a digest engine in service. -/
def regionUp (s : State) (r : Nat) : Bool :=
  let bs := (List.range 4).map (fun i => 4 * r + i)
  let up := fun b => unitOnline s (128 + b)
  bs.any up && bs.any (fun b => up b && cellsUp s b) && bs.any (fun b => up b && unitOnline s (148 + b) && !(getBlock s b).bne.out)

/-- The parent of a unit: a block for a cell or BNE, a region for a block. -/
def parentBit (k : Nat) : Option Nat :=
  if k < 128 then some (128 + k / 8)
  else if k < 144 then some (144 + (k - 128) / 4)
  else if 148 ≤ k ∧ k < 164 then some (128 + (k - 148))
  else none

/-- The jobs an uncorrectable HBM line reaches (R467): those on engines of the region, of the slice whose aperture holds the line; a line
outside the window may hold content of any of them. -/
def hbmReaches (s : State) (r addr : Nat) (j : Job) : Bool :=
  jobOn s (144 + r) j && (decide (s.hdm.size * 2 ^ 28 ≤ addr) ||
    (decide ((getSlice s j.slice).apOff * 2 ^ 30 ≤ addr) && decide (addr < ((getSlice s j.slice).apOff + (getSlice s j.slice).apSize) * 2 ^ 30)))

/-- An HBM line is uncorrectable or fails its tag (R15, R467): the line is poisoned, its page retired, and the jobs it reaches are replayed.
An address below the window size is an offset in the window. -/
def loseLine (s : State) (r addr : Nat) : State :=
  let t := forJobs (hbmReaches s r addr) (fun x j => replayJob x j false) s
  modRegion
    { t with hdm := { t.hdm with
        poison := if addr / 4096 % 4 = r ∧ addr < t.hdm.size * 2 ^ 28 then mapSet false t.hdm.poison (addr / 64) true else t.hdm.poison } }
    r (fun x => { x with retired := mapSet false x.retired (addr / 4096) true })

/-- The request that runs on BNE `b` is abandoned and its job replayed, on the BNE of another block (R258, R279). -/
def dropRunning (s : State) (b : Nat) : State :=
  let e := (getBlock s b).bne
  match (match e.run with | some r => some r | none => e.long) with
  | some r => (match getJob s r.job with | some j => replayJob s { j with unit := 0x80 + b } false | none => s)
  | none => s

/-- An uncorrectable error in a context of the digest engine of block `b` abandons that context's request (R294): its job is replayed, and a
BNE whose hashing request it was sets H0 dirty (R268). -/
def dropContext (s : State) (b n : Nat) : State :=
  match mapGet none (getBlock s b).de.ctx n with
  | none => s
  | some c =>
    match getJob s c.req.job with
    | none => s
    | some j =>
      if c.req.bne then modBne (replayJob s { j with unit := 0x80 + b } false) b (fun e => { e with dirty := true, h0 := none })
      else replayJob s j false

/-- The bit index of the unit whose jobs use a retained bank: for a half of a BNE's operand memory that BNE. -/
def bankUnit (k bank : Nat) : Nat := if 128 ≤ k ∧ k < 144 ∧ 32 ≤ bank then 148 + (k - 128) else k

/-- A retained bank is lost on wake (R505): it is scrubbed, a microstore bank reloaded, a BNE half set dirty, and the unreleased jobs that used
it are replayed. `k` is the bit index of the unit and the number of its domain. -/
def loseBank (s : State) (k bank : Nat) : State :=
  let t := modDom s k (fun y => { y with retLost := satInc 0xFF y.retLost })
  let u :=
    if k < 128 then modCell t k (fun c => if bank = 3 then c.clearWindow else c.reloadMaker (fun b => b == bank))
    else if k < 144 then
      (if 32 ≤ bank then modBne t (k - 128) (fun b =>
         if bank = 32 then { b with dirty := true, h0 := none, h0Mem := [], owner := none } else { b with dirty := true, h1Mem := [] })
       else modBlock t (k - 128) (fun b => { b with cache := [] }))
    else modRegion t (k - 144) (fun r => { r with cache := [] })
  forJobs (fun j => jobOn t (bankUnit k bank) j && !j.isReleased) (fun x j => replayJob x j false) u

/-- What a fault does beyond its severity, at every severity (R466, R467). INFO of a lost bank is its number, INFO of a digest context is its number, INFO of an uncorrectable cache entry that of the entry, a block's
keyed-state entries counting from 512 (DESIGN CHOICE, log entry 52). -/
def srcAction (s : State) (src u info : Nat) : State :=
  match src with
  | 0x01 | 0x02 | 0x03 | 0x04 => forJobs (jobOn s u) (fun x j => replayJob x j false) s
  | 0x07 => (match unitBit u with | some k => loseBank s k info | none => s)
  | 0x15 => dropRunning s (u - 0xD0)
  | 0x17 => modBne (dropRunning s (u - 0xD0)) (u - 0xD0) (fun b => { b with dirty := true, h0 := none })
  | 0x18 => dropContext s (u - 0x80) info
  | 0x19 =>
    if u < 0x90 then modBlock s (u - 0x80) (fun b =>
      if info < 512 then { b with cache := b.cache.eraseIdx info } else { b with de := { b.de with ksc := b.de.ksc.eraseIdx (info - 512) } })
    else modRegion s (u - 0x90) (fun r => { r with cache := r.cache.eraseIdx info })
  | 0x24 => loseLine s (u - 0x90) info
  | 0x29 => modRegion s (u - 0x90) (fun r => { r with expanded := [] })
  | _ => s

/-- The unreleased jobs that a fault replays (R471): those on the unit it fences, else those its source's own action reaches. -/
def replayedBy (s : State) (src u info : Nat) (target : Option Nat) : List Job :=
  let on := fun (k : Nat) => s.jobs.filter (fun j => jobOn s k j && !j.isReleased)
  let ofJob := fun (o : Option Nat) => (match o with | some i => (getJob s i).toList | none => [])
  match target with
  | some k => if unitOnline s k then on k else []
  | none =>
    match src with
    | 0x01 | 0x02 | 0x03 | 0x04 => on u
    | 0x07 => (match unitBit u with | some k => on (bankUnit k info) | none => [])
    | 0x15 | 0x17 => ofJob ((match (getBlock s (u - 0xD0)).bne.run with | some r => some r | none => (getBlock s (u - 0xD0)).bne.long).map BneReq.job)
    | 0x18 => ofJob ((mapGet none (getBlock s (u - 0x80)).de.ctx info).map (fun c => c.req.job))
    | 0x24 => s.jobs.filter (fun j => hbmReaches s (u - 0x90) info j && !j.isReleased)
    | _ => []

/-- Counts that lead beyond the severity: the third KMAC mismatch within a quiet period is FATAL, the third double-bit error of
a BNE fences it. The answer is the severity to apply. -/
def countUp (s : State) (src u sev : Nat) : State × Nat :=
  let inside := fun (t : Nat) => decide (s.uptime < t + s.flt.recov.quiet * 1000000)
  match src with
  | 0x38 =>
    let ts := s.flt.kmac.filter inside ++ [s.uptime]
    ({ s with flt := { s.flt with kmac := ts } }, if 3 ≤ ts.length then 4 else sev)
  | 0x17 =>
    let ts := (getBlock s (u - 0xD0)).bne.ueTimes.filter inside ++ [s.uptime]
    (modBne s (u - 0xD0) (fun b => { b with ueTimes := ts }), if 3 ≤ ts.length then max sev 2 else sev)
  | _ => (s, sev)

/-- A fault of a unit in its quiet period restarts the period (R475). -/
def requiet (s : State) (u : Nat) : State :=
  match unitBit u with
  | some k => if (getUnit s k).quietFrom.isSome then modUnit s k (fun x => { x with quietFrom := some s.uptime }) else s
  | none => s

/-- A fault of source `src` in unit `u`: recorded at its level, acted on by its severity, passed up where the level above cannot
contain it. `hit` are jobs replayed for it already; `fuel` bounds the levels it can climb. -/
def raiseN : Nat → State → List Job → Nat → Nat → Nat → State
  | 0, s, _, _, _, _ => s
  | fuel + 1, s, hit, src, u, info =>
    let c := countUp (requiet s u) src u (severityOf s src)
    let sev := c.2
    let js := hit ++ match unitBit u with | some k => c.1.jobs.filter (fun j => jobOn c.1 k j && !j.isReleased) | none => []
    -- The unit that is fenced, if any.
    let target :=
      if sev = 2 then unitBit u
      else if sev = 3 then (match unitBit u with | some k => parentBit k | none => none)
      else none
    let r := { newRec s src sev u info (hit ++ replayedBy c.1 src u info target) with slice := match js with | j :: _ => j.slice | [] => 0xFF }
    let fatalNow := sev == 4 || (sev == 3 && target.isNone)
    let todo := match target with | some k => if unitOnline s k then [k] else [] | none => []
    let own := handlerOf u
    let s1 := record (srcAction c.1 src u info) own r (match target with | some k => if fencerOf k = own then todo else [] | none => [])
    if fatalNow then goFatal (if own = 0 then s1 else record s1 0 r [])
    else
      match target with
      | none => s1
      | some k =>
        if !unitOnline s k then s1
        else
          let s2 := if fencerOf k = own then s1 else record s1 (fencerOf k) r todo
          let s3 := if src = 0x08 then actedIn (failUnit (fence s2 k src) k src info) (fencerOf k) k else fence s2 k src
          if k < 128 then
            (if unitOnline s3 (128 + k / 8) && !cellsUp s3 (k / 8) then raiseN fuel s3 [] 0x10 (0x80 + k / 8) 0 else s3)
          else if k < 144 then
            (if regionOnline s3 ((k - 128) / 4) && !regionUp s3 ((k - 128) / 4) then raiseN fuel s3 [] 0x20 (0x90 + (k - 128) / 4) 0
             else s3)
          else if k < 148 then
            (if (List.range 4).all (fun i => (getUnit s3 (144 + i)).state == .failed) then raiseN fuel s3 [] 0x32 0xC5 0 else s3)
          else if k < 164 then
            (if regionOnline s3 ((k - 148) / 4) && !regionUp s3 ((k - 148) / 4) then raiseN fuel s3 [] 0x20 (0x90 + (k - 148) / 4) 0
             else s3)
          else if 172 ≤ k then
            (if unitOnline s3 172 || unitOnline s3 173 then s3 else raiseN fuel s3 [] 0x31 0xC5 0)
          else s3

/-- Raise a fault. -/
def raiseFault (s : State) (src u info : Nat) : State := raiseN 6 s [] src u info

/-- Raise a fault for which a job has been replayed already. -/
def raiseFor (s : State) (j : Job) (src u info : Nat) : State := raiseN 6 s [j] src u info

/-- A region is declared FAILED outright (R45, R503). -/
def failRegion (s : State) (r src info : Nat) : State :=
  let t := failUnit s (144 + r) src info
  if (List.range 4).all (fun i => (getUnit t (144 + i)).state == .failed) then raiseFault t 0x32 0xC5 0 else t

/-- CELL_MCHK and CELL_FAULT_ADDR as the INFO of a cell's record (R471). -/
def cellInfo (c : Cell) : Nat := c.mCause * 2 ^ 28 + c.mPc / 1024 % 4 * 2 ^ 26 + c.mPc + c.fAddr.toNat * 2 ^ 32

end Sys2Proof.Machine
end

