-- ==== Sys2Proof/Machine/KeyOps.lean ====
section
/-! DEFINITION. Key values: the derivation rule and device keys (R315, R326), slot records and their checks (R320, R325),
handles (R141), epochs (R330) and the working-key caches (R332 to R334). -/

namespace Sys2Proof.Machine

/-! ### Derivation (R315, R326, R327) -/

/-- The child of a key under a 32-byte label. -/
def childKey (parent label : List Byte) : List Byte := kmac256 parent label 32 (ascii "FY4128-KDT")

/-- A label. -/
def mkLabel (ty usage : Nat) (ctx : List Byte) : List Byte := leBytes 2 ty ++ leBytes 2 usage ++ padTo 28 ctx

/-- A root-derived device key. -/
def deviceKey (s : State) (ty : Nat) (ctx : List Byte) : List Byte := childKey (rootSecret s) (mkLabel ty 0 ctx)

/-- The 512-bit AES-256-XTS key of the device data in the HBM stack of region `r`: its two halves (R15, R315). The model holds HBM content as
plaintext. -/
def hbmDeviceKey (s : State) (r : Nat) : List Byte :=
  deviceKey s 0xF004 [BitVec.ofNat 8 r, 0] ++ deviceKey s 0xF004 [BitVec.ofNat 8 r, 1]

/-- The coefficients of the share polynomials of an epoch at threshold M: a_1 to a_(M-1) (R316). -/
def shareCoefs (s : State) (epoch m : Nat) : List (List Byte) :=
  (List.range (m - 1)).map (fun j =>
    deviceKey s 0xF010 (leBytes 4 epoch ++ [BitVec.ofNat 8 (j + 1), BitVec.ofNat 8 m]))

/-- The share of the root at x (R316). -/
def rootShare (s : State) (epoch m x : Nat) : List Byte :=
  let cs := shareCoefs s epoch m
  (List.range 32).map (fun i =>
    BitVec.ofNat 8 (shareByte (byteAt (rootSecret s) i) (cs.map (fun c => byteAt c i)) x))

/-- The label of an epoch key (R330). -/
def epochLabel (e len : Nat) : List Byte := mkLabel 0x8001 0x0C02 (leBytes 8 e ++ leBytes 8 len)

/-- The epoch at an instant; none before the origin or without epochs (R330, R331). -/
def epochAt (c : SliceCfg) (t : Nat) : Option Nat :=
  if c.epochLength = 0 ∨ t < c.epochOrigin then none else some ((t - c.epochOrigin) / (c.epochLength * 1000000000))

/-- The Meridian that begins epoch `e`. -/
def meridian (c : SliceCfg) (e : Nat) : Nat := c.epochOrigin + e * c.epochLength * 1000000000

/-- Epoch `e` exists (R331). -/
def epochExists (c : SliceCfg) (e : Nat) : Bool := decide (meridian c e ≤ 0xFFFFFFFFFFFFFFFE)

/-! ### Slot records (R320, R322, R325) -/

/-- Bytes 0 to 239 of a slot record. -/
def slotHead (s : State) (n i gen alg policy origin created : Nat) (seed pubDigest : List Byte) : List Byte :=
  [1, BitVec.ofNat 8 n] ++ leBytes 2 alg ++ leBytes 2 policy ++ leBytes 1 seed.length ++ leBytes 1 origin ++ leBytes 2 gen ++
    [0, 0] ++ leBytes 4 i ++ leBytes 8 created ++ zeros8 ++ padTo 120 (kwpWrap (deviceKey s 0xF001 []) seed) ++
    padTo 32 pubDigest ++ List.replicate 56 0
where
  /-- Eight reserved bytes. -/
  zeros8 : List Byte := List.replicate 8 0

/-- The TAG of a slot record. -/
def slotTag (s : State) (head : List Byte) : List Byte := kmac256 (deviceKey s 0xF002 []) head 16 (ascii "FY4128-SLT")

/-- A whole slot record. -/
def slotRecord (s : State) (n i gen alg policy origin created : Nat) (seed pubDigest : List Byte) : List Byte :=
  let h := slotHead s n i gen alg policy origin created seed pubDigest
  h ++ slotTag s h

/-- Steps 1 to 3 of the check of a slot read. -/
def slotHeaderOk (s : State) (i : Nat) : Bool :=
  let b := slotBytes s i
  let e := slotEnt s i
  !mapGet false s.alm.slotBad i && sub b 240 16 == slotTag s (sub b 0 240) && byteAt b 0 == 1 && byteAt b 1 == e.slice &&
    fieldLe b 2 2 == e.alg && fieldLe b 4 2 == e.policy && fieldLe b 12 4 == i && fieldLe b 8 2 == e.gen

/-- The seed of a slot at a generation; none when the check fails. -/
def slotSeed (s : State) (i : Nat) : Option (List Byte) :=
  if slotHeaderOk s i then
    let b := slotBytes s i
    let n := byteAt b 6
    kwpUnwrap (deviceKey s 0xF001 []) (sub b 32 ((n + 7) / 8 * 8 + 8))
  else none

/-- The value of a key. -/
def keyValue (s : State) : KeySrc → Option (List Byte)
  | .value v => some v
  | .slot i _ => slotSeed s i
  | .child p l => (keyValue s p).map (fun v => childKey v l)

/-- The slot a key's value comes from. -/
def slotOf : KeySrc → Option Nat
  | .value _ => none
  | .slot i _ => some i
  | .child p _ => slotOf p

/-! ### Caches (R332 to R334) -/

/-- Keep the entries of a list that satisfy `p` in every working-key cache. -/
def filterCaches (s : State) (p : CacheEnt → Bool) : State :=
  { s with
    blocks := mapAll Block.idle (fun _ b => { b with cache := b.cache.filter p }) s.blocks,
    regions := mapAll Region.idle (fun _ r => { r with cache := r.cache.filter p }) s.regions }

/-- Keep the keyed states of the digest engines that satisfy `p` (R285). -/
def filterKsc (s : State) (p : Ksc → Bool) : State :=
  { s with blocks := mapAll Block.idle (fun _ b => { b with de := { b.de with ksc := b.de.ksc.filter p } }) s.blocks }

/-- Keep the expanded-key entries that satisfy `p` (R158 to R160). -/
def filterExpanded (s : State) (p : ExpEnt → Bool) : State :=
  { s with regions := mapAll Region.idle (fun _ r => { r with expanded := r.expanded.filter p }) s.regions }

/-- Scrub a key and every descendant from every cache. -/
def scrubKey (s : State) (h : W64) : State :=
  filterExpanded (filterKsc (filterCaches s (fun e => e.handle != h && !e.chain.contains h)) (fun e => e.handle != h && !e.chain.contains h))
    (fun e => e.handle != h && !e.chain.contains h)

/-- Scrub every entry of a slice. -/
def scrubSliceKeys (s : State) (n : Nat) : State :=
  filterExpanded (filterKsc (filterCaches s (fun e => e.slice != n)) (fun e => e.slice != n)) (fun e => e.slice != n)

/-- The handle of a slot at its current generation. -/
def slotHandle (s : State) (i : Nat) : W64 := mkHandle 0 (slotEnt s i).slice i (slotEnt s i).gen

/-- Put an entry into a cache of `cap` entries with `lim` per slice: the least recently used goes, a slice at its limit evicts
its own. -/
def cachePut (cap lim : Nat) (c : List CacheEnt) (e : CacheEnt) : List CacheEnt :=
  let c0 := c.filter (fun x => x.handle != e.handle)
  let own := c0.filter (fun x => x.slice == e.slice)
  let evict := fun (l : List CacheEnt) (p : CacheEnt → Bool) =>
    match (l.filter p).foldl (fun a x => match a with | none => some x | some y => if x.used < y.used then some x else some y) none with
    | some y => l.filter (fun x => x.handle != y.handle)
    | none => l
  let c1 := if lim ≤ own.length then evict c0 (fun x => x.slice == e.slice) else if cap ≤ c0.length then evict c0 (fun _ => true) else c0
  c1 ++ [e]

/-- The value a working-key cache holds for a handle. -/
def cacheLook (c : List CacheEnt) (h : W64) : Option (List Byte) := (c.find? (fun e => e.handle == h)).map (fun e => e.value)

/-- Look a handle up in the block cache, then in the region cache. -/
def cached (s : State) (r b : Nat) (h : W64) : Option (List Byte) :=
  match cacheLook (getBlock s b).cache h with
  | some v => some v
  | none => cacheLook (getRegion s r).cache h

/-- A derived key of a job is in no cache of its block and region: its value comes from the chip KMAC unit (R156, R333). -/
def kmacNeeds (s : State) (j : Job) : Bool :=
  j.vals.isNone && j.keys.any (fun k => k.kind == 1 && (chainOf s 8 k.handle).head?.all (fun h => (cached s j.region j.block h).isNone))

/-! ### Withdrawal (R325) -/

/-- The value of a handle comes from slot `i`. -/
def leadsTo (s : State) (i : Nat) (h : W64) : Bool :=
  if hKind h = 0 then hIndex h == i
  else match volOf s h with
    | some e => (match e.src with | some k => slotOf k == some i | none => false)
    | none => false

/-- A slot is withdrawn: its descendants are refused from now on and its caches scrubbed; the slot-table entry is committed for
the failing job. -/
def withdrawSlot (s : State) (i : Nat) (job : Option Nat) : State :=
  let e := slotEnt s i
  let h := slotHandle s i
  let t := scrubKey (scrubLane s e.slice (leadsTo s i)) h
  let u := { t with vols := mapAll VolEnt.empty (fun _ v =>
    if (match v.src with | some k => slotOf k == some i | none => false) then { v with corrupt := true } else v) t.vols }
  let prio := match job.bind (getJob s) with | some j => 2 + j.lc | none => 4
  requestWrite u prio { job, op := .slotEnt i (if e.state = 2 then { SlotEnt.free with gen := e.gen, state := 4 } else { e with state := 3 }) }

/-- The slots a job's keys read whose check fails. -/
def badSlot (s : State) (ks : List KeyRef) : Option Nat :=
  ks.findSome? (fun k =>
    match slotOf k.src with
    | some i => if (keyValue s k.src).isNone then some i else none
    | none => none)

end Sys2Proof.Machine
end

