-- ==== Sys2Proof/Machine/LaneOps.lean ====
section
/-! DEFINITION. Sealing on the key lanes (R385 to R388): frames, seal keys, nonces, working keys (R390), the sealed-frame caches
(R396), and what a new seal generation or a disabled port means (R40, R388). -/

namespace Sys2Proof.Machine

/-- Key-lane ports serve (R39, R49). -/
def portsServe (s : State) : Bool :=
  match s.chip.mode with
  | .service => true
  | .drain => true
  | .ceremony => (match s.cer with | some c => c.fromMode != .umbra | none => true)
  | _ => false

/-- Port `p` answers requests: enabled, paired and not quarantined, as recorded and as the writes under way leave it, and its unit
is in service. -/
def portOn (s : State) (p : Nat) : Bool :=
  portsServe s && unitOnline s (164 + p) && (portEnt s p).paired && !(portEnt s p).quarantined && (portNow s p).paired &&
    !(portNow s p).quarantined

/-- The chip KMAC unit may take the oldest miss of port `p`: the port serves, with a committed seal generation and nonces left. -/
def missReady (s : State) (p : Nat) : Bool :=
  portOn s p && !(getPort s p).pendingMiss.isEmpty && (getPort s p).seals.isSome && decide ((getPort s p).nonce + 1 < 2 ^ 28)

/-- When the oldest miss of port `p` arrived. -/
def missSince (s : State) (p : Nat) : Nat := match (getPort s p).pendingMiss with | q :: _ => q.arrived | [] => 0

/-! ### Frames (R385) -/

/-- What data pair `p` carries in unit interval `u` of a frame, given by its bytes in transmission order (R382): the most significant bit goes
first. Two intervals make a key-lane cycle, the even one on its rising edge. -/
def laneBit (f : List Byte) (u p : Nat) : Bool := (beNat f).testBit (8 * f.length - 1 - (4 * u + p))

/-- What the frame pair carries in unit interval `u`: the delimiter 1, 1, 0, 1, then 0, and in a request its CRC-8 in intervals 8 to 15
(R383). -/
def laneMark (crc : Option Nat) (u : Nat) : Bool :=
  if u < 4 then u != 2 else match crc with | some c => decide (8 ≤ u) && decide (u < 16) && c.testBit (15 - u) | none => false

/-- A response frame: 48 bytes in transmission order. -/
def laneFrame (kind tag elo n : Nat) (payload mac : List Byte) : List Byte :=
  beBytes 4 (kind * 2 ^ 28 + tag % 2 ^ 12 * 2 ^ 16 + elo % 16 * 2 ^ 12 + bits n 27 16) ++ padTo 32 payload ++ padTo 8 mac ++
    beBytes 2 (n % 2 ^ 16) ++ [0, 0]

/-- A sealed frame with TAG spliced in (R388). -/
def spliceTag (f : List Byte) (tag : Nat) : List Byte :=
  beBytes 2 (beNat (f.take 2) / 2 ^ 12 * 2 ^ 12 + tag % 2 ^ 12) ++ f.drop 2

/-- A NAK, or with REASON 0 a PONG, built as it is sent; EXPECTED is the next counter the port accepts. -/
def nakFrame (tag reason expected : Nat) : List Byte :=
  let h := beBytes 4 ((if reason = 0 then 4 else 3) * 2 ^ 28 + tag % 2 ^ 12 * 2 ^ 16)
  let p := if reason = 0 then [] else leBytes 1 reason ++ beBytes 2 expected
  let f := h ++ padTo 32 p
  f ++ [0, 0, 0, 0] ++ beBytes 4 (crc32c f) ++ [0, 0, 0, 0]

/-- A seal key of a lane key and generation (R386): 1 SEK, 2 SMK. -/
def sealKey (lk : List Byte) (g which : Nat) : List Byte :=
  kmac256 lk (beBytes 4 g ++ leBytes 1 which) 32 (ascii "FY4128-LSK")

/-- The tag of a frame (R387). -/
def laneTag (smk : List Byte) (port kind elo n sel e : Nat) (payload : List Byte) : List Byte :=
  kmac256 smk (leBytes 1 port ++ leBytes 1 kind ++ leBytes 1 (elo % 16) ++ beBytes 4 n ++ beBytes 4 sel ++ beBytes 8 e ++ payload) 8
    (ascii "FY4128-LTG")

/-- The keystream of a KEY frame (R387). -/
def laneStream (sek : List Byte) (port g n : Nat) : List Byte :=
  aesCtr sek ([0x4B, 0x4C] ++ leBytes 1 port ++ [0] ++ beBytes 4 g ++ beBytes 4 n ++ [0, 0, 0, 0]) 32

/-- Seal a frame with the next nonce, or with nonce 0 for the REKEY frame: none while the port has no seal keys. KEY payloads are
encrypted; `elo` is the epoch shown. -/
def sealFrame (s : State) (p kind elo sel e : Nat) (payload : List Byte) : Option (State × List Byte) :=
  let x := getPort s p
  match x.seals with
  | none => none
  | some (sek, smk) =>
    let n := if kind = 5 then 0 else x.nonce + 1
    let body := padTo 32 (if kind = 1 then xorBytes (padTo 32 payload) (laneStream sek p (portEnt s p).g n) else payload)
    let t := if kind = 5 then s else modPort s p (fun y => { y with nonce := n })
    if n < 2 ^ 28 then some (t, laneFrame kind 0 elo n body (laneTag smk p kind elo n sel e body)) else none

/-! ### Bindings and working keys (R390) -/

/-- A live base of a binding: kind 0 epoch, 1 static, 2 direct. -/
structure LaneBase where
  handle : W64
  kind : Nat
  src : KeySrc
  deriving DecidableEq, Repr

/-- The live base of binding `b` of slice `n`: a retired or withdrawn slot is not live. -/
def laneBase (s : State) (n b : Nat) : Option LaneBase :=
  let h := bindingOf s n b
  if h = 0 then none
  else if hKind h = 0 then
    let e := slotEnt s (hIndex h)
    if e.state = 1 ∧ e.gen = hGen h ∧ e.slice = n then
      some { handle := h, kind := if e.policy.testBit 9 then 0 else if e.alg = 0x0C01 then 2 else 1, src := .slot (hIndex h) e.gen }
    else none
  else
    match volOf s h with
    | some e =>
      if e.corrupt then none
      else some { handle := h, kind := if e.alg = 0x0C01 then 2 else 1, src := (match e.src with | some k => k | none => .value e.value) }
    | none => none

/-- The parent of a base's working keys, from the complex or resolved: for an epoch binding, the key of the epoch. -/
def laneParent (s : State) (n : Nat) (b : LaneBase) (e : Nat) : Option (List Byte) :=
  let ep := if b.kind = 0 then some e else none
  match s.laneKeys.find? (fun k => k.slice == n && k.handle == b.handle && k.epoch == ep) with
  | some k => some k.value
  | none =>
    (keyValue s b.src).map (fun v => if b.kind = 0 then childKey v (epochLabel e (getSlice s n).cfg.epochLength) else v)

/-- The complex holds a parent from now on. -/
def holdParent (s : State) (n : Nat) (b : LaneBase) (e : Nat) (v : List Byte) : State :=
  let ep := if b.kind = 0 then some e else none
  if s.laneKeys.any (fun k => k.slice == n && k.handle == b.handle && k.epoch == ep) then s
  else { s with laneKeys := s.laneKeys ++ [{ slice := n, handle := b.handle, epoch := ep, value := v }] }

/-- The working key of a selector under a parent. -/
def workKey (b : LaneBase) (bind chan e : Nat) (parent : List Byte) : List Byte :=
  if b.kind = 2 then parent
  else childKey parent (mkLabel 0x8002 0x0C01 (leBytes 8 (if b.kind = 0 then e else 0) ++ leBytes 4 chan ++ leBytes 1 bind ++
    leBytes 1 (b2n (b.kind == 0))))

/-! ### The cache of sealed frames (R396) -/

/-- Put a sealed frame into a port's cache: the least recently used entry goes, a NEXT frame only for another one. -/
def laneCachePut (c : List Sealed) (e : Sealed) : List Sealed :=
  let c0 := c.filter (fun x => !(x.binding == e.binding && x.channel == e.channel && x.epoch == e.epoch))
  if c0.length < 4096 then c0 ++ [e]
  else
    let cand := c0.filter (fun x => e.isNext || !x.isNext)
    match cand.foldl (fun a x => match a with | none => some x | some y => if x.used < y.used then some x else some y) none with
    | none => c0
    | some v =>
      c0.filter (fun x => !(x.binding == v.binding && x.channel == v.channel && x.epoch == v.epoch)) ++ [e]

/-- The epoch that is active for a slot, and the one prepared, plus one; 0 none (R380). -/
def activeEpoch (s : State) (i : Nat) : Nat := mapGet 0 s.eph.active i
def preparedEpoch (s : State) (i : Nat) : Nat := mapGet 0 s.eph.prepared i

/-- The epoch of a frame is the active one or the prepared one of its binding's slot. -/
def epochKept (s : State) (b : LaneBase) (e : Nat) : Bool :=
  b.kind != 0 || activeEpoch s (hIndex b.handle) == e + 1 || preparedEpoch s (hIndex b.handle) == e + 1

/-- Seal the KEY frame of a selector under a parent on port `p`; it is stored when `keep` says so. -/
def sealKeyFrame (s : State) (p : Nat) (b : LaneBase) (bind chan e : Nat) (parent : List Byte) (keep isNext : Bool) :
    Option (State × List Byte) :=
  match sealFrame s p 1 (if b.kind = 0 then e else 0) (bind * 2 ^ 28 + chan) (if b.kind = 0 then e else 0) (workKey b bind chan e parent) with
  | none => none
  | some (t, f) =>
    let x : Sealed := { binding := bind, channel := chan, epoch := (if b.kind = 0 then e else 0), bytes := f, isNext, used := s.uptime }
    some (if keep && epochKept s b e then modPort t p (fun y => { y with cache := laneCachePut y.cache x }) else t, f)

/-- Seal the frame of a selector into the cache of port `p`, and say whether it was sealed. -/
def sealStore (s : State) (n p bind chan e : Nat) (isNext : Bool) : State × Bool :=
  match laneBase s n bind with
  | none => (s, false)
  | some b =>
    match laneParent s n b e with
    | none => (s, false)
    | some v =>
      match sealKeyFrame (holdParent s n b e v) p b bind chan e v true isNext with
      | some (t, _) => (t, true)
      | none => (s, false)

/-- Seal the EPOCH frame of epoch `e` with a binding mask (R385, R399). -/
def sealEpoch (s : State) (p e bmask : Nat) : State :=
  match sealFrame s p 2 e 0 e (beBytes 8 e ++ beBytes 2 bmask) with
  | some (t, f) => modPort t p (fun x => { x with epochFrame := some (e, f) })
  | none => s

/-! ### Seal generations (R388) -/

/-- The lane key of a port: the value of its slot, which must be live and pass the checks of R325. -/
def laneKeyOf (s : State) (e : PortEnt) : Option (List Byte) :=
  let x := slotEnt s e.slot
  if x.state = 1 ∧ x.gen = e.slotGen then slotSeed s e.slot else none

/-- A port's entry has committed. One that is paired starts the new generation: the REKEY frame goes out, frames of the old one are
dropped, and those of a prepared Meridian are sealed again (R388, R401). -/
def portCommitted (s : State) (p : Nat) (e : PortEnt) : State :=
  if !e.paired || e.quarantined then modPort s p (fun x => { x with rekey := false, cache := [], seals := none })
  else
    match laneKeyOf s e with
    | none =>
      let t := modPort s p (fun x => { x with rekey := false, cache := [], seals := none })
      if (slotEnt s e.slot).state = 1 ∧ (slotEnt s e.slot).gen = e.slotGen then withdrawSlot t e.slot none else t
    | some lk =>
      let old := getPort s p
      let t := modPort s p (fun x =>
        { x with rekey := false, cache := [], nonce := 0, epochFrame := none,
                 seals := if portsServe s then some (sealKey lk e.g 1, sealKey lk e.g 2) else none })
      match sealFrame t p 5 0 0 0 (beBytes 4 e.g) with
      | none => t
      | some (u, f) =>
        let u' := modPort u p (fun x => { x with tx := x.tx ++ [.sealed f false] })
        let v := match old.epochFrame with
          | some (ep, b) => sealEpoch u' p ep (beNat (sub b 12 2))
          | none => u'
        match portSlice s p with
        | none => v
        | some n => (old.cache.filter (fun x => x.isNext)).foldl (fun w x => (sealStore w n p x.binding x.channel x.epoch true).1) v

/-- A port is disabled: it holds no request and sends nothing (R40). -/
def disablePort (x : Port) : Port :=
  { x with tx := [], pendingMiss := [], credits := 16, expected := none, seals := none, rekey := false }

/-- Raise the seal generation of a port: the new one is committed first. -/
def raiseGen (s : State) (p prio : Nat) (job : Option Nat) : State :=
  let e := portNow s p
  requestWrite (modPort s p (fun x => { x with rekey := true })) prio { job, op := .port p { e with g := (e.g + 1) % 2 ^ 32 } }

/-- The ports after a change of mode: `s` before, `t` after (R40, R388). -/
def portsMode (s t : State) : State :=
  if portsServe s ∧ ¬ portsServe t then { t with ports := mapAll Port.idle (fun _ x => disablePort x) t.ports }
  else if ¬ portsServe s ∧ portsServe t then
    (List.range 8).foldl (fun u p =>
      if (portNow u p).paired ∧ ¬ (portNow u p).quarantined then raiseGen (modPort u p disablePort) p 2 none else u) t
  else t

end Sys2Proof.Machine
end

