-- ==== Sys2Proof/Machine/CommitOps.lean ====
section
/-! DEFINITION. What a committed record changes in the running device, and how a commit moves the job that asked for it
(R20, R23, R341, R342). -/

namespace Sys2Proof.Machine

/-- The KEEP bit of slice `n` changes: operand memory that holds its content is wiped before any later use (R268). -/
def keepChanged (s : State) (n : Nat) (changed : Bool) : State :=
  { s with blocks := mapAll Block.idle (fun _ b =>
      if changed ∧ b.bne.h0.any (fun h => h.1 = n) then { b with bne := { b.bne with dirty := true } } else b) s.blocks }

/-- A slice takes a recorded state and configuration (R115, R117). A slice being reset keeps RESETTING. -/
def applySliceRec (s : State) (n : Nat) (r : SliceRec) : State :=
  let x := getSlice s n
  let s := keepChanged s n (bit x.cfg.settings 0 != bit r.cfg.settings 0)
  let st := if x.state = .resetting then x.state else r.state
  let t := modSlice s n (fun y =>
    { y with state := st, cfg := r.cfg,
             hbmKey := if x.state = .absent then some s.freeCtr else y.hbmKey })
  let u := if x.state = .absent then drew' t 1 else t
  if st = x.state then u else notifyState u n

/-- Change the recovery settings in force. -/
def modRecov (s : State) (f : Recovery → Recovery) : State := { s with flt := { s.flt with recov := f s.flt.recov } }

/-- A FAILED unit returns to RECOVERING (R476). -/
def clearFailed (s : State) (k u : Nat) : State :=
  let t := setUnit (modRecov s (fun r => r.cleared k u)) k .recovering
  let d := if k < 148 then modDom t k (fun x => { x with failed := false })
    else if 164 ≤ k ∧ k < 172 then modDom t (k - 12) (fun x => { x with failed := false }) else t
  [5, 6, 7].foldl saveRecov d

/-- A binding entry has changed: what was sealed or held for the entry before goes (R396). -/
def bindCommitted (s : State) (n b : Nat) (_ : W64) : State :=
  { s with
    ports := mapAll Port.idle (fun p x =>
      if portSlice s p = some n then { x with cache := x.cache.filter (fun e => e.binding != b) } else x) s.ports,
    laneKeys := s.laneKeys.filter (fun k => k.slice != n || (List.range 16).any (fun c => bindingOf s n c == k.handle)) }

/-- An event of a durable record as it becomes pending. -/
def EvRec.ofEnt (e : EvEnt) : EvRec :=
  { id := e.id, slice := e.slice, spec := e.spec, state := e.state, cond := 0, status := 0, fired := 0, lateness := 0, gens := [],
    corrupt := false, endedAt := 0 }

/-- A durable event's record has committed: a new event becomes pending, a cancelled one ends (R370, R373). -/
def eventCommitted (s : State) (i : Nat) (e : Option EvEnt) : State :=
  match e, mapGet none s.eph.events i with
  | some x, none => { s with eph := { s.eph with events := mapSet none s.eph.events i (some (EvRec.ofEnt x)) } }
  | some x, some v =>
    if x.state = 6 ∧ (v.state = 0 ∨ v.state = 1 ∨ v.state = 5) then
      let t := { s with eph := { s.eph with
        events := mapSet none s.eph.events i (some { v with state := 6, cond := s.tb.cond.code, endedAt := s.uptime }) } }
      if v.spec.flags.testBit 3 then notifyEvent t v.slice else t
    else s
  | none, _ => s

/-- The events, with their indices. -/
def eventList (s : State) : List (Nat × EvRec) := s.eph.events.filterMap (fun e => e.2.map (fun v => (e.1, v)))

/-- DURABLE (R368). -/
def EvSpec.durable (e : EvSpec) : Bool := e.flags.testBit 1

/-- An index is freed (R372): a durable event's entry is emptied. -/
def freeEventIdx (s : State) (i : Nat) : State :=
  match mapGet none s.eph.events i with
  | some v =>
    let t := { s with eph := { s.eph with events := mapErase s.eph.events i, bumps := mapMod 0 s.eph.bumps i (· + 1) } }
    if v.spec.durable then requestWrite t 4 { job := none, op := .event i none } else t
  | none => s

/-- The events of a slice are deleted (R117, R372). -/
def dropEvents (s : State) (n : Nat) : State :=
  (eventList s).foldl (fun t e => if e.2.slice = n then freeEventIdx t e.1 else t) s

/-- The change a committed request makes beside the record itself. -/
def opEffect (s : State) (o : AlmOp) : State :=
  match o with
  -- The commit of a removal's intent deletes the slice's events (R117, R372).
  | .slice n r => applySliceRec (if r.removal then dropEvents s n else s) n r
  | .faultSev c v => modRecov s (fun r => { r with severity := mapSet 0 r.severity c v })
  | .faultQuiet v => modRecov s (fun r => { r with quiet := v })
  | .faultLimit l w => modRecov s (fun r => { r with limit := l, window := w })
  | .faultClear k u => clearFailed s k u
  | .slotWrite i b => { s with alm := { s.alm with slots := mapSet [] s.alm.slots i b, slotBad := mapErase s.alm.slotBad i } }
  | .slotZero i => { s with alm := { s.alm with slots := mapErase s.alm.slots i, slotBad := mapErase s.alm.slotBad i } }
  -- A retired slot's key and its descendants end (R152, R156).
  | .slotEnt i e => if e.state = 2 then endKey s (mkHandle 0 e.slice i e.gen) else s
  -- The leaf record of a start is committed: leaves may be handed out (R345).
  | .leaf rid _ => modTree s rid (fun t => { t with startCommit := false })
  -- The image is registered once its SEQ and digest are recorded (R241).
  | .image n q d img => { s with micro := mapSet none s.micro n (some { image := img, seq := q, digest := d }) }
  | .imageErase n => { s with micro := mapErase s.micro n }
  | .leafErase rid => { s with trees := mapErase s.trees rid }
  | .port n e => portCommitted s n e
  | .binding n b h => bindCommitted s n b h
  | .event i e => eventCommitted s i e
  | .timeCfg _ d en =>
    -- PPS_DELAY takes effect at the next window: at once where there is none (R366).
    let t := if s.tb.set then s else { s with tb := { s.tb with delay := d } }
    if en then t else { t with pins := { t.pins with tppsOut := false } }
  | _ => s

/-- The job that asked for a write moves on: its release point is the first of its commits, and the last one finishes it. -/
def advanceJob (io : JobIo) (s : State) (k : Nat) : State :=
  match getJob s k with
  | none => s
  | some j =>
    let j' := { j.release s with writes := j.writes - 1 }
    match j'.res with
    | some r =>
      if j'.writes = 0 ∧ j'.pos = .committing then
        (if r.status = stOk then finishJob (putJob s j') j' r io
         else endJob s j { Cpl.bare s r.status r.detail unitMgmt with replays := j.replays, outLen := r.outNeed } io.cycles io.cplFault)
      else putJob s j'
    | none => putJob s j'

/-- The jobs of a list of requests, each once. -/
def reqJobs (rs : List AlmReq) : List Nat := (rs.filterMap (fun r => r.job)).dedup

/-- A change of a slot's table entry is requested and not committed. -/
def slotEntPending (s : State) (i : Nat) : Bool :=
  let w := mapGet WriteQ.none s.alm.writes (ridSlot i)
  (w.reqs ++ w.follow).any (fun r => match r.op with | .slotEnt k _ => k == i | _ => false)

/-- A valid bank of a leaf record names a slot at a generation. -/
def leafNamed (s : State) (slot gen : Nat) : Bool :=
  s.alm.pairs.any (fun e =>
    decide (17408 ≤ e.1) && [e.2.a, e.2.b].any (fun b =>
      match bankValid s 17408 b with
      | some (_, .leaf l) => l.slot == slot && l.gen == gen
      | _ => false))

/-- The LIVE slots whose slot-table entry names a stateful key and that no valid bank of a leaf record names (R340). -/
def orphanSlots (s : State) : List Nat :=
  (s.alm.pairs.filterMap (fun e =>
    if 1024 ≤ e.1 ∧ e.1 < 17408 then
      some ((List.range 16).filterMap (fun k =>
        let i := (e.1 - 1024) * 16 + k
        let x := slotEnt s i
        if x.state = 1 ∧ (x.alg / 256 = 9 ∨ x.alg / 256 = 10) ∧ !leafNamed s i x.gen then some i else none))
    else none)).flatten

/-- The slots of a record are WITHDRAWN or DEAD: the keys that lead to them are refused. -/
def corruptSlots (s : State) (lo : Nat) : State :=
  { s with vols := mapAll VolEnt.empty (fun _ v =>
      match v.src with
      | some k => (match slotOf k with | some i => if i / 16 = lo then { v with corrupt := true } else v | none => v)
      | none => v) s.vols }

/-- What the device does about a lost record (R340), the custodian list in OWNED apart. -/
def lostRecord (s : State) (rid : Nat) : State :=
  let t := raiseFault { s with alm := { s.alm with lost := s.alm.lost + 1 } } 0x34 0xC0 rid
  if 17408 ≤ rid ∧ rid < 33792 then (orphanSlots t).foldl (fun x i => withdrawSlot x i none) t
  else if 1024 ≤ rid ∧ rid < 17408 then corruptSlots t (rid - 1024)
  -- S00 stays ACTIVE; any other slice enters CONFIGURED.
  else if 16 ≤ rid ∧ rid < 144 ∧ rid % 2 = 0 then
    applySliceRec t ((rid - 16) / 2) { state := if rid = 16 then .active else .configured, cfg := SliceCfg.dflt, removal := false }
  -- The defaults of the settings and of the recovery content apply.
  else if rid = 2 then (List.range 8).foldl (fun x p => portCommitted x p PortEnt.none) t
  else if 4 ≤ rid ∧ rid < 8 then
    modRecov t (fun r => { (if rid = 4 then Recovery.initial else r) with ents := r.ents.filter (fun e => ringRid e.1 != rid) })
  else if 33792 ≤ rid ∧ rid < 50176 then
    (List.range 4).foldl (fun x k =>
      let i := (rid - 33792) * 4 + k
      match mapGet none x.eph.events i with
      | some v => notifyEvent { x with eph := { x.eph with events := mapErase x.eph.events i } } v.slice
      | none => x) t
  else t

/-- A commit that cannot be made (ALMANAC_WRITE, R341): unreleased jobs are replayed; a released job completes with the status
it would have had. -/
def failWrite (io : JobIo) (s : State) (k : Nat) : State :=
  match getJob s k with
  | none => s
  | some j => if j.isReleased then advanceJob io s k else replayJob s j false

/-- A job of the list is past its release point. -/
def anyReleased (s : State) (ks : List Nat) : Bool := ks.any (fun k => (getJob s k).any Job.isReleased)

/-- A ledger write ends (R341): `rb` are the outcomes of its read-backs. -/
def commitWrite (s : State) (rid : Nat) (rb : List Bool) (io : JobIo) : State :=
  let w := mapGet WriteQ.none s.alm.writes rid
  let p := w.reqs.foldl (fun p r => applyOp p r.op) (payload s rid)
  let c := commitRec s rid p rb
  let t := endWrite c.1 rid
  if c.2 then (reqJobs w.reqs).foldl (advanceJob io) (w.reqs.foldl (fun x r => opEffect x r.op) (noteCommit t))
  else
    -- Content a released job still owed is lost (R341).
    let u := raiseFault t 0x35 0xC0 rid
    let v := if anyReleased u (reqJobs w.reqs) then
        lostRecord { u with alm := { u.alm with gone := u.alm.gone ++ [rid] } } rid
      else u
    (reqJobs w.reqs).foldl (failWrite io) v

/-- A write in flight finishes without its job, which ends otherwise (R479): its record stands, with what it changes. -/
def finishWrite (s : State) (k : Nat) : State :=
  let w := mapGet WriteQ.none s.alm.writes k
  if !w.started then s
  else
    let c := if k < 2 ^ 20 then commitRec s k (w.reqs.foldl (fun p r => applyOp p r.op) (payload s k)) [] else (s, true)
    if c.2 then w.reqs.foldl (fun x r => opEffect x r.op) c.1 else c.1

/-- Every write in flight finishes. -/
def finishWrites (s : State) : State := s.alm.writes.foldl (fun t e => finishWrite t e.1) s

/-- Ask for a ledger write for a job: it counts among the job's writes. -/
def askWrite (s : State) (j : Job) (prio : Nat) (o : AlmOp) : State :=
  requestWrite (modJob s j.id (fun x => { x with writes := x.writes + 1 })) prio { job := some j.id, op := o }

/-- A management command whose result stands once its writes have committed. -/
def stageCommit (s : State) (j : Job) (r : JobRes) (ops : List AlmOp) : State :=
  ops.foldl (fun t o => match getJob t j.id with | some j' => askWrite t j' (2 + j.lc) o | none => t)
    (putJob s { j with pos := .committing, unit := unitMgmt, res := some r })

/-- The generation a slot index takes next (R143). -/
def nextGen (s : State) (i : Nat) : Nat := ((slotEnt s i).gen + 1) % 2 ^ 16

/-- A commit of the leaf record is pending. -/
def leafPending (s : State) (rid : Nat) : Bool := mapGet WriteQ.none s.alm.writes rid != WriteQ.none

/-- The records a slot-creating job commits at its release point: the slot-table entry, and a stateful key's leaf record
(R183, R322). -/
def slotOps (s : State) (j : Job) (n : SlotNew) : List AlmOp :=
  let gen := nextGen s n.index
  .slotEnt n.index { gen, state := 1, slice := j.slice, alg := n.alg, policy := n.policy } ::
    (match n.stateful with
     | some (levels, lower, total) =>
       (match firstFrom (fun r => (leafOf s r).isNone && !recLost s r && !leafPending s r) 17408 16384 with
        | some rid =>
          [.leaf rid { slot := n.index, gen, alg := n.alg, levels, lower, slice := j.slice, total, highWater := 0, nextAtCommit := 0,
                       burned := 0, batch := j.cfg.leafBatch }]
        | none => [])
     | none => [])

/-- The slot record of a job is written: its ledger records are asked for (R322 step 4). -/
def slotWritten (s : State) (j : Job) (n : SlotNew) : State :=
  (slotOps s j n).foldl (fun x o => match getJob x j.id with | some y => askWrite x y (2 + j.lc) o | none => x) s

/-- The host side as it is when nothing goes wrong and nothing is delivered. -/
def JobIo.quiet : JobIo :=
  { input := [], again := none, segs := [], dmaFault := false, poison := false, outFault := none, cplFault := false, cycles := 0,
    storeOk := true, wp := false, tests := [] }

end Sys2Proof.Machine
end

