-- ==== Sys2Proof/Machine/ModeOps.lean ====
section
/-! DEFINITION. Mode transitions (R39 to R61), entry to UMBRA (R55, R56), FATAL and HALT (R59, R479), and the start of BOOT. -/

namespace Sys2Proof.Machine

/-- Every BNE's operand memory is wiped (R61). -/
def wipeBnes (s : State) : State :=
  { s with blocks := mapAll Block.idle (fun _ b => { b with bne := (b.bne.wipe0 s.uptime).wipe1 s.uptime }) s.blocks }

/-- Every customer window is cleared, with its tag. -/
def clearWindows (s : State) : State :=
  { s with cells := mapAll Cell.reset (fun _ c =>
      { c with store := mapFilter (fun k _ => decide (k < 0xC00)) c.store, winTag := none, winImage := [] }) s.cells }

/-- DATA of a mode-transition entry (R539). -/
def modeData (s : State) (new : Mode) (trig op seq : Nat) : List Byte :=
  leBytes 1 s.chip.mode.code ++ leBytes 1 new.code ++ leBytes 1 trig ++ leBytes 1 s.chip.lc.code ++ leBytes 2 op ++ [0, 0] ++
    leBytes 8 seq ++ (if s.chip.mode = .boot then leBytes 1 s.chip.bootCause else [])

/-- Change the chip mode (R43): the transition is logged, except HALT in SCRAPPED; the mirror changes, SMBALERT# asserts and
S00 is signalled. Entering or leaving SERVICE wipes the BNEs (R61); MAINTENANCE clears the customer windows (R60). -/
def setMode (s : State) (new : Mode) (trig op seq : Nat) : State :=
  let t := if new = .halt ∧ s.chip.lc = .scrapped then s else logEvent s 0xA0 0x0001 0 (modeData s new trig op seq)
  let u := if s.chip.mode = .service ∨ new = .service ∨ new = .maintenance then wipeBnes t else t
  -- Registrations of customer images are dropped with them (R75, R236).
  let v := if new = .maintenance then clearWindows { u with micro := [] } else u
  -- TPPS_OUT is low in HALT (R354); the key-lane ports stop or start serving (R40).
  let x := { v with chip := { v.chip with mode := new, drained := false },
                    pins := { v.pins with tppsOut := v.pins.tppsOut && new != .halt } }
  vecMode (smbAlert (portsMode s x))

/-- Events fire (R39, R49). -/
def eventsFire (s : State) : Bool := portsServe s

/-- A card left in the middle of a step waits for a command again. -/
def idleCards (s : State) : State :=
  { s with cards := mapAll CardSlot.empty (fun _ c =>
      if c.state = 5 then { c with state := 4, cmd := none, busy := false, data := false, tuning := none, clkOn := false } else c) s.cards }

/-- The event-log code of a ceremony's own entries, which no table of the spec gives: 0 a card step, 1 a removal, 2 an abort. -/
def cerCode (k : Nat) : Nat := (Config.freeWord 7 k).toNat % 2 ^ 16

/-- Log a ceremony entry: the card id and one number. -/
def logCer (s : State) (k : Nat) (card : List Byte) (n : Nat) : State :=
  logEvent s 0xA0 (cerCode k) 0 (padTo 16 card ++ leBytes 1 n)

/-- The abort of the ceremony in progress is recorded in the event log (R50, R425, R439). -/
def logAbort (s : State) : State := match s.cer with | some c => logCer s 2 [] c.kind | none => s

/-- A ceremony ends as an abort: its shares are zeroed, and the root that TAKE_OWNERSHIP generated (R50, R424, R439). -/
def dropCeremony (s : State) : State :=
  let s := if s.cer.any (fun c => c.kind == 1) then zeroizeRoot s else s
  { idleCards s with cer := none, tamper := { s.tamper with staged := none } }

/-- A slot write that had reached its bank write finishes: its job is past its release point, and its ledger records follow from the staged
content (R23, R56). -/
def finishSlot (s : State) (i : Nat) : State :=
  let q := mapGet WriteQ.none s.alm.writes (keySlotWrite i)
  if q.started then
    (reqJobs q.reqs).foldl (fun x k =>
      match getJob x k with
      | some j =>
        (match (match j.res with | some r => r.slot | none => none) with
         | some n => slotWritten (putJob x (j.release x)) (j.release x) n
         | none => x)
      | none => x) (endWrite (q.reqs.foldl (fun y r => opEffect y r.op) s) (keySlotWrite i))
  else s

/-- A write that had reached its bank write finishes and commits; its job thereby passes its release point (R56). -/
def finishBegun (w : WriteIo) (s : State) : State :=
  let led := w.ledger.filter (fun k =>
    decide (k < 2 ^ 20) && (mapGet WriteQ.none s.alm.writes k).started)
  let t := led.foldl (fun x k => commitWrite x k [] JobIo.quiet) s
  w.slots.foldl finishSlot t

/-- No write is left pending; each record keeps its current bank. A change of record 0 in progress is left to R78. -/
def discardWrites (s : State) : State := { s with alm := { s.alm with writes := [] } }

/-- What UMBRA leaves of the writes (R56): those that released jobs still owe (R23), to be made once the actions of R55 are complete; none
without the device keys their tags need. -/
def umbraWrites (s : State) : State :=
  if rootPresent s then
    { s with alm := { s.alm with writes := mapAll WriteQ.none (fun _ w =>
        let rs := (w.reqs ++ w.follow).filter (fun r => r.job.any (fun k => (getJob s k).any Job.isReleased))
        if rs = [] then WriteQ.none else { w with started := false, reqs := rs, follow := [] }) s.alm.writes } }
  else discardWrites s

/-- Every queue pair of a slice: pointers 0, PHASE 1, nothing pending; a host-side reset clears ENABLE too (R105, R139). -/
def resetQps (s : State) (n : Nat) (disable : Bool) : State :=
  (List.range 4).foldl (fun t q => modQp t n q (fun p =>
    { p with sqTail := 0, sqHead := 0, cqHead := 0, cqTail := 0, phase := true, bells := [],
             enable := p.enable && !disable, draining := p.draining && !disable })) s

/-- A slice reset in progress as UMBRA or HALT is entered finishes (R80, R139): the slice takes the state the reset gives, its rings start
again, and its volatile generations rise. A removal whose intent is committed is carried out when the device enters SERVICE again (R117). -/
def finishReset (s : State) (n : Nat) : State :=
  let x := getSlice s n
  match x.resetRec with
  | none => s
  | some r =>
    let t := modSlice s n (fun y =>
      { y with state := if r.prior = .quiescing then .configured else r.prior, resetRec := none, removeWaits := none,
               volBump := y.volBump + 1 })
    notifyReset (notifyState (resetQps t n r.hostSide) n) n

/-- The resets in progress that satisfy `p` finish. -/
def finishResets (p : ResetRec → Bool) (s : State) : State :=
  (List.range 64).foldl (fun t n => if (getSlice t n).resetRec.any p then finishReset t n else t) s

/-- Steps 1 to 4 of R55. A host-side reset in progress runs to its end (R108). -/
def umbraClear (s : State) : State :=
  let t := forJobs (fun j => !j.isReleased) (fun x j => failJob x j eUmbra 0 false) s
  let u := forJobs (fun j => j.isReleased) (fun x j =>
    if rootPresent x ∧ j.pos = .committing then x
    else match j.res with | some r => finishJob x j r JobIo.quiet | none => failJob x j eUmbra 0 false) t
  let v := loseHbm (finishResets (fun r => !r.hostSide) (clearWindows u))
  { v with
    cells := mapAll Cell.reset (fun _ c => { c.wipe with mCause := c.mCause, mPc := c.mPc }) v.cells,
    blocks := mapAll Block.idle (fun _ b => { Block.idle with bne := b.bne.fresh })
      v.blocks,
    regions := mapAll Region.idle (fun _ r => { r with cache := [], expanded := [] }) v.regions,
    ports := mapAll Port.idle (fun _ p => { disablePort p with cache := [], epochFrame := none }) v.ports,
    laneKeys := [],
    slices := mapAll Slice.absent (fun _ x => { x with hbmKey := none }) v.slices,
    scrubs := [], micro := [],
    hdm := { v.hdm with mem := [], poison := [] },
    -- Retained content of domains at TWILIGHT or NIGHT is discarded without a wake (R506).
    power := mapAll Dom.active (fun _ d =>
      if d.state = 2 ∨ d.state = 3 then { d with state := 4, entry := none, waking := none, checks := [] } else d) v.power }

/-- Entry to UMBRA on a tamper response (R55, R60). -/
def enterUmbra (s : State) (w : WriteIo) (seq : Nat) : State :=
  let t := umbraClear (umbraWrites (finishBegun w (logAbort s)))
  startWrites 8 (setMode (dropCeremony t) .umbra 9 0 seq)

/-- HALT (R59). -/
def enterHalt (s : State) (trig seq : Nat) : State :=
  let t := setMode (finishResets (fun _ => true)
    { s with pins := { s.pins with faultN := true }, chip := { s.chip with viral := true } }) .halt trig 0 seq
  dropCeremony t

/-! ### The start of BOOT (R42) -/

/-- Everything volatile is lost; fuses, the Almanac and the root domain are kept, and the supplies, pins of the environment and the queue
of commands are as they are. `cause` is the trigger code kept in the root domain (R539). DESIGN CHOICE (log entry 47): the owner
certificate of SPDM slot 1 does not survive a BOOT, since no record of R340 holds it. -/
def bootState (s : State) (cause : Nat) : State :=
  { State.reset with
    pending := s.pending, uptime := s.uptime, freeCtr := s.freeCtr, nextJob := s.nextJob, out := s.out,
    supply := { s.supply with por := false, resetHeld := false, resetWaiting := false, warnedAt := none },
    chip := { State.reset.chip with bootCause := cause, boots := s.chip.boots + 1, lc := s.chip.lc },
    alm := { s.alm with writes := [], lost := 0, gone := [], commits := [] },
    root := { s.root with keysLoaded := false },
    fuses := s.fuses,
    cards := mapAll CardSlot.empty (fun _ c => { CardSlot.empty with det := c.det, wp := c.wp }) s.cards,
    ports := mapAll Port.idle (fun _ p => { Port.idle with linkUp := p.linkUp }) s.ports,
    tamper := { State.reset.tamper with src := s.tamper.src },
    thermal := s.thermal,
    tap := { State.reset.tap with voted := false } }

end Sys2Proof.Machine
end

