-- ==== Sys2Proof/Machine/Partas.lean ====
section
/-! DEFINITION. The frame every Partas command runs in: reading its parameters and input (R128 to R130, R101), holding releases
while IDE is required (R91), the series of R540, and answering. -/

namespace Sys2Proof.Machine

/-! ### Parameters -/

/-- Byte `n` of the descriptor, for 40 ≤ n < 64. -/
def Desc.pb (d : Desc) (n : Nat) : Nat := byteAt d.params (n - 40)

/-- `k` bytes from byte `n` of the descriptor, little-endian. -/
def Desc.pn (d : Desc) (n k : Nat) : Nat := fieldLe d.params (n - 40) k

/-- Bytes `a` up to but not including `b` of the descriptor are 0. -/
def Desc.pz (d : Desc) (a b : Nat) : Bool := zeros d.params (a - 40) (b - 40)

/-- Content a check refuses: the descriptor byte it lies at, and whether it is bad there. -/
abbrev Checks := List (Nat × Bool)

/-- The byte offset of the first offending field, if any (R131). -/
def firstBad (l : Checks) : Option Nat :=
  (l.filter (fun e => e.2)).foldl (fun a e => match a with | none => some e.1 | some m => some (min m e.1)) none

/-- Bytes `a` up to but not including `b` must be 0: one check for each byte. -/
def Desc.rsv (d : Desc) (a b : Nat) : Checks := (List.range (b - a)).map (fun k => (a + k, d.pb (a + k) != 0))

/-- The latency class a descriptor asks for. -/
def Desc.lc (d : Desc) : Nat := d.flags % 4

/-- IN_SGL. -/
def Desc.sgl (d : Desc) : Bool := d.flags.testBit 5

/-- FENCE. -/
def Desc.fence (d : Desc) : Bool := d.flags.testBit 4

/-! ### Input -/

/-- A segment delivers its bytes; missing ones read 0. -/
def Seg.data (g : Seg) : List Byte := padTo g.len g.bytes

/-- How an input ends: a status, the bytes read that RESULT reports with a length mismatch, and the bytes. -/
structure JobIn where
  status : Nat
  read : Nat
  bytes : List Byte
  deriving DecidableEq, Repr

/-- The first event the host's data brings into the stream: its byte and its status. A translation failure at a byte comes before the
poison in it. -/
def JobIo.event (io : JobIo) : Option (Nat × Nat) :=
  if io.dmaFault ∧ (!io.poison ∨ io.faultAt ≤ io.poisonAt) then some (io.faultAt, eDmaFault)
  else if io.poison then some (io.poisonAt, ePoison)
  else none

/-- The status that ends a stream before byte `upto`; none where the event lies beyond. -/
def JobIo.stops (io : JobIo) (upto : Nat) : Option Nat := match io.event with | some (p, st) => if p < upto then some st else none | none => none

/-- Read a scatter list entry by entry up to byte `upto` (R130, R289, R290): `need` bytes are declared, `got` have been read. Events are
decided in the order of the stream. -/
def sglRead (io : JobIo) (need upto : Nat) : Nat → Nat → List Byte → List Seg → JobIn
  | n, got, acc, gs =>
    if upto ≤ got ∧ upto < need then ⟨stOk, got, acc⟩
    else if got = need then ⟨eLengthLong, got, []⟩
    else
      match n, gs with
      | n + 1, g :: gs =>
        if g.len = 0 ∨ 2 ≤ g.flags then ⟨eParam, got, []⟩
        else
          match io.stops (min (got + g.len) upto) with
          | some st => ⟨st, got, []⟩
          | none =>
            if need < got + g.len ∧ need ≤ upto then ⟨eLengthLong, need, []⟩
            else if g.flags = 1 then
              (if got + g.len < need then ⟨eLengthShort, got + g.len, []⟩ else ⟨stOk, need, acc ++ g.data⟩)
            else sglRead io need upto n (got + g.len) (acc ++ g.data) gs
      | _, _ => ⟨eParam, got, []⟩

/-- The input of a job up to byte `upto` (R288): of the contiguous range, or of the scatter list. -/
def jobInputTo (j : Job) (io : JobIo) (upto : Nat) : JobIn :=
  if j.desc.sgl then sglRead io j.desc.inLen upto 256 0 [] io.segs
  else match io.stops upto with
    | some st => ⟨st, 0, []⟩
    | none => ⟨stOk, j.desc.inLen, padTo j.desc.inLen io.input⟩

/-- The whole input of a job. -/
def jobInput (j : Job) (io : JobIo) : JobIn := jobInputTo j io j.desc.inLen

/-! ### Running -/

/-- IDE_REQUIRED holds fetches and releases: some configured stream is not Secure (R91). -/
def ideHold (s : State) : Bool :=
  s.link.ideReq && (List.range 3).any (fun i =>
    let x := mapGet IdeStream.none s.link.ide i
    x.configured && !x.secure)

/-- The device serves commands: power is good, and the mode fetches descriptors (R39). -/
def serving (s : State) : Bool := ungated s && s.chip.mode != .boot && s.chip.mode != .halt && !s.flt.fatal

/-- Opcodes that run one at a time in a series of their own (R540): group 0x01 class C, LC_ADVANCE. A second FW_UPDATE or group 0x09
command does not wait: it completes with E_MODE (R422, R460). -/
def seriesOf (op : Nat) : Nat :=
  if op / 256 = 1 ∧ op ≠ 0x0100 ∧ op ≠ 0x0101 ∧ op ≠ 0x0106 ∧ op ≠ 0x010C then 1
  else if op = 0x0B60 then 4
  else 0

/-- The commands that change the mode: they take effect in their order of admission (R76). -/
def modeCommand (op : Nat) : Bool := [0x0110, 0x0111, 0x0112, 0x0113, 0x0901, 0x0903].contains op

/-- A command waits for an older one of its series, and one that changes the mode for an older one that does; between commands of group 0x09
R422 decides. -/
def seriesWaits (op older : Nat) : Bool :=
  (seriesOf op != 0 && seriesOf older == seriesOf op) || (modeCommand op && modeCommand older && !(op / 256 == 9 && older / 256 == 9))

/-- No older command that the job waits for is unfinished. -/
def seriesHead (s : State) (j : Job) : Bool :=
  s.jobs.all (fun k => decide (j.id ≤ k.id) || !seriesWaits j.desc.opcode k.desc.opcode)

/-- A transition of a higher rank is taking effect: RESET# waits for the record writes in flight, or a FATAL fault is pending. Triggers of a
lower rank are dropped (R76). -/
def overtaken (s : State) : Bool := s.supply.resetWaiting || s.flt.fatal

/-- A command of a management core or the chip KMAC unit that needs a region all the same: it names, resolves or fills a volatile handle,
needs a DRBG, or works on a region's units (R72). -/
def Job.needsRegion (j : Job) : Bool :=
  j.keys.any (fun k => k.kind != 0) ||
    [0x0204, 0x0205, 0x0207, 0x0208, 0x0600, 0x0A00, 0x0A01, 0x0B40].contains j.desc.opcode ||
    (j.desc.opcode == 0x0B30 && decide (j.desc.pn 44 2 < 148))

/-- The activation of an event is to be prepared: from 1 ms before INSTANT (R380). -/
def prepDue (s : State) (v : EvRec) : Bool :=
  eventsFire s && s.tb.set && v.state == 0 && v.spec.kind == 1 && !v.corrupt && decide (v.spec.instant ≤ s.tb.time + 1000000)

/-- A job needs the chip KMAC unit now: DERIVE or EPOCH_HANDLE, the sealing of LANE_PREFILL, or a derived key an engine's job resolves and no
cache holds (R156). -/
def kmacUser (s : State) (k : Job) : Bool :=
  k.res.isNone &&
    (k.pos == .running unitKmac || (k.onChip && k.desc.opcode == 0x0805) || (k.assigned && !k.queued && kmacNeeds s k))

/-- The chip KMAC unit takes a job when no key-lane miss and no event's preparation waits for it, by class and then age (R156). -/
def kmacFree (s : State) (j : Job) : Bool :=
  !(List.range 8).any (missReady s) && !(eventList s).any (fun e => prepDue s e.2) &&
    s.jobs.all (fun k => !kmacUser s k || decide (j.lc < k.lc) || (j.lc == k.lc && decide (j.id ≤ k.id)))

/-- A job that needs the unit has its turn there. -/
def kmacTurn (s : State) (j : Job) : Bool := !kmacUser s j || kmacFree s j

/-- A command of a management core or of the chip KMAC unit runs when it stands there, has no result yet, and no result may
be held back. -/
def mgmtReady (s : State) (j : Job) (op : Nat) : Bool :=
  serving s && j.desc.opcode == op && j.onChip && j.res.isNone && !ideHold s && seriesHead s j && !(noRegion s && j.needsRegion) &&
    (unitOnline s 172 || unitOnline s 173) && kmacTurn s j

/-- Run a management command: `f` gives the state after it. -/
def runMgmt (s : State) (job op : Nat) (f : Job → State) : Res :=
  match getJob s job with
  | some j => doIf s (mgmtReady s j op) (f j)
  | none => .next s

/-- The translation of an output page fails before release: the job ends with E_DMA_FAULT (R101). -/
def outPage (j : Job) (io : JobIo) (r : JobRes) : JobRes :=
  if io.dmaFault ∧ r.status = stOk ∧ r.out ≠ [] ∧ !j.hdm ∧ !j.ofEvent then JobRes.status0 eDmaFault 0 else r

/-- Answer a command that changes nothing more: its result goes out, or E_CAPACITY (R129). -/
def answer (s : State) (j : Job) (io : JobIo) (r : JobRes) : State :=
  let r' := outPage j io (r.fit j.desc.outCap)
  let u := if j.pos = .running unitKmac then unitKmac else unitMgmt
  if r'.status = stOk then finishJob s { j with unit := u } r' io
  else
    endJob s j { Cpl.bare s r'.status r'.detail u with replays := j.replays, outLen := r'.outNeed, result := r'.result } io.cycles
      io.cplFault

/-- Answer with a status alone. -/
def refuse (s : State) (j : Job) (io : JobIo) (status : Nat) : State := answer s j io (JobRes.status0 status 0)

/-- Answer OK with nothing. -/
def answerOk (s : State) (j : Job) (io : JobIo) : State := answer s j io (JobRes.done [] 0)

/-- Finish a command that waited for something else than its row; with IDE required and not secure its result is held (R91). -/
def settle (s : State) (j : Job) (io : JobIo) (r : JobRes) : State :=
  if ideHold s then putJob s { j with res := some r, pos := .staged false, unit := unitMgmt, parked := false }
  else answer s j io r

/-- The result of an input that ended the job: a length mismatch reports the bytes read (R289). -/
def JobIn.fail (i : JobIn) : JobRes :=
  { JobRes.status0 i.status 0 with result := if i.status = eLengthShort ∨ i.status = eLengthLong then i.read else 0 }

/-- A job reads `len` bytes of its input from offset `off` before anything else goes out. A scatter list is read whole: its entries come
from its own address. -/
def withReadAt (s : State) (j : Job) (off len : Nat) (t : State) : State :=
  if j.desc.inLen = 0 ∨ j.ofEvent then t
  else
    let r : Out := .dmaRead j.slice j.qp (qpPasid s j.slice j.qp) (j.desc.inAddr + (if j.desc.sgl then 0 else off)) len
    { t with out := s.out ++ r :: t.out.drop s.out.length }

/-- The reads of a job's input go out under its queue pair's PASID, ahead of what it sends itself (R100). -/
def withRead (s : State) (j : Job) (t : State) : State := withReadAt s j 0 j.desc.inLen t

/-- Run on the input: an input that could not be read ends the job (R101, R130). -/
def withInput (s : State) (j : Job) (io : JobIo) (f : List Byte → State) : State :=
  let i := jobInput j io
  withRead s j (if i.status = stOk then f i.bytes else answer s j io i.fail)

/-- Stage the result of an engine job: its engine is free again, and it waits for a check or for its release (R20, R23, R25). The cell and the
BNE of a second execution keep running (R27). -/
def stage (s : State) (j : Job) (r : JobRes) (check : Bool) : State :=
  putJob (freeBnesIf (freeCellsBut s j.id j.second) j.id (fun r => !r.twin)) { j with res := some r, pos := .staged check }

/-- An error ends an engine job at once: nothing of it leaves the device. -/
def stageFail (s : State) (j : Job) (io : JobIo) (r : JobRes) : State :=
  endJob s j { Cpl.bare s r.status r.detail j.unit with replays := j.replays, outLen := r.outNeed, result := r.result } io.cycles
    io.cplFault

/-- An engine job runs on its input. -/
def engineInput (s : State) (j : Job) (io : JobIo) (f : List Byte → State) : State :=
  let i := jobInput j io
  withRead s j (if i.status = stOk then f i.bytes else stageFail s j io i.fail)

/-- Run an engine job standing on the unit it needs. -/
def runEngine (s : State) (job op : Nat) (p : Job → Bool) (f : Job → State) : Res :=
  match getJob s job with
  | some j => doIf s (serving s && j.desc.opcode == op && j.res.isNone && p j) (f j)
  | none => .next s

/-- A job runs on a cell. -/
def Job.onCell (j : Job) : Bool := match j.pos with | .running u => decide (u < 128) | _ => false

/-- A job runs on a digest engine's context. -/
def Job.onDe (j : Job) : Bool := match j.pos with | .running u => decide (0x90 ≤ u) && decide (u < 0xA0) | _ => false

end Sys2Proof.Machine
end

