-- ==== Sys2Proof/Machine/Rng.lean ====
section
/-! DEFINITION. The random bit chain (chapter 11): noise source and health tests, conditioner, expanders, their failures, and
RNG_TEST. -/

namespace Sys2Proof.Machine

/-! ### Sources and expanders -/

/-- The chain of region `r`. -/
def rngOf (s : State) (r : Nat) : Rng := (getRegion s r).rng

/-- Expander `r` is instantiated and reads do not stall at it; its region is ONLINE (R197). -/
def drbgReady (s : State) (r : Nat) : Bool := (rngOf s r).drbg == 1 && regionOnline s r

/-- Source `r` is OK. -/
def srcOk (s : State) (r : Nat) : Bool := (rngOf s r).src == 2

/-- Regions n + 1, n + 2, n + 3, modulo 4. -/
def otherRegions (r : Nat) : List Nat := [(r + 1) % 4, (r + 2) % 4, (r + 3) % 4]

/-- Expander `r` is instantiated, be it that it waits for the block of a reseed; its region is ONLINE. -/
def drbgUp (s : State) (r : Nat) : Bool := ((rngOf s r).drbg == 1 || (rngOf s r).drbg == 2) && regionOnline s r

/-- The expander that region `r`'s reads go to: its own, else the first instantiated among the others (R305). -/
def drbgFor (s : State) (r : Nat) : Option Nat := (r :: otherRegions r).find? (drbgUp s)

/-- The expander that serves region `r`'s reads now; none while the one they go to waits for its reseed, where they stall (R302). -/
def servingDrbg (s : State) (r : Nat) : Option Nat := (drbgFor s r).filter (drbgReady s)

/-- Every source is FAILED (R307). -/
def allFailed (s : State) : Bool := (List.range 4).all (fun r => (rngOf s r).src == 4)

/-- Generate calls of expander `r`. -/
def callDrbg (s : State) (r n : Nat) : State := modRng s r (fun x => { x with calls := x.calls + n })

/-- Expander `r` is instantiated with a block (R299, R305); one that failed its known-answer test stays FAILED until BOOT (R309). -/
def instantiate (s : State) (r : Nat) : State :=
  modRng s r (fun x => if x.drbg = 4 then x else { x with drbg := 1, calls := 0, seededAt := s.uptime })

/-- Expander `r` is reseeded (R302). -/
def reseeded (s : State) (r : Nat) : State :=
  modRng s r (fun x => { x with drbg := 1, calls := 0, seededAt := s.uptime, reseeds := x.reseeds + 1 })

/-- The oldest block of source `q` is used, at most once. -/
def useBlock (s : State) (q : Nat) : State := modRng s q (fun x => { x with blocks := x.blocks.tail })

/-- Region `r` takes its blocks from source `q` and has one to take. -/
def hasBlock (s : State) (q : Nat) : Bool := !(rngOf s q).blocks.isEmpty

/-- An expander that waits for a block takes the one at hand: it is instantiated, or ends its reseeding. -/
def feed (s : State) (r : Nat) : State :=
  let q := (rngOf s r).seedSrc
  if hasBlock s q ∧ srcOk s q then
    (if (rngOf s r).drbg = 0 then instantiate (useBlock s q) r
     else if (rngOf s r).drbg = 2 then reseeded (useBlock s q) r
     else s)
  else s

/-- A region whose source is FAILED depends on the first OK source after it (R306). -/
def moveDependent (s : State) (r : Nat) : State :=
  if (rngOf s r).src = 4 ∧ !srcOk s (rngOf s r).seedSrc then
    match (otherRegions r).find? (srcOk s) with
    | some q => modRng s r (fun x => { x with seedSrc := q })
    | none => s
  else s

/-- Every region finds its source and, where it waits, a block. -/
def settleRng (s : State) : State := (List.range 4).foldl (fun t r => feed (moveDependent t r) r) s

/-- Failures of the last 3,600 s. -/
def recentFails (s : State) (l : List Nat) : List Nat := l.filter (fun t => decide (s.uptime < t + 3600 * 10 ^ 9))

/-- A health-test failure of source `r` (R305, R306): its blocks and its expander go; the third within the window makes it FAILED,
and the fourth FAILED source ends every expander (R307). A FAILED source stays so (R306). -/
def healthFail (s : State) (r cause : Nat) : State :=
  let ts := recentFails s (rngOf s r).failTimes ++ [s.uptime]
  let was := decide ((rngOf s r).src = 4)
  let dead := decide (3 ≤ ts.length) || was
  let t := modRng s r (fun x =>
    { x with failTimes := ts, cause := cause, blocks := [], cond := 0, drbg := if x.drbg = 4 then 4 else 0,
             src := if dead then 4 else 3 })
  if was then t
  else if dead then
    let u := raiseFault t 0x28 (0x90 + r) cause
    if allFailed u then
      raiseFault ((List.range 4).foldl (fun v q => modRng v q (fun x => { x with drbg := if x.drbg = 4 then 4 else 0, blocks := [] })) u) 0x33 0xC5 0
    else settleRng u
  else settleRng t

/-- The startup test of source `r` passes (R299, R305): the source is OK and its expander instantiated with the new block. -/
def startupPass (s : State) (r : Nat) : State :=
  settleRng (instantiate (modRng s r (fun x =>
    { x with src := 2, startFails := 0, seedSrc := r, cond := 0, blocks := [] })) r)

/-! ### Rows -/

/-- A health test of R298 alarms: KIND 1 repetition count, 2 adaptive proportion. During startup it is a startup failure. -/
def execHealthTestFailure (rgn kind : Nat) (s : State) : Res :=
  known (decide (rgn < 4))
    (let x := rngOf s rgn
     let t := modRng s rgn (fun x =>
       { x with rct := if kind = 1 then satInc 0xFFFF x.rct else x.rct, apt := if kind = 2 then satInc 0xFFFF x.apt else x.apt })
     doIf s (alive s && s.chip.mode != .boot && (kind == 1 || kind == 2) && (x.src == 1 || x.src == 2 || x.src == 3))
       (if x.src = 2 then healthFail t rgn kind else t))

/-- The startup test of a source ends (R299, R301, R305). In ASSAY, and in the start-up of R538, a failure restarts the source; the
third in a row is a failed region test, which ASSAY_END reports. -/
def execRngStartupDone (rgn : Nat) (ok : Bool) (s : State) : Res :=
  known (decide (rgn < 4))
    (let x := rngOf s rgn
     let t := modRng s rgn (fun x => { x with startFails := x.startFails + 1, cond := 0, blocks := [], cause := 4 })
     doIf s (alive s && s.chip.mode != .boot && (x.src == 1 || x.src == 3))
       (if ok then startupPass s rgn
        else if x.src = 1 then t
        else healthFail t rgn 4))

/-- Raw sample `k` of a block. -/
def rawSample (raw : BitVec 1024) (k : Nat) : Bool := raw.getLsbD k

/-- The length of the run of equal samples that ends a list, and the longest run seen. -/
def runStep (a : Option Bool × Nat × Nat) (b : Bool) : Option Bool × Nat × Nat :=
  let n := if a.1 = some b then a.2.1 + 1 else 1
  (some b, n, max a.2.2 n)

/-- Both health tests pass over the 1,024 samples of a block (R298): no run of 41, and fewer than 792 samples of the first one's
value. -/
def healthy (raw : BitVec 1024) : Bool :=
  let l := (List.range 1024).map (rawSample raw)
  decide ((l.foldl runStep (none, 0, 0)).2.2 < 41) && decide ((l.filter (· == rawSample raw 0)).length < 792)

/-- One sample through the conditioner (R297). -/
def condStep (c : BitVec 127) (b : Bool) : BitVec 127 :=
  let fb := Bool.xor (Bool.xor (c.getLsbD 126) (c.getLsbD 125)) b
  BitVec.ofNat 127 (c.toNat * 2 + b2n fb)

/-- The conditioner over a list of samples. -/
def condRun (c : BitVec 127) (l : List Bool) : BitVec 127 := l.foldl condStep c

/-- The 12 bytes of an extraction. -/
def condOut (c : BitVec 127) : List Byte := leBytes 12 (c.toNat % 2 ^ 96)

/-- A block of four extractions of 256 samples each, and the state after it. -/
def condBlock (c : BitVec 127) (sample : Nat → Bool) : BitVec 127 × List Byte :=
  (List.range 4).foldl (fun a i =>
    let d := condRun a.1 ((List.range 256).map (fun k => sample (256 * i + k)))
    (d, a.2 ++ condOut d)) (c, [])

/-- Whether region `r` waits for a block of source `q`. -/
def waitsFor (s : State) (q r : Nat) : Bool :=
  let x := rngOf s r
  x.seedSrc == q && (x.drbg == 0 || x.drbg == 2) && (x.src == 4 || x.src == 2)

/-- A block is complete (R295 to R297): the regions that wait for one are served in turn (R306), else it is buffered, at most
four. -/
def execConditionerBlockReady (rgn : Nat) (raw : BitVec 1024) (s : State) : Res :=
  known (decide (rgn < 4))
    (let x := rngOf s rgn
     let b := condBlock x.cond (rawSample raw)
     let t := modRng s rgn (fun x =>
       { x with cond := b.1, blocks := if x.blocks.length < 4 then x.blocks ++ [b.2] else x.blocks })
     let order := (List.range 4).map (fun i => (x.turn + 1 + i) % 4)
     let u := match order.find? (waitsFor t rgn) with
       | some m => modRng (feed t m) rgn (fun y => { y with turn := m })
       | none => t
     doIf s (alive s && x.src == 2 && healthy raw) u)

/-- An expander reseeds after 2^20 generate calls or 1 s: with the oldest block, or it waits for one (R302). -/
def execDrbgAutoReseed (rgn : Nat) (s : State) : Res :=
  known (decide (rgn < 4))
    (let x := rngOf s rgn
     let t := modRng s rgn (fun y => { y with drbg := 2 })
     doIf s (alive s && x.drbg == 1 && (decide (2 ^ 20 ≤ x.calls) || decide (x.seededAt + 10 ^ 9 ≤ s.uptime))) (feed t rgn))

/-- Failures older than 3,600 s leave the window; a FAILED source stays FAILED (R306). -/
def execRngFailureWindowExpire (rgn : Nat) (s : State) : Res :=
  known (decide (rgn < 4))
    (doIf s (alive s) (modRng s rgn (fun x => { x with failTimes := recentFails s x.failTimes })))

/-- The known-answer input of the conditioner: sample k is the parity of the ones in k (R308). -/
def katSample (k : Nat) : Bool := parityOf k 15 0

/-- The known-answer block. -/
def katBlock : List Byte := (condBlock 0 katSample).2

/-- The known-answer tests of a region (R308, R309): the answer is RESULT and the state. -/
def knownAnswer (s : State) (r : Nat) (tests : List Bool) : Nat × State :=
  let c := tests.getD 0 true
  let e := tests.getD 1 true
  let t := if c then s else healthFail (modRng s r (fun x => { x with cause := 3 })) r 3
  let u :=
    if !e then modRng t r (fun x => { x with drbg := 4 })
    else if c ∧ (rngOf t r).drbg ≠ 4 then feed (modRng t r (fun x => { x with drbg := 0 })) r
    else t
  (b2n c + 2 * b2n e, u)

/-- A restart of a source with its startup test (R301, R309). -/
def restartSource (s : State) (r : Nat) (tests : List Bool) : Nat × State :=
  let ok := tests.getD 2 true
  if ok then (4, startupPass s r)
  else
    (0, healthFail (modRng s r (fun x => { x with startFails := x.startFails + 1 })) r 4)

/-- RNG_TEST (R308, R309). -/
def execRngTest (job : Nat) (io : JobIo) (s : State) : Res :=
  runMgmt s job 0x0B40 (fun j =>
    let r := j.desc.pb 40
    let x := if j.desc.pb 41 = 0 then knownAnswer s r io.tests else restartSource s r io.tests
    -- A conditioner that fails its test produces some other block.
    answer x.2 j io (JobRes.done
      (if j.desc.pb 41 ≠ 0 then List.replicate 48 0 else if io.tests.getD 0 true then katBlock else freeByteList 0 s.freeCtr 48) x.1))

/-! ### Randomness for jobs -/

/-- A job that needs randomness runs with the expander that serves its region; it waits while none is instantiated, and ends with
E_RNG when every source is FAILED (R197, R307). `n` is the number of generate calls. -/
def withRng (s : State) (j : Job) (n : Nat) (fail : State) (f : State → State) : State :=
  match servingDrbg s (if j.region < 4 then j.region else 0) with
  | some r => f (callDrbg s r n)
  | none => if allFailed s then fail else s

/-- GET_RANDOM (R196, R197): with PR the expander is reseeded first with an unused block, and the request waits for one (R304). -/
def execGetRandom (job : Nat) (io : JobIo) (s : State) : Res :=
  runMgmt s job 0x0600 (fun j =>
    let n := j.desc.pn 44 4
    let give := fun (x : State) => answer (drew' x n) j io (JobRes.done (drawBytes x n) 0)
    match servingDrbg s 0 with
    | none => if allFailed s then refuse s j io eRng else s
    | some r =>
      if j.desc.pb 40 % 2 = 1 then
        let q := (rngOf s r).seedSrc
        if hasBlock s q then give (callDrbg (reseeded (useBlock s q) r) r ((n + 4095) / 4096)) else s
      else give (callDrbg s r ((n + 4095) / 4096)))

/-! ### Registers -/

/-- RNG_SUMMARY. -/
def regRngSummary (s : State) : Nat :=
  b2n (allFailed s) * 2 ^ 9 + b2n ((List.range 4).any (fun r => (rngOf s r).drbg == 1 || (rngOf s r).drbg == 2 || (rngOf s r).seededAt != 0)) * 2 ^ 8 +
    maskOf (fun r => (rngOf s r).drbg == 1 || (rngOf s r).drbg == 2) 4 * 2 ^ 4 + maskOf (srcOk s) 4

/-- RNG_SRCn. -/
def regRngSrc (s : State) (r : Nat) : Nat :=
  let x := rngOf s r
  x.cause * 2 ^ 9 + x.seedSrc * 2 ^ 6 + min 3 (recentFails s x.failTimes).length * 2 ^ 4 + x.src

/-- RNG_ALARMSn. -/
def regRngAlarms (s : State) (r : Nat) : Nat := (rngOf s r).apt * 2 ^ 16 + (rngOf s r).rct

/-- RNG_DRBGn. -/
def regRngDrbg (s : State) (r : Nat) : Nat :=
  let x := rngOf s r
  x.drbg * 2 ^ 29 + maskOf (fun m => drbgFor s m == some r) 4 * 2 ^ 24 + x.reseeds.toNat

end Sys2Proof.Machine
end

