-- ==== Sys2Proof/Machine/Clock.lean ====
section
/-! DEFINITION. What a nanosecond without a command does (R3, R209, R228, R234, R351, R363, R364): the clocks that every deadline of the
model is read from (assumption 2). -/

namespace Sys2Proof.Machine

/-- Cell-clock cycles that begin in the nanosecond after `t`: the clock runs at 1.6 GHz (R3). -/
def cyclesAt (t : Nat) : Nat := 8 * (t + 1) / 5 - 8 * t / 5

/-- The request of cell `n` runs on a BNE of its region: that of its block, or the one that stands in for it (R263, R264). -/
def bneRunsFor (s : State) (n : Nat) : Bool :=
  (List.range 4).any (fun i =>
    let b := (getBlock s (4 * (n / 32) + i)).bne
    b.run.any (fun r => r.cell == some n) || b.long.any (fun r => r.cell == some n))

/-- The watchdog counts at this word: a stall, a gate that runs for a customer word (R249), or a wait but for COND 15, COND 14 at 0x000, and
COND 11 while the request is queued (R209, R263). `onBne` says that the request runs. -/
def wdCounts (c : Cell) (onBne : Bool) : Bool :=
  let k := wCond (mapGet 0 c.store c.pc)
  c.stalled || (c.job.isSome && gateEntry c.pc && !c.hold) || (c.hold && k != 15 && !(k == 14 && c.pc == 0) && !(k == 11 && !onBne))

/-- The mask pool after `k` cycles: it fills until it is full. Output goes on while a reseed is due; a generator that cannot reseed stops
(R228). -/
def fillPool (k : Nat) (c : Cell) : Cell :=
  let n := min k (16384 - c.maskLevel)
  if c.maskStopped then c else { c with maskLevel := c.maskLevel + n, maskOut := c.maskOut + n }

/-- CELL_JOBLIM after `k` cycles: it counts down every 1,024 cycles in the customer window (R234). -/
def countLimit (k : Nat) (c : Cell) : Cell :=
  if c.job.isSome && custPc c then
    (if 1024 ≤ c.jobSub + k then { c with jobSub := c.jobSub + k - 1024, jobLim := c.jobLim - 1 }
     else { c with jobSub := c.jobSub + k })
  else c

/-- A cell after `k` cycles of its clock. -/
def cellCycles (k : Nat) (onBne seeded : Bool) (c : Cell) : Cell :=
  let d := countLimit k (if seeded then fillPool k c else c)
  { d with timer := d.timer - k, wd := if wdCounts d onBne then d.wd + k else d.wd }

/-- The clock of cell `n` runs: its domain is ACTIVE, it is in service and the clock monitor has not halted it. -/
def cellClocked (s : State) (n : Nat) : Bool := cellServes s n && (getDom s n).state == 0 && !(getCell s n).halted

/-- Mask generators of a region are seeded once its expander has been instantiated (R300). -/
def masksSeeded (s : State) (r : Nat) : Bool := (rngOf s r).drbg != 0 || (rngOf s r).seededAt != 0

/-- Every cell for `k` cycles. -/
def tickCells (k : Nat) (s : State) : State :=
  (List.range 128).foldl (fun t n =>
    if cellClocked t n then modCell t n (cellCycles k (bneRunsFor t n) (masksSeeded t (n / 32))) else t) s

/-- One tick of the timebase's own clock: at half rate during a backward slew (R363). It stops before the value that means never (R12). -/
def tickOnce (b : Timebase) : Timebase :=
  match b.slew with
  | some (n + 1) =>
    if b.slewPhase then { b with slewPhase := false, time := min (b.time + 1) lastTime, slew := some n } else { b with slewPhase := true }
  | _ => { b with time := min (b.time + 1) lastTime }

/-- A steered timebase is due a tick more than the nanoseconds that have passed (R357). -/
def tickDue (b : Timebase) : Bool := b.set && decide (1000000000 ≤ b.steerAcc)

/-- The timebase in a nanosecond: it counts once it is set, but for the ticks that its steering takes from it; HOLDOVER time counts (R351,
R357, R364). -/
def tickTime (b : Timebase) : Timebase :=
  let c := if b.cond = .holdover then { b with hold := b.hold + 1 } else b
  if !c.set then c
  else
    let d := { c with steerAcc := c.steerAcc + c.steer }
    if d.steerAcc ≤ -1000000000 then { d with steerAcc := d.steerAcc + 1000000000 } else tickOnce d

/-- The blinding buffers of the BNEs fill up from their region's DRBG, or from the one that serves it (R253, R274): within a nanosecond
(DESIGN CHOICE, log entry 52), by one generate call. -/
def refillBlinds (s : State) : State :=
  (List.range 16).foldl (fun t b =>
    if (getBlock t b).bne.blind = 4096 ∨ !bneServes t b then t
    else match servingDrbg t (b / 4) with
      | some r => modBne (callDrbg t r 1) b (fun e => { e with blind := 4096 })
      | none => t) s

/-- The clocks of the cells run: no supply warning gates them, and the device is neither in BOOT nor in HALT. -/
def cellsClocked (s : State) : Bool := ungated s && s.chip.mode != .boot && s.chip.mode != .halt

/-- One nanosecond passes; or, between two of them, the timebase makes the tick that its steering adds, so that it reaches every instant
(R357). The timebase counts in every mode (R41, R80). -/
def clockTick (s : State) : State :=
  if alive s && tickDue s.tb then { s with tb := tickOnce { s.tb with steerAcc := s.tb.steerAcc - 1000000000 } }
  else
  let t := { s with uptime := s.uptime + 1, tb := if alive s then tickTime s.tb else s.tb }
  if cellsClocked s then refillBlinds (tickCells (cyclesAt s.uptime) t) else t

end Sys2Proof.Machine
end

