-- ==== Sys2Proof/Machine/Faults.lean ====
section
/-! DEFINITION. The fault rows and commands (chapter 19): detection, fencing, quiet periods and recovery tests, takeover, FATAL,
and group 0x0B's fault commands. -/

namespace Sys2Proof.Machine

/-- A fault source raises a fault in a unit (R465, R467). -/
def execFaultDetect (src unit info : Nat) (s : State) : Res :=
  known (unitKnown unit) (doIf s (alive s && s.chip.mode != .halt && srcUnitOk src unit) (raiseFault s src unit info))

/-- A fenced unit's scrub ends: ACTED sets and the quiet period starts; a unit that has made LIMIT recoveries within WINDOW
goes to FAILED instead (R469, R475, R476). -/
def execFenceActed (fu : Nat) (s : State) : Res :=
  known (decide (fu < 174))
    (let u := getUnit s fu
     let t := actedIn s (fencerOf fu) fu
     let done :=
       if s.flt.recov.limit ≤ recoveries s (unitNo fu) then
         (if 144 ≤ fu ∧ fu < 148 then failRegion t (fu - 144) u.src 0 else failUnit t fu u.src 0)
       else modUnit t fu (fun x => { x with acting := false, quietFrom := some s.uptime })
     doIf s (alive s && u.state == .fenced && u.acting) done)

/-- The quiet period of a unit is over. -/
def quietOver (s : State) (u : FltUnit) : Bool :=
  match u.quietFrom with
  | some t => decide (t + s.flt.recov.quiet * 1000000 ≤ s.uptime)
  | none => false

/-- A quiet period ends: the unit enters RECOVERING, which counts as one recovery, committed when it starts (R475, R477). -/
def execQuietPeriodEnd (fu : Nat) (s : State) : Res :=
  known (decide (fu < 174))
    (let u := getUnit s fu
     doIf s (alive s && s.chip.mode != .boot && s.chip.mode != .halt && u.state == .fenced && !u.acting && quietOver s u)
       (noteRecovery (modUnit (setUnit s fu .recovering) fu (fun x => { x with quietFrom := none })) (unitNo fu)))

/-- What a unit's recovery test puts in place (R475): a cell's microstore, and the block control core clears its CELL_MCHK (R234; DESIGN
CHOICE, log entry 50); a BNE's control store; a region's RNG restarts; a PHY's port starts anew. -/
def recovered (s : State) (k : Nat) : State :=
  if k < 128 then modDom (modCell s k (fun c => { (c.wipe).reloadMaker (fun _ => true) with mCause := 0, mPc := 0 })) k (fun d => { Dom.active with retLost := d.retLost, aborts := d.aborts })
  else if k < 144 then modDom s k (fun d => { Dom.active with retLost := d.retLost, aborts := d.aborts })
  else if k < 148 then
    modRng (modDom s k (fun d => { Dom.active with retLost := d.retLost, aborts := d.aborts })) (k - 144)
      (fun r => { r with src := 3, drbg := 0, blocks := [], rct := 0, apt := 0 })
  else if k < 164 then modBne s (k - 148) (fun b => { b with out := false })
  else if k < 172 then
    let t := modDom s (k - 12) (fun d => { Dom.active with retLost := d.retLost, aborts := d.aborts })
    -- A port that was fenced leaves DISABLED: its seal generation rises (R388).
    if portsServe s ∧ (portNow s (k - 164)).paired ∧ ¬ (portNow s (k - 164)).quarantined then raiseGen t (k - 164) 2 none else t
  else s

/-- A recovery test ends: the unit returns to ONLINE, or the failure is a fault of its source at CONTAIN and a new quiet period
starts, or it goes to FAILED (R475, R476). -/
def execRecoveryTestDone (fu : Nat) (ok : Bool) (s : State) : Res :=
  known (decide (fu < 174))
    (let u := getUnit s fu
     let r := newRec s u.src 2 (unitNo fu) 0 []
     -- Recorded at the unit's own level, and by the handler that fences it again (R472).
     let t := if handlerOf (unitNo fu) = fencerOf fu then s else record s (handlerOf (unitNo fu)) r []
     let fail := modUnit (setUnit (record t (fencerOf fu) r [fu]) fu .fenced) fu (fun x => { x with acting := true, quietFrom := none })
     doIf s (alive s && s.chip.mode != .boot && s.chip.mode != .halt && u.state == .recovering)
       (if ok then placeCopies (recovered (setUnit s fu .online) fu) else fail))

/-- The standby management core becomes active (R469, R540): unreleased management commands are replayed on it, interrupts of
the old core return to PENDING. -/
def execMgmtTakeover (s : State) : Res :=
  let a := s.chip.activeMgmt
  let t := { s with chip := { s.chip with activeMgmt := 1 - a } }
  doIf s (alive s && !unitOnline s (172 + a) && unitOnline s (172 + (1 - a)))
    (releaseProc (forJobs (fun j => j.onChip && !j.isReleased) (fun x j => replayJob x j false) t) (20 + a))

/-- FATAL is carried out: writes in flight finish, every admitted job whose completion is unwritten completes with E_INTERNAL, and the device
enters HALT (R479). A recorded life-cycle intent stays (R78). -/
def execFatalHalt (io : JobIo) (s : State) : Res :=
  let t := forJobs (fun _ => true) (fun x j =>
    endJob x j { Cpl.bare x eInternal 0 (if j.onChip then unitMgmt else j.unit) with replays := j.replays } 0 io.cplFault) (finishWrites s)
  doIf s (alive s && s.flt.fatal && s.chip.mode != .halt)
    (enterHalt (discardWrites t) 10 (lastLogSeq s))

/-! ### Commands (R478) -/

/-- FAULT_CONFIG releases at its ledger commit to recovery record 4. -/
def execFaultConfig (job : Nat) (_ : JobIo) (s : State) : Res :=
  runMgmt s job 0x0B20 (fun j =>
    let d := j.desc
    stageCommit s j (JobRes.done [] 0)
      [match d.pb 40 with
       | 0 => .faultSev (d.pb 41) (if d.pb 42 = 0xFF then 0 else d.pb 42 + 1)
       | 1 => .faultQuiet (d.pn 44 4)
       | _ => .faultLimit (d.pb 41) (d.pn 44 2)])

/-- The records of a handler: the first-error record, then the 16 history records, newest first. -/
def handlerBytes (h : Handler) : List Byte :=
  let z := List.replicate 32 0
  (match h.first with | some r => r.bytes | none => z) ++
    ((List.range 16).map (fun i => match h.hist[i]? with | some r => r.bytes | none => z)).flatten

/-- The handler that contains a unit: for a unit of the chip level, the chip handler. -/
def containerOf (u : Nat) : Nat := match unitBit u with | some k => fencerOf k | none => 0

/-- FAULT_QUERY. -/
def execFaultQuery (job : Nat) (io : JobIo) (s : State) : Res :=
  runMgmt s job 0x0B21 (fun j =>
    let u := j.desc.pn 44 2
    let x := match unitBit u with | some k => getUnit s k | none => FltUnit.inService
    let left := match x.quietFrom with
      | some t => (t + s.flt.recov.quiet * 1000000 - s.uptime) / 1000000
      | none => 0
    let out := leBytes 1 x.state.code ++ leBytes 1 (recoveries s u) ++ [0, 0] ++ leBytes 4 left ++ List.replicate 8 0 ++
      handlerBytes (getHandler s (containerOf u))
    answer s j io (JobRes.done out 0))

/-- The block control core clears CELL_MCHK of the cells whose records are cleared (R234; DESIGN CHOICE, log entry 50). -/
def clearChecks (s : State) (h : Nat) : State :=
  { s with cells := mapAll Cell.reset (fun n c => if handlerOf n = h then { c with mCause := 0, mPc := 0 } else c) s.cells }

/-- FAULT_CLEAR: ACTION 0 clears a handler's records, ACTION 1 returns a FAILED unit to RECOVERING and forgets its
recoveries. -/
def execFaultClear (job : Nat) (io : JobIo) (s : State) : Res :=
  runMgmt s job 0x0B22 (fun j =>
    let u := j.desc.pn 44 2
    if j.desc.pb 40 = 0 then
      answerOk (clearChecks (noteFirst s (modHandler s (handlerOf u) (fun h => { h with first := none, hist := [] }))) (handlerOf u)) j io
    else
      match unitBit u with
      | none => refuse s j io eMode
      | some k =>
        if (getUnit s k).state ≠ .failed then refuse s j io eMode
        else stageCommit s j (JobRes.done [] 0) [.faultClear k u])

/-- FAULT_INJECT raises the source as though detected. -/
def execFaultInject (job : Nat) (io : JobIo) (s : State) : Res :=
  runMgmt s job 0x0B23 (fun j => raiseFault (answerOk s j io) (j.desc.pb 41) (j.desc.pn 44 2) 0)

/-- What check 2 looks at in a fault command (R478). -/
def faultChecks (d : Desc) : Checks :=
  match d.opcode with
  | 0x0B20 =>
    (match d.pb 40 with
     | 0 => [(41, (srcRow (d.pb 41)).isNone), (42, d.pb 42 != 0xFF && !(srcRow (d.pb 41)).any (fun r => r.allowed.contains (d.pb 42)))] ++
         d.rsv 43 64
     | 1 => (44, decide (d.pn 44 4 < 1) || decide (60000 < d.pn 44 4)) :: (d.rsv 41 44 ++ d.rsv 48 64)
     | 2 => [(41, decide (d.pb 41 < 1) || decide (15 < d.pb 41)), (44, decide (d.pn 44 2 < 1) || decide (168 < d.pn 44 2))] ++
         d.rsv 42 44 ++ d.rsv 46 64
     | _ => [(40, true)])
  | 0x0B21 => (44, !unitKnown (d.pn 44 2)) :: (d.rsv 40 44 ++ d.rsv 46 64)
  | 0x0B22 => [(40, decide (1 < d.pb 40)), (44, !unitKnown (d.pn 44 2))] ++ d.rsv 41 44 ++ d.rsv 46 64
  | _ => [(40, d.pb 40 != 0), (41, (srcRow (d.pb 41)).isNone), (44, !srcUnitOk (d.pb 41) (d.pn 44 2))] ++ d.rsv 42 44 ++ d.rsv 46 64

end Sys2Proof.Machine
end

