-- ==== Sys2Proof/Machine/Banks.lean ====
section
/-! DEFINITION. The Almanac as bytes (R5, R9, R336): ledger banks (R338) with the payloads whose layout the spec gives (R321, R341, R346, R371,
R389, R390, R454, R477), progress pages (R344) and event-log entries (R348). Bytes that the spec does not lay out are free values (log entry
12). -/

namespace Sys2Proof.Machine

/-- Byte `a` of the Almanac where the spec gives no layout, for content number `q`. -/
def freeAlm (a q : Nat) : Byte := BitVec.truncate 8 (Config.freeWord 4 (a + 2 ^ 27 * q))

/-- 256 bytes the spec does not lay out. -/
def freeUnit (a q : Nat) : List Byte := (List.range 256).map (fun i => freeAlm (a + i) q)

/-! ### Records -/

/-- TYPE of a record ID (R337). -/
def recType (rid : Nat) : Nat :=
  if rid = 0 then 1 else if rid = 1 then 2 else if rid = 2 then 3 else if rid < 8 then 4 else if rid < 144 then 5
  else if rid < 17408 then 6 else if rid < 33792 then 7 else if rid < 50176 then 8 else 9

/-- The 48 bytes of an event specification (R368). -/
def EvSpec.bytes (e : EvSpec) : List Byte :=
  leBytes 1 e.kind ++ leBytes 1 e.flags ++ List.replicate 6 0 ++ leBytes 8 e.instant ++ leBytes 8 e.arg0 ++ leBytes 8 e.arg1 ++
    leBytes 8 e.arg2 ++ leBytes 8 e.cookie

/-- The 56 bytes of a durable event's entry (R371). -/
def EvEnt.bytes (e : EvEnt) : List Byte := leBytes 4 e.id ++ leBytes 1 e.slice ++ leBytes 1 e.state ++ [0, 0] ++ e.spec.bytes

/-- The 8 bytes of a slot-table entry (R321). -/
def SlotEnt.bytes (e : SlotEnt) : List Byte := leBytes 2 e.gen ++ leBytes 1 e.state ++ leBytes 1 e.slice ++ leBytes 2 e.alg ++ leBytes 2 e.policy

/-- The 12 bytes of a port's entry of the device settings (R389). -/
def PortEnt.bytes (e : PortEnt) : List Byte :=
  leBytes 4 e.slot ++ leBytes 2 e.slotGen ++ leBytes 4 e.g ++ leBytes 1 (b2n e.paired + 2 * b2n e.quarantined) ++ [0]

/-- The payload of a leaf record (R344). -/
def Leaf.bytes (l : Leaf) : List Byte :=
  leBytes 4 l.slot ++ leBytes 2 l.gen ++ leBytes 2 l.alg ++ leBytes 1 l.levels ++ leBytes 1 l.slice ++ List.replicate 6 0 ++
    leBytes 8 l.total ++ leBytes 8 l.highWater ++ leBytes 8 l.nextAtCommit ++ leBytes 8 l.burned ++ leBytes 4 l.batch

/-- The payload of record 0 (R346); for TARGET OWNED the owner hash and the enrolment word follow (R454). -/
def Intent.bytes (i : Intent) : List Byte :=
  leBytes 1 (b2n i.active) ++ leBytes 1 i.fromLc ++ leBytes 1 i.target ++ [0] ++ leBytes 2 i.erase ++ leBytes 2 i.done ++
    leBytes 1 i.fuses ++ List.replicate 7 0 ++ leBytes 8 i.time ++
    (if i.target = Lc.owned.code then padTo 48 i.ownerHash ++ leBytes 8 i.enrol else [])

/-- The 16 bytes of a spare-map entry (R341). -/
def SpareEnt.bytes (e : SpareEnt) : List Byte :=
  leBytes 4 (e.record.getD 0xFFFFFFFF) ++ leBytes 2 e.spare ++ [0, 0] ++ leBytes 8 e.baseSeq

/-- The 8 bytes of a recovery entry; an empty one is zero (R477). -/
def recovEnt (e : Option (Nat × Nat)) : List Byte :=
  match e with | some (u, t) => leBytes 2 u ++ [0, 0] ++ leBytes 4 t | none => List.replicate 8 0

/-- The payload of a recovery record (R477). -/
def Recovery.bytes (r : Recovery) (rid : Nat) : List Byte :=
  let ents := fun (a n : Nat) => ((List.range n).map (fun k => recovEnt (mapGet none r.ents (a + k)))).flatten
  if rid = 4 then
    (List.range 22).map (fun i => BitVec.ofNat 8 (((List.range 8).map (fun k => b2n (mapGet false r.failed (8 * i + k)) * 2 ^ k)).sum)) ++
      [0, 0] ++ leBytes 4 r.quiet ++ leBytes 1 r.limit ++ [0] ++ leBytes 2 r.window ++
      (List.range 32).map (fun i => BitVec.ofNat 8 (mapGet 0 r.severity (2 * i) % 16 + 16 * mapGet 0 r.severity (2 * i + 1))) ++ ents 0 20
  else ents (20 + 28 * (rid - 5)) 28

/-- A payload: the bytes the spec lays out from `off` upwards, and the LENGTH of the whole where the spec fixes it. -/
def Payload.layout (p : Payload) (rid : Nat) : Nat × List Byte × Option Nat :=
  let all := fun (bs : List Byte) => (0, bs, some bs.length)
  match p with
  | .empty => all []
  | .intent i => all i.bytes
  | .custodian _ => (0, [], none)
  | .settings c =>
    (96, ((List.range 8).map (fun n => (mapGet PortEnt.none c.ports n).bytes)).flatten ++ leBytes 1 c.wdogExp, none)
  | .recovery r => all (r.bytes rid)
  | .slice _ => (0, [], none)
  | .image r => (64, ((List.range 16).map (fun b => leBytes 8 (mapGet 0 r.bindings b).toNat)).flatten, none)
  | .slots m => all ((List.range 16).map (fun k => (mapGet SlotEnt.free m k).bytes)).flatten
  | .leaf l => all l.bytes
  | .events m => all ((List.range 4).map (fun k => match mapGet none m k with | some e => e.bytes | none => List.replicate 56 0)).flatten
  | .spares l => all (l.map SpareEnt.bytes).flatten

/-- LENGTH and the 224 bytes of a payload in the bank at address `a`: bytes beyond LENGTH are 0. -/
def Payload.bytes (p : Payload) (rid a q : Nat) : Nat × List Byte :=
  let l := p.layout rid
  let low := l.1 + l.2.1.length
  let n := l.2.2.getD (low + (Config.freeWord 4 (a + 2 ^ 27 * q)).toNat % (225 - low))
  (n, (List.range 224).map (fun i =>
    if n ≤ i then 0
    else if l.1 ≤ i ∧ i < low then l.2.1.getD (i - l.1) 0
    else freeAlm (a + 16 + i) q))

/-- LEDGER_TAG of a root (R315). -/
def ledgerTag (root : List Byte) : List Byte := childKey root (mkLabel 0xF003 0 [])

/-- CHECK of a bank's first 240 bytes (R338). -/
def bankCheck (rid : Nat) (root bs : List Byte) : List Byte :=
  if recTagged rid then kmac256 (ledgerTag root) bs 16 (ascii "FY4128-LDG") else padTo 16 (leBytes 4 (crc32c bs))

/-- The 256 bytes of a bank at address `a` that belongs to record `rid` (R338). What a damaged bank reads as is free (R337). -/
def Bank.bytes (b : Bank) (rid a : Nat) : List Byte :=
  match b with
  | .blank => List.replicate 256 0
  | .damaged => freeUnit a 0
  | .written q p root =>
    let x := p.bytes rid a q
    let bs := leBytes 4 rid ++ leBytes 2 (recType rid) ++ leBytes 2 x.1 ++ leBytes 8 q ++ x.2
    bs ++ bankCheck rid root bs

/-- The record that the pair `p` holds: itself, or the record that a spare pair stands for. -/
def pairRecord (s : State) (p : Nat) : Nat :=
  if p < 64512 then p
  else match (spareEnts s).reverse.find? (fun e => e.spare == p - 64512 && e.record.isSome) with
    | some e => e.record.getD p
    | none => p

/-! ### Progress pages and the event log -/

/-- The 4,096 bytes of a progress page at address `a` (R344). How the CRC counts its own four bytes is open: they are free. A page that fails
its check or was never written reads free bytes. -/
def pageBytes (p : Option ProgPage) (a : Nat) : List Byte :=
  match p with
  | none => (List.range 4096).map (fun i => freeAlm (a + i) 0)
  | some x =>
    let ents := (x.ents.map (fun e => leBytes 4 e.1 ++ List.replicate 4 0 ++ leBytes 8 e.2.1 ++ leBytes 8 e.2.2 ++ List.replicate 8 0)).flatten
    leBytes 8 x.seq ++ leBytes 2 x.ents.length ++ List.replicate 18 0 ++ (List.range 4).map (fun i => freeAlm (a + 28 + i) x.seq) ++ padTo 4064 ents

/-- The 64 bytes of a log entry (R348). -/
def LogEnt.bytes (e : LogEnt) : List Byte :=
  let b := leBytes 8 e.seq ++ leBytes 8 e.time ++ leBytes 2 e.source ++ leBytes 2 e.code ++ leBytes 1 e.severity ++ [0, 0, 0] ++ padTo 36 e.data
  b ++ leBytes 4 (crc32c b)

/-- Position `k` of the event log: the entry whose SEQ falls there (DESIGN CHOICE, log entry 12: the first SEQ takes position 0); one that a
power loss tore reads free bytes. -/
def logUnit (s : State) (k : Nat) : List Byte :=
  match s.alm.log.reverse.find? (fun e => (e.seq - 1) % 131072 == k) with
  | some e => if e.torn then (List.range 64).map (fun i => freeAlm (0x7800000 + 64 * k + i) e.seq) else e.bytes
  | none => List.replicate 64 0

/-! ### The areas (R336) -/

/-- Unit `k` of 256 bytes of the Almanac. -/
def almUnit (s : State) (k : Nat) : List Byte :=
  let a := 256 * k
  if k < 0x40000 then slotBytes s k
  else if k < 0x60000 then
    let p := (k - 0x40000) / 2
    if 64416 ≤ p ∧ p < 64424 then sub (pageBytes s.alm.pageA 0x5F74000) (a - 0x5F74000) 256
    else if 64424 ≤ p ∧ p < 64432 then sub (pageBytes s.alm.pageB 0x5F75000) (a - 0x5F75000) 256
    else
      let x := mapGet Pair.blank s.alm.pairs p
      (if k % 2 = 0 then x.a else x.b).bytes (pairRecord s p) a
  else if k < 0x6C000 then sub s.alm.imageA (a - 0x6000000) 256
  else if k < 0x78000 then sub s.alm.imageB (a - 0x6C00000) 256
  else ((List.range 4).map (fun i => logUnit s (4 * (k - 0x78000) + i))).flatten

/-- `n` bytes of the Almanac from address `a`. -/
def almBytes (s : State) (a n : Nat) : List Byte :=
  sub ((List.range (n / 256 + 2)).map (fun i => almUnit s (a / 256 + i))).flatten (a % 256) n

end Sys2Proof.Machine
end

