-- ==== Sys2Proof/Machine/Sha2.lean ====
section
/-! DEFINITION. SHA-2 of FIPS 180-4 with HMAC and HKDF (R192 to R194, R227). The constants are computed from the primes as the
standard defines them. -/

namespace Sys2Proof.Machine

/-- The first 80 primes. -/
def primes80 : List Nat :=
  [2, 3, 5, 7, 11, 13, 17, 19, 23, 29, 31, 37, 41, 43, 47, 53, 59, 61, 67, 71, 73, 79, 83, 89, 97, 101, 103, 107, 109, 113] ++
  [127, 131, 137, 139, 149, 151, 157, 163, 167, 173, 179, 181, 191, 193, 197, 199, 211, 223, 227, 229, 233, 239, 241, 251] ++
  [257, 263, 269, 271, 277, 281, 283, 293, 307, 311, 313, 317, 331, 337, 347, 349, 353, 359, 367, 373, 379, 383, 389, 397] ++
  [401, 409]

/-- The greatest `r` with `r ^ k ≤ v`, found bit by bit from bit `n - 1` down. -/
def rootFloor (k v : Nat) : Nat → Nat → Nat
  | 0, r => r
  | n + 1, r => rootFloor k v n (if (r + 2 ^ n) ^ k ≤ v then r + 2 ^ n else r)

/-- The first `w` bits of the fractional part of the `k`-th root of `p`. -/
def fracRoot (k w p : Nat) : Nat := rootFloor k (p * 2 ^ (k * w)) (w + 5) 0 % 2 ^ w

/-- The parameters of a SHA-2 function: word size in bits, rounds, and the rotation amounts. -/
structure Sha2 where
  w : Nat
  rounds : Nat
  /-- Σ0, Σ1: three rotations each; σ0, σ1: two rotations and a shift each. -/
  s0 : Nat × Nat × Nat
  s1 : Nat × Nat × Nat
  t0 : Nat × Nat × Nat
  t1 : Nat × Nat × Nat
  deriving DecidableEq, Repr

/-- The 32-bit family. -/
def sha2w32 : Sha2 := ⟨32, 64, (2, 13, 22), (6, 11, 25), (7, 18, 3), (17, 19, 10)⟩
/-- The 64-bit family. -/
def sha2w64 : Sha2 := ⟨64, 80, (28, 34, 39), (14, 18, 41), (1, 8, 7), (19, 61, 6)⟩

/-- Rotate a word right. -/
def rotr (w n v : Nat) : Nat := (v / 2 ^ n ||| v * 2 ^ (w - n)) % 2 ^ w

/-- A capital sigma. -/
def sigB (w : Nat) (r : Nat × Nat × Nat) (v : Nat) : Nat := rotr w r.1 v ^^^ rotr w r.2.1 v ^^^ rotr w r.2.2 v
/-- A small sigma. -/
def sigS (w : Nat) (r : Nat × Nat × Nat) (v : Nat) : Nat := rotr w r.1 v ^^^ rotr w r.2.1 v ^^^ v / 2 ^ r.2.2

/-- The message schedule, newest word first. -/
def sha2Sched (f : Sha2) : Nat → List Nat → List Nat
  | 0, ws => ws
  | n + 1, ws =>
    sha2Sched f n
      ((sigS f.w f.t1 (ws.getD 1 0) + ws.getD 6 0 + sigS f.w f.t0 (ws.getD 14 0) + ws.getD 15 0) % 2 ^ f.w :: ws)

/-- One round on the working variables a to h. -/
def sha2Round (f : Sha2) (v : List Nat) (kw : Nat) : List Nat :=
  match v with
  | [a, b, c, d, e, g, h, i] =>
    let ch := (e &&& g) ^^^ ((2 ^ f.w - 1 - e) &&& h)
    let mj := (a &&& b) ^^^ (a &&& c) ^^^ (b &&& c)
    let t1 := i + sigB f.w f.s1 e + ch + kw
    let t2 := sigB f.w f.s0 a + mj
    [(t1 + t2) % 2 ^ f.w, a, b, c, (d + t1) % 2 ^ f.w, e, g, h]
  | v => v

/-- The words of a block, first word first. -/
def beWords (n : Nat) : Nat → List Byte → List Nat
  | 0, _ => []
  | k + 1, m => beNat (m.take n) :: beWords n k (m.drop n)

/-- The round constants of a family. -/
def sha2K (f : Sha2) : List Nat := (primes80.take f.rounds).map (fracRoot 3 f.w)

/-- The compression function. -/
def sha2Block (f : Sha2) (ks : List Nat) (h : List Nat) (m : List Byte) : List Nat :=
  let ws := (sha2Sched f (f.rounds - 16) (beWords (f.w / 8) 16 m).reverse).reverse
  let v := (List.zipWith (· + ·) ks ws).foldl (sha2Round f) h
  List.zipWith (fun x y => (x + y) % 2 ^ f.w) h v

/-- Compress `n` blocks. -/
def sha2Blocks (f : Sha2) (ks : List Nat) : Nat → List Nat → List Byte → List Nat
  | 0, h, _ => h
  | n + 1, h, m => sha2Blocks f ks n (sha2Block f ks h (m.take (2 * f.w))) (m.drop (2 * f.w))

/-- The padded message. -/
def sha2Pad (f : Sha2) (m : List Byte) : List Byte :=
  let b := 2 * f.w
  let l := f.w / 4
  let z := (b - (m.length + 1 + l) % b) % b
  m ++ [0x80] ++ List.replicate z 0 ++ beBytes l (8 * m.length)

/-- A SHA-2 function with its initial value. -/
def sha2 (f : Sha2) (iv : List Nat) (n : Nat) (m : List Byte) : List Byte :=
  let p := sha2Pad f m
  (((sha2Blocks f (sha2K f) (p.length / (2 * f.w)) iv p).map (beBytes (f.w / 8))).flatten).take n

/-- Initial value from the square roots of primes `k` to `k + 7`. -/
def sha2Iv (f : Sha2) (k : Nat) : List Nat := ((primes80.drop k).take 8).map (fracRoot 2 f.w)

/-- SHA-256. -/
def sha256 (m : List Byte) : List Byte := sha2 sha2w32 (sha2Iv sha2w32 0) 32 m
/-- SHA-384: the square roots of the ninth to sixteenth primes. -/
def sha384 (m : List Byte) : List Byte := sha2 sha2w64 (sha2Iv sha2w64 8) 48 m
/-- SHA-512. -/
def sha512 (m : List Byte) : List Byte := sha2 sha2w64 (sha2Iv sha2w64 0) 64 m
/-- SHA-224: the low halves of the 64-bit words of SHA-384's initial value. -/
def sha224 (m : List Byte) : List Byte := sha2 sha2w32 ((sha2Iv sha2w64 8).map (· % 2 ^ 32)) 28 m

/-- SHA-512/t: the initial value comes from SHA-512 with its own modified start. -/
def sha512t (name : String) (n : Nat) (m : List Byte) : List Byte :=
  let iv0 := (sha2Iv sha2w64 0).map (· ^^^ 0xA5A5A5A5A5A5A5A5)
  sha2 sha2w64 (beWords 8 8 (sha2 sha2w64 iv0 64 (ascii name))) n m

/-- HMAC over a hash function with its block size. -/
def hmac (h : List Byte → List Byte) (block : Nat) (key m : List Byte) : List Byte :=
  let k := padTo block (if block < key.length then h key else key)
  h (k.map (· ^^^ 0x5C) ++ h (k.map (· ^^^ 0x36) ++ m))

/-- The blocks T(i) of HKDF-Expand, from i = `i` on. -/
def hkdfBlocks (h : List Byte → List Byte) (block : Nat) (prk info : List Byte) : Nat → Nat → List Byte → List Byte
  | 0, _, _ => []
  | n + 1, i, t =>
    let t' := hmac h block prk (t ++ info ++ [BitVec.ofNat 8 i])
    t' ++ hkdfBlocks h block prk info n (i + 1) t'

/-- HKDF: extract with the salt (zeros of the hash length when empty) and expand to `n` bytes. -/
def hkdf (h : List Byte → List Byte) (block hlen : Nat) (ikm salt info : List Byte) (n : Nat) : List Byte :=
  let prk := hmac h block (if salt = [] then List.replicate hlen 0 else salt) ikm
  (hkdfBlocks h block prk info ((n + hlen - 1) / hlen) 1 []).take n

end Sys2Proof.Machine
end

