-- ==== Sys2Proof/Machine/Tamper.lean ====
section
/-! DEFINITION. Tamper detection and response (chapter 17) and the root domain's supply (R513). -/

namespace Sys2Proof.Machine

/-- The lock latch is set: any value but 0 reads as set (R440). -/
def latchSet (s : State) : Bool := s.root.latch != 0

/-- The word that sets the latch. -/
def latchWord : W32 := 0xA5C35A3C

/-- Set the lock latch. -/
def setLatch (s : State) : State := { s with root := { s.root with latch := latchWord } }

/-- Clear the lock latch (R58, R64). -/
def clearLatch (s : State) : State := { s with root := { s.root with latch := 0 } }

/-- The response of a life-cycle code to a clock-monitor trip: 0 none, 1 LOG, 2 LOCK, 3 ZEROIZE (R438). -/
def clockResponse (lc : Nat) : Nat := if lc = 2 ∨ lc = 3 then 2 else if lc = 5 then 0 else 1

/-- The response to an enrolled loop or switch. -/
def loopResponse (lc : Nat) : Nat := if lc = 3 then 3 else if lc = 2 ∨ lc = 5 then 0 else 1

/-! ### The battery event log (R444, R445) -/

/-- An 8-byte entry. -/
def batEntry (btime source kind cell : Nat) (onBat : Bool) (resp : Nat) : List Byte :=
  leBytes 4 btime ++ leBytes 1 source ++ leBytes 1 kind ++ leBytes 1 cell ++ leBytes 1 (b2n onBat + 2 * resp)

/-- Write an entry: beyond 32 the overflow count increments. -/
def batLog (s : State) (e : List Byte) : State :=
  if s.root.batLog.length < 32 then { s with root := { s.root with batLog := s.root.batLog ++ [e] } }
  else { s with root := { s.root with overflow := satInc 0xFFFF s.root.overflow } }

/-- The event-log code of a battery entry. -/
def batCode (e : List Byte) : Nat :=
  let src := byteAt e 4
  if src < 0x10 then 0x0102 else if src < 0x20 then 0x0103 else if src = 0x20 then 0x0101 else 0x0104

/-- Copy an entry into the event log. -/
def copyEntry (s : State) (e : List Byte) : State := logEventAt s (fieldLe e 0 4 * 1000000000) 0xB0 (batCode e) 0 e

/-- Copy the oldest entry and remove it. -/
def copyOldest (s : State) : State :=
  match s.root.batLog with
  | [] => s
  | e :: es => copyEntry { s with root := { s.root with batLog := es } } e

/-- Copy every entry and remove it. -/
def copyAll (s : State) : State := s.root.batLog.foldl copyEntry { s with root := { s.root with batLog := [] } }

/-- The copy at a start: every entry, then one entry with their number and the overflow count; log and count are cleared (R445). A start
with nothing to copy writes no such entry (DESIGN CHOICE, log entry 47). -/
def startCopy (s : State) : State :=
  let n := s.root.batLog.length
  let v := s.root.overflow
  let t := copyAll s
  let u := { t with root := { t.root with overflow := 0 },
                    tamper := { t.tamper with batCopied := n, overflowAtStart := v } }
  if n = 0 ∧ v = 0 then u else logEvent u 0xB0 0x0130 0 (leBytes 2 n ++ leBytes 2 v)

/-! ### Alarms -/

/-- Note an alarm in TMP_LAST, TMP_COUNT and TMP_STAT.LAST (R447). -/
def noteAlarm (s : State) (source kind cell resp : Nat) : State :=
  { s with tamper := { s.tamper with
      last := max s.tamper.last resp, lastSource := source, lastKind := kind, lastCell := cell,
      loopCase := if source = 0x20 then s.tamper.loopCase else satInc 0xFFFF s.tamper.loopCase,
      clock := if source = 0x20 then satInc 0xFFFF s.tamper.clock else s.tamper.clock } }

/-- The response in the root domain: the latch, and the root where the response requires it (R438, R439). -/
def rootResponse (s : State) (resp : Nat) : State :=
  let t := if 2 ≤ resp then setLatch s else s
  if resp = 3 then zeroizeRoot t else t

/-- The leaves of unreleased attempts count as burned before the keys of their records go (R189). -/
def burnAll (s : State) : State :=
  forJobs (fun j => j.leaf.isSome && !j.isReleased) (fun x j => putJob (burnLeaf x j) { j with leaf := none }) s

/-- The response of the powered device in its mode (R439, R441). -/
def respond (s : State) (resp : Nat) (w : WriteIo) : State :=
  if resp < 2 then s
  else
    let had := rootPresent s
    match s.chip.mode with
    | .boot => rootResponse s resp
    | .halt => rootResponse s resp
    | .umbra =>
      let t := copyAll s
      let q := lastLogSeq t
      let u := rootResponse t resp
      let v := if resp = 3 && had then logEvent u 0xB0 0x0110 0 (leBytes 8 q) else u
      logEvent v 0xB0 0x0120 0 (leBytes 8 q)
    | _ =>
      if s.flt.fatal then rootResponse s resp
      else
        let t := burnAll (copyAll s)
        let q := lastLogSeq t
        -- Writes that had begun finish before the device keys go (R56).
        let u := rootResponse (umbraWrites (finishBegun w t)) resp
        let v := if resp = 3 && had then logEvent u 0xB0 0x0110 0 (leBytes 8 q) else u
        enterUmbra v { w with ledger := [], slots := [] } q

/-- An alarm of tamper source `k` (R441): one that is not re-armed records nothing new. -/
def alarm (s : State) (k source kind cell resp : Nat) (w : WriteIo) : State :=
  let x := mapGet TmpSrc.armed s.tamper.src k
  let t := { s with tamper := { s.tamper with src := mapSet TmpSrc.armed s.tamper.src k { tripped := true, lastAt := s.uptime } } }
  if x.tripped then t
  else respond (noteAlarm (batLog t (batEntry s.root.btime source kind cell false resp)) source kind cell resp) resp w

/-- A cell's clock monitor trips: it halts in the cycle of the trip, its block fences it, and the response follows
(R430, R432). KIND is 6, 7 or 8. -/
def execClockMonitorTrip (cell kind : Nat) (w : WriteIo) (s : State) : Res :=
  known (decide (cell < 128))
    (let t := modCell s cell (fun c => { c with halted := true })
     let r := clockResponse s.chip.lc.code
     let x := mapGet TmpSrc.armed s.tamper.src (32 + cell)
     -- A trip within 1 s of the last one is the same alarm.
     let armed := !x.tripped || decide (x.lastAt + 1000000000 ≤ s.uptime)
     let u := if armed then
         alarm { t with tamper := { t.tamper with src := mapErase t.tamper.src (32 + cell) } } (32 + cell) 0x20 kind cell r w
       else alarm t (32 + cell) 0x20 kind cell r w
     doIf s (alive s && s.chip.lc != .scrapped && decide (6 ≤ kind) && decide (kind ≤ 8) && decide ((getDom s cell).state = 0 ∨ kind = 8))
       (if unitOnline u cell then fence u cell 0 else u))

/-- An enrolled loop alarms: KIND 1 open, 2 short, 3 PRBS mismatch, 4 pair disagreement (R434). -/
def execLoopAlarm (loop kind : Nat) (w : WriteIo) (s : State) : Res :=
  known (decide (loop < 16))
    (doIf s (alive s && enrolled s s.chip.lc.code loop && decide (1 ≤ kind) && decide (kind ≤ 4) &&
        (kind != 3 || (mapGet 0 s.tamper.seeds loop != 0)))
      (alarm s loop loop kind 0 (loopResponse s.chip.lc.code) w))

/-- An enrolled case switch alarms: KIND 5 open, 4 pair disagreement (R435). -/
def execCaseAlarm (sw kind : Nat) (w : WriteIo) (s : State) : Res :=
  known (decide (sw < 2))
    (doIf s (alive s && enrolled s s.chip.lc.code (16 + sw) && (kind == 4 || kind == 5))
      (alarm s (16 + sw) (0x10 + sw) kind 0 (loopResponse s.chip.lc.code) w))

/-- A source has read good for 1 s and re-arms (R441). -/
def execSensorRearm (tsrc : Nat) (s : State) : Res :=
  known (decide (tsrc < 160))
    (let x := mapGet TmpSrc.armed s.tamper.src tsrc
     doIf s (x.tripped && decide (x.lastAt + 1000000000 ≤ s.uptime))
       { s with tamper := { s.tamper with src := mapErase s.tamper.src tsrc } })

/-- An alarm on battery (R442): the response of the state held in the root domain, in the root domain alone. -/
def batAlarm (s : State) (k source kind : Nat) : State :=
  let x := mapGet TmpSrc.armed s.tamper.src k
  let r := loopResponse s.root.lcHeld
  let t := { s with tamper := { s.tamper with src := mapSet TmpSrc.armed s.tamper.src k { tripped := true, lastAt := s.uptime } } }
  if x.tripped then t else rootResponse (batLog t (batEntry s.root.btime source kind 0 true r)) r

/-- Every 250 µs on VBAT each enrolled loop is pulsed and the switches are sampled: `opens` are the loops and switches (16, 17)
found open, `shorts` the loops found shorted (R442). -/
def execBatteryLoopPulse (opens shorts : List Nat) (s : State) : Res :=
  let watch := fun n => enrolled s s.root.lcHeld n
  let t := (shorts.filter (fun n => decide (n < 16) && watch n)).foldl (fun x n => batAlarm x n n 2) s
  let u := (opens.filter (fun n => decide (n < 18) && watch n)).foldl
    (fun x n => if n < 16 then batAlarm x n n 1 else batAlarm x n (0x10 + (n - 16)) 5) t
  doIf s (!s.supply.onAux && s.supply.vbat) u

/-- BTIME: loaded from the timebase every second while the device is powered and the timebase is set; on VBAT it counts
(R443). -/
def execBtimeTick (s : State) : Res :=
  .next { s with root := { s.root with btime :=
    if s.supply.onAux then (if s.tb.set then s.tb.time / 1000000000 else s.root.btime)
    else if s.root.btime = 0 then 0 else s.root.btime + 1 } }

/-- The management core copies a new battery entry into the event log and removes it (R445). -/
def execBatteryLogCopy (s : State) : Res :=
  doIf s (alive s && s.chip.mode != .boot && s.chip.mode != .halt) (copyOldest s)

/-- VDD_AUX crosses its threshold: the root domain runs from VDD_AUX or from VBAT without a gap (R513). -/
def execRootSupplySwitch (aux : Bool) (s : State) : Res :=
  .next { s with supply := { s.supply with onAux := aux, auxAt := if aux && !s.supply.onAux then some s.uptime else s.supply.auxAt } }

end Sys2Proof.Machine
end

