-- ==== Sys2Proof/Machine/Lifecycle.lean ====
section
/-! DEFINITION. The life cycle (chapter 18): transitions, the roll-forward of an intent, firmware images, LC_ADVANCE and
FW_UPDATE, and the debug port. -/

namespace Sys2Proof.Machine

/-! ### Transitions (R451, R452) -/

/-- ERASE of a transition of R451; none where the table has no such transition. -/
def lcErase (a b : Nat) : Option Nat :=
  match a, b with
  | 0, 1 => some 0x0000
  | 1, 2 => some 0x002F
  | 2, 3 => some 0x0000
  | 3, 4 => some 0x000F
  | 0, 5 => some 0x007F
  | 1, 5 => some 0x007F
  | 4, 5 => some 0x007F
  | 2, 5 => some 0x007F
  | 3, 5 => some 0x007F
  | _, _ => none

/-- Targets LC_ADVANCE reaches from a state (R451). -/
def lcAdvanceOk (a b : Nat) : Bool :=
  (a == 0 && b == 1) || (a == 1 && b == 2) || ((a == 0 || a == 1 || a == 4) && b == 5)

/-- Fields marked "Ones": TRIM, ENTROPY_H, FW_KEY_HASH, BNE_KEY_HASH, SVN_FLOOR, SPDM_SECRET, OWNER_HASH, ENROL, as offset and
length (R448). -/
def onesFields : List (Nat × Nat) :=
  [(0x020, 224), (0x100, 4), (0x108, 144), (0x198, 144), (0x228, 24), (0x240, 32), (0x260, 144), (0x2F0, 24)]

/-- `n` bytes of ones. -/
def ones (n : Nat) : List Byte := List.replicate n 0xFF

/-- One erasure (R452). The sequence number of the event log is never reused. -/
def eraseBit (dead : List Nat) (s : State) (k : Nat) : State :=
  match k with
  | 0 => zeroizeRoot s
  | 1 => { s with alm := { s.alm with slots := [], slotBad := [] } }
  | 2 => { s with alm := { s.alm with pairs := mapFilter (fun p _ => p == 0) s.alm.pairs, pageA := none, pageB := none },
                  trees := [] }
  | 3 => loseHbm { s with hdm := { s.hdm with mem := [], poison := [] },
                          slices := mapAll Slice.absent (fun _ x => { x with hbmKey := none }) s.slices }
  | 4 => { s with alm := { s.alm with imageA := [], imageB := [] } }
  | 5 => { s with alm := { s.alm with log := [] } }
  | 6 => onesFields.foldl (fun t f => fuseProg dead t f.1 (ones f.2)) s
  | _ => s

/-- Commit record 0 (R347). -/
def commitIntent (s : State) (i : Intent) : State := (commitRec s 0 (.intent i) []).1

/-- The erasures of an intent that are not done, in increasing bit order, each committed with its DONE bit. -/
def doErasures (dead : List Nat) (s : State) (i : Intent) : State × Intent :=
  (List.range 7).foldl
    (fun x k =>
      if x.2.erase.testBit k ∧ x.2.done.testBit k = false then
        let i' := { x.2 with done := x.2.done + 2 ^ k }
        (commitIntent (eraseBit dead x.1 k) i', i')
      else x) (s, i)

/-- The companion fields of a target (R451, R454). -/
def companions (dead : List Nat) (s : State) (i : Intent) : State :=
  match i.target with
  | 3 => fuseProg3 dead (fuseProg3 dead s 0x260 (padTo 48 i.ownerHash)) 0x2F0 (leBytes 8 i.enrol)
  | 4 => fuseProg3 dead s 0x260 (ones 48)
  | _ => s

/-- The LC copies, each committed with its FUSES bit. -/
def programCopies (dead : List Nat) (s : State) (i : Intent) : State × Intent :=
  (List.range 3).foldl
    (fun x k =>
      if x.2.fuses.testBit k then x
      else
        let i' := { x.2 with fuses := x.2.fuses + 2 ^ k }
        (commitIntent (fuseProg dead x.1 (4 * k) (leBytes 4 (lcCode (Lc.ofCode i.target)))) i', i')) (s, i)

/-- Steps 2 to 4 of R452. -/
def carryOut (dead : List Nat) (s : State) (i : Intent) : State :=
  let a := doErasures dead s i
  let b := if a.2.fuses = 0 then companions dead a.1 a.2 else a.1
  let c := programCopies dead b a.2
  commitIntent c.1 { c.2 with active := false }

/-- Three copies of a field. -/
def tripled (bs : List Byte) : List Byte := bs ++ bs ++ bs

/-- A fuse field of the change is left incomplete (R453). -/
def carryMissed (s : State) (i : Intent) : Bool :=
  (List.range 3).any (fun k => fuseMissed s (4 * k) (leBytes 4 (lcCode (Lc.ofCode i.target)))) ||
    (i.target == 5 && onesFields.any (fun f => fuseMissed s f.1 (ones f.2))) ||
    (i.target == 4 && fuseMissed s 0x260 (ones 144)) ||
    (i.target == 3 && (fuseMissed s 0x260 (tripled (padTo 48 i.ownerHash)) || fuseMissed s 0x2F0 (tripled (leBytes 8 i.enrol))))

/-- An intent is consistent (R455). -/
def intentOk (s : State) (i : Intent) : Bool :=
  (lcErase i.fromLc i.target).isSome &&
    (List.range 3).all (fun k =>
      let c := lcCode (Lc.ofCode i.target)
      lcCopy s k ||| c == c)

/-- The roll-forward at BOOT: power loss has discarded every HBM key, so DONE bit 3 is set without a pass (R455). -/
def rollForward (dead : List Nat) (s : State) : State :=
  match intentOf s with
  | none => s
  | some i =>
    if intentOk s i then carryOut dead s { i with done := if i.erase.testBit 3 ∧ i.done.testBit 3 = false then i.done + 8 else i.done }
    else commitIntent s { i with active := false }

/-! ### Firmware images (R457, R458) -/

/-- The verdict of ML-DSA-87 over a message with a context: an algorithm of an external standard. -/
def mldsaOk (pub msg ctx sig : List Byte) : Bool :=
  Config.stdByte .verdict [leBytes 2 0x0703, [0, 0, 0], pub, ctx, msg, sig] 0 == 0

/-- The BNE set of an image verifies under the key whose hash the fuses hold (R256). -/
def bneSetOk (s : State) (set : List Byte) : Bool :=
  Config.stdByte .verdict [ascii "BNE", set, fuseBneHash s] 0 == 0

/-- Unsigned code runs in this state (R458). -/
def unsignedOk (l : Lc) : Bool := l == .blank || l == .factory || l == .returned

/-- IMAGE_SEQ of an image. -/
def imageSeq (b : List Byte) : Nat := fieldLe b 8 4
/-- The body of an image. -/
def imageBody (b : List Byte) : List Byte := sub b 8192 (fieldLe b 12 4)
/-- The BNE microprogram set of an image. -/
def imageBne (b : List Byte) : List Byte := sub (imageBody b) (fieldLe b 16 4) (fieldLe b 20 4)

/-- The reason an image fails, 0 when it verifies (R458): reasons 1 to 6. -/
def imageReason (s : State) (l : Lc) (b : List Byte) : Nat :=
  let len := fieldLe b 12 4
  let free := unsignedOk l
  if !(sub b 0 4 == [0x46, 0x59, 0x46, 0x57] && byteAt b 4 == 1 && decide (byteAt b 6 < 2) && byteAt b 7 == 0 &&
      decide (byteAt b 5 ≤ 64) && decide (1 ≤ len) && decide (len ≤ 12574720) && decide (fieldLe b 16 4 + fieldLe b 20 4 ≤ len) &&
      zeros b 24 32 && zeros b 80 128 && zeros b 7347 8192) then 1
  else if !free && sha384 (sub b 128 2592) != fuseFwHash s then 2
  else if !free && !mldsaOk (sub b 128 2592) (sub b 0 128) (ascii "FY4128-FW") (sub b 2720 4627) then 3
  else if sha384 (imageBody b) != sub b 32 48 then 4
  else if !free && decide (byteAt b 5 < fuseFloor s) then 5
  else if !free && !bneSetOk s (imageBne b) then 6
  else 0

/-- The image the ROM runs: of those that verify, the one with the higher IMAGE_SEQ, image A on a tie (R458). -/
def pickImage (s : State) (l : Lc) : Option Nat :=
  let a := imageReason s l s.alm.imageA == 0
  let b := imageReason s l s.alm.imageB == 0
  if a ∧ b then some (if imageSeq s.alm.imageA < imageSeq s.alm.imageB then 1 else 0)
  else if a then some 0 else if b then some 1 else none

/-- The bytes of the running image. -/
def runningImage (s : State) : List Byte :=
  match s.chip.runImage with | some 0 => s.alm.imageA | some _ => s.alm.imageB | none => []

/-- The SVN floor is raised at the end of an ASSAY in SEALED or OWNED (R459). -/
def raiseFloor (dead : List Nat) (s : State) : State :=
  let b := runningImage s
  let svn := byteAt b 5
  if (s.chip.lc = .sealed ∨ s.chip.lc = .owned) ∧ byteAt b 6 % 2 = 1 ∧ fuseFloor s < svn then
    fuseProg3 dead s 0x228 (leBytes 8 (2 ^ svn - 1))
  else s

/-! ### Commands -/

/-- A field required for SEALED is unprogrammed (R456). -/
def fusesIncomplete (s : State) : Bool :=
  fuseSerial s == 0 || fuseEntropy s == 0 || (fuseFwHash s).all (· == 0) || (fuseBneHash s).all (· == 0) ||
    (fuseSpdm s).all (· == 0)

/-- E_FIRMWARE. -/
def eFirmware : Nat := 0x0260
/-- E_FUSE_INCOMPLETE. -/
def eFuseIncomplete : Nat := 0x0261

/-- The intent of a transition, as first committed (R452 step 1). -/
def newIntent (s : State) (target : Nat) (owner : List Byte) (enrol : Nat) : Intent :=
  { active := true, fromLc := s.chip.lc.code, target, erase := (lcErase s.chip.lc.code target).getD 0, done := 0, fuses := 0,
    time := now s, ownerHash := owner, enrol }

/-- LC_ADVANCE (R456). -/
def execLcAdvance (job : Nat) (io : JobIo) (s : State) : Res :=
  runMgmt s job 0x0B60 (fun j =>
    let t := j.desc.pb 40
    if (intentOf s).isSome then refuse s j io eMode
    else if !lcAdvanceOk s.chip.lc.code t then refuse s j io eLifecycle
    else if t = 2 ∧ fusesIncomplete s then refuse s j io eFuseIncomplete
    else stageCommit s j (JobRes.done [] 0) [.intent (newIntent s t [] 0)])

/-- An image is written to the area that is not running. -/
def storeImage (s : State) (b : List Byte) : State :=
  if s.chip.runImage = some 0 then { s with alm := { s.alm with imageB := b } } else { s with alm := { s.alm with imageA := b } }

/-- FW_UPDATE (R460): checked against reasons 1 to 7, written to the area that is not running, and read back. What an area holds whose
read-back stays wrong is left open: free bytes (log entry 12). -/
def execFwUpdate (job : Nat) (io : JobIo) (s : State) : Res :=
  runMgmt s job 0x0B61 (fun j =>
    let fail := fun (r : Nat) => answer s j io (JobRes.status0 eFirmware (r * 2 ^ 12))
    if s.jobs.any (fun k => decide (k.id < j.id) && k.desc.opcode == 0x0B61) then refuse s j io eMode
    else withInput s j io (fun b =>
      let r := imageReason s s.chip.lc b
      if j.desc.inLen ≠ 8192 + fieldLe b 12 4 then fail 1
      else if r ≠ 0 then fail r
      else if imageSeq b ≤ imageSeq (runningImage s) then fail 7
      else if !io.storeOk then
        answer (storeImage s ((List.range b.length).map (fun i => freeAlm i s.alm.logSeq))) j io (JobRes.status0 eFirmware (8 * 2 ^ 12))
      else answer (storeImage s b) j io (JobRes.done [] (imageSeq b))))

/-! ### The debug port (R462 to R464) -/

/-- The life-cycle column the port gives: OWNED until the vote (R463). -/
def tapColumn (s : State) : Lc := if s.tap.voted then s.chip.lc else .owned

/-- An instruction is available in a column. -/
def tapOk (l : Lc) (code : Nat) : Bool :=
  match code with
  | 0x01 => l != .scrapped
  | 0x40 => l == .blank || l == .factory || l == .returned
  | 0x41 => l == .blank || l == .factory
  | 0x00 | 0x02 | 0x03 => l != .owned && l != .scrapped
  | _ => true

/-- Select an instruction: one that is unavailable selects BYPASS. -/
def tapSelect (s : State) (code : Nat) : State :=
  { s with tap := { s.tap with instr := if tapOk (tapColumn s) code then code else 0xFF } }

/-- Select an instruction and, when it is available, act. -/
def tapRun (s : State) (code : Nat) (f : State → State) : Res :=
  let t := tapSelect s code
  doIf s (alive s) (if tapOk (tapColumn s) code then f t else t)

/-- EXTEST drives the pins. -/
def execExtest (pins : List Byte) (s : State) : Res := tapRun s 0x00 (fun t => emit { t with tap := { t.tap with boundary := pins } } (.tap 0 pins))

/-- SAMPLE/PRELOAD loads the boundary register. -/
def execSamplePreload (pins : List Byte) (s : State) : Res :=
  tapRun s 0x01 (fun t => { t with tap := { t.tap with boundary := pins } })

/-- CLAMP drives the pins from the boundary register. -/
def execClamp (s : State) : Res := tapRun s 0x02 (fun t => emit t (.tap 2 t.tap.boundary))

/-- HIGHZ puts the outputs into high impedance. -/
def execHighz (s : State) : Res := tapRun s 0x03 (fun t => emit t (.tap 3 []))

/-- BYPASS. -/
def execBypass (s : State) : Res := tapRun s 0xFF id

/-- TRST# forces Test-Logic-Reset with BYPASS selected. -/
def execTrstAssert (s : State) : Res := .next { s with tap := { s.tap with instr := 0xFF } }

/-- Replace bytes of a string from an offset upwards, within `lim` bytes. -/
def patch (old : List Byte) (off : Nat) (bs : List Byte) (lim : Nat) : List Byte :=
  let n := max old.length (off + bs.length)
  (padTo off old ++ bs ++ (padTo n old).drop (off + bs.length)).take lim

/-- DBG_ACCESS reaches the cores, the SRAMs, HBM, the Almanac and fuse reads, never the root domain or SPDM_SECRET (R464). -/
def execDbgAccess (req : DbgOp) (s : State) : Res :=
  tapRun s 0x40 (fun t =>
    match req with
    | .almRead a n => emit t (.tap 0x40 (almBytes t a n))
    | .imageWrite imgB off bs =>
      if imgB then { t with alm := { t.alm with imageB := patch t.alm.imageB off bs (12 * 2 ^ 20) } }
      else { t with alm := { t.alm with imageA := patch t.alm.imageA off bs (12 * 2 ^ 20) } }
    | .fuseRead off n =>
      emit t (.tap 0x40 ((List.range n).map (fun i =>
        if 0x240 ≤ off + i ∧ off + i < 0x260 then 0 else byteGet t.fuses (off + i))))
    | .scratchRead c a n => emit t (.tap 0x40 (bytesGet (getCell t c).scratch a n))
    | .scratchWrite c a bs => modCell t c (fun x => { x with scratch := bytesSet x.scratch a bs })
    | .microRead c a => emit t (.tap 0x40 (leBytes 6 (mapGet 0 (getCell t (c % 128)).store (a % 4096)).toNat))
    | .regRead c n => emit t (.tap 0x40 (leBytes 8 (getX (getCell t (c % 128)) (n % 32)).toNat))
    | .regWrite c n v => modCell t (c % 128) (fun x => setX x (n % 32) v 0)
    | .operandRead b h1 a =>
      let e := (getBlock t (b % 16)).bne
      emit t (.tap 0x40 (leBytes 32 (mapGet 0 (if h1 then e.h1Mem else e.h0Mem) (a % 512)).toNat))
    | .operandWrite b h1 a w =>
      modBne t (b % 16) (fun e => if h1 then { e with h1Mem := mapSet 0 e.h1Mem (a % 512) w } else { e with h0Mem := mapSet 0 e.h0Mem (a % 512) w })
    | .microWrite c a w => modCell t c (fun x => { x with store := mapSet 0 x.store (a % 4096) w })
    | .hdmRead a n => emit t (.tap 0x40 (bytesGet t.hdm.mem a n))
    | .hdmWrite a bs => hdmWrite t a bs)

/-- The fields DBG_FUSE may program, as offset and length: those marked BLANK, FACTORY (R448, R464). -/
def dbgFields : List (Nat × Nat) := [(0x010, 9), (0x020, 224), (0x100, 4), (0x108, 144), (0x198, 144)]

/-- DBG_FUSE programs those fields; SPDM_SECRET is drawn by the device on a request at its offset (R464). -/
def execDbgFuse (off : Nat) (bytes : List Byte) (s : State) : Res :=
  tapRun s 0x41 (fun t =>
    if off = 0x240 then fuseProg [] (drew' t 32) 0x240 (drawBytes t 32)
    else
      let ok := dbgFields.any (fun f => decide (f.1 ≤ off) && decide (off + bytes.length ≤ f.1 + f.2))
      if ok then fuseProg [] t off bytes else t)

end Sys2Proof.Machine
end

