-- ==== Sys2Proof/Machine/Algs.lean ====
section
/-! DEFINITION. Algorithm identifiers (R147, R148, R176, R177), policy words (R145, R146, R155), hash identifiers (R170), lengths of
keys, ciphertexts and signatures, the checks on public values (R167, R179, R270, R271), and the external algorithms as uninterpreted functions. -/

namespace Sys2Proof.Machine

/-- `n` bytes of an answer whose form an external standard fixes. -/
def stdBytes (f : Config.StdFn) (args : List (List Byte)) (n : Nat) : List Byte := (List.range n).map (Config.stdByte f args)

/-! ### Families -/

/-- The families of R147. -/
inductive Fam where
  | mlkem | mceliece | hqc | nist | mont | edwards | rsa | mldsa | slhdsa | lms | xmss | fndsa | aes | secret | hybrid
  deriving DecidableEq, Repr

/-- Whether an LMS identifier's height and Winternitz codes are defined (R176). -/
def lmsOk (lo : Nat) : Bool := decide (bits lo 5 3 < 4) && decide (bits lo 2 0 < 4)

/-- Whether an XMSS or XMSS^MT identifier's shape is defined (R177). -/
def xmssOk (lo : Nat) : Bool := if bit lo 7 then decide (lo % 32 < 8) else decide (lo % 32 < 3)

/-- The family of an ALG; none for an identifier that is not defined. -/
def famOf (a : Nat) : Option Fam :=
  let lo := a % 256
  match a / 256 with
  | 1 => if 1 ≤ lo ∧ lo ≤ 3 then some .mlkem else none
  | 2 => if 1 ≤ lo ∧ lo ≤ 8 then some .mceliece else none
  | 3 => if 1 ≤ lo ∧ lo ≤ 3 then some .hqc else none
  | 4 => if 1 ≤ lo ∧ lo ≤ 3 then some .nist else none
  | 5 => if lo = 1 ∨ lo = 2 then some .mont else if lo = 3 ∨ lo = 4 then some .edwards else none
  | 6 => if 1 ≤ lo ∧ lo ≤ 5 then some .rsa else none
  | 7 => if 1 ≤ lo ∧ lo ≤ 3 then some .mldsa else none
  | 8 => if 1 ≤ lo ∧ lo ≤ 12 then some .slhdsa else none
  | 9 => if lmsOk lo then some .lms else none
  | 10 => if xmssOk lo then some .xmss else none
  | 11 => if lo = 1 ∨ lo = 2 then some .fndsa else none
  | 12 => if lo = 1 then some .aes else if lo = 2 then some .secret else none
  | 13 => if lo = 1 ∨ lo = 2 then some .hybrid else none
  | _ => none

/-- An ALG is of one of these families. -/
def famIn (a : Nat) (l : List Fam) : Bool := match famOf a with | some f => l.contains f | none => false

/-- The low byte's position in a table, from 1. -/
def pick (a : Nat) (l : List Nat) : Nat := l.getD (a % 256 - 1) 0

/-- The SLH-DSA level of a set: 0 to 2, two functions and two speeds each. -/
def slhLevel (a : Nat) : Nat := (a % 256 - 1) / 4

/-- Whether an SLH-DSA set is a fast one. -/
def slhFast (a : Nat) : Nat := (a % 256 - 1) / 2 % 2

/-- n of an LMS or XMSS hash code. -/
def lmsN (a : Nat) : Nat := if bits a 7 6 % 2 = 0 then 32 else 24
/-- Height of an LMS level. -/
def lmsH (lo : Nat) : Nat := [5, 10, 15, 20].getD (bits lo 5 3) 0
/-- Winternitz chains of an LMS level. -/
def lmsP (lo : Nat) : Nat := if bits lo 7 6 % 2 = 0 then [265, 133, 67, 34].getD (bits lo 2 0) 0 else [200, 101, 51, 26].getD (bits lo 2 0) 0
/-- n of an XMSS identifier. -/
def xmssN (a : Nat) : Nat := if bits a 6 5 % 2 = 0 then 32 else 24
/-- Chains of an XMSS identifier. -/
def xmssLen (a : Nat) : Nat := if bits a 6 5 % 2 = 0 then 67 else 51
/-- Total height and layers of an XMSS or XMSS^MT identifier. -/
def xmssShape (a : Nat) : Nat × Nat :=
  if bit a 7 then
    [(20, 2), (20, 4), (40, 2), (40, 4), (40, 8), (60, 3), (60, 6), (60, 12)].getD (a % 32) (0, 1)
  else ([10, 16, 20].getD (a % 32) 0, 1)

/-- Seed bytes (R147, R177). -/
def seedLen (a : Nat) : Nat :=
  match famOf a with
  | some .mlkem => 64
  | some .mceliece => 32
  | some .hqc => Config.hqcLen 0 (a % 256)
  | some .nist => pick a [32, 48, 66]
  | some .mont => pick a [32, 56]
  | some .edwards => pick a [0, 0, 32, 57]
  | some .rsa => pick a [60, 64, 70, 76, 82]
  | some .mldsa => 32
  | some .slhdsa => [48, 72, 96].getD (slhLevel a) 0
  | some .lms => 16 + lmsN a
  | some .xmss => 3 * xmssN a
  | some .aes => 32
  | some .secret => 32
  | some .hybrid => pick a [96, 112]
  | _ => 0

/-- Public key bytes (R147, R177). -/
def pubLen (a : Nat) : Nat :=
  match famOf a with
  | some .mlkem => pick a [800, 1184, 1568]
  | some .mceliece => pick a [524160, 524160, 1044992, 1044992, 1047319, 1047319, 1357824, 1357824]
  | some .hqc => Config.hqcLen 1 (a % 256)
  | some .nist => pick a [65, 97, 133]
  | some .mont => pick a [32, 56]
  | some .edwards => pick a [0, 0, 32, 57]
  | some .rsa => pick a [256, 384, 512, 768, 1024]
  | some .mldsa => pick a [1312, 1952, 2592]
  | some .slhdsa => [32, 48, 64].getD (slhLevel a) 0
  | some .lms => 4 + 24 + lmsN a
  | some .xmss => 4 + 2 * xmssN a
  | some .fndsa => pick a [897, 1793]
  | some .hybrid => pick a [1216, 1665]
  | _ => 0

/-- Ciphertext bytes. -/
def ctLen (a : Nat) : Nat :=
  match famOf a with
  | some .mlkem => pick a [768, 1088, 1568]
  | some .mceliece => pick a [156, 156, 208, 208, 194, 194, 208, 208]
  | some .hqc => Config.hqcLen 2 (a % 256)
  | some .hybrid => pick a [1120, 1665]
  | _ => 0

/-- Shared secret bytes. -/
def ssLen (a : Nat) : Nat :=
  match famOf a with
  | some .mlkem => 32
  | some .mceliece => 32
  | some .hqc => Config.hqcLen 3 (a % 256)
  | some .nist => pick a [32, 48, 66]
  | some .mont => pick a [32, 56]
  | some .hybrid => 32
  | _ => 0

/-- Heights and chain counts of the levels of an HSS key (R177). -/
def hssLevels (a levels lower : Nat) : List (Nat × Nat) :=
  (lmsH (a % 256), lmsP (a % 256)) :: List.replicate (levels - 1) (lmsH lower, lmsP lower)

/-- The total height of a stateful key. -/
def totalHeight (a levels lower : Nat) : Nat :=
  if famOf a = some .lms then ((hssLevels a levels lower).map Prod.fst).sum else (xmssShape a).1

/-- Signature bytes, and whether the family fixes them (R177, R178). `der` selects ASN.1 for ECDSA. -/
def sigLen (a levels lower : Nat) (der : Bool) : Nat :=
  match famOf a with
  | some .mldsa => pick a [2420, 3309, 4627]
  | some .slhdsa => [7856, 17088, 16224, 35664, 29792, 49856].getD (2 * slhLevel a + slhFast a) 0
  | some .fndsa => pick a [666, 1280]
  | some .nist => if der then pick a [72, 104, 139] else pick a [64, 96, 132]
  | some .edwards => pick a [0, 0, 64, 114]
  | some .rsa => pubLen a
  | some .lms =>
    let n := lmsN a
    4 + ((hssLevels a levels lower).map (fun l => 12 + n + l.2 * n + l.1 * n)).sum + (levels - 1) * (24 + n)
  | some .xmss =>
    let n := xmssN a
    let h := (xmssShape a).1
    let d := (xmssShape a).2
    if bit a 7 then (h + 7) / 8 + n + d * xmssLen a * n + h * n else 4 + n + xmssLen a * n + h * n
  | _ => 0

/-- Bytes of the tree cache of a stateful key (R185), in MiB. -/
def treeMib (a levels lower : Nat) : Nat :=
  let n := if famOf a = some .lms then lmsN a else xmssN a
  let hs := if famOf a = some .lms then (hssLevels a levels lower).map Prod.fst
            else List.replicate (xmssShape a).2 ((xmssShape a).1 / (xmssShape a).2)
  let per := fun h => 2 ^ (h + 1) * n
  let total := match hs with
    | [] => 0
    | h :: ls => per h + 2 * (ls.map per).sum
  (2 * total + 2 ^ 20 - 1) / 2 ^ 20

/-! ### Policy (R145, R146, R155) -/

def polKem : Nat := 1
def polSign : Nat := 2
def polVerify : Nat := 4
def polDerive : Nat := 8
def polWrap : Nat := 16
def polExport : Nat := 32
def polLane : Nat := 64
def polCustom : Nat := 128
def polStateful : Nat := 256
def polEpoch : Nat := 512

/-- A policy carries every bit of a mask. -/
def hasPol (p m : Nat) : Bool := p &&& m == m

/-- A policy carries no bit beyond a mask. -/
def within (p m : Nat) : Bool := p &&& m == p

/-- The bits an ALG allows (R146). -/
def polAllowed (a : Nat) : Nat :=
  match famOf a with
  | some .mlkem => polExport + polCustom + polKem + (if a = 0x0103 then polWrap else 0)
  | some .mceliece => polExport + polCustom + polKem
  | some .hqc => polExport + polCustom + polKem
  | some .mont => polExport + polCustom + polKem
  | some .hybrid => polExport + polCustom + polKem
  | some .nist => polExport + polCustom + polKem + polSign + polVerify
  | some .mldsa => polExport + polCustom + polSign + polVerify
  | some .slhdsa => polExport + polCustom + polSign + polVerify
  | some .edwards => polExport + polCustom + polSign + polVerify
  | some .rsa => polExport + polCustom + polSign + polVerify
  | some .fndsa => polVerify
  | some .lms => polExport + polCustom + polSign + polVerify + polStateful
  | some .xmss => polExport + polCustom + polSign + polVerify + polStateful
  | some .aes => polExport + polCustom + polWrap + polLane
  | some .secret => polExport + polCustom + polDerive + polLane + polEpoch
  | none => 0

/-- A policy word fits its ALG: only allowed bits; STATEFUL excludes EXPORT_WRAPPED; EPOCH_BOUND requires DERIVE (R146). -/
def polOk (a p : Nat) : Bool :=
  within p (polAllowed a) && !(hasPol p polStateful && hasPol p polExport) && (!hasPol p polEpoch || hasPol p polDerive)

/-- A child's policy respects its parent's (R155). -/
def childPolOk (parent child : Nat) : Bool :=
  !hasPol parent polEpoch &&
    within child (polKem + polSign + polVerify + (parent &&& (polDerive + polWrap + polLane + polExport + polCustom)))

/-- The fixed policy of a peer key (R158). -/
def peerPol (a : Nat) : Nat :=
  match famOf a with
  | some .mlkem => polKem
  | some .mceliece => polKem
  | some .hqc => polKem
  | some .mont => polKem
  | some .hybrid => polKem
  | some .nist => polKem + polVerify
  | some .aes => 0
  | some .secret => 0
  | none => 0
  | _ => polVerify

/-! ### Hashes (R170) -/

/-- Output bytes of a hash as a pre-hash; 0 for one that is not accepted there. -/
def hashLen (h : Nat) : Nat :=
  match h with
  | 1 => 32 | 2 => 48 | 3 => 64 | 4 => 32 | 5 => 48 | 6 => 64 | 7 => 32 | 8 => 64 | _ => 0

/-- A hash or XOF of R170: N and S matter to cSHAKE, `n` to the XOFs. -/
def digestOf (h n : Nat) (name cust m : List Byte) : List Byte :=
  match h with
  | 1 => sha256 m
  | 2 => sha384 m
  | 3 => sha512 m
  | 4 => sha3_256 m
  | 5 => sha3_384 m
  | 6 => sha3_512 m
  | 7 => shake128 m n
  | 8 => shake256 m n
  | 9 => cshake128 m n name cust
  | _ => cshake256 m n name cust

/-- A message as the signature scheme takes it: a pre-hash asked of the device becomes a supplied digest (R172, R173). -/
def preHash (mode hash : Nat) (m : List Byte) : Nat × List Byte :=
  if mode % 4 = 1 then (mode + 1, digestOf hash (hashLen hash) [] [] m) else (mode, m)

/-! ### Checks on public values -/

/-- The field prime, coefficient b and order of a P-curve. -/
structure Curve where
  p : Nat
  b : Nat
  order : Nat
  size : Nat
  deriving DecidableEq, Repr

/-- P-256, P-384 and P-521. -/
def curveOf (a : Nat) : Curve :=
  match a % 256 with
  | 1 => { p := 2 ^ 256 - 2 ^ 224 + 2 ^ 192 + 2 ^ 96 - 1,
           b := 0x5ac635d8aa3a93e7b3ebbd55769886bc651d06b0cc53b0f63bce3c3e27d2604b,
           order := 0xffffffff00000000ffffffffffffffffbce6faada7179e84f3b9cac2fc632551, size := 32 }
  | 2 => { p := 2 ^ 384 - 2 ^ 128 - 2 ^ 96 + 2 ^ 32 - 1,
           b := 0xb3312fa7e23ee7e4988e056be3f82d19181d9c6efe8141120314088f5013875ac656398d8a2ed19d2a85c8edd3ec2aef,
           order := 0xffffffffffffffffffffffffffffffffffffffffffffffffc7634d81f4372ddf581a0db248b0a77aecec196accc52973,
           size := 48 }
  | _ => { p := 2 ^ 521 - 1,
           b := 0x0051953eb9618e1c9a1f929a21a0b68540eea2da725b99b315f3b8b489918ef109e156193951ec7e937b1652c0bd3bb1bf073573df883d2c34f1ef451fd46b503f00,
           order := 0x01fffffffffffffffffffffffffffffffffffffffffffffffffffffffffffffffffa51868783bf2f966b7fcc0148f709a5d03bb5c9b8899c47aebb6fb71e91386409,
           size := 66 }

/-- Full validation of an uncompressed point: E_DECODE, then E_INPUT_RANGE, then E_POINT_INVALID (R167, R270, R271). -/
def pointStatus (a : Nat) (k : List Byte) : Nat :=
  let c := curveOf a
  let x := beNat (sub k 1 c.size)
  let y := beNat (sub k (1 + c.size) c.size)
  if byteAt k 0 ≠ 4 then eDecode
  else if c.p ≤ x ∨ c.p ≤ y then eInputRange
  else if (y * y) % c.p ≠ (x * x * x + (c.p - 3) * x + c.b) % c.p then ePointInvalid
  else stOk

/-- The 12-bit coefficients of an ML-KEM encapsulation key lie below q (the FIPS 203 modulus check). -/
def mlkemKeyOk (a : Nat) (k : List Byte) : Bool :=
  let n := pubLen a - 32
  (List.range (n / 3)).all (fun i =>
    let b0 := byteAt k (3 * i)
    let b1 := byteAt k (3 * i + 1)
    let b2 := byteAt k (3 * i + 2)
    decide (b0 + 256 * (b1 % 16) < 3329) && decide (b1 / 16 + 16 * b2 < 3329))

/-- The padding bits of a Classic McEliece key are 0 (R167): only a set whose rows do not fill their bytes, 6960119 with rows of 5,413 bits in
677 bytes, has any. -/
def mcelieceKeyOk (a : Nat) (k : List Byte) : Bool :=
  !(a == 0x0205 || a == 0x0206) || (List.range 1547).all (fun i => decide (byteAt k (677 * i + 676) < 2 ^ 5))

/-- `b ^ e` modulo `m`, for an exponent of at most `fuel` bits. -/
def powMod (m : Nat) : Nat → Nat → Nat → Nat
  | 0, _, _ => 1 % m
  | n + 1, b, e =>
    let h := powMod m n (b * b % m) (e / 2)
    if e % 2 = 1 then b * h % m else h

/-- A field element is a square. -/
def isSquare (p x : Nat) : Bool := x % p == 0 || powMod p 512 (x % p) ((p - 1) / 2) == 1

/-- RFC 8032 decodes an Ed25519 or Ed448 point: y is canonical, an x exists, and an x of 0 carries no sign (R179). -/
def edDecodes (a : Nat) (k : List Byte) : Bool :=
  if a = 0x0503 then
    let p := 2 ^ 255 - 19
    let v := leNat k
    let y := v % 2 ^ 255
    let u := y * y + (p - 1)
    decide (y < p) && isSquare p (121666 * u * (y * y * (p - 121665) + 121666)) && !(u % p == 0 && decide (2 ^ 255 ≤ v))
  else
    let p := 2 ^ 448 - 2 ^ 224 - 1
    let y := leNat (k.take 56)
    let u := y * y + (p - 1)
    decide (y < p) && byteAt k 56 % 128 == 0 && isSquare p (u * (y * y * (p - 39081) + (p - 1))) &&
      !(u % p == 0 && decide (128 ≤ byteAt k 56))

/-- The LMS typecode of an identifier's low byte (R176): RFC 8554 and SP 800-208 (log entry 49). -/
def lmsType (lo : Nat) : Nat := [0x05, 0x0A, 0x0F, 0x14].getD (bits lo 7 6) 0 + bits lo 5 3

/-- Its LM-OTS typecode. -/
def otsType (lo : Nat) : Nat := [0x01, 0x05, 0x09, 0x0D].getD (bits lo 7 6) 0 + bits lo 2 0

/-- The identifier that two typecodes stand for. -/
def lmsLo (t o : Nat) : Option Nat := firstFrom (fun lo => lmsOk lo && lmsType lo == t && otsType lo == o) 0 256

/-- The OID of an XMSS or XMSS^MT identifier (R177): RFC 8391 and SP 800-208 (log entry 49). -/
def xmssOid (a : Nat) : Nat :=
  if bit a 7 then [0x01, 0x21, 0x29, 0x31].getD (bits a 6 5) 0 + a % 32 else [0x01, 0x0D, 0x10, 0x13].getD (bits a 6 5) 0 + a % 32

/-- An LMS key: L from 1 to 8, and the typecodes of ALG (R179). -/
def lmsKeyOk (a : Nat) (k : List Byte) : Bool :=
  let l := beNat (k.take 4)
  decide (1 ≤ l) && decide (l ≤ 8) && beNat (sub k 4 4) == lmsType (a % 256) && beNat (sub k 8 4) == otsType (a % 256)

/-- An RSA modulus is odd and has exactly nlen bits. -/
def rsaKeyOk (k : List Byte) : Bool := decide (0x80 ≤ byteAt k 0) && byteAt k (k.length - 1) % 2 == 1

/-- The public-key check of R167 and R179: length and decoding first (R270). -/
def pubStatus (a : Nat) (k : List Byte) : Nat :=
  let check := fun (p : Bool) => if p then stOk else eDecode
  if k.length ≠ pubLen a then eDecode
  else
    match famOf a with
    | some .mlkem => check (mlkemKeyOk a k)
    | some .nist => pointStatus a k
    | some .rsa => check (rsaKeyOk k)
    | some .hybrid =>
      if a = 0x0D01 then check (mlkemKeyOk 0x0102 (k.take 1184))
      else if !mlkemKeyOk 0x0103 (k.take 1568) then eDecode
      else pointStatus 0x0402 (k.drop 1568)
    | some .mceliece => check (mcelieceKeyOk a k)
    | some .edwards => check (edDecodes a k)
    | some .lms => check (lmsKeyOk a k)
    | some .xmss => check (beNat (k.take 4) == xmssOid a)
    | some .fndsa => check (byteAt k 0 == 8 + a % 256)
    | _ => stOk

/-! ### The external algorithms -/

/-- The keys of a tree below the top of a stateful key: I, then SEED (R184). Levels and layers count from 1 at the top. -/
def lowerSeed (n level tree : Nat) (seed : List Byte) : List Byte :=
  kmac256 seed (leBytes 1 level ++ beBytes 8 tree) (16 + n) (ascii "FY4128-HSS")

/-- The public key of one LMS tree: its typecodes, I and the root. -/
def lmsPub (lo : Nat) (key : List Byte) : List Byte :=
  beBytes 4 (lmsType lo) ++ beBytes 4 (otsType lo) ++ padTo 16 key ++ stdBytes .publicKey [leBytes 2 (0x0900 + lo), key] (lmsN lo)

/-- The root of one XMSS tree: of a single key, or of one layer. -/
def xmssRoot (a : Nat) (key : List Byte) : List Byte := stdBytes .publicKey [leBytes 2 a, key] (xmssN a)

/-- The public key of a seed; a hybrid key is the ML-KEM key, then the classical one (R148); an HSS or XMSS one has the form of R177. -/
def publicOf (a levels lower : Nat) (seed : List Byte) : List Byte :=
  match a with
  | 0x0D01 => stdBytes .publicKey [leBytes 2 0x0102, [], seed.drop 32] 1184 ++ stdBytes .publicKey [leBytes 2 0x0501, [], seed.take 32] 32
  | 0x0D02 => stdBytes .publicKey [leBytes 2 0x0103, [], seed.drop 48] 1568 ++ stdBytes .publicKey [leBytes 2 0x0402, [], seed.take 48] 97
  | _ =>
    if famOf a = some .lms then beBytes 4 (max levels 1) ++ lmsPub (a % 256) seed
    else if famOf a = some .xmss then beBytes 4 (xmssOid a) ++ xmssRoot a seed ++ padTo (xmssN a) (seed.drop (2 * xmssN a))
    else stdBytes .publicKey [leBytes 2 a, [BitVec.ofNat 8 levels, BitVec.ofNat 8 lower], seed] (pubLen a)

/-- Ciphertext and shared secret of an encapsulation. -/
def encaps (a : Nat) (pk rnd : List Byte) : List Byte × List Byte :=
  (stdBytes .encapsCt [leBytes 2 a, pk, rnd] (ctLen a), stdBytes .encapsSs [leBytes 2 a, pk, rnd] (ssLen a))

/-- The shared secret of a decapsulation; a failed re-encryption check gives the implicit-rejection key (R26). -/
def decaps (a : Nat) (seed ct : List Byte) : List Byte := stdBytes .decaps [leBytes 2 a, seed, ct] (ssLen a)

/-- The shared secret of a key agreement. -/
def agree (a : Nat) (scalar peer : List Byte) : List Byte := stdBytes .agree [leBytes 2 a, scalar, peer] (ssLen a)

/-- An agreement's status: a peer key that fails its check, or an all-zero X25519 or X448 result (R167). -/
def agreeStatus (a : Nat) (scalar peer : List Byte) : Nat :=
  if pubStatus a peer ≠ stOk then pubStatus a peer
  else if famOf a = some .mont ∧ (agree a scalar peer).all (· == 0) then ePointInvalid
  else stOk

/-- The hybrid combiner (R169). -/
def combine (ssPq ssCl ctPq ctCl : List Byte) : List Byte := kmac256 [] (ssPq ++ ssCl ++ ctPq ++ ctCl) 32 (ascii "FY4128-HYB")

/-- The ML-KEM and classical halves of a hybrid ALG. -/
def hybridParts (a : Nat) : Nat × Nat := if a = 0x0D01 then (0x0102, 0x0501) else (0x0103, 0x0402)

/-- A scalar is in range (R271). -/
def scalarOk (a : Nat) (k : List Byte) : Bool := decide (0 < beNat k) && decide (beNat k < (curveOf a).order)

/-! ### Signatures -/

/-- A minimal DER INTEGER of a number. -/
def derInt (v : Nat) : List Byte :=
  let b := (encBytes v)
  let c := if 0x80 ≤ byteAt b 0 then 0 :: b else b
  2 :: BitVec.ofNat 8 c.length :: c

/-- A DER length. -/
def derLen (n : Nat) : List Byte := if n < 0x80 then [BitVec.ofNat 8 n] else [0x81, BitVec.ofNat 8 n]

/-- r ‖ s as a DER SEQUENCE (R178). -/
def derSig (size : Nat) (rs : List Byte) : List Byte :=
  let body := derInt (beNat (sub rs 0 size)) ++ derInt (beNat (sub rs size size))
  0x30 :: derLen body.length ++ body

/-- Read a DER INTEGER: its value and the rest; none for bad syntax or a form that is not minimal. -/
def derReadInt (bs : List Byte) : Option (Nat × List Byte) :=
  let n := byteAt bs 1
  let c := (bs.drop 2).take n
  if byteAt bs 0 = 2 ∧ 1 ≤ n ∧ n < 0x80 ∧ c.length = n ∧ byteAt c 0 < 0x80 ∧
      (n = 1 ∨ byteAt c 0 ≠ 0 ∨ 0x80 ≤ byteAt c 1) then
    some (beNat c, bs.drop (2 + n))
  else none

/-- Read a DER signature. -/
def derRead (sig : List Byte) : Option (Nat × Nat) :=
  let long := byteAt sig 1 == 0x81
  let n := if long then byteAt sig 2 else byteAt sig 1
  let body := sig.drop (if long then 3 else 2)
  if byteAt sig 0 = 0x30 ∧ n = body.length ∧ (if long then 0x80 ≤ n else n < 0x80) then
    match derReadInt body with
    | some (r, rest) =>
      (match derReadInt rest with
       | some (t, []) => some (r, t)
       | _ => none)
    | none => none
  else none

/-- The verdict of a standard's verification: the signature equation or the tree path holds. -/
def stdVerdict (args : List (List Byte)) : Nat := if Config.stdByte .verdict args 0 = 0 then 0 else 1

/-- A signature of an HSS key carries, at some level, a leaf index at or beyond 2^h or a typecode other than its key's (R180); `key` is the
public key of the level, and `n` more levels follow. -/
def hssBad : Nat → List Byte → List Byte → Bool
  | n, key, sig =>
    match lmsLo (beNat (key.take 4)) (beNat (sub key 4 4)) with
    | none => true
    | some lo =>
      let m := lmsN lo
      let ots := 8 + m + lmsP lo * m
      decide (2 ^ lmsH lo ≤ beNat (sig.take 4)) || beNat (sub sig 4 4) != otsType lo || beNat (sub sig ots 4) != lmsType lo ||
        (match n with
         | 0 => false
         | k + 1 =>
           let rest := sig.drop (ots + 4 + lmsH lo * m)
           hssBad k (rest.take (24 + m)) (rest.drop (24 + m)))

/-- A stateful signature has DETAIL 3 (R180). -/
def statefulBad (a : Nat) (pub sig : List Byte) : Bool :=
  if famOf a = some .lms then
    let l := beNat (pub.take 4)
    beNat (sig.take 4) + 1 == l && hssBad (l - 1) (pub.drop 4) (sig.drop 4)
  else
    let h := (xmssShape a).1
    decide (2 ^ h ≤ beNat (sig.take (if bit a 7 then (h + 7) / 8 else 4)))

/-- One row of an ML-DSA hint: its positions rise strictly. -/
def risesIn (h : List Byte) (lo hi : Nat) : Bool :=
  (List.range (hi - lo)).all (fun i => i == 0 || decide (byteAt h (lo + i - 1) < byteAt h (lo + i)))

/-- An ML-DSA hint is malformed or too heavy (FIPS 204): the row ends do not fall and stay within omega, positions rise in a row, and what is
left over is 0 (R180). -/
def hintBad (a : Nat) (sig : List Byte) : Bool :=
  let w := pick a [80, 55, 75]
  let k := pick a [4, 6, 8]
  let h := sig.drop (sig.length - (w + k))
  let ends := fun i => if i = 0 then 0 else byteAt h (w + i - 1)
  !((List.range k).all (fun i => decide (ends i ≤ ends (i + 1)) && decide (ends (i + 1) ≤ w) && risesIn h (ends i) (ends (i + 1))) &&
    (List.range w).all (fun i => decide (i < ends k) || byteAt h i == 0))

/-- L, the order of the base point of Ed25519 or Ed448 (RFC 8032). -/
def edOrder (a : Nat) : Nat :=
  if a = 0x0503 then 2 ^ 252 + 27742317777372353535851937790883648493
  else 2 ^ 446 - 13818066809895115352007386748515426880336692474882178609894547503885

/-- The verdict on a signature (R180): a status, OK once a verdict is reached, and DETAIL: 2 for ECDSA values out of range, an RSA
representative not below n, a bad ML-DSA hint and an EdDSA S not below L; 3 for stateful ones. -/
def verdict (a mode hash salt : Nat) (pub ctx msg sig : List Byte) : Nat × Nat :=
  let p := preHash mode hash msg
  let args := [leBytes 2 a, [BitVec.ofNat 8 (p.1 % 4 + 16 * (p.1 / 16 % 2)), BitVec.ofNat 8 hash, BitVec.ofNat 8 salt], pub, ctx, p.2, sig]
  match famOf a with
  | some .nist =>
    let c := curveOf a
    let rs := if bit mode 3 then derRead sig else some (beNat (sub sig 0 c.size), beNat (sub sig c.size c.size))
    (match rs with
     | none => (eDecode, 0)
     | some (r, t) =>
       if r = 0 ∨ t = 0 ∨ c.order ≤ r ∨ c.order ≤ t then (stOk, 2)
       else (stOk, if stdVerdict args = 0 then 0 else 1))
  | some .rsa => if beNat pub ≤ beNat sig then (stOk, 2) else (stOk, if stdVerdict args = 0 then 0 else 1)
  | some .edwards =>
    if edOrder a ≤ leNat (sig.drop (sig.length / 2)) then (stOk, 2) else (stOk, if stdVerdict args = 0 then 0 else 1)
  | some .mldsa => (stOk, if hintBad a sig then 2 else stdVerdict args)
  | some .lms => (stOk, if statefulBad a pub sig then 3 else stdVerdict args)
  | some .xmss => (stOk, if statefulBad a pub sig then 3 else stdVerdict args)
  | _ => (stOk, stdVerdict args)

/-- One LMS signature by leaf `q` of the tree of a key (R177): its typecodes and index as RFC 8554 lays them out. -/
def lmsSig (lo : Nat) (key : List Byte) (q : Nat) (msg : List Byte) : List Byte :=
  let n := lmsN lo
  beBytes 4 q ++ beBytes 4 (otsType lo) ++ stdBytes .sign [leBytes 2 (0x0900 + lo), key, beBytes 4 q, msg] (n + lmsP lo * n) ++
    beBytes 4 (lmsType lo) ++ stdBytes .sign [leBytes 2 (0x0900 + lo), key, beBytes 4 q] (lmsH lo * n)

/-- The levels of an HSS signature from one level down (R177, R184): each signs the public key of the next, whose keys the device derives from
SEED; the lowest signs the message. `leaf` is the index of the leaf across all levels. -/
def hssSign (seed : List Byte) (leaf : Nat) (msg : List Byte) : Nat → List Byte → List Nat → List Byte
  | _, _, [] => []
  | _, key, [lo] => lmsSig lo key (leaf % 2 ^ lmsH lo) msg
  | level, key, lo :: next :: rest =>
    let tree := leaf / 2 ^ ((next :: rest).map lmsH).sum
    let key' := lowerSeed (lmsN lo) (level + 1) tree seed
    lmsSig lo key (tree % 2 ^ lmsH lo) (lmsPub next key') ++ lmsPub next key' ++ hssSign seed leaf msg (level + 1) key' (next :: rest)

/-- The keys of layer `i` of an XMSS^MT key, 1 at the top (R184): I stands in the 16 most significant bytes of SK_PRF. -/
def xmssLayer (a : Nat) (seed : List Byte) (leaf i : Nat) : List Byte :=
  let n := xmssN a
  let d := (xmssShape a).2
  let h := (xmssShape a).1 / d
  if i ≤ 1 then seed
  else
    let k := lowerSeed n i (leaf / 2 ^ (h * (d + 1 - i))) (seed.take n)
    k.drop 16 ++ k.take 16 ++ seed.drop (2 * n)

/-- An XMSS or XMSS^MT signature (R177, R184): the index, R, then each layer from the lowest up, which signs the message or the root below. -/
def xmssSign (a : Nat) (seed : List Byte) (leaf : Nat) (msg : List Byte) : List Byte :=
  let n := xmssN a
  let d := (xmssShape a).2
  let h := (xmssShape a).1 / d
  let idx := beBytes (if bit a 7 then ((xmssShape a).1 + 7) / 8 else 4) leaf
  idx ++ stdBytes .sign [leBytes 2 a, seed, idx] n ++
    (List.range d).flatMap (fun j =>
      let i := d - j
      let key := xmssLayer a seed leaf i
      let q := beBytes 4 (leaf / 2 ^ (h * j) % 2 ^ h)
      let m := if j = 0 then msg else xmssRoot a (xmssLayer a seed leaf (i + 1))
      stdBytes .sign [leBytes 2 a, key, q, m] (xmssLen a * n) ++ stdBytes .sign [leBytes 2 a, key, q] (h * n))

/-- A signature by a seed: `rnd` is the randomness of the attempt, or what stands for it where signing is deterministic (R181), and `leaf` the
leaf of a stateful key. -/
def signature (a levels lower mode hash salt : Nat) (seed ctx msg rnd : List Byte) (leaf : Nat) : List Byte :=
  let p := preHash mode hash msg
  let raw := fun (_ : Unit) => stdBytes .sign [leBytes 2 a, [BitVec.ofNat 8 levels, BitVec.ofNat 8 lower],
    [BitVec.ofNat 8 (p.1 % 8 + 16 * (p.1 / 16 % 2)), BitVec.ofNat 8 hash, BitVec.ofNat 8 salt], seed, ctx, p.2, rnd, leBytes 8 leaf]
    (sigLen a levels lower false)
  match famOf a with
  | some .lms => beBytes 4 (levels - 1) ++ hssSign (seed.drop 16) leaf msg 1 seed (a % 256 :: List.replicate (levels - 1) lower)
  | some .xmss => xmssSign a seed leaf msg
  | some .nist => if bit mode 3 then derSig (curveOf a).size (raw ()) else raw ()
  | _ => raw ()

end Sys2Proof.Machine
end

