-- ==== Sys2Proof/Machine/Resolve.lean ====
section
/-! DEFINITION. How a job gets its keys: the working-key caches and their sources (R332, R333), failed slot reads (R325), the expanded-key
cache (R158 to R160), and requests to a BNE (R259, R264). -/

namespace Sys2Proof.Machine

/-! ### Working keys (R333) -/

/-- A key's value: from a cache, else from its source, a derived key from its nearest ancestor found in a cache. -/
def resolveSrc (s : State) (r b : Nat) : KeySrc → List W64 → Option (List Byte)
  | .value v, _ => some v
  | .slot i _, hs => (match (match hs with | h :: _ => cached s r b h | [] => none) with | some v => some v | none => slotSeed s i)
  | .child p l, hs =>
    match (match hs with | h :: _ => cached s r b h | [] => none) with
    | some v => some v
    | none => (resolveSrc s r b p hs.tail).map (fun v => childKey v l)

/-- The value of a job's key. -/
def resolveKey (s : State) (j : Job) (k : KeyRef) : Option (List Byte) :=
  resolveSrc s j.region j.block k.src (chainOf s 8 k.handle)

/-- The value of key `i` of a job: what it holds since its engine started (R164), else what it resolves to. -/
def heldKey (s : State) (j : Job) (i : Nat) : Option (List Byte) :=
  match j.vals with
  | some vs => vs[i]?
  | none => (j.keys[i]?).bind (resolveKey s j)

/-- An entry is used. -/
def cacheTouch (h : W64) (now : Nat) (c : List CacheEnt) : List CacheEnt :=
  c.map (fun e => if e.handle = h then { e with used := now } else e)

/-- A cache of the job's block or region holds the handle (R333 steps 1 and 2). -/
def cacheHas (s : State) (j : Job) (h : W64) : Bool := (cached s j.region j.block h).isSome

/-- The cache that answers for a handle notes the use. -/
def cacheHit (s : State) (j : Job) (h : W64) : State :=
  if (cacheLook (getBlock s j.block).cache h).isSome then
    modBlock s j.block (fun x => { x with cache := cacheTouch h s.uptime x.cache })
  else modRegion s j.region (fun x => { x with cache := cacheTouch h s.uptime x.cache })

/-- A value from its source goes into the region cache, and as the leaf of a chain into the block cache too (R332, R333). -/
def cacheFill (s : State) (j : Job) (leaf : Bool) (e : CacheEnt) : State :=
  let u := modRegion s j.region (fun x => { x with cache := cachePut 8192 2048 x.cache e })
  if leaf then modBlock u j.block (fun x => { x with cache := cachePut 512 128 x.cache e }) else u

/-- The caches of the job's region and block once a key has been resolved (R333): a cache that holds the handle answers; else the value comes
from its source, a derived one from its nearest ancestor found, and is entered with each level between. -/
def fillChain (j : Job) (leaf : Bool) (s : State) : KeySrc → List W64 → State
  | .child p l, h :: hs =>
    if cacheHas s j h then cacheHit s j h
    else
      let t := fillChain j false s p hs
      (match resolveSrc s j.region j.block (.child p l) (h :: hs) with
       | some v => cacheFill t j leaf { handle := h, slice := j.slice, value := v, used := s.uptime, chain := hs }
       | none => t)
  | .slot i g, h :: hs =>
    if cacheHas s j h then cacheHit s j h
    else
      match resolveSrc s j.region j.block (.slot i g) (h :: hs) with
      | some v => cacheFill s j false { handle := h, slice := j.slice, value := v, used := s.uptime, chain := [] }
      | none => s
  | _, _ => s

/-- The caches after a job has resolved a key: an ephemeral SECRET-256 or AES-256 value is held too (R332). -/
def fillKey (j : Job) (s : State) (k : KeyRef) : State :=
  match k.kind, k.src with
  | 3, .value v =>
    if !famIn k.alg [.aes, .secret] then s
    else if cacheHas s j k.handle then cacheHit s j k.handle
    else cacheFill s j true { handle := k.handle, slice := j.slice, value := v, used := s.uptime, chain := [] }
  | 2, _ => s
  | _, _ => fillChain j true s k.src (chainOf s 8 k.handle)

/-- A slot a job's keys read fails its check: the slot is withdrawn, and the job completes with E_SLOT_CORRUPT once that is
committed (R325). One withdrawal is committed for all jobs that meet it. -/
def corruptJob (s : State) (j : Job) (i : Nat) : State :=
  let t := freeEngines s j.id
  if (slotEnt s i).state = 3 ∨ (slotEnt s i).state = 4 then failJob t j eSlotCorrupt 0 false
  else
    withdrawSlot (putJob t { j with res := some (JobRes.status0 eSlotCorrupt 0), pos := .committing, writes := 1 }) i (some j.id)

/-- Run with the values of the job's keys: those it holds since its engine started (R164), else once the chip KMAC unit has its turn for those
that need it (R156). -/
def withKeys (s : State) (j : Job) (f : State → List (List Byte) → State) : State :=
  match j.vals with
  | some vs => f s vs
  | none =>
  if !kmacTurn s j then s
  else match j.keys.find? (fun k => (resolveKey s j k).isNone) with
  | some k => corruptJob s j ((slotOf k.src).getD 0)
  | none => f (if j.assigned ∧ j.block < 16 then j.keys.foldl (fillKey j) s else s) (j.keys.map (fun k => (resolveKey s j k).getD []))

/-! ### The expanded-key cache (R158 to R160) -/

/-- Size in KiB of a key's expanded form: of the public half, or of the private one. None has no cached form. -/
def expandedSize (a : Nat) (priv : Bool) : Nat :=
  match famOf a with
  | some .mlkem => if priv then pick a [8, 16, 24] else pick a [4, 8, 8]
  | some .mldsa => pick a [16, 32, 56]
  | some .mceliece => if priv then 16 else pick a [512, 512, 1024, 1024, 1024, 1024, 1536, 1536]
  | some .rsa => if priv then 4 else 0
  | _ => 0

/-- A key's expanded form is cached in region `r`. -/
def expandedIn (s : State) (r : Nat) (h : W64) : Bool := (getRegion s r).expanded.any (fun e => e.handle == h)

/-- The expanded form of a job's first key, which its attempt uses or builds: it enters the region's cache at the release (R18, R21). -/
def formUse (j : Job) (priv : Bool) (key : List Byte) : List FormUse :=
  match j.keys with
  | k :: _ =>
    let size := expandedSize k.alg priv
    if size = 0 ∨ ¬ j.assigned then [] else [{ handle := some k.handle, alg := k.alg, key, size, region := j.region }]
  | [] => []

/-- CACHE_HIT, where the forms the attempt uses are there (R131, R159). -/
def formHit (s : State) (fs : List FormUse) : Nat :=
  match fs with
  | f :: _ => (match f.handle with | some h => if expandedIn s f.region h then 32 else 0 | none => 0)
  | [] => 0

/-- The private form of an RSA key: of the region's cache, else rebuilt from the seed (R158, R254). -/
def rsaForm (s : State) (r : Nat) (k : KeyRef) (seed : List Byte) : List Byte :=
  match expEntOf s r k.handle with
  | some e => e.bytes 0 (2 * pubLen k.alg)
  | none => (List.range (2 * pubLen k.alg)).map (formByte k.alg seed)

/-! ### Seeds -/

/-- A seed made from drawn bytes: a P-curve scalar lies in [1, order − 1]; an RSA seed is the form of R148. -/
def newSeed (a : Nat) (draw : List Byte) : List Byte :=
  match famOf a with
  | some .nist => beBytes (seedLen a) (1 + beNat draw % ((curveOf a).order - 1))
  | some .rsa => stdBytes .rsaSeed [leBytes 2 a, draw] (seedLen a)
  | some .hybrid =>
    if a = 0x0D02 then beBytes 48 (1 + beNat (draw.take 48) % ((curveOf 0x0402).order - 1)) ++ draw.drop 48 else draw
  | _ => draw

/-- An ephemeral key as a job's fill. -/
def ephFill (index alg policy : Nat) (value : List Byte) (rooted : Bool) : VolFill :=
  { kind := 3, index, alg, policy, value, pub := [], depth := 0, parent := 0, label := [], src := some (.value value), rooted,
    hbmMib := 0 }

/-! ### Requests to a BNE -/

/-- The BNE that serves the requests of block `b`: its own, else that of the next block of the region in block order (R264). -/
def bneFor (s : State) (b : Nat) : Option Nat :=
  (((List.range 4).map (fun i => b / 4 * 4 + (b % 4 + i) % 4)).find? (bneServes s))

/-- The queue of BNE `b` has room (R253). -/
def bneRoom (s : State) (b : Nat) : Bool := decide ((getBlock s b).bne.queue.length < 32)

/-- A request of a job. -/
def jobReq (j : Job) (func alg : Nat) (key input rnd : List Byte) : BneReq :=
  { job := j.id, cell := none, func, sel := if key = [] then 0xFF else 0, alg, mode := 0, hash := 0, lc := j.lc, inOff := 0,
    inLen := input.length, outOff := 0, outCap := 0, bad := false, input, slice := j.slice,
    handle := (match j.keys with | k :: _ => k.handle | [] => 0), key, pub := [], ctx := [], sig := [], salt := 0, blkOff := 0, adj := 0, rnd, age := j.id, twin := false,
    spoilt := false, blind := [] }

/-- Pass a request to the BNE that serves the job's block: the job waits for it there. Without room, or without a BNE, the job stays
where it is (R261, R264). -/
def askBne (s : State) (j : Job) (r : BneReq) : State :=
  match bneFor s j.block with
  | some b =>
    if bneRoom s b then
      putJob (wakeUnit false (modBne s b (fun x => { x with queue := x.queue ++ [r] })) (128 + b))
        { j with pos := .onBne b, unit := if j.unit < 128 then j.unit else 0x80 + b }
    else s
  | none => s

/-- A job stands in its block and is to run on the BNE there. -/
def Job.atBlock (j : Job) : Bool := match j.pos with | .block _ => true | _ => false

end Sys2Proof.Machine
end

