-- ==== Sys2Proof/Machine/ChipRegs.lean ====
section
/-! DEFINITION. The CHIP registers as they read (R94). -/

namespace Sys2Proof.Machine

/-- CHIP_ID. -/
def regChipId (s : State) : Nat := 0x4128 * 2 ^ 16 + 0xB1 * 2 ^ 8 + fuseGrade s % 16 * 2 ^ 4

/-- An exclusive ceremony is in progress (R47): TAKE_OWNERSHIP, UNLOCK, RELEASE_OWNERSHIP, SCRAP. -/
def exclusive (s : State) : Bool :=
  s.chip.mode == .ceremony && (match s.cer with | some c => c.kind == 1 || c.kind == 5 || c.kind == 6 || c.kind == 7 | none => false)

/-- CHIP_MODE. -/
def regChipMode (s : State) : Nat :=
  b2n (exclusive s) * 2 ^ 10 + s.tb.cond.code * 2 ^ 8 + s.chip.lc.code * 2 ^ 4 + s.chip.mode.code

/-- Numbers below `n` that satisfy `p`. -/
def countTo (n : Nat) (p : Nat → Bool) : Nat := ((List.range n).filter p).length

/-- CHIP_COND. -/
def regChipCond (s : State) : Nat :=
  b2n (s.root.latch != 0) * 2 ^ 29 + b2n s.chip.drained * 2 ^ 28 +
    countTo 64 (fun n => (getSlice s n).state == .active) * 2 ^ 21 + countTo 16 (bneServes s) * 2 ^ 16 +
    countTo 128 (cellServes s) * 2 ^ 8 +
    ((List.range 4).map (fun r => (getUnit s (144 + r)).state.code * 2 ^ (2 * r))).sum

/-- A stream of the list is configured and every configured one is Secure. -/
def ideSecure (s : State) (l : List Nat) : Bool :=
  let x := fun i => mapGet IdeStream.none s.link.ide i
  l.any (fun i => (x i).configured) && l.all (fun i => !(x i).configured || (x i).secure)

/-- CHIP_LINK. -/
def regChipLink (s : State) : Nat :=
  b2n s.chip.viral * 2 ^ 14 + b2n s.link.ideReq * 2 ^ 13 + b2n (ideSecure s [2]) * 2 ^ 12 + b2n (ideSecure s [0, 1]) * 2 ^ 11 +
    b2n s.hdm.committed * 2 ^ 10 + b2n s.link.cacheEn * 2 ^ 9 + b2n s.link.cxl * 2 ^ 8 + s.link.speed * 2 ^ 4 + s.link.width

end Sys2Proof.Machine
end

