-- ==== Sys2Proof/Machine/SliceOps.lean ====
section
/-! DEFINITION. Slice resets and removals (R105, R138 to R140) and a slice's state at a start (R46, R533, R534). -/

namespace Sys2Proof.Machine

/-- HBM of the tree caches of a slice's stateful keys, in MiB: charged to its quota as long as the keys live (R185). -/
def treeCharge (s : State) (n : Nat) : Nat :=
  ((leafRids s).map (fun e => if e.2.slice = n then treeMib e.2.alg e.2.levels e.2.lower else 0)).sum

/-- HBM of a slice's quota in use, in MiB: its aperture, peer keys and tree caches (R96, R122, R158, R185). -/
def hbmUse (s : State) (n : Nat) : Nat := (getSlice s n).apSize * 1024 + (getSlice s n).hbmMib + treeCharge s n

/-- Step 5 of R139: the slice's HBM, caches, sealed frames, expanded entries, customer windows and operand memory; its volatile
indices are emptied and their generations incremented (R144). -/
def scrubSlice (s : State) (n : Nat) : State :=
  -- Bindings of volatile bases are dropped with them (R390).
  let s := dropVolBindings s n
  let x := getSlice s n
  let t := scrubSliceKeys s n
  let lo := x.apOff * 2 ^ 30
  let hi := lo + x.apSize * 2 ^ 30
  let u := modSlice t n (fun y => { y with hbmKey := some t.freeCtr, volBump := y.volBump + 1, hbmMib := 0 })
  { drew' u 1 with
    hdm := { t.hdm with
      mem := mapFilter (fun a _ => decide (a < lo) || decide (hi ≤ a)) t.hdm.mem,
      poison := mapFilter (fun l _ => decide (l * 64 < lo) || decide (hi ≤ l * 64)) t.hdm.poison },
    vols := mapAll VolEnt.empty (fun k e => if k / 2 ^ 24 / 4 = n then { VolEnt.empty with bumps := e.bumps } else e) t.vols,
    cells := mapAll Cell.reset (fun _ c =>
      if c.winTag = some n then
        { c with store := mapFilter (fun k _ => decide (k < 0xC00)) c.store, winTag := none, winImage := [] }
      else c) t.cells,
    blocks := mapAll Block.idle (fun _ b =>
      let e := if b.bne.owner = some n then b.bne.wipe0 t.uptime else b.bne
      { b with bne := if e.long.any (fun r => r.slice == n) then { e.wipe1 t.uptime with long := none, longRes := none } else e }) t.blocks,
    ports := mapAll Port.idle (fun p q => if x.cfg.ports.testBit p then { q with cache := [] } else q) t.ports,
    laneKeys := t.laneKeys.filter (fun k => k.slice != n),
    -- The tree caches lie in the slice's HBM and must be built again (R185, R186).
    trees := mapAll Tree.none (fun rid y => if (leafOf s rid).any (fun l => l.slice == n) then y.rebuild else y) t.trees,
    slices := u.slices }

/-- The job runs on a cell, a digest-engine context or a BNE: it stops at that engine's next boundary (R139 step 3). -/
def onEngine (s : State) (j : Job) : Bool :=
  match j.pos with
  | .running u => decide (u < 0xA0)
  | .onBne b =>
    let e := (getBlock s b).bne
    e.run.any (fun r => r.job == j.id) || e.long.any (fun r => r.job == j.id)
  | _ => false

/-- A record write of the job is in flight: the job reaches its release point when it commits. -/
def writeBegun (s : State) (j : Job) : Bool :=
  s.alm.writes.any (fun e => decide (e.1 < 2 ^ 20) && e.2.started && e.2.reqs.any (fun r => r.job == some j.id))

/-- ABORT sets in the cells that run jobs of the slice (R139, R234). -/
def abortCells (s : State) (n : Nat) : State :=
  { s with cells := mapAll Cell.reset (fun _ c => if c.job.isSome ∧ c.slice = n then { c with abort := true } else c) s.cells }

/-- Squash the unreleased jobs of a slice that are on no engine (R139 steps 2 and 3): their completions carry E_ABORTED. Jobs on
engines stop at their next boundary (CELL_JOB_ABORT, BNE_SEGMENT_END, DE_BLOCK_DONE). The commands of resets and removals in progress
are not touched: their completions end them. -/
def squashSlice (s : State) (n : Nat) : State :=
  abortCells (forJobs (fun j => j.slice == n && !j.isReleased && !onEngine s j && !writeBegun s j && !isResetJob s j)
    (fun t j => failJob t j eAborted 0 false) s) n

/-- A job on an engine has reached a boundary while its slice is being reset or removed: it is squashed there. -/
def squashDue (s : State) (j : Job) : Bool := resetting s j.slice && !j.isReleased

/-- Steps 1 to 4 of R139 for a command: the slice enters RESETTING and its jobs are squashed. -/
def beginReset (s : State) (n : Nat) (job : Option Nat) (removal : Bool) : State :=
  let x := getSlice s n
  let t := modSlice s n (fun y =>
    { y with state := .resetting, resetRec := some { prior := x.state, job, removal, hostSide := false } })
  notifyState (squashSlice t n) n

/-- A host-side reset of one slice (R105): its jobs end without completions, it keeps its state and its rings are
disabled. -/
def hostResetSlice (s : State) (n : Nat) : State :=
  let x := getSlice s n
  if x.state = .absent then s
  else
    let r : ResetRec := match x.resetRec with
      | some r => { r with job := none, hostSide := true }
      | none => { prior := x.state, job := none, removal := false, hostSide := true }
    -- The completion of a reset or removal in progress is not written (R108).
    let u := match x.resetRec.bind (fun r => r.job) with | some k => dropJob s k | none => s
    let t := modSlice u n (fun y => { y with state := .resetting, resetRec := some r })
    notifyState (resetQps (squashSlice t n) n true) n

/-- A host-side reset puts every slice through it, except in HALT (R105, R108). -/
def hostResetAll (s : State) : State :=
  if s.chip.mode = .halt ∨ s.chip.mode = .boot then s
  else
    let t := (List.range 64).foldl hostResetSlice s
    -- A ceremony step whose job is gone ends; one whose commit has begun stands.
    if t.cer.any (fun c => c.stepJob.any (fun k => (getJob t k).isNone)) then
      { idleCards t with cer := t.cer.map (fun c => { c with stepJob := none, step := none }) }
    else t

/-- A slice as it stands at the start of ASSAY or of the start-up of R538. -/
def startSlice (s : State) (n : Nat) : State :=
  let old := getSlice s n
  -- PASID bindings, and what else of a slice is volatile and survives the clearance of R55, stay from UMBRA to ASSAY (R45, R534).
  let base : Slice := { old with hbmKey := some (s.freeCtr + n), resetRec := none, removeWaits := none, hbmMib := 0 }
  let lc := s.chip.lc
  if lc = .scrapped then s
  else if n = 0 then
    let cfg := match viewRec s (ridSlice 0) with | .cur _ _ (.slice r) => r.cfg | _ => SliceCfg.dflt
    let ps := if mapGet .unbound old.pasids 0 = .unbound then mapSet .unbound old.pasids 0 .noPrefix else old.pasids
    modSlice s 0 (fun _ => { base with state := .active, cfg, pasids := ps })
  else if lc = .blank ∨ lc = .sealed then s
  else
    match viewRec s (ridSlice n) with
    | .cur _ _ (.slice r) => modSlice s n (fun _ => { base with state := r.state, cfg := r.cfg })
    | .lost => modSlice s n (fun _ => { base with state := .configured, cfg := SliceCfg.dflt })
    | _ => s

/-- Every slice takes the state its record holds, rings as after a device reset (R46). -/
def startSlices (s : State) : State :=
  placeCopies (drew' ((List.range 64).foldl startSlice { s with qps := [] }) 64)

end Sys2Proof.Machine
end

