-- ==== Sys2Proof/Machine/KeyCmds.lean ====
section
/-! DEFINITION. Group 0x02 (R149 to R164): what each command does on its unit, and the content check 2 looks at. -/

namespace Sys2Proof.Machine

/-! ### Units and keys of a job -/

/-- E_UNWRAP (R163). -/
def eUnwrap : Nat := 0x0210
/-- E_TREE_BUILDING (R186). -/
def eTreeBuilding : Nat := 0x0220

/-- Families that a BNE serves as whole jobs (R259). -/
def bneFam (a : Nat) : Bool := famIn a [.nist, .mont, .edwards, .rsa]

/-- ALG as the parameters give it: bytes 48-49 in group 0x03 and TRANSPORT_ESTABLISH, else 40-41. -/
def Desc.alg (d : Desc) : Nat := if d.opcode / 256 = 3 ∨ d.opcode = 0x0209 then d.pn 48 2 else d.pn 40 2

/-- The ALG a job works with: its first key's, else that of its parameters. -/
def Job.alg (j : Job) : Nat := match j.keys with | k :: _ => k.alg | [] => j.desc.alg

/-- A job's first key. -/
def Job.key0 (j : Job) : KeyRef :=
  j.keys.headD { handle := 0, kind := 0, alg := 0, policy := 0, depth := 0, parent := 0, label := [], created := 0, rooted := false,
                 src := .value [] }

/-- Run a command on its cell. -/
def runCell (s : State) (job op : Nat) (f : Job → State) : Res := runEngine s job op Job.onCell f

/-- Run a command that a cell or, by its family, a BNE serves. -/
def runCellBne (s : State) (job op : Nat) (cell bne : Job → State) : Res :=
  runEngine s job op (fun j => if bneFam j.alg then j.atBlock && (bneFor s j.block).isSome && bneRoom s ((bneFor s j.block).getD 0) else j.onCell)
    (fun j => if bneFam j.alg then bne j else cell j)

/-- An engine job draws `n` bytes; it waits while no expander is ready and ends with E_RNG when no source is left (R307). -/
def withDraw (s : State) (j : Job) (io : JobIo) (n : Nat) (f : State → List Byte → State) : State :=
  withRng s j 1 (stageFail s j io (JobRes.status0 eRng 0)) (fun t => f (drew' t n) (drawBytes t n))

/-- An engine ends a job with a status. -/
def stageErr (s : State) (j : Job) (io : JobIo) (st : Nat) : State := stageFail s j io (JobRes.status0 st 0)

/-- S00 may choose unmasked lattice operation in MAINTENANCE (R54, R75). The spec names no control for the choice: the model leaves it a free
value for each job (assumption 44). -/
def unmaskedChosen (s : State) (j : Job) : Bool := s.chip.mode == .maintenance && (Config.freeWord 9 j.id).getLsbD 0

/-- MASKED: the families whose secret-key arithmetic a cell runs in order-2 masking (R131); a lattice operation only where S00 has not chosen
otherwise. -/
def maskedFlag (s : State) (j : Job) (a : Nat) : Nat :=
  if famIn a [.mceliece, .hqc] || (famIn a [.mlkem, .mldsa, .hybrid] && !unmaskedChosen s j) then 4 else 0

/-- LEVELS and LOWER of a key: those of its leaf record when it is stateful. -/
def levelsOf (s : State) (k : KeyRef) : Nat × Nat :=
  match k.src with
  | .slot i g => (match leafFor s i g with | some (_, l) => (l.levels, l.lower) | none => (1, 0))
  | _ => (1, 0)

/-- The public key of a job's key from its value. -/
def pubOfKey (s : State) (k : KeyRef) (v : List Byte) : List Byte :=
  if k.kind = 2 then v else publicOf k.alg (levelsOf s k).1 (levelsOf s k).2 v

/-! ### Slot keys -/

/-- The result of a command that creates a slot key: handle, then the public key given (R149); RESULT is the generation (R143). -/
def slotResult (s : State) (j : Job) (a pol origin : Nat) (seed pub shown : List Byte) (st : Option (Nat × Nat × Nat)) : JobRes :=
  let i := j.reserved.getD 0
  { JobRes.done (leBytes 8 (mkHandle 0 j.slice i (nextGen s i)).toNat ++ shown) (nextGen s i) with
    guarantee := maskedFlag s j a,
    slot := some { index := i, alg := a, policy := pol, origin, seed, pub, stateful := st } }

/-- A key just generated becomes a slot record. -/
def keepGenerated (s : State) (j : Job) (seed : List Byte) : State :=
  let a := j.desc.alg
  let pub := if pubLen a = 0 then [] else publicOf a 1 0 seed
  stage s j (slotResult s j a (j.desc.pn 42 2) 0 seed pub pub none) false

/-- The classical ALG and scalar of a hybrid seed. -/
def hybridScalar (a : Nat) (seed : List Byte) : Nat × List Byte := ((hybridParts a).2, seed.take (seedLen (hybridParts a).2))

/-- Pass a request to the BNE on behalf of a job, which remembers what it needs when the answer comes. -/
def askWith (s : State) (j : Job) (saved : List (List Byte)) (r : BneReq) : State := askBne s { j with saved } r

/-- A new seed for ALG `a`, drawn and passed to `f`, in a cell; a hybrid's classical public key comes from the BNE. -/
def cellSeed (s : State) (j : Job) (io : JobIo) (f : State → List Byte → State) : State :=
  let a := j.desc.alg
  if famOf a = some .hybrid then
    (match bneFor s j.block with
     | some b =>
       if bneRoom s b then
         withDraw s j io (seedLen a) (fun t d =>
           let seed := newSeed a d
           askWith t j [seed] (jobReq j 1 (hybridScalar a seed).1 (hybridScalar a seed).2 [] []))
       else s
     | none => s)
  else withDraw s j io (seedLen a) (fun t d => f t (newSeed a d))

/-- A new seed on the BNE: PUBLIC of a drawn scalar, or RSA_KEYGEN. -/
def bneSeed (s : State) (j : Job) (io : JobIo) : State :=
  let a := j.desc.alg
  withDraw s j io (seedLen a) (fun t d =>
    if famOf a = some .rsa then askWith t j [] (jobReq j 0x0A a [] [] d)
    else askWith t j [newSeed a d] (jobReq j 1 a (newSeed a d) [] []))

/-- KEY_GENERATE (R149, R151, R322). -/
def execKeyGenerate (job : Nat) (io : JobIo) (s : State) : Res :=
  runCellBne s job 0x0200 (fun j => cellSeed s j io (fun t seed => keepGenerated t j seed)) (fun j => bneSeed s j io)

/-- Regions that hold an expanded entry of a handle, as a mask. -/
def expandedMask (s : State) (h : W64) : Nat := maskOf (fun r => expandedIn s r h) 4

/-- An expanded entry of the handle is pinned. -/
def expandedPinned (s : State) (h : W64) : Bool :=
  (List.range 4).any (fun r => (getRegion s r).expanded.any (fun e => e.handle == h && e.pinned))

/-- CREATED of a key: a slot's is in its record. -/
def createdOf (s : State) (k : KeyRef) : Nat :=
  match k.src with
  | .slot i _ => fieldLe (slotBytes s i) 16 8
  | _ => k.created

/-- The KEY_QUERY record (R150). -/
def keyRecord (s : State) (k : KeyRef) : List Byte :=
  leBytes 8 k.handle.toNat ++ leBytes 2 k.alg ++ leBytes 2 k.policy ++ leBytes 1 k.kind ++ leBytes 1 (if k.kind = 1 then k.depth else 0) ++
    leBytes 1 (expandedMask s k.handle + 16 * b2n (expandedPinned s k.handle)) ++ [0] ++ leBytes 8 (createdOf s k) ++
    leBytes 8 (if k.kind = 1 then k.parent.toNat else 0) ++ padTo 32 (if k.kind = 1 then k.label else [])

/-- A job that reads the record of its slot key beside the seed runs the checks of R325 even where a cache holds the seed (R153). -/
def slotRead (s : State) (j : Job) (t : State) : State :=
  match j.key0.src, j.key0.kind with
  | .slot i _, 0 => if slotHeaderOk s i then t else corruptJob s j i
  | _, _ => t

/-- KEY_QUERY (R150): a slot's record is checked by steps 1 to 3 of R325. -/
def execKeyQuery (job : Nat) (io : JobIo) (s : State) : Res :=
  runMgmt s job 0x0201 (fun j =>
    slotRead s j (answer s j io (JobRes.done (keyRecord s j.key0) 0)))

/-- A public key rebuilt from a slot's seed matches its PUB_DIGEST (R320). -/
def pubDigestOk (s : State) (k : KeyRef) (pub : List Byte) : Bool :=
  match k.src with
  | .slot i _ => k.kind != 0 || sha3_256 pub == sub (slotBytes s i) 152 32
  | _ => true

/-- Hand a key's public key to the job, unless its digest does not match: then the job is replayed (R320). -/
def givePublic (s : State) (j : Job) (pub : List Byte) : State :=
  slotRead s j (if pubDigestOk s j.key0 pub then stage s j { JobRes.done pub 0 with guarantee := maskedFlag s j j.alg } false
    else replayJob s j false)

/-- KEY_PUBLIC (R149): a peer's is answered by a management core; a stateful key needs its top tree (R186). -/
def execKeyPublic (job : Nat) (io : JobIo) (s : State) : Res :=
  match getJob s job with
  | some j =>
    if j.key0.kind = 2 then
      runMgmt s job 0x0202 (fun j => withKeys s j (fun t vs => answer t j io (JobRes.done (vs.headD []) 0)))
    else
      runCellBne s job 0x0202
        (fun j => withKeys s j (fun t vs =>
          let v := vs.headD []
          if famOf j.alg = some .hybrid then
            askWith t j [v] (jobReq j 1 (hybridScalar j.alg v).1 (hybridScalar j.alg v).2 [] [])
          else givePublic t j (pubOfKey t j.key0 v)))
        (fun j => withKeys s j (fun t vs =>
          if famOf j.alg = some .rsa then givePublic t j (pubOfKey t j.key0 (vs.headD []))
          else askWith t j [vs.headD []] (jobReq j 1 j.alg (vs.headD []) [] [])))
  | none => .next s

/-- The record changes that retire a slot: a LIVE one goes to ZEROING, a WITHDRAWN one to DEAD; a stateful key's leaf record is
emptied (R152, R153, R344). -/
def retireOps (s : State) (i : Nat) : List AlmOp :=
  let e := slotEnt s i
  let op := AlmOp.slotEnt i (if e.state = 1 then { e with state := 2 } else { SlotEnt.free with gen := e.gen, state := 4 })
  op :: (match leafFor s i e.gen with | some (rid, _) => [.leafErase rid] | none => [])

/-- KEY_RETIRE (R152, R153): a LIVE slot goes to ZEROING, a WITHDRAWN one to DEAD; a stateful key's leaf record is emptied (R344). -/
def execKeyRetire (job : Nat) (io : JobIo) (s : State) : Res :=
  runMgmt s job 0x0203 (fun j =>
    let i := hIndex j.desc.keyHandle
    let e := slotEnt s i
    if ¬ (e.state = 1 ∨ e.state = 3) then refuse s j io eHandle
    else stageCommit s j (JobRes.done [] 0) (retireOps s i))

/-! ### Derivation -/

/-- A label may be used by DERIVE for this ALG (R327). -/
def labelOk (a : Nat) (l : List Byte) : Bool :=
  decide (0x0100 ≤ fieldLe l 0 2) && decide (fieldLe l 0 2 ≤ 0x7FFF) && fieldLe l 2 2 == a

/-- A derived key's fill. -/
def derivedFill (j : Job) (index alg policy : Nat) (label : List Byte) : VolFill :=
  { kind := 1, index, alg, policy, value := [], pub := [], depth := j.key0.depth + 1, parent := j.key0.handle, label,
    src := some (.child j.key0.src label), rooted := true, hbmMib := 0 }

/-- DERIVE (R154, R155, R326, R327): the label is read, the chain verified, and the derived index filled. -/
def execDerive (job : Nat) (io : JobIo) (s : State) : Res :=
  runMgmt s job 0x0204 (fun j =>
    withInput s j io (fun l =>
      -- A label that fails is a check 2 failure (R154): no unit has run.
      if !labelOk j.desc.alg l then endJob s j (Cpl.bare s eParam 0x02FF unitNone) 0 io.cplFault
      else
        withKeys s j (fun t _ =>
          answer t j io { JobRes.done [] 0 with
            fills := [derivedFill j (j.desc.pn 44 4) j.desc.alg (j.desc.pn 42 2) l] })))

/-- The current epoch of a slot's slice (R157, R70): by the timebase, in UNTIMED the last one activated. -/
def currentEpoch (s : State) (n i : Nat) : Option Nat :=
  match s.tb.cond with
  | .untimed => (match mapGet 0 s.eph.active i with | 0 => none | k + 1 => some k)
  | _ => epochAt (getSlice s n).cfg s.tb.time

/-- EPOCH_HANDLE (R157, R330, R331). The current epoch is that of the admission, kept in `saved`. -/
def execEpochHandle (job : Nat) (io : JobIo) (s : State) : Res :=
  runMgmt s job 0x0205 (fun j =>
    let cur := leNat (j.saved.headD [])
    let e := if j.desc.pn 40 8 = 2 ^ 64 - 1 then cur - 1 else j.desc.pn 40 8
    if cur = 0 ∨ e + 2 < cur ∨ cur < e ∨ ¬ epochExists j.cfg e then refuse s j io eTime
    else
      withKeys s j (fun t _ =>
        let p := j.key0.policy - polEpoch - (if hasPol j.key0.policy polDerive then polDerive else 0)
        answer t j io { JobRes.done (leBytes 8 e) 0 with
          fills := [derivedFill j (j.desc.pn 48 4) 0x0C02 p (epochLabel e j.cfg.epochLength)] }))

/-! ### Peer keys and the caches -/

/-- HBM a peer key takes of the slice's quota, in MiB (R158). -/
def peerMib (a : Nat) : Nat := if famOf a = some .mceliece then (pubLen a + 2 ^ 20 - 1) / 2 ^ 20 else 0

/-- A checked public key becomes a peer handle; with PREFETCH its expanded form is built in the job's region. -/
def keepPeer (s : State) (j : Job) (pub : List Byte) : State :=
  let a := j.desc.alg
  let i := j.desc.pn 44 4
  let f : VolFill := { kind := 2, index := i, alg := a, policy := peerPol a, value := [], pub, depth := 0, parent := 0, label := [],
                       src := some (.value pub), rooted := false, hbmMib := peerMib a }
  let size := expandedSize a false
  let forms := if bit (j.desc.pb 42) 0 ∧ size ≠ 0 then [{ handle := none, alg := a, key := pub, size, region := j.region }] else []
  stage s j { JobRes.done [] 0 with fills := [f], forms } false

/-- PEER_LOAD (R158, R167, R179); keys the BNE checks go to its VALIDATE. -/
def execPeerLoad (job : Nat) (io : JobIo) (s : State) : Res :=
  runCellBne s job 0x0206
    (fun j => engineInput s j io (fun k =>
      let st := pubStatus j.desc.alg k
      if st = stOk then keepPeer s j k else stageErr s j io st))
    (fun j => engineInput s j io (fun k => askWith s j [k] (jobReq j 0x0C j.desc.alg [] k [])))

/-- HANDLE_RELEASE (R142, R156, R334). -/
def execHandleRelease (job : Nat) (io : JobIo) (s : State) : Res :=
  runMgmt s job 0x0207 (fun j => answerOk (endKey s j.desc.keyHandle) j io)

/-- Another admitted job holds the key of a handle. -/
def keyInUse (s : State) (h : W64) (but : Nat) : Bool := s.jobs.any (fun j => j.id != but && j.keys.any (fun k => k.handle == h))

/-- Change the pin of a key's entries. -/
def pinEntries (s : State) (h : W64) (p : Bool) : State :=
  { s with regions := mapAll Region.idle (fun _ r =>
      { r with expanded := r.expanded.map (fun e => if e.handle = h then { e with pinned := p } else e) }) s.regions }

/-- CACHE_CONTROL (R160). -/
def execCacheControl (job : Nat) (io : JobIo) (s : State) : Res :=
  runMgmt s job 0x0208 (fun j =>
    let h := j.desc.keyHandle
    let size := expandedSize j.alg (j.key0.kind != 2)
    let rs := j.desc.pb 41
    let done := fun (t : State) => answer t j io (JobRes.done [] (expandedMask t h))
    match j.desc.pb 40 with
    | 0 => withKeys s j (fun u vs => done ((List.range 4).foldl (fun x r =>
        if regionOnline s r ∧ (rs = 0 ∨ rs.testBit r) then expand x j.slice r h j.alg (vs.headD []) size else x) u))
    | 1 => done (pinEntries s h true)
    | 2 => done (pinEntries s h false)
    | _ =>
      done (if keyInUse s h j.id then { s with scrubs := s.scrubs ++ [{ handle := h, before := s.nextJob, expOnly := true }] }
        else filterExpanded s (fun e => e.handle != h)))

/-! ### Transport (R161 to R163) -/

/-- The transport key of a shared secret and ciphertext. -/
def transportKey (ss ct : List Byte) : List Byte := kmac256 ss ct 32 (ascii "FY4128-XPT")

/-- T fills the ephemeral INDEX as an AES-256 key with policy WRAP. -/
def transportFill (j : Job) (t : List Byte) : VolFill := ephFill (j.desc.pn 44 4) 0x0C01 polWrap t false

/-- TRANSPORT_ESTABLISH (R161, R168). -/
def execTransportEstablish (job : Nat) (io : JobIo) (s : State) : Res :=
  runCell s job 0x0209 (fun j =>
    let go := fun (t : State) (pk : List Byte) (forms : List FormUse) =>
      withDraw t j io 32 (fun u m =>
        let e := encaps 0x0103 pk m
        stage u j { JobRes.done e.1 0 with guarantee := formHit t forms, forms, fills := [transportFill j (transportKey e.2 e.1)] } j.dual)
    if j.keys.isEmpty then
      engineInput s j io (fun pk =>
        let st := pubStatus 0x0103 pk
        if st = stOk then go s pk [] else stageErr s j io st)
    else withKeys s j (fun t vs => go t (vs.headD []) (formUse j false (vs.headD []))))

/-- TRANSPORT_ACCEPT (R161, R26). -/
def execTransportAccept (job : Nat) (io : JobIo) (s : State) : Res :=
  runCell s job 0x020A (fun j =>
    engineInput s j io (fun ct =>
      withKeys s j (fun t vs =>
        let forms := formUse j true (vs.headD [])
        stage t j { JobRes.done [] 0 with
          guarantee := maskedFlag s j 0x0103 + formHit t forms, forms, fills := [transportFill j (transportKey (decaps 0x0103 (vs.headD []) ct) ct)] } false)))

/-- The header of an export blob (R162). -/
def blobHeader (alg pol created len : Nat) : List Byte :=
  [0x46, 0x59, 0x58, 0x4B, 1] ++ leBytes 1 len ++ leBytes 2 alg ++ leBytes 2 pol ++ [0, 0] ++ leBytes 8 created ++ [0, 0, 0, 0]

/-- The key a blob is wrapped under. -/
def blobKey (t header : List Byte) : List Byte := kmac256 t header 32 (ascii "FY4128-XWK")

/-- Bytes of the wrapped part for a seed of `n` bytes. -/
def wrapLen (n : Nat) : Nat := (n + 7) / 8 * 8 + 8

/-- KEY_EXPORT (R162). -/
def execKeyExport (job : Nat) (_ : JobIo) (s : State) : Res :=
  runCell s job 0x020B (fun j =>
    slotRead s j (withKeys s j (fun t vs =>
      let v := vs.headD []
      let h := blobHeader j.key0.alg j.key0.policy (createdOf s j.key0) v.length
      stage t j (JobRes.done (h ++ kwpWrap (blobKey (vs.getD 1 []) h) v) 0) false)))

/-- A blob's header passes R163: MAGIC, VERSION, a defined ALG with a seed form, its SEED_LEN, reserved bytes. -/
def blobHeaderOk (b : List Byte) : Bool :=
  let a := fieldLe b 6 2
  b.take 5 == [0x46, 0x59, 0x58, 0x4B, 1] && (famOf a).isSome && decide (0 < seedLen a) && byteAt b 5 == seedLen a && zeros b 10 12 &&
    zeros b 20 24

/-- Status of an import's key: its policy after the mask (R146, R163). -/
def importStatus (j : Job) (a pol : Nat) : Nat :=
  if !polOk a pol || hasPol pol polStateful || famIn a [.lms, .xmss, .fndsa] then eParam
  else if hasPol pol polEpoch && !bit j.cfg.settings 2 then ePolicy
  else stOk

/-- An unwrapped seed becomes a slot record (R163, R320). -/
def keepImported (s : State) (j : Job) (a pol : Nat) (seed : List Byte) : State :=
  let pub := if pubLen a = 0 then [] else publicOf a 1 0 seed
  stage s j { slotResult s j a pol 1 seed pub [] none with guarantee := 0 } false

/-- KEY_IMPORT (R163): a P-curve scalar goes through the BNE's SCALAR_CHECK (R271). DESIGN CHOICE (log entry 47): a part that unwraps to
another length than the header's SEED_LEN ends E_UNWRAP. -/
def execKeyImport (job : Nat) (io : JobIo) (s : State) : Res :=
  runCell s job 0x020C (fun j =>
    engineInput s j io (fun b =>
      withKeys s j (fun t vs =>
        let h := b.take 24
        let a := fieldLe b 6 2
        let pol := fieldLe b 8 2 &&& j.desc.pn 42 2
        if !blobHeaderOk b then stageErr t j io eDecode
        else
          match kwpUnwrap (blobKey (vs.headD []) h) (b.drop 24) with
          | none => stageErr t j io eUnwrap
          | some seed =>
            if seed.length ≠ seedLen a then stageErr t j io eUnwrap
            else if importStatus j a pol ≠ stOk then stageErr t j io (importStatus j a pol)
            else if famOf a = some .nist then askWith t j [seed, leBytes 2 a, leBytes 2 pol] (jobReq j 0x0D a [] seed [])
            else if a = 0x0D02 then
              askWith t j [seed, leBytes 2 a, leBytes 2 pol] (jobReq j 0x0D 0x0402 [] (seed.take 48) [])
            else keepImported t j a pol seed)))

/-! ### Parameters -/

/-- The ALG or the key's ALG is of none of the families an opcode serves. -/
def notFam (a : Nat) (l : List Fam) : Bool := !famIn a l

/-- A SLOT parameter: an index, or any. -/
def slotParamBad (n : Nat) : Bool := decide (262143 < n) && n != 0xFFFFFFFF

/-- What check 2 looks at in a group 0x02 descriptor (R149, R151, R154, R158, R160); `key` is what KEY_HANDLE names, where it resolves.
DESIGN CHOICE (log entry 47): a legal IN_LEN of KEY_IMPORT is 40 to 144 bytes and a multiple of 8, since ALG lies inside the blob. -/
def keyCmdChecks (d : Desc) (key : Option KeyRef) : Checks :=
  let lc := d.lc
  let lc12 := (2, decide (lc < 1))
  let lc2 := (2, lc != 2)
  let ka := match key with | some k => k.alg | none => 0
  let has := key.isSome
  let noIn := (24, d.inLen != 0)
  match d.opcode with
  | 0x0200 =>
    let a := d.pn 40 2
    [if famIn a [.mceliece, .rsa] then lc2 else lc12, (40, famOf a == none || famIn a [.lms, .xmss, .fndsa]),
     (42, !polOk a (d.pn 42 2) || hasPol (d.pn 42 2) polStateful), (44, slotParamBad (d.pn 44 4)), noIn] ++ d.rsv 48 64
  | 0x0201 => noIn :: d.rsv 40 64
  | 0x0202 => [lc12, (8, has && famIn ka [.aes, .secret]), noIn] ++ d.rsv 40 64
  | 0x0203 => [lc2, noIn] ++ d.rsv 40 64
  | 0x0204 =>
    let a := d.pn 40 2
    [(8, has && notFam ka [.secret]), (40, !(a == 0x0C01 || a == 0x0C02 || a == 0x0501 || a == 0x0503 || famIn a [.mldsa])),
     (42, !polOk a (d.pn 42 2)), (44, decide (65535 < d.pn 44 4)), (24, d.inLen != 32),
     (8, match key with | some k => decide (6 ≤ k.depth) && k.kind == 1 | none => false)] ++ d.rsv 48 64
  | 0x0205 => [(8, has && notFam ka [.secret]), (48, decide (65535 < d.pn 48 4)), noIn] ++ d.rsv 52 64
  | 0x0206 =>
    let a := d.pn 40 2
    [lc12, (40, famOf a == none || famIn a [.aes, .secret]), (42, decide (1 < d.pb 42)), (44, decide (16383 < d.pn 44 4)),
     (24, d.inLen != pubLen a)] ++ d.rsv 43 44 ++ d.rsv 48 64
  | 0x0207 => noIn :: d.rsv 40 64
  | 0x0208 =>
    [lc2, (8, match key with | some k => expandedSize k.alg (k.kind != 2) == 0 | none => false), (40, decide (3 < d.pb 40)),
     (41, decide (15 < d.pb 41)), noIn] ++ d.rsv 42 64
  | 0x0209 =>
    [lc12, (8, has && ka != 0x0103), (48, if d.keyHandle = 0 then d.pn 48 2 != 0x0103 else d.pn 48 2 != 0),
     (44, decide (65535 < d.pn 44 4)), (24, if d.keyHandle = 0 then d.inLen != 1568 else d.inLen != 0)] ++ d.rsv 40 44 ++ d.rsv 50 64
  | 0x020A => [lc12, (8, has && ka != 0x0103), (44, decide (65535 < d.pn 44 4)), (24, d.inLen != 1568)] ++ d.rsv 40 44 ++ d.rsv 48 64
  | 0x020B => [lc12, noIn] ++ d.rsv 48 64
  | _ =>
    [lc12, (8, has && ka != 0x0C01), (44, slotParamBad (d.pn 44 4)),
     (24, decide (d.inLen < 40) || d.inLen % 8 != 0 || decide (144 < d.inLen))] ++ d.rsv 40 42 ++ d.rsv 48 64

/-- The output length a group 0x02 command's parameters and key fix (R149, R129). -/
def keyCmdOut (d : Desc) (key : Option KeyRef) : Nat :=
  match d.opcode, key with
  | 0x0200, _ => 8 + pubLen d.alg
  | 0x0201, _ => 64
  | 0x0202, some k => pubLen k.alg
  | 0x0205, _ => 8
  | 0x0209, _ => 1568
  | 0x020B, some k => 24 + wrapLen (seedLen k.alg)
  | 0x020C, _ => 8
  | _, _ => 0

end Sys2Proof.Machine
end

