-- ==== Sys2Proof/Machine/KemCmds.lean ====
section
/-! DEFINITION. Group 0x03 (R165 to R169): key encapsulation and agreement on cells and BNEs, and the content check 2 looks at. -/

namespace Sys2Proof.Machine

/-- The result of a command whose shared secret goes where SS_OUT says (R166): after the ciphertext, or into the ephemeral INDEX. -/
def secretResult (j : Job) (ct ss : List Byte) (g : Nat) : JobRes :=
  if j.desc.pb 40 = 1 then
    { JobRes.done ct 0 with guarantee := g, fills := [ephFill (j.desc.pn 44 4) 0x0C02 (j.desc.pn 42 2) ss false] }
  else { JobRes.done (ct ++ ss) 0 with guarantee := g }

/-- A new private key fills the ephemeral INDEX; its public key is the output (R165). -/
def keepKem (s : State) (j : Job) (seed : List Byte) : State :=
  let a := j.desc.alg
  let pub := publicOf a 1 0 seed
  stage s j { JobRes.done pub 0 with
    guarantee := maskedFlag s j a, fills := [ephFill (j.desc.pn 44 4) a (j.desc.pn 42 2) seed false] } false

/-- KEM_KEYGEN (R165). -/
def execKemKeygen (job : Nat) (io : JobIo) (s : State) : Res :=
  runCellBne s job 0x0300 (fun j => cellSeed s j io (fun t seed => keepKem t j seed)) (fun j => bneSeed s j io)

/-- Bytes of an encapsulation's randomness: the ML-KEM message, or the seed of another family's encoding (R168). -/
def encapsRnd (a : Nat) : Nat := if famOf a = some .hqc then seedLen a else 32

/-- An encapsulation's public key: the peer's, or the checked input (R165, R167), and the expanded forms it uses. -/
def withPeer (s : State) (j : Job) (io : JobIo) (f : State → List Byte → List FormUse → State) : State :=
  if j.keys.isEmpty then
    engineInput s j io (fun pk =>
      let st := pubStatus j.desc.alg pk
      if st = stOk then f s pk [] else stageErr s j io st)
  else withKeys s j (fun t vs => f t (vs.headD []) (formUse j false (vs.headD [])))

/-- KEM_ENCAPS (R165, R166, R168). -/
def execKemEncaps (job : Nat) (io : JobIo) (s : State) : Res :=
  runCell s job 0x0301 (fun j =>
    withPeer s j io (fun t pk forms =>
      withDraw t j io (encapsRnd j.alg) (fun u m =>
        let e := encaps j.alg pk m
        stage u j { secretResult j e.1 e.2 (formHit t forms) with forms } j.dual)))

/-- KEM_DECAPS; a failed re-encryption check gives the rejection key with status OK (R26, R166). -/
def execKemDecaps (job : Nat) (io : JobIo) (s : State) : Res :=
  runCell s job 0x0302 (fun j =>
    engineInput s j io (fun ct =>
      withKeys s j (fun t vs =>
        let forms := formUse j true (vs.headD [])
        stage t j { secretResult j [] (decaps j.alg (vs.headD []) ct) (maskedFlag s j j.alg + formHit t forms) with forms } false)))

/-- DH_AGREE passes the peer's key to the BNE (R165, R270). -/
def execDhAgree (job : Nat) (io : JobIo) (s : State) : Res :=
  runEngine s job 0x0303 (fun j => j.atBlock && (bneFor s j.block).isSome && bneRoom s ((bneFor s j.block).getD 0)) (fun j =>
    engineInput s j io (fun pk =>
      withKeys s j (fun t vs => askWith t j [] (jobReq j 2 j.alg (vs.headD []) pk []))))

/-- BNE `b`, or the one that stands in for it, takes a request. -/
def bneReady (s : State) (b : Nat) : Bool := (bneFor s b).isSome && bneRoom s ((bneFor s b).getD 0)

/-- The second execution's classical part goes to the BNE of its cell's block, with the same randomness (R168). -/
def askTwin (s : State) (j : Job) (r : BneReq) : State :=
  if !j.dual then s
  else match bneFor s j.twinBlock with
    | some b => wakeUnit false (modBne s b (fun x => { x with queue := x.queue ++ [{ r with twin := true }] })) (128 + b)
    | none => s

/-- HYBRID_ENCAPS: the ML-KEM half runs in the cell, the classical half on the BNE; in the dual case on two cells and the BNEs of their
blocks (R148, R165, R168). -/
def execHybridEncaps (job : Nat) (io : JobIo) (s : State) : Res :=
  runEngine s job 0x0304 (fun j => j.onCell && bneReady s j.block && secondReady s j && (!j.dual || bneReady s j.twinBlock)) (fun j =>
    let p := hybridParts j.alg
    withPeer s j io (fun t pk forms =>
      withDraw t j io (32 + seedLen p.2) (fun u r =>
        let e := encaps p.1 (pk.take (pubLen p.1)) (r.take 32)
        let q := jobReq j 3 p.2 [] (pk.drop (pubLen p.1)) (r.drop 32)
        askTwin (askWith u j [e.1, e.2, leBytes 1 (formHit t forms)] q) j q)))

/-- HYBRID_DECAPS: decapsulation in the cell, agreement on the BNE (R148, R169). -/
def execHybridDecaps (job : Nat) (io : JobIo) (s : State) : Res :=
  runEngine s job 0x0305 (fun j => j.onCell && (bneFor s j.block).isSome && bneRoom s ((bneFor s j.block).getD 0)) (fun j =>
    let p := hybridParts j.alg
    engineInput s j io (fun ct =>
      withKeys s j (fun t vs =>
        let v := vs.headD []
        let n := seedLen p.2
        let ctPq := ct.take (ctLen p.1)
        let ctCl := ct.drop (ctLen p.1)
        askWith t j [decaps p.1 (v.drop n) ctPq, ctPq, ctCl] (jobReq j 2 p.2 (v.take n) ctCl []))))

/-! ### Parameters -/

/-- Families an opcode of the group serves. -/
def kemFams (op : Nat) : List Fam :=
  match op with
  | 0x0300 => [.mlkem, .mceliece, .hqc, .mont, .nist, .hybrid]
  | 0x0301 => [.mlkem, .mceliece, .hqc]
  | 0x0302 => [.mlkem, .mceliece, .hqc]
  | 0x0303 => [.mont, .nist]
  | _ => [.hybrid]

/-- The classes an ALG admits for an opcode of the group (R165). -/
def kemClassBad (op a lc : Nat) : Bool :=
  if op ≤ 0x0302 ∧ famOf a = some .mlkem then false
  else if (op = 0x0300 ∨ op = 0x0302) ∧ famOf a = some .mceliece then lc != 2
  else if (op = 0x0301 ∨ op = 0x0302) ∧ a = 0x0303 then lc != 2
  else lc == 0

/-- What check 2 looks at in a group 0x03 descriptor (R165, R166). -/
def kemCmdChecks (d : Desc) (key : Option KeyRef) : Checks :=
  let op := d.opcode
  let byParam := op == 0x0300 || ((op == 0x0301 || op == 0x0304) && d.keyHandle == 0)
  let a := match key with | some k => k.alg | none => if byParam then d.alg else 0
  let pol := d.pn 42 2
  let inWant := match op with
    | 0x0300 => 0
    | 0x0301 => if d.keyHandle = 0 then pubLen a else 0
    | 0x0304 => if d.keyHandle = 0 then pubLen a else 0
    | 0x0303 => pubLen a
    | _ => ctLen a
  [(2, (byParam || key.isSome) && kemClassBad op a d.lc), (8, key.isSome && notFam a (kemFams op)),
   (48, if byParam then notFam a (kemFams op) else d.alg != 0), (44, decide (65535 < d.pn 44 4)),
   (40, if op = 0x0300 then d.pb 40 != 0 else decide (1 < d.pb 40) || (d.pb 40 == 1 && (byParam || key.isSome) && ssLen a != 32)),
   (42, if op = 0x0300 then !polOk a pol || hasPol pol polStateful
        else if d.pb 40 = 1 then !within pol (polDerive + polLane + polCustom) else pol != 0),
   (44, op != 0x0300 && d.pb 40 == 0 && d.pn 44 4 != 0),
   (24, (byParam || key.isSome) && d.inLen != inWant)] ++ d.rsv 41 42 ++ d.rsv 50 64

/-- The output length a group 0x03 command fixes (R165). -/
def kemCmdOut (d : Desc) (key : Option KeyRef) : Nat :=
  let a := match key with | some k => k.alg | none => d.alg
  let ss := if d.pb 40 = 0 then ssLen a else 0
  match d.opcode with
  | 0x0300 => pubLen a
  | 0x0301 => ctLen a + ss
  | 0x0304 => ctLen a + ss
  | _ => ss

end Sys2Proof.Machine
end

