-- ==== Sys2Proof/Machine/SigCmds.lean ====
section
/-! DEFINITION. Group 0x04 (R171 to R191): signing, verification and stateful keys, and the content check 2 looks at. -/

namespace Sys2Proof.Machine

/-! ### Parameters of a signature -/

/-- MODE. -/
def Desc.sMode (d : Desc) : Nat := d.pb 42
/-- HASH. -/
def Desc.sHash (d : Desc) : Nat := d.pb 43
/-- CTX_LEN. -/
def Desc.sCtx (d : Desc) : Nat := d.pb 44
/-- SALT_LEN. -/
def Desc.sSalt (d : Desc) : Nat := d.pn 46 2
/-- SIG_LEN. -/
def Desc.sSig (d : Desc) : Nat := d.pn 48 4

/-- Bytes of randomness a signing attempt draws: none where DET is set or the scheme is deterministic (R181). -/
def signRnd (a : Nat) (d : Desc) : Nat :=
  if bit d.sMode 2 then 0
  else
    match famOf a with
    | some .mldsa => 32
    | some .slhdsa => seedLen a / 3
    | some .nist => (curveOf a).size
    | some .rsa => if bit d.sMode 4 then d.sSalt else 0
    | _ => 0

/-- The randomness a signing attempt uses: what it drew, or with DET 32 zero bytes for ML-DSA and PK.seed for SLH-DSA; ECDSA then derives k from
the key and the message (R181). -/
def signNonce (a : Nat) (d : Desc) (seed draw : List Byte) : List Byte :=
  if !bit d.sMode 2 then draw
  else
    match famOf a with
    | some .mldsa => List.replicate 32 0
    | some .slhdsa => seed.drop (2 * (seedLen a / 3))
    | _ => []

/-- Pure EdDSA and pure SLH-DSA pass over the message twice, and the device reads it twice: the two reads differ (R175). The signature then
fails verify-before-release. -/
def readsDiffer (j : Job) (io : JobIo) : Bool :=
  famIn j.alg [.edwards, .slhdsa] && j.desc.sMode % 4 == 0 && io.again.any (fun b => padTo j.desc.inLen b != (jobInput j io).bytes)

/-- The BNE's signing function for a family, and its verification one. -/
def bneSignFunc (a : Nat) : Nat := match famOf a with | some .nist => 4 | some .edwards => 6 | _ => 8
/-- The BNE's verification function for a family. -/
def bneVerifyFunc (a : Nat) : Nat := bneSignFunc a + 1

/-- The request of a whole signing or verification job. -/
def sigReq (j : Job) (func : Nat) (key pub ctx msg sig rnd : List Byte) : BneReq :=
  let d := j.desc
  { jobReq j func j.alg key msg rnd with mode := d.sMode, hash := d.sHash, salt := d.sSalt, pub, ctx, sig }

/-! ### Keys -/

/-- SIG_KEYGEN (R171). -/
def execSigKeygen (job : Nat) (io : JobIo) (s : State) : Res :=
  runCellBne s job 0x0400 (fun j => cellSeed s j io (fun t seed => keepKem t j seed)) (fun j => bneSeed s j io)

/-- STATEFUL_CREATE: the seed, the slot record and the leaf record (R183, R344). -/
def execStatefulCreate (job : Nat) (io : JobIo) (s : State) : Res :=
  runCell s job 0x0403 (fun j =>
    let a := j.desc.alg
    let lv := j.desc.pb 48
    let lo := j.desc.pb 49
    withDraw s j io (seedLen a) (fun t seed =>
      stage t j (slotResult t j a (j.desc.pn 42 2) 2 seed (publicOf a lv lo seed) [] (some (lv, lo, 2 ^ totalHeight a lv lo))) false))

/-! ### Leaves (R185 to R190) -/

/-- The key has one level: nothing lies below its top tree. -/
def Leaf.single (l : Leaf) : Bool := if famOf l.alg = some .lms then decide (l.levels ≤ 1) else decide ((xmssShape l.alg).2 ≤ 1)

/-- Height of the lowest tree. -/
def Leaf.bottom (l : Leaf) : Nat :=
  if famOf l.alg = some .lms then (if l.levels ≤ 1 then lmsH (l.alg % 256) else lmsH l.lower)
  else (xmssShape l.alg).1 / max (xmssShape l.alg).2 1

/-- Every lower active tree is complete. -/
def lowerOk (s : State) (rid : Nat) (l : Leaf) : Bool := l.single || (getTree s rid).lowerReady

/-- Ask for the commit that must come before the next leaf: the one of a start (R345), else a reservation (R188). It releases no
job. -/
def reserveLeaf (s : State) (rid : Nat) (l : Leaf) : State :=
  let t := getTree s rid
  let b := (getSlice s l.slice).cfg.leafBatch
  let hw := if t.startCommit then l.highWater else min (l.highWater + b) l.total
  requestWrite s 1 { job := none, op := .leaf rid { l with
    highWater := hw, nextAtCommit := t.next, burned := t.burned, batch := if t.startCommit then l.batch else b } }

/-- A leaf is handed out; where it was its lowest tree's last one, the next tree becomes active (R185, R187). -/
def takeLeaf (s : State) (rid : Nat) (l : Leaf) : State :=
  modTree s rid (fun t =>
    let last := !l.single && (t.next + 1) % 2 ^ l.bottom == 0
    { t with next := t.next + 1, dirty := true, lowerReady := if last then t.nextReady else t.lowerReady,
             nextReady := t.nextReady && !last })

/-- A stateful signature: the leaf is assigned once the message has been read (R187). -/
def signStateful (s : State) (j : Job) (io : JobIo) : State :=
  engineInput s j io (fun m =>
    match (match j.key0.src with | .slot i g => leafFor s i g | _ => none) with
    | none => stageErr s j io eSlotCorrupt
    | some (rid, l) =>
      let t := getTree s rid
      if !t.topReady then stageErr s j io eTreeBuilding
      else if l.total ≤ t.next then stageErr s j io eStateExhausted
      else if !lowerOk s rid l then s
      else if t.startCommit ∨ l.highWater ≤ t.next then (if leafPending s rid then s else reserveLeaf s rid l)
      else
        withKeys s j (fun u vs =>
          let sig := signature j.alg l.levels l.lower j.desc.sMode 0 0 (vs.headD []) [] m [] t.next
          stage (takeLeaf u rid l) { j with leaf := some t.next } (JobRes.done sig (t.next % 2 ^ 32)) true))

/-! ### SIGN and VERIFY -/

/-- SIGN (R171 to R175, R181, R182): context, then message. -/
def execSign (job : Nat) (io : JobIo) (s : State) : Res :=
  runCellBne s job 0x0401
    (fun j =>
      if famIn j.alg [.lms, .xmss] then signStateful s j io
      else
        engineInput s j io (fun m =>
          withKeys s j (fun t vs =>
            withDraw t j io (signRnd j.alg j.desc) (fun u r =>
              let forms := formUse j true (vs.headD [])
              let sig := signature j.alg 0 0 j.desc.sMode j.desc.sHash 0 (vs.headD []) (m.take j.desc.sCtx) (m.drop j.desc.sCtx)
                (signNonce j.alg j.desc (vs.headD []) r) 0
              stage u j { JobRes.done sig 0 with
                guarantee := maskedFlag s j j.alg + formHit u forms, forms,
                spoilt := readsDiffer j io } true))))
    (fun j =>
      engineInput s j io (fun m =>
        withKeys s j (fun t vs =>
          withDraw t j io (signRnd j.alg j.desc) (fun u r =>
            let ctx := m.take j.desc.sCtx
            let msg := m.drop j.desc.sCtx
            if famOf j.alg = some .rsa ∧ ¬ expandedIn u j.region j.key0.handle then
              askWith u j [vs.headD [], ctx, msg, r] (jobReq j 0x0B j.alg (vs.headD []) [] [])
            else
              let key := if famOf j.alg = some .rsa then rsaForm u j.region j.key0 (vs.headD []) else vs.headD []
              askWith u j [leBytes 1 (formHit u (formUse j true (vs.headD []))), vs.headD []]
                { sigReq j (bneSignFunc j.alg) key [] ctx msg [] r with spoilt := readsDiffer j io }))))

/-- The parts of VERIFY's input: public key, signature, context, message (R171, R174). -/
def verifyParts (j : Job) (m : List Byte) : List Byte × List Byte × List Byte × List Byte :=
  let p := if j.keys.isEmpty then pubLen j.alg else 0
  let r := m.drop p
  (m.take p, r.take j.desc.sSig, (r.drop j.desc.sSig).take j.desc.sCtx, r.drop (j.desc.sSig + j.desc.sCtx))

/-- A verdict ends a verification (R180). -/
def endVerify (s : State) (j : Job) (io : JobIo) (v : Nat × Nat) (forms : List FormUse) : State :=
  if v.1 = stOk then
    stage s j { JobRes.done [] (if v.2 = 0 then 1 else 0) with detail := v.2, guarantee := formHit s forms, forms } false
  else stageErr s j io v.1

/-- VERIFY (R171 to R174, R179, R180). -/
def execVerify (job : Nat) (io : JobIo) (s : State) : Res :=
  runCellBne s job 0x0402
    (fun j =>
      engineInput s j io (fun m =>
        let x := verifyParts j m
        let d := j.desc
        let run := fun (t : State) (pub : List Byte) (forms : List FormUse) =>
          endVerify t j io (verdict j.alg d.sMode d.sHash d.sSalt pub x.2.2.1 x.2.2.2 x.2.1) forms
        if j.keys.isEmpty then
          (if pubStatus j.alg x.1 = stOk then run s x.1 [] else stageErr s j io (pubStatus j.alg x.1))
        else
          withKeys s j (fun t vs =>
            let pub := pubOfKey t j.key0 (vs.headD [])
            if pubDigestOk t j.key0 pub then
              run t pub (formUse j (j.key0.kind != 2) (vs.headD []))
            else replayJob t j false)))
    (fun j =>
      engineInput s j io (fun m =>
        let x := verifyParts j m
        if j.keys.isEmpty then askWith s j [x.1, x.2.1, x.2.2.1, x.2.2.2] (jobReq j 0x0C j.alg [] x.1 [])
        else
          withKeys s j (fun t vs =>
            let pub := pubOfKey t j.key0 (vs.headD [])
            if pubDigestOk t j.key0 pub then
              askWith t j [] (sigReq j (bneVerifyFunc j.alg) [] pub x.2.2.1 x.2.2.2 x.2.1 [])
            else replayJob t j false)))

/-! ### Queries and builds -/

/-- BUILD while the top tree is being built: a free value below 100 (R191 gives no rate of progress). -/
def buildPercent (s : State) (t : Tree) : Nat := if t.topReady then 100 else (Config.freeWord 3 s.freeCtr).toNat % 100

/-- STATEFUL_QUERY (R191). -/
def execStatefulQuery (job : Nat) (io : JobIo) (s : State) : Res :=
  runMgmt s job 0x0404 (fun j =>
    match (match j.key0.src with | .slot i g => leafFor s i g | _ => none) with
    | none => refuse s j io eSlotCorrupt
    | some (rid, l) =>
      let t := getTree s rid
      let ready := b2n t.topReady + 2 * b2n (lowerOk s rid l) + 4 * b2n (l.single || t.nextReady)
      answer (drew' s 1) j io (JobRes.done
        (leBytes 8 j.key0.handle.toNat ++ leBytes 2 l.alg ++ leBytes 1 l.levels ++ leBytes 1 ready ++ leBytes 1 (buildPercent s t) ++
          [0, 0, 0] ++ leBytes 8 l.total ++ leBytes 8 t.next ++ leBytes 8 l.highWater ++ leBytes 8 t.burned) 0))

/-- Cell time of one leaf in ns (R186): the SHA-256 figure of its scheme, 0.4 of it with SHAKE256. -/
def leafNs (a lo : Nat) : Nat :=
  let base := if famOf a = some .lms then [16000, 19000, 42000, 347000].getD (bits lo 2 0) 0 else 264000
  let shake := if famOf a = some .lms then 2 ≤ bits lo 7 6 else 2 ≤ bits a 6 5
  if shake then base * 2 / 5 else base

/-- Engine time of building a part of a stateful key's trees, in cell cycles of 0.625 ns: 2^h leaves of each tree (R186). -/
def buildCycles (l : Leaf) (part : Nat) : Nat :=
  let trees : List (Nat × Nat) :=
    if famOf l.alg = some .lms then (lmsH (l.alg % 256), l.alg % 256) :: List.replicate (l.levels - 1) (lmsH l.lower, l.lower)
    else List.replicate (xmssShape l.alg).2 ((xmssShape l.alg).1 / (xmssShape l.alg).2, 0)
  (((if part = 0 then trees.take 1 else trees.drop 1).map (fun t => 2 ^ t.1 * leafNs l.alg t.2)).sum) * 8 / 5

/-- A tree of the key of leaf record `rid` is complete: part 0 the top tree, 1 the active lower trees, 2 the next lower trees, which are
built once the active one is half used (R185, R186). The build is LC2 work of the slice and is charged to it (R136). -/
def execTreeBuildDone (rid part : Nat) (s : State) : Res :=
  match leafOf s rid with
  | none => .next s
  | some l =>
    let t := getTree s rid
    let half := decide (2 ^ l.bottom ≤ 2 * (t.next % 2 ^ l.bottom))
    let go := match part with
      | 0 => !t.topReady
      | 1 => t.topReady && !l.single && !t.lowerReady
      | 2 => t.lowerReady && !l.single && !t.nextReady && half
      | _ => false
    doIf s (serving s && !noRegion s && go)
      (modTree (chargeSlice s l.slice (getSlice s l.slice).cfg.weight (buildCycles l part)) rid (fun y =>
        match part with
        | 0 => { y with topReady := true, percent := 100 }
        | 1 => { y with lowerReady := true }
        | _ => { y with nextReady := true }))

/-! ### Parameters -/

/-- MODE, HASH, CTX_LEN and SALT_LEN against R172 and R173. -/
def sigModeChecks (a : Nat) (d : Desc) (verify : Bool) : Checks :=
  let m := d.sMode
  let msg := m % 4
  let h := d.sHash
  let pre := msg == 1 || msg == 2
  let hashIn := fun (lo hi : Nat) => if pre then decide (h < lo) || decide (hi < h) else h != 0
  let mode := fun (msgs : List Nat) (det der pss : Bool) =>
    bits m 7 5 != 0 || !msgs.contains msg || (bit m 2 && !det) || (bit m 3 && !der) || (bit m 4 && !pss)
  match famOf a with
  | some .mldsa => [(42, mode [0, 1, 2] true false false), (43, hashIn 1 8), (46, d.sSalt != 0)]
  | some .slhdsa => [(42, mode [0, 1, 2] true false false), (43, hashIn 1 8), (46, d.sSalt != 0)]
  | some .fndsa => [(42, mode [0] false false false || !verify), (43, h != 0), (46, d.sSalt != 0)]
  | some .nist => [(42, mode [1, 2] true true false), (43, hashIn 1 6), (44, d.sCtx != 0), (46, d.sSalt != 0)]
  | some .edwards =>
    [(42, mode [0, 1, 2] false false false), (43, if pre then h != (if a = 0x0503 then 3 else 8) else h != 0), (46, d.sSalt != 0)]
  | some .rsa =>
    [(42, mode [1, 2] false false true), (43, hashIn 1 3), (44, d.sCtx != 0),
     (46, if bit m 4 then decide (hashLen h < d.sSalt) else d.sSalt != 0)]
  | _ => [(42, mode [0] false false false), (43, h != 0), (44, d.sCtx != 0), (46, d.sSalt != 0)]

/-- A signature length that the family, and for a key of this device its levels, fix (R174, R177, R178). -/
def sigFixed (a : Nat) (lv : Option (Nat × Nat)) (der : Bool) : Option Nat :=
  match famOf a, lv with
  | some .fndsa, _ => none
  | some .nist, _ => if der then none else some (sigLen a 0 0 false)
  | some .lms, some (l, w) => some (sigLen a l w false)
  | some .lms, none => none
  | _, _ => some (sigLen a 0 0 false)

/-- Families that sign. -/
def signFams : List Fam := [.mldsa, .slhdsa, .edwards, .nist, .rsa, .lms, .xmss]

/-- What check 2 looks at in a group 0x04 descriptor (R171 to R175, R183). `lv` gives LEVELS and LOWER of a stateful key. -/
def sigCmdChecks (d : Desc) (key : Option KeyRef) (lv : Option (Nat × Nat)) : Checks :=
  let lc := d.lc
  let lc12 := (2, lc == 0)
  let lim := if lc = 1 then 65536 else 2 ^ 32 - 1
  let a := match key with | some k => k.alg | none => d.alg
  let has := key.isSome
  let known := has || d.opcode != 0x0401
  let msgLen := fun (fixed : Nat) =>
    decide (lim < d.inLen) || decide (d.inLen < fixed) || (d.sMode % 4 == 2 && known && d.inLen - fixed != hashLen d.sHash)
  match d.opcode with
  | 0x0400 =>
    [(2, if famOf d.alg = some .slhdsa then lc != 2 else lc == 0), (40, notFam d.alg [.mldsa, .slhdsa, .edwards, .nist]),
     (42, !polOk d.alg (d.pn 42 2)), (44, decide (65535 < d.pn 44 4)), (24, d.inLen != 0)] ++ d.rsv 48 64
  | 0x0401 =>
    [lc12, (2, has && (famOf a == some .slhdsa || a == 0x0604 || a == 0x0605) && lc != 2), (8, has && notFam a signFams),
     (24, msgLen d.sCtx)] ++ (if has then sigModeChecks a d false else []) ++ d.rsv 40 42 ++ d.rsv 45 46 ++ d.rsv 48 64
  | 0x0402 =>
    let byParam := d.keyHandle == 0
    let fixed := (if byParam then pubLen a else 0) + d.sSig + d.sCtx
    [lc12, (8, has && notFam a (.fndsa :: signFams)), (40, if byParam then notFam a (.fndsa :: signFams) else d.alg != 0),
     (24, (byParam || has) && msgLen fixed),
     (48, (byParam || has) && (match sigFixed a lv (bit d.sMode 3) with | some n => d.sSig != n | none => false))] ++
      (if byParam ∨ has then sigModeChecks a d true else []) ++ d.rsv 45 46 ++ d.rsv 52 64
  | 0x0403 =>
    let p := d.pn 42 2
    let l := d.pb 48
    let w := d.pb 49
    [(2, lc != 2), (40, notFam d.alg [.lms, .xmss]), (42, !within p (polSign + polVerify + polStateful) || !hasPol p (polSign + polStateful)),
     (44, slotParamBad (d.pn 44 4)), (48, if famOf d.alg = some .lms then decide (l < 1) || decide (8 < l) else l != 0),
     (49, if famOf d.alg = some .lms ∧ 1 < l then !lmsOk w || bits w 7 6 != bits d.alg 7 6 else w != 0), (24, d.inLen != 0)] ++
      d.rsv 50 64
  | _ => [lc12, (8, has && notFam a [.lms, .xmss]), (24, d.inLen != 0)] ++ d.rsv 40 64

/-- The output length a group 0x04 command fixes; none for ECDSA with DER (R178, R129). -/
def sigCmdOut (d : Desc) (key : Option KeyRef) (lv : Option (Nat × Nat)) : Nat :=
  match d.opcode, key with
  | 0x0400, _ => pubLen d.alg
  | 0x0401, some k => (sigFixed k.alg lv (bit d.sMode 3)).getD 0
  | 0x0403, _ => 8
  | 0x0404, _ => 48
  | _, _ => 0

end Sys2Proof.Machine
end

