-- ==== Sys2Proof/Machine/Handles.lean ====
section
/-! DEFINITION. What a handle names when it is checked (R141 to R144, check 6 of R17), and what blocks a slot's retirement
(R152). -/

namespace Sys2Proof.Machine

/-- A key of a slot. -/
def slotRef (s : State) (i : Nat) : KeyRef :=
  let e := slotEnt s i
  { handle := slotHandle s i, kind := 0, alg := e.alg, policy := e.policy, depth := 0, parent := 0, label := [], created := 0,
    rooted := true, src := .slot i e.gen }

/-- A key of a volatile table. -/
def volRef (h : W64) (e : VolEnt) : KeyRef :=
  { handle := h, kind := hKind h, alg := e.alg, policy := e.policy, depth := e.depth, parent := e.parent, label := e.label,
    created := e.created, rooted := e.rooted, src := (match e.src with | some k => k | none => .value e.value) }

/-- The key a handle of slice `n` names: a status, OK with the key. A withdrawn slot, a dead one of the same generation and a key
whose chain leads to a withdrawn slot give E_SLOT_CORRUPT (R325), any other mismatch E_HANDLE. -/
def findKey (s : State) (n : Nat) (h : W64) : Nat × Option KeyRef :=
  if hSlice h ≠ n ∨ kindRange (hKind h) ≤ hIndex h then (eHandle, none)
  else if hKind h = 0 then
    let e := slotEnt s (hIndex h)
    if recLost s (ridSlot (hIndex h)) then (eSlotCorrupt, none)
    else if e.slice ≠ n ∨ e.gen ≠ hGen h then (if (e.state = 3 ∨ e.state = 4) ∧ e.gen = hGen h then eSlotCorrupt else eHandle, none)
    else if e.state = 1 then (stOk, some (slotRef s (hIndex h)))
    else if e.state = 3 ∨ e.state = 4 then (eSlotCorrupt, none)
    else (eHandle, none)
  else
    match volOf s h with
    | some e => if e.corrupt then (eSlotCorrupt, none) else (stOk, some (volRef h e))
    | none => (eHandle, none)

/-! ### Events and bindings that name a slot (R152, R389) -/

/-- An event that has had no outcome yet: PENDING, PREPARED or SUSPENDED. -/
def EvRec.isOpen (v : EvRec) : Bool := v.state == 0 || v.state == 1 || v.state == 5

/-- An open event other than `but` names slot handle `h`. -/
def eventNames (s : State) (h : W64) (but : Option Nat) : Bool :=
  (eventList s).any (fun e => e.2.isOpen && some e.1 != but && (e.2.spec.kind == 1 || e.2.spec.kind == 2) && e.2.spec.arg0 == h.toNat)

/-- A binding of a slice names handle `h`, or a port's pairing names its slot. -/
def laneNames (s : State) (h : W64) : Bool :=
  (List.range 16).any (fun b => bindingOf s (hSlice h) b == h) ||
    (List.range 8).any (fun p =>
      (portNow s p).paired && hKind h == 0 && (portNow s p).slot == hIndex h && (portNow s p).slotGen == hGen h)

/-- KEY_RETIRE of the slot is blocked. -/
def slotBlocked (s : State) (h : W64) (but : Option Nat) : Bool := eventNames s h but || laneNames s h

end Sys2Proof.Machine
end

