-- ==== Sys2Proof/Machine/Time.lean ====
section
/-! DEFINITION. The timebase (R351 to R367): PPS edges and windows, runs and declarations, time conditions, slews, TPPS_OUT, and the
time commands of group 0x07. -/

namespace Sys2Proof.Machine

/-- Change the timebase. -/
def modTb (s : State) (f : Timebase → Timebase) : State := { s with tb := f s.tb }

/-- Nanoseconds of a second. -/
def secNs : Nat := 1000000000

/-! ### Time conditions (R362, R365) -/

/-- Elapsed holdover in seconds. -/
def holdSec (s : State) : Nat := s.tb.hold / secNs

/-- The time condition changes: the change is logged with its cause, and S00's vector signalled. -/
def setCond (s : State) (new : Cond) (cause : Nat) : State :=
  if s.tb.cond = new then s
  else
    let t := logEvent s 0xA0 0x0002 0
      (leBytes 1 s.tb.cond.code ++ leBytes 1 new.code ++ leBytes 1 cause ++ List.replicate 5 0 ++ leBytes 4 (holdSec s))
    -- CHIP_MODE.TIME changes (R114).
    vecTime (smbAlert (modTb t (fun b =>
      { b with cond := new, hold := 0, expired := false,
               missRun := if new = .referenced then 0 else b.missRun, missLost := if new = .referenced then 0 else b.missLost })))

/-! ### Windows (R355, R363) -/

/-- What a backward slew has left to absorb. -/
def slewLeft (s : State) : Nat := s.tb.slew.getD 0

/-- The phase on which windows are centred, less PPS_DELAY. -/
def winPhase (s : State) : Int := (s.tb.time : Int) - slewLeft s - s.tb.delay

/-- The timestamp of an edge now: its arrival on the timebase less PPS_DELAY. -/
def edgeStamp (s : State) : Int := (s.tb.time : Int) - s.tb.delay

/-- The whole second nearest an instant. -/
def nearestSec (x : Int) : Int := (x + 500000000) / 1000000000

/-- The windows are counted anew from the phase; `held` says the present edge stands in its window. -/
def rewindow (s : State) (held : Bool) : State :=
  let w := ((winPhase s - 50000) / 1000000000 + 1).toNat
  modTb s (fun b =>
    { b with win := w, winEdge := held || (b.winEdge && b.win == w), winAccepted := held || (b.winAccepted && b.win == w) })

/-! ### Edges (R356, R358, R360, R363) -/

/-- The offset of an edge now. -/
def edgeOffset (s : State) : Int := winPhase s - nearestSec (winPhase s) * 1000000000

/-- The edge is the first in the present window. -/
def firstInWindow (s : State) : Bool :=
  s.tb.set && decide (-50000 ≤ edgeOffset s) && decide (edgeOffset s ≤ 50000) && decide (nearestSec (winPhase s) = (s.tb.win : Int)) &&
    !s.tb.winEdge

/-- The edge is accepted. -/
def edgeAccepted (s : State) : Bool :=
  firstInWindow s && (s.tb.cond != .referenced || (decide (-1000 ≤ edgeOffset s) && decide (edgeOffset s ≤ 1000)))

/-- An accepted edge steers the frequency of the timebase in REFERENCED, by at most ±2 ppm, and never steps it (R357). How the correction
follows from the offsets is open: a free value (log entry 14). -/
def steerEdge (s : State) : State :=
  if s.tb.cond = .referenced then
    modTb { s with freeCtr := s.freeCtr + 1 } (fun b => { b with steer := ((Config.steering s.freeCtr).val : Int) - 2000 })
  else s

/-- The verdict on an edge and its counts; the fourth rejected edge within 1 s ends REFERENCED (R356, R362). -/
def judgeEdge (s : State) : State :=
  let first := firstInWindow s
  if edgeAccepted s then
    modTb (steerEdge s) (fun b =>
      { b with winEdge := true, winAccepted := true, accepted := b.accepted + 1, offset := edgeOffset s, missRun := 0, missLost := 0,
               slewMiss := if b.slewMiss < 2 then 0 else b.slewMiss })
  else
    let ts := s.tb.rejTimes.filter (fun t => decide (s.uptime < t + secNs)) ++ [s.uptime]
    let t := modTb s (fun b => { b with winEdge := b.winEdge || first, rejected := b.rejected + 1, rejTimes := ts })
    if s.tb.cond = .referenced ∧ 4 ≤ ts.length then setCond t .holdover 2 else t

/-- The edge extends the run (R358). -/
def extendsRun (s : State) : Bool :=
  match s.tb.runEdge with
  | some t => decide (t + 999950000 ≤ s.uptime) && decide (s.uptime ≤ t + 1000050000)
  | none => false

/-- The edge extends the run, or starts a new one. -/
def runEdgeStep (s : State) : State :=
  let e := extendsRun s
  modTb s (fun b =>
    { b with run := if e then satInc 8 b.run else 1, number := if e then b.number.map (· + 1) else none,
             confirmed := e && b.confirmed, runEdge := some s.uptime })

/-- The run has ended. -/
def endRun (s : State) : State := modTb s (fun b => { b with run := 0, number := none, confirmed := false, runEdge := none })

/-- The number the present edge carries (R360): from a declaration in the run, else the second nearest its timestamp. -/
def edgeNumber (s : State) : Int := match s.tb.number with | some n => (n : Int) | none => nearestSec (edgeStamp s)

/-- A declaration of SECOND takes the place of the run's numbering, and ends a slew (R360, R363). -/
def renumber (s : State) (sec : Nat) : State :=
  let t := modTb s (fun b => { b with number := some sec, confirmed := false, slew := none, slewPhase := false })
  if s.tb.slew.isSome then rewindow t false else t

/-- Apply a declaration at the present edge (R360, R361): status, DETAIL and RESULT, and the state. -/
def applyDecl (s : State) (sec : Nat) (force : Bool) : (Nat × Nat × Nat) × State :=
  let back := decide ((sec : Int) * 1000000000 - edgeStamp s < -10000000000)
  if !s.tb.set then
    ((stOk, 0, 9), rewindow (modTb s (fun b =>
      { b with set := true, time := sec * secNs, number := some sec, confirmed := false })) true)
  else if s.tb.cond = .referenced then
    if (sec : Int) = nearestSec (edgeStamp s) then ((stOk, 0, 3), s)
    else if !force then ((eTime, 2, 0), s)
    else if back then ((eTime, 3, 0), s)
    else ((stOk, 0, 5), renumber (setCond s .holdover 4) sec)
  else if (sec : Int) = edgeNumber s then ((stOk, 0, 3), modTb s (fun b => { b with confirmed := true }))
  else if back then ((eTime, 3, 0), s)
  else ((stOk, 0, 5), renumber s sec)

/-- SET_NEXT_SECOND commands that wait for their edge, from their admission (R359). -/
def declWaits (j : Job) : Bool := j.desc.opcode == 0x0700 && j.res.isNone && !j.isReleased

/-- Every declaration admitted at least 10 ms ago applies to the edge (R359). -/
def applyDecls (s : State) (io : JobIo) : State :=
  forJobs (fun j => declWaits j && decide (j.waitFrom + 10000000 ≤ s.uptime)) (fun t j =>
    let r := applyDecl t (j.desc.pn 40 8) (bit (j.desc.pb 48) 0)
    settle r.2 j io { JobRes.status0 r.1.1 r.1.2.1 with result := r.1.2.2 }) s

/-- The return to REFERENCED at the eighth or later edge of a confirmed run: a step forward, or a slew (R363). -/
def tryReturn (s : State) : State :=
  if s.tb.cond ≠ .referenced ∧ s.tb.slew = none ∧ s.tb.tref ≠ 0 ∧ s.tb.run = 8 ∧ s.tb.confirmed then
    let d := edgeNumber s * 1000000000 - edgeStamp s
    if 0 ≤ d then rewindow (setCond (modTb s (fun b => { b with time := min (b.time + d.toNat) lastTime })) .referenced 5) true
    else rewindow (modTb s (fun b => { b with slew := some (-d).toNat, slewPhase := false, slewMiss := 0 })) true
  else s

/-- An edge of TPPS_IN (R355 to R363). -/
def execPpsEdge (io : JobIo) (s : State) : Res :=
  let t := runEdgeStep (judgeEdge s)
  let u := if edgeAccepted s || extendsRun s then applyDecls t io else t
  doIf s (alive s && s.chip.mode != .boot) (tryReturn u)

/-- The close of a window (R356, R362, R366). -/
def execPpsWindowClose (s : State) : Res :=
  let b0 := s.tb
  let acc := b0.winAccepted
  let t := modTb s (fun b =>
    { b with ppsOk := acc, missing := if acc then b.missing else b.missing + 1, missRun := if acc then 0 else b.missRun + 1,
             missLost := if acc then 0 else if b.tref = 0 then b.missLost + 1 else b.missLost,
             slewMiss := if !acc && b.slew.isSome && b.slewMiss < 2 then b.slewMiss + 1 else b.slewMiss,
             win := b.win + 1, winEdge := false, winAccepted := false, delay := (settings s).ppsDelay })
  let u :=
    if t.tb.cond = .referenced ∧ 2 ≤ t.tb.missRun then setCond t .holdover 1
    else if t.tb.cond = .holdover ∧ t.tb.tref = 0 ∧ 2 ≤ t.tb.missLost then setCond t .untimed 1
    else t
  doIf s (alive s && s.chip.mode != .boot && b0.set && decide ((b0.win : Int) * 1000000000 + 50000 ≤ winPhase s)) u

/-- 1 s and 50 µs have passed since the run's last edge (R358). -/
def execPpsRunEnd (s : State) : Res :=
  doIf s (alive s && (match s.tb.runEdge with | some t => decide (t + 1000050000 < s.uptime) | none => false)) (endRun s)

/-- A backward correction is absorbed (R363). -/
def execSlewEnd (s : State) : Res :=
  let t := modTb s (fun b => { b with slew := none, slewPhase := false })
  doIf s (alive s && s.tb.slew == some 0)
    (if s.tb.tref ≠ 0 ∧ s.tb.slewMiss < 2 then setCond t .referenced 5 else endRun t)

/-- Elapsed holdover reaches BUDGET (R364, R365). -/
def execHoldoverExpired (s : State) : Res :=
  let b := (settings s).budget
  doIf s (alive s && s.tb.cond == .holdover && !s.tb.expired && decide (b * secNs ≤ s.tb.hold))
    (vecTime (modTb (logEvent s 0xA0 0x0003 0 (leBytes 4 b)) (fun x => { x with expired := true })))

/-- TREF_IN becomes good at 10 MHz (1) or 25 MHz (2) (R352). -/
def execTrefQualified (code : Nat) (s : State) : Res :=
  doIf s (alive s && s.chip.mode != .boot && s.tb.tref == 0 && (code == 1 || code == 2)) (modTb s (fun b => { b with tref := code }))

/-- TREF_IN is lost (R352, R362). -/
def execTrefLost (s : State) : Res :=
  let t := modTb s (fun b => { b with tref := 0, missLost := 0 })
  doIf s (alive s && s.tb.tref != 0)
    (if s.tb.cond = .referenced then setCond t .holdover 3
     else if s.tb.cond = .holdover ∧ 2 ≤ s.tb.missRun then setCond t .untimed 3
     else t)

/-! ### TPPS_OUT (R354) -/

/-- TPPS_OUT may rise. -/
def tppsOn (s : State) : Bool :=
  alive s && s.tb.set && (settings s).tppsOutEn && s.chip.mode != .boot && s.chip.mode != .halt

/-- The timebase reaches a whole second. -/
def execTppsOutSecond (s : State) : Res :=
  doIf s (tppsOn s && s.tb.time % secNs == 0) { s with pins := { s.pins with tppsOut := true } }

/-- TPPS_OUT falls 100 ms after it rose. -/
def execTppsOutFall (s : State) : Res :=
  doIf s (s.pins.tppsOut && decide (100000000 ≤ s.tb.time % secNs)) { s with pins := { s.pins with tppsOut := false } }

/-! ### Registers of the EPH region -/

/-- EPH_TIME. -/
def regEphTime (s : State) : Nat := now s

/-- EPH_STAT. -/
def regEphStat (s : State) : Nat :=
  b2n s.tb.slew.isSome * 2 ^ 15 + b2n s.tb.expired * 2 ^ 13 + b2n s.tb.confirmed * 2 ^ 12 + s.tb.run % 16 * 2 ^ 8 +
    b2n (settings s).tppsOutEn * 2 ^ 6 + s.tb.tref % 4 * 2 ^ 4 + b2n s.tb.ppsOk * 2 ^ 3 + b2n s.tb.set * 2 ^ 2 + s.tb.cond.code

/-- EPH_HOLD. -/
def regEphHold (s : State) : Nat := if s.tb.cond = .holdover then holdSec s % 2 ^ 32 else 0

/-- EPH_OFFSET. -/
def regEphOffset (s : State) : Nat := leNat (leInt 4 s.tb.offset)

/-- EPH_EDGES. -/
def regEphEdges (s : State) : Nat := min 0xFFFF s.tb.rejected * 2 ^ 16 + min 0xFFFF s.tb.missing

/-! ### Group 0x07: time -/

/-- SET_NEXT_SECOND waits for its edge (R359). -/
def execSetNextSecond (job : Nat) (_ : JobIo) (s : State) : Res :=
  runMgmt s job 0x0700 (fun j => if j.parked then s else putJob s { j with parked := true })

/-- A declaration has waited 2 s (R359). -/
def execSetNextSecondTimeout (io : JobIo) (s : State) : Res :=
  let due := fun (j : Job) => declWaits j && decide (j.waitFrom + 2000000000 ≤ s.uptime)
  doIf s (serving s) (forJobs due (fun t j => settle t j io (JobRes.status0 eTime 1)) s)

/-- The TIME_QUERY record (R367). -/
def timeRecord (s : State) : List Byte :=
  leBytes 8 (now s) ++ leBytes 4 (regEphStat s) ++ leBytes 4 (regEphHold s) ++ leBytes 4 (settings s).budget ++
    leInt 4 (settings s).ppsDelay ++ leBytes 4 (regEphOffset s) ++ leBytes 4 s.tb.accepted ++ leBytes 4 s.tb.rejected ++
    leBytes 4 s.tb.missing ++ List.replicate 24 0

/-- TIME_QUERY (R367). -/
def execTimeQuery (job : Nat) (io : JobIo) (s : State) : Res :=
  runMgmt s job 0x0701 (fun j => answer s j io (JobRes.done (timeRecord s) 0))

/-- TIME_CONFIG (R366): it releases at the commit of the device settings. -/
def execTimeConfig (job : Nat) (_ : JobIo) (s : State) : Res :=
  runMgmt s job 0x0702 (fun j =>
    stageCommit s j (JobRes.done [] 0) [.timeCfg (j.desc.pn 40 4) (sextNat 32 (j.desc.pn 44 4)) (bit (j.desc.pb 48) 0)])

/-- What check 2 looks at in a group 0x07 descriptor (R366). -/
def timeCmdChecks (d : Desc) : Checks :=
  let noIn := (24, d.inLen != 0)
  let delay := sextNat 32 (d.pn 44 4)
  match d.opcode with
  | 0x0700 => [(2, d.lc != 2), (40, d.pn 40 8 == 0 || decide (18446744073 < d.pn 40 8)), (48, decide (1 < d.pb 48)), noIn] ++ d.rsv 49 64
  | 0x0701 => noIn :: d.rsv 40 64
  | 0x0702 =>
    [(2, d.lc != 2), (40, decide (d.pn 40 4 < 60) || decide (86400 < d.pn 40 4)), (44, decide (delay < -100000) || decide (100000 < delay)),
     (48, decide (1 < d.pb 48)), noIn] ++ d.rsv 49 64
  | 0x0710 => [(2, d.lc == 0), (24, d.inLen != 48)] ++ d.rsv 40 64
  | 0x0711 => [(2, d.lc == 0), noIn] ++ d.rsv 44 64
  | _ => noIn :: d.rsv 44 64

end Sys2Proof.Machine
end

