-- ==== Sys2Proof/Machine/Events.lean ====
section
/-! DEFINITION. The Ephemeris (R368 to R380): scheduling, preparation, firing and late events. -/

namespace Sys2Proof.Machine

/-! ### The timetable -/

/-- Change the event at index `i`. -/
def modEvent (s : State) (i : Nat) (f : EvRec → EvRec) : State :=
  { s with eph := { s.eph with events := mapMod none s.eph.events i (fun v => v.map f) } }

/-- STRICT, DURABLE, MISS, NOTE (R368). -/
def EvSpec.strict (e : EvSpec) : Bool := e.flags.testBit 0
def EvSpec.miss (e : EvSpec) : Bool := e.flags.testBit 2
def EvSpec.note (e : EvSpec) : Bool := e.flags.testBit 3

/-- The specification a byte string holds. -/
def EvSpec.ofBytes (b : List Byte) : EvSpec :=
  { kind := byteAt b 0, flags := byteAt b 1, instant := fieldLe b 8 8, arg0 := fieldLe b 16 8, arg1 := fieldLe b 24 8,
    arg2 := fieldLe b 32 8, cookie := fieldLe b 40 8 }

/-- The slot of an ACTIVATE_EPOCH_KEY event. -/
def EvSpec.slot (e : EvSpec) : Nat := hIndex (BitVec.ofNat 64 e.arg0)

/-- Events that count against a slice's EVENTS quota (R372), durable ones being recorded among them. -/
def eventsUsed (s : State) (n : Nat) : Nat :=
  ((eventList s).filter (fun e => e.2.slice == n)).length +
    (s.jobs.filter (fun j => j.slice == n && j.desc.opcode == 0x0710 && j.reserved.isSome)).length

/-- The lowest free index (R371). -/
def freeEvent (s : State) : Option Nat :=
  firstFrom (fun i => (mapGet none s.eph.events i).isNone &&
    s.jobs.all (fun j => j.desc.opcode != 0x0710 || j.reserved != some i)) 0 65536

/-- The EVENT_ID an index takes next (R371). -/
def eventIdAt (s : State) (i : Nat) : Nat :=
  ((Config.freeGen s.chip.boots (2 ^ 41 + i)).toNat + mapGet 0 s.eph.bumps i) % 2 ^ 16 * 2 ^ 16 + i

/-- The event an EVENT_ID of slice `n` names (R371). -/
def findEvent (s : State) (n id : Nat) : Option EvRec :=
  match mapGet none s.eph.events (id % 2 ^ 16) with
  | some v => if v.id = id ∧ v.slice = n then some v else none
  | none => none

/-- EPH_EVENTS: pending, prepared and suspended events. -/
def openEvents (s : State) : Nat := ((eventList s).filter (fun e => e.2.isOpen)).length

/-- An event is able to fire now (R70, R375). -/
def eventAble (s : State) (v : EvRec) : Bool :=
  eventsFire s && s.tb.set &&
    (!v.spec.strict || s.tb.cond == .referenced || (s.tb.cond == .holdover && !s.tb.expired))

/-- An outcome: it is noted, recorded for a durable event, and announced with NOTE (R371 to R377). -/
def endEvent (s : State) (i : Nat) (f : EvRec → EvRec) : State :=
  let t := modEvent s i (fun v => { f v with cond := s.tb.cond.code, endedAt := s.uptime })
  match mapGet none t.eph.events i with
  | some v =>
    let u := if v.spec.note then notifyEvent t v.slice else t
    if v.spec.durable then
      requestWrite u 2 { job := none, op := .event i (some { id := v.id, slice := v.slice, state := v.state, spec := v.spec }) }
    else u
  | none => t

/-! ### Preparation (R380, R399) -/

/-- The bindings of a slice whose base is a slot with an activation at an instant (R399). -/
def meridianMask (s : State) (n inst : Nat) : Nat :=
  maskOf (fun b => (eventList s).any (fun e =>
    e.2.isOpen && e.2.slice == n && e.2.spec.kind == 1 && e.2.spec.instant == inst && bindingOf s n b != 0 &&
      (bindingOf s n b).toNat == e.2.spec.arg0)) 16

/-- Insert by last use, the most recent first. -/
def byUse (x : Sealed) : List Sealed → List Sealed
  | [] => [x]
  | y :: ys => if y.used ≤ x.used then x :: y :: ys else y :: byUse x ys

/-- The 2,048 most recently used KEY_CUR frames of the bindings that name slot handle `h`. -/
def recentFrames (s : State) (n p : Nat) (h : W64) : List Sealed :=
  ((((getPort s p).cache.filter (fun x => !x.isNext && bindingOf s n x.binding == h)).foldr byUse [])).take 2048

/-- Prepare one port for a Meridian. -/
def preparePort (n : Nat) (v : EvRec) (s : State) (p : Nat) : State :=
  let h := BitVec.ofNat 64 v.spec.arg0
  if portSlice s p = some n ∧ portOn s p then
    let t := match (getPort s p).epochFrame with
      | some (e, _) => if e = v.spec.arg1 then s else sealEpoch s p v.spec.arg1 (meridianMask s n v.spec.instant)
      | none => sealEpoch s p v.spec.arg1 (meridianMask s n v.spec.instant)
    (recentFrames s n p h).foldl (fun u x => (sealStore u n p x.binding x.channel v.spec.arg1 true).1) t
  else s

/-- The epoch key of an activation is derived; none when the slot's read fails or it is not live. -/
def epochKeyOf (s : State) (v : EvRec) : Option (List Byte) :=
  let e := slotEnt s v.spec.slot
  if e.state = 1 ∧ e.gen = hGen (BitVec.ofNat 64 v.spec.arg0) then
    (slotSeed s v.spec.slot).map (fun k => childKey k (epochLabel v.spec.arg1 (getSlice s v.slice).cfg.epochLength))
  else none

/-- Prepare an activation (R380): its key is held in the key-lane complex, its epoch becomes the prepared one, and its slice's ports
seal. A slot read that fails withdraws the slot; the event waits for its instant. -/
def prepareEvent (s : State) (i : Nat) (v : EvRec) : State :=
  match epochKeyOf s v with
  | none =>
    let t := modEvent s i (fun x => { x with corrupt := true })
    if (slotEnt s v.spec.slot).state = 1 then withdrawSlot t v.spec.slot none else t
  | some k =>
    let h := BitVec.ofNat 64 v.spec.arg0
    let t := { s with
      eph := { s.eph with prepared := mapSet 0 s.eph.prepared v.spec.slot (v.spec.arg1 + 1) },
      laneKeys := s.laneKeys.filter (fun x => !(x.handle == h && x.epoch == some v.spec.arg1)) ++
        [{ slice := v.slice, handle := h, epoch := some v.spec.arg1, value := k }] }
    (List.range 8).foldl (preparePort v.slice v) (modEvent t i (fun x => { x with state := if x.state = 0 then 1 else x.state }))

/-- EVENT_PREPARE: from 1 ms before INSTANT (R380). -/
def execEventPrepare (ev : Nat) (s : State) : Res :=
  known (decide (ev < 65536))
    (match mapGet none s.eph.events ev with
     | some v =>
       doIf s (alive s && prepDue s v)
         (prepareEvent s ev v)
     | none => .next s)

/-! ### Actions (R369, R377) -/

/-- A slot's epoch becomes active (R380, R396, R400): prepared frames become current, those of earlier epochs go. -/
def activateEpoch (s : State) (v : EvRec) : State :=
  let h := BitVec.ofNat 64 v.spec.arg0
  let e := v.spec.arg1
  { s with
    eph := { s.eph with
      active := mapSet 0 s.eph.active v.spec.slot (e + 1),
      prepared := if preparedEpoch s v.spec.slot = e + 1 then mapErase s.eph.prepared v.spec.slot else s.eph.prepared },
    ports := mapAll Port.idle (fun p x =>
      if portSlice s p = some v.slice then
        { x with cache := (x.cache.filter (fun y => bindingOf s v.slice y.binding != h || decide (e ≤ y.epoch))).map (fun y =>
            if bindingOf s v.slice y.binding = h ∧ y.epoch = e then { y with isNext := false } else y) }
      else x) s.ports,
    laneKeys := s.laneKeys.filter (fun k => k.handle != h || (match k.epoch with | some y => decide (e ≤ y) | none => true)) }

/-- ACTIVATE_EPOCH_KEY at its firing: it is prepared here if it has not been. -/
def fireActivate (s : State) (i : Nat) (v : EvRec) : Nat × State :=
  if v.corrupt then (eSlotCorrupt, s)
  else
    let t := if preparedEpoch s v.spec.slot = v.spec.arg1 + 1 then s else prepareEvent s i v
    match mapGet none t.eph.events i with
    | some w => if w.corrupt then (eSlotCorrupt, t) else (stOk, activateEpoch t v)
    | none => (eHandle, t)

/-- RETIRE_KEY: KEY_RETIRE of a slot, HANDLE_RELEASE otherwise. -/
def fireRetire (s : State) (i : Nat) (v : EvRec) : Nat × State :=
  let h := BitVec.ofNat 64 v.spec.arg0
  let r := findKey s v.slice h
  if hKind h = 0 then
    let e := slotEnt s (hIndex h)
    if e.gen = hGen h ∧ e.slice = v.slice ∧ (e.state = 1 ∨ e.state = 3) then
      if slotBlocked s h (some i) then (eMode, s)
      else (stOk, (retireOps s (hIndex h)).foldl (fun t o => requestWrite t 2 { job := none, op := o }) s)
    else (r.1, s)
  else match r with
    | (0, some _) => (stOk, endKey s h)
    | (st, _) => (st, s)

/-- SLICE_WINDOW: OPEN acts as SLICE_ACTIVATE, CLOSE as SLICE_QUIESCE. -/
def fireWindow (s : State) (v : EvRec) : Nat × State :=
  let n := v.spec.arg1 % 64
  let x := getSlice s n
  let close := v.spec.arg1.testBit 8
  if x.state = (if close then .active else .configured) then
    (stOk, requestWrite s 2 { job := none, op := .slice n { state := if close then .quiescing else .active, cfg := x.cfg, removal := false } })
  else (eMode, s)

/-- RESEED: every instantiated expander reseeds with a fresh block, or waits for one (R302, R309). -/
def fireReseed (s : State) : State :=
  (List.range 4).foldl (fun t r => if drbgReady t r then feed (modRng t r (fun y => { y with drbg := 2 })) r else t) s

/-- SELF_TEST: RNG_TEST ACTION 0 on each region in turn (R309). -/
def fireSelfTest (s : State) (tests : List Bool) : State :=
  (List.range 4).foldl (fun t r => (knownAnswer t r (tests.drop (2 * r))).2) s

/-- The KEM_KEYGEN job of index `k` of a PRECOMPUTE_POOL event. -/
def poolJob (s : State) (v : EvRec) (k : Nat) : Job :=
  let i := v.spec.arg2 % 2 ^ 32 + k
  { id := s.nextJob, slice := v.slice, qp := 4,
    desc := { opcode := 0x0300, flags := 2, tag := BitVec.ofNat 32 v.id, keyHandle := 0, inAddr := 0, inLen := 0, outCap := 2 ^ 31,
              outAddr := 0,
              params := [0, 0] ++ leBytes 2 (v.spec.arg1 / 2 ^ 16) ++ leBytes 4 i ++ leBytes 2 v.spec.arg1 ++ List.replicate 14 0 },
    lc := 2, pos := .waiting, region := 4, block := 16, unit := unitNone, replays := 0, checkFails := 0, keys := [],
    cfg := (getSlice s v.slice).cfg, since := s.uptime, dual := false, res := none, released := none, relFlags := 0, reserved := none, leaf := none,
    writes := 0, saved := [], image := [], parked := false, avoid := none, slack := 0, spared := 0, got := 0, second := none, vals := none, twin := none, waitFrom := s.uptime, waitedLong := false, jumped := false }

/-- PRECOMPUTE_POOL: one KEM_KEYGEN for each index, as LC2 jobs of the slice. -/
def firePool (s : State) (i : Nat) (v : EvRec) : State :=
  let n := bits v.spec.arg2 47 32
  (List.range n).foldl (fun t k =>
    let j := poolJob t v k
    { t with jobs := t.jobs ++ [placeJob t j], nextJob := t.nextJob + 1 })
    (modEvent s i (fun x => { x with gens := List.replicate n 0 }))

/-- The action of an event: a status and the state. -/
def fireAction (s : State) (i : Nat) (v : EvRec) (tests : List Bool) : Nat × State :=
  match v.spec.kind with
  | 1 => fireActivate s i v
  | 2 => fireRetire s i v
  | 3 => (stOk, firePool s i v)
  | 4 => (stOk, fireReseed s)
  | 5 => (stOk, fireSelfTest s tests)
  | 6 => fireWindow s v
  | _ => (stOk, notifyEvent s v.slice)

/-- Fire the event at index `i` (R374, R377, R378). -/
def fireEvent (late : Bool) (tests : List Bool) (s : State) (i : Nat) : State :=
  match mapGet none s.eph.events i with
  | none => s
  | some v =>
    if (getSlice s v.slice).state = .resetting ∧ (v.spec.kind = 3 ∨ v.spec.kind = 7) then
      endEvent s i (fun x => { x with state := 4 })
    else
      let r := fireAction s i v tests
      let fired := fun (x : EvRec) => { x with fired := s.tb.time, lateness := s.tb.time - v.spec.instant }
      if r.1 ≠ stOk then endEvent r.2 i (fun x => { fired x with state := 7, status := r.1 })
      else if late then
        let t := { r.2 with eph := { r.2.eph with late := r.2.eph.late + 1 } }
        endEvent t i (fun x => { fired x with state := 3, status := if v.spec.strict then stBreach else stOk })
      else endEvent r.2 i (fun x => { fired x with state := 2 })

/-- The place of a kind among the actions of one strobe (R376). -/
def kindRank : Nat → Nat
  | 1 => 0 | 2 => 1 | 6 => 2 | 4 => 3 | 5 => 4 | 3 => 5 | _ => 6

/-- Whether `a` is dealt with before `b`: by instant, kind and index. -/
def evBefore (a b : Nat × EvRec) : Bool :=
  decide (a.2.spec.instant < b.2.spec.instant) || (a.2.spec.instant == b.2.spec.instant &&
    (decide (kindRank a.2.spec.kind < kindRank b.2.spec.kind) || (kindRank a.2.spec.kind == kindRank b.2.spec.kind && decide (a.1 < b.1))))

/-- Insert at its place. -/
def evInsert (x : Nat × EvRec) : List (Nat × EvRec) → List (Nat × EvRec)
  | [] => [x]
  | y :: ys => if evBefore x y then x :: y :: ys else y :: evInsert x ys

/-- The order of action. -/
def evSort (l : List (Nat × EvRec)) : List (Nat × EvRec) := l.foldr evInsert []

/-- A slice's ports send their EPOCH frames for epoch `e` (R400, R401): the prepared one, or one sealed now. -/
def sendEpoch (n e mask : Nat) (s : State) (p : Nat) : State :=
  if portSlice s p = some n ∧ portOn s p then
    let t := match (getPort s p).epochFrame with
      | some (x, _) => if x = e then s else sealEpoch s p e mask
      | none => sealEpoch s p e mask
    match (getPort t p).epochFrame with
    | some (x, f) =>
      if x = e then modPort (emit t (.frame p f)) p (fun y => { y with epochFrame := none, epochSent := e }) else t
    | none => t
  else s

/-- After the actions of a strobe: the EPOCH frames of the slices whose slots activated an epoch. `before` are the events as they
stood before it. -/
def sendEpochs (before : List (Nat × EvRec)) (s : State) : State :=
  let done := before.filter (fun e => e.2.spec.kind == 1 &&
    (match mapGet none s.eph.events e.1 with | some v => v.id == e.2.id && (v.state == 2 || v.state == 3) | none => false))
  let keys := (done.map (fun e => (e.2.slice, e.2.spec.arg1))).dedup
  keys.foldl (fun t k =>
    let mask := maskOf (fun b => done.any (fun e =>
      e.2.slice == k.1 && e.2.spec.arg1 == k.2 && bindingOf s k.1 b != 0 && (bindingOf s k.1 b).toNat == e.2.spec.arg0)) 16
    (List.range 8).foldl (sendEpoch k.1 k.2 mask) t) s

/-- EVENT_FIRE: the timebase equals the instant of open events (R374 to R377). One that cannot fire is SUSPENDED. -/
def execEventFire (tests : List Bool) (s : State) : Res :=
  let due := evSort ((eventList s).filter (fun e => (e.2.state == 0 || e.2.state == 1) && e.2.spec.instant == s.tb.time))
  let t := due.foldl (fun t e =>
    if eventAble s e.2 then fireEvent false tests t e.1 else modEvent t e.1 (fun v => { v with state := 5 })) s
  doIf s (alive s && s.chip.mode != .boot && s.tb.set && !due.isEmpty) (sendEpochs due t)

/-! ### Events that could not fire (R378, R379) -/

/-- The open events whose instant has passed, or that are SUSPENDED, and that are able to fire. -/
def overdue (s : State) : List (Nat × EvRec) :=
  evSort ((eventList s).filter (fun e =>
    e.2.isOpen && eventAble s e.2 && (e.2.state == 5 || decide (e.2.spec.instant < s.tb.time)) && decide (e.2.spec.instant ≤ s.tb.time)))

/-- Among the overdue activations of one slot, one of a higher epoch stands (R379). -/
def superseded (l : List (Nat × EvRec)) (v : EvRec) : Bool :=
  v.spec.kind == 1 && l.any (fun e => e.2.spec.kind == 1 && e.2.spec.arg0 == v.spec.arg0 && decide (v.spec.arg1 < e.2.spec.arg1))

/-- EVENT_CATCH_UP: they are skipped or fired late, in order of instant. -/
def execEventCatchUp (tests : List Bool) (s : State) : Res :=
  let l := overdue s
  let t := l.foldl (fun t e =>
    if e.2.spec.miss || superseded l e.2 then endEvent t e.1 (fun v => { v with state := 4 }) else fireEvent true tests t e.1) s
  doIf s (alive s && !l.isEmpty) (sendEpochs l t)

/-- A durable activation that fired keeps its index until a later one of its slot fires or the slot is retired (R372). -/
def heldActivation (s : State) (v : EvRec) : Bool :=
  v.spec.durable && v.spec.kind == 1 && (v.state == 2 || v.state == 3) && activeEpoch s v.spec.slot == v.spec.arg1 + 1 &&
    (slotEnt s v.spec.slot).gen == hGen (BitVec.ofNat 64 v.spec.arg0) &&
    ((slotEnt s v.spec.slot).state == 1 || (slotEnt s v.spec.slot).state == 3)

/-- EVENT_INDEX_FREE (R372). -/
def execEventIndexFree (ev : Nat) (s : State) : Res :=
  known (decide (ev < 65536))
    (match mapGet none s.eph.events ev with
     | some v => doIf s (alive s && !v.isOpen && decide (v.endedAt + 60 * secNs ≤ s.uptime) && !heldActivation s v) (freeEventIdx s ev)
     | none => .next s)

/-! ### Commands (R369, R370, R373) -/

/-- A descriptor as PRECOMPUTE_POOL's arguments spell it, for R165 and R146. -/
def poolDesc (e : EvSpec) : Desc :=
  { opcode := 0x0300, flags := 2, tag := 0, keyHandle := 0, inAddr := 0, inLen := 0, outCap := 0, outAddr := 0,
    params := [0, 0] ++ leBytes 2 (e.arg1 / 2 ^ 16) ++ leBytes 4 e.arg2 ++ leBytes 2 e.arg1 ++ List.replicate 14 0 }

/-- Content of a specification that fails check 2 (R368, R369); `b` are its bytes. -/
def specBad (s : State) (n : Nat) (b : List Byte) (e : EvSpec) : Bool :=
  e.kind == 0 || decide (7 < e.kind) || decide (16 ≤ e.flags) || !zeros b 2 8 || e.instant == 0 || e.instant == 2 ^ 64 - 1 ||
  (match e.kind with
   | 1 =>
     e.arg2 != 0 || e.arg0 % 2 ^ 16 != 0 || !bit (getSlice s n).cfg.settings 2 || !epochExists (getSlice s n).cfg e.arg1 ||
       (getSlice s n).cfg.epochLength == 0 || e.instant != meridian (getSlice s n).cfg e.arg1 || decide (e.arg1 < activeEpoch s e.slot) ||
       (eventList s).any (fun x => x.2.isOpen && x.2.spec.kind == 1 && x.2.spec.arg0 == e.arg0 && x.2.spec.arg1 == e.arg1)
   | 2 => e.arg1 != 0 || e.arg2 != 0 || e.arg0 % 2 ^ 16 != 0
   | 3 =>
     let c := bits e.arg2 47 32
     e.arg0 != 0 || decide (2 ^ 32 ≤ e.arg1) || decide (2 ^ 48 ≤ e.arg2) || c == 0 || decide (4096 < c) ||
       decide (65536 < e.arg2 % 2 ^ 32 + c) || (kemCmdChecks (poolDesc e) none).any (fun x => x.2)
   | 6 => n != 0 || e.arg0 != 0 || e.arg2 != 0 || e.arg1 % 64 == 0 || e.arg1 != e.arg1 % 64 + 2 ^ 8 * (e.arg1 / 2 ^ 8 % 2)
   | 7 => e.arg0 != 0 || e.arg1 != 0 || e.arg2 != 0
   | _ => n != 0 || e.arg0 != 0 || e.arg1 != 0 || e.arg2 != 0)

/-- The handle of a specification passes checks 6 and 7 (R369): a status. -/
def specKey (s : State) (n : Nat) (e : EvSpec) : Nat :=
  let h := BitVec.ofNat 64 e.arg0
  match e.kind with
  | 1 =>
    let r := findKey s n h
    if hKind h ≠ 0 then eHandle else if r.1 ≠ stOk then r.1
    else (match r.2 with | some k => if hasPol k.policy polEpoch then stOk else ePolicy | none => eHandle)
  | 2 =>
    if hKind h = 2 then eHandle
    else
      let x := slotEnt s (hIndex h)
      -- A withdrawn slot may be retired (R153).
      if hKind h = 0 ∧ x.state = 3 ∧ x.gen = hGen h ∧ x.slice = n then stOk else (findKey s n h).1
  | _ => stOk

/-- The order of checks of EVENT_SCHEDULE (R369, R370): status and DETAIL; `t0` is the timebase at admission. -/
def scheduleStatus (s : State) (n t0 : Nat) (b : List Byte) : Nat × Nat :=
  let e := EvSpec.ofBytes b
  if specBad s n b e then (eParam, 0x02FF)
  else if specKey s n e ≠ stOk then (specKey s n e, if specKey s n e = ePolicy then 0x07FF else 0x06FF)
  else if !s.tb.set || t0 = 0 then (eTime, 0)
  else if e.instant < t0 + 1000000 then (eLate, 0)
  else if t0 + 34560000000000000 < e.instant then (eTime, 0)
  else if (getSlice s n).cfg.events ≤ eventsUsed s n then (eQuota, 0)
  else if (freeEvent s).isNone then (eQuota, 0)
  else (stOk, 0)

/-- An event as scheduled. -/
def EvRec.fresh (id n : Nat) (e : EvSpec) : EvRec :=
  { id, slice := n, spec := e, state := 0, cond := 0, status := 0, fired := 0, lateness := 0, gens := [], corrupt := false, endedAt := 0 }

/-- EVENT_SCHEDULE (R370, R371): a durable event releases when its record commits. -/
def execEventSchedule (job : Nat) (io : JobIo) (s : State) : Res :=
  runMgmt s job 0x0710 (fun j =>
    withInput s j io (fun b =>
      let e := EvSpec.ofBytes b
      let s := modJob s j.id (fun x => { x with reserved := none })
      let st := scheduleStatus s j.slice (leNat (j.saved.headD [])) b
      if st.1 ≠ stOk then answer s j io (JobRes.status0 st.1 st.2)
      else
        let i := (freeEvent s).getD 0
        let id := eventIdAt s i
        if e.durable then
          stageCommit s { j with reserved := some i } (JobRes.done [] id) [.event i (some { id, slice := j.slice, state := 0, spec := e })]
        else
          answer { s with eph := { s.eph with events := mapSet none s.eph.events i (some (EvRec.fresh id j.slice e)) } } j io
            (JobRes.done [] id)))

/-- EVENT_CANCEL (R373): an event less than 1 ms away at the admission cannot be cancelled; nor can one past its outcome, for which the spec
names no status (DESIGN CHOICE, log entry 14: E_LATE too). -/
def execEventCancel (job : Nat) (io : JobIo) (s : State) : Res :=
  runMgmt s job 0x0711 (fun j =>
    let id := j.desc.pn 40 4
    let i := id % 2 ^ 16
    match findEvent s j.slice id with
    | none => refuse s j io eHandle
    | some v =>
      let soon := decide (v.spec.instant < leNat (j.saved.headD []) + 1000000)
      if !v.isOpen || (v.state != 5 && soon) then refuse s j io eLate
      else if v.spec.durable then
        stageCommit s j (JobRes.done [] 0) [.event i (some { id := v.id, slice := v.slice, state := 6, spec := v.spec })]
      else answerOk (endEvent s i (fun x => { x with state := 6 })) j io)

/-- The outcome record (R373). -/
def eventRecord (s : State) (v : EvRec) : List Byte :=
  let ended := v.state == 2 || v.state == 3 || v.state == 4
  leBytes 4 v.id ++ leBytes 1 v.state ++ leBytes 1 (if ended then v.cond else s.tb.cond.code) ++ leBytes 2 v.status ++
    leBytes 8 v.fired ++ leBytes 8 v.lateness ++ v.spec.bytes ++ List.replicate 8 0 ++
    (if v.spec.kind = 3 then
      padTo (2 * bits v.spec.arg2 47 32) ((v.gens.map (fun g => leBytes 2 g)).flatten) else [])

/-- EVENT_QUERY (R373). -/
def execEventQuery (job : Nat) (io : JobIo) (s : State) : Res :=
  runMgmt s job 0x0712 (fun j =>
    match findEvent s j.slice (j.desc.pn 40 4) with
    | none => refuse s j io eHandle
    | some v => answer s j io (JobRes.done (eventRecord s v) 0))

end Sys2Proof.Machine
end

