-- ==== Sys2Proof/Machine/Gcm.lean ====
section
/-! DEFINITION. AES-256-GCM as the card steps use it (R419, R420): a 96-bit zero nonce and a 16-byte tag. -/

namespace Sys2Proof.Machine

/-- A product in GF(2^128), bits numbered from the most significant one: `n` bits of `x` are left. -/
def ghashMulN (x : Nat) : Nat → Nat → Nat → Nat
  | 0, _, z => z
  | n + 1, v, z =>
    ghashMulN x n (if v % 2 = 1 then v / 2 ^^^ 0xE1 * 2 ^ 120 else v / 2) (if x.testBit n then z ^^^ v else z)

/-- A product in GF(2^128). -/
def ghashMul (x y : Nat) : Nat := ghashMulN x 128 y 0

/-- GHASH of `n` blocks. -/
def ghash (h : Nat) : Nat → Nat → List Byte → Nat
  | 0, y, _ => y
  | n + 1, y, bs => ghash h n (ghashMul (y ^^^ beNat (padTo 16 bs)) h) (bs.drop 16)

/-- Zero bytes up to a multiple of 16. -/
def pad16 (bs : List Byte) : List Byte := padTo ((bs.length + 15) / 16 * 16) bs

/-- The counter block of number `k` under a zero nonce. -/
def gcmCtr (k : Nat) : List Byte := beBytes 16 k

/-- The tag of a ciphertext with its additional data. -/
def gcmTag (key aad c : List Byte) : List Byte :=
  let t := sboxTable
  let h := beNat (leBytes 16 (aesEncrypt t (aesKeys t key) 0))
  let m := pad16 aad ++ pad16 c ++ beBytes 8 (8 * aad.length) ++ beBytes 8 (8 * c.length)
  xorBytes (beBytes 16 (ghash h (m.length / 16) 0 m)) (aesCtr key (gcmCtr 1) 16)

/-- Ciphertext and tag. -/
def gcmSeal (key aad m : List Byte) : List Byte :=
  let c := xorBytes m (aesCtr key (gcmCtr 2) m.length)
  c ++ gcmTag key aad c

/-- The plaintext; none when the tag does not match. -/
def gcmOpen (key aad ct : List Byte) : Option (List Byte) :=
  let c := ct.take (ct.length - 16)
  if ct.drop (ct.length - 16) = gcmTag key aad c then some (xorBytes c (aesCtr key (gcmCtr 2) c.length)) else none

end Sys2Proof.Machine
end

