-- ==== Sys2Proof/Machine/CardBus.lean ====
section
/-! DEFINITION. The custodian-card slots and their bus (R403 to R416): frames, insertion, identification, tuning, life, and the
CARD registers. -/

namespace Sys2Proof.Machine

/-! ### Status codes (R428) -/

def eCardAbsent : Nat := 0x0250
def eCardIo : Nat := 0x0251
def eCardRefused : Nat := 0x0252
def eCardWp : Nat := 0x0253
def eToken : Nat := 0x0254
def eQuorum : Nat := 0x0255

/-! ### Frames and blocks (R406, R407) -/

/-- CRC-16 of a frame's bits 63:16. -/
def cardCrc (bs : List Byte) : Nat := crcMsb 16 0x1021 0xFFFF bs

/-- A command frame. -/
def cardFrame (op arg : Nat) : List Byte :=
  let h := [0xA5, BitVec.ofNat 8 op] ++ beBytes 4 arg
  h ++ beBytes 2 (cardCrc h)

/-- A response frame whose SYNC and CRC-16 are good. -/
def frameOk (f : List Byte) : Bool := byteAt f 0 == 0x5A && beNat (sub f 6 2) == cardCrc (sub f 0 6)

/-- STATUS of a response. -/
def frameStatus (f : List Byte) : Nat := byteAt f 1
/-- DATA of a response. -/
def frameData (f : List Byte) : Nat := beNat (sub f 2 4)

/-- A data block of `n` bytes with its CRC-32C. -/
def blockOk (n : Nat) (b : List Byte) : Bool := b.length == n + 4 && beNat (b.drop n) == crc32c (b.take n)

/-- A block as it is sent: 512 bytes and their CRC-32C. -/
def cardBlock (bs : List Byte) : List Byte := padTo 512 bs ++ beBytes 4 (crc32c (padTo 512 bs))

/-- Bytes of the data block that follows the response of a command: none for one without data from the card (R409). -/
def cardDataLen (op : Nat) : Nat :=
  if op = 0x01 ∨ op = 0x10 ∨ op = 0x23 then 512 else if op = 0x04 then 64 else 0

/-- Send a command frame to a card: the clock runs. -/
def sendCard (s : State) (cs op arg : Nat) : State :=
  emit (modCard s cs (fun c => { c with cmd := some (op, arg), data := false, clkOn := true, since := s.uptime }))
    (.card cs op (cardFrame op arg))

/-- Send a data block to a card. -/
def sendBlock (s : State) (cs : Nat) (bs : List Byte) : State := emit s (.card cs 0x100 (cardBlock bs))

/-- Count a retry (CARD_SLOTn.ERRORS). -/
def cardError (s : State) (cs : Nat) : State := modCard s cs (fun c => { c with errors := satInc 0xFF c.errors })

/-! ### Tuning (R413) -/

/-- Byte `k` of the TUNE pattern. -/
def tuneByte (k : Nat) : Nat := (0x5A + 37 * k) % 256

/-- The tap at which an answer was sampled passes. -/
def tunePass (b : List Byte) : Bool :=
  frameOk (b.take 8) && frameStatus b == 0 && blockOk 64 (b.drop 8) &&
    (List.range 64).all (fun k => byteAt b (8 + k) == tuneByte k)

/-- The widest run of passing taps, the lowest of equal ones: its first tap and its width. `i` is the next tap, `n` the width of the
run that ends before it. -/
def bestRun : Nat → Nat → Nat × Nat → List Bool → Nat × Nat
  | _, _, b, [] => b
  | i, n, b, p :: ps =>
    let m := if p then n + 1 else 0
    bestRun (i + 1) m (if b.2 < m then (i + 1 - m, m) else b) ps

/-- The tap a sweep selects; none when its widest run is narrower than 4 taps. -/
def tapOf (l : List Bool) : Option Nat :=
  let b := bestRun 0 0 (0, 0) l
  if b.2 < 4 then none else some ((b.1 + (b.1 + b.2 - 1)) / 2)

/-! ### Life (R416) -/

/-- A year of the card's life in nanoseconds. -/
def cardYear : Nat := 31557600 * 10 ^ 9

/-- The instant a card's life is judged at: the timebase, or the newest TIME in the event log. -/
def cardNow (s : State) : Nat :=
  if s.tb.set then s.tb.time else s.alm.log.foldl (fun a e => if e.torn then a else max a e.time) 0

/-- The life state of a manufacturing time: 0 valid, 1 grace, 2 expired. -/
def lifeState (s : State) (mfg : Nat) : Nat :=
  if cardNow s < mfg + 10 * cardYear then 0 else if cardNow s ≤ mfg + 12 * cardYear then 1 else 2

/-! ### Insertion and identification (R404, R412, R415) -/

/-- Slots are handled in these modes (R404). -/
def cardsServed (s : State) : Bool :=
  alive s && s.chip.mode != .boot && s.chip.mode != .halt && s.chip.lc != .scrapped && !s.flt.fatal

/-- CSn_DET# has stayed low for 10 ms: the supply is enabled, and S00 is signalled. -/
def execCardDebouncedInsert (cs : Nat) (wp : Bool) (s : State) : Res :=
  known (decide (cs < 4))
    (let c := getCard s cs
     doIf s (cardsServed s && decide (c.state ≤ 1))
       (vecCard (modCard s cs (fun _ => { CardSlot.empty with state := 2, det := true, wp, pwren := true, since := s.uptime }))))

/-- What one identification holds while it talks to the card: the state and the answers to come. -/
structure CardTalk where
  s : State
  ans : List (List Byte)
  deriving DecidableEq, Repr

/-- Ask a card, with up to `k` tries: the answer's DATA, or its data block where the command has one (R411). -/
def askCard (cs op arg : Nat) : Nat → CardTalk → Option (List Byte) × CardTalk
  | 0, t => (none, t)
  | k + 1, t =>
    let u : CardTalk := { s := sendCard t.s cs op arg, ans := t.ans.tail }
    let b := t.ans.headD []
    let n := cardDataLen op
    if frameOk b && frameStatus b == 0 && (n == 0 || blockOk n (b.drop 8)) then
      (some (if n = 0 then sub b 2 4 else (b.drop 8).take n), u)
    else if frameOk b && decide (2 ≤ frameStatus b) then (none, u)
    else if k = 0 then (none, u)
    else askCard cs op arg k { u with s := cardError u.s cs }

/-- Read blocks `i` up to `i + n`. -/
def readCard (cs i : Nat) : Nat → List Byte → CardTalk → Option (List Byte) × CardTalk
  | 0, acc, t => (some acc, t)
  | n + 1, acc, t =>
    match askCard cs 0x10 i 3 t with
    | (some b, u) => readCard cs (i + 1) n (acc ++ b) u
    | (none, u) => (none, u)

/-- `n` TUNE commands, one at each tap. -/
def sweep (cs : Nat) : Nat → List Bool → CardTalk → List Bool × CardTalk
  | 0, acc, t => (acc, t)
  | n + 1, acc, t =>
    sweep cs n (acc ++ [tunePass (t.ans.headD [])]) { s := sendCard t.s cs 0x04 0, ans := t.ans.tail }

/-- The public key of Dexmerik's card CA, in the boot ROM. -/
def cardCaKey : List Byte := stdBytes .rom [ascii "CARD-CA"] 1312

/-- A certificate of 4,948 bytes and an IDENT block agree and verify (R415). -/
def cardCertOk (ident cert : List Byte) : Bool :=
  fieldLe ident 26 2 == 4948 && sub cert 0 4 == [0x46, 0x59, 0x43, 0x43] && byteAt cert 4 == 1 &&
    sub cert 8 16 == sub ident 0 16 && sub cert 24 8 == sub ident 40 8 &&
    verdict 0x0701 0 0 0 cardCaKey (ascii "FY4128-CARD") (sub cert 0 2528) (sub cert 2528 2420) == (stOk, 0)

/-- Set the bus of a card. -/
def setBus (cs width rate : Nat) (s : State) : State := modCard s cs (fun c => { c with width, rate })

/-- A card that could not be brought up is refused. -/
def refuseCard (cs : Nat) (s : State) : State := modCard s cs (fun c => { c with state := 6, cmd := none, clkOn := false })

/-- A card is ready. -/
def readyCard (cs : Nat) (s : State) : State := modCard s cs (fun c => { c with state := 4, cmd := none, clkOn := false })

/-- Fall back to 25 MHz on 4 bits. -/
def fallBack (cs : Nat) (t : CardTalk) : State :=
  match askCard cs 0x03 5 3 t with
  | (some _, u) => readyCard cs (modCard (setBus cs 1 1 u.s) cs (fun c => { c with tap := 0 }))
  | (none, u) => refuseCard cs u.s

/-- Raise the bus (R412): 25 MHz on 1 bit, 100 MHz on 4 bits, TUNE. -/
def raiseBus (cs : Nat) (t : CardTalk) : State :=
  match askCard cs 0x03 4 3 t with
  | (none, u) => refuseCard cs u.s
  | (some _, u) =>
    match askCard cs 0x03 9 3 { u with s := setBus cs 0 1 u.s } with
    | (none, v) => refuseCard cs v.s
    | (some _, v) =>
      let w := sweep cs 32 [] { v with s := setBus cs 1 2 v.s }
      match tapOf w.1 with
      | some tap => readyCard cs (modCard w.2.s cs (fun c => { c with tap }))
      | none => fallBack cs w.2

/-- IDENT, the certificate, the card's life, and the bus. -/
def identify (cs : Nat) (t : CardTalk) : State :=
  match askCard cs 0x01 0 3 t with
  | (none, u) => refuseCard cs u.s
  | (some id, u) =>
    match readCard cs 1 10 [] u with
    | (none, v) => refuseCard cs v.s
    | (some bs, v) =>
      let cert := bs.take 4948
      let ok := cardCertOk id cert
      let w := modCard v.s cs (fun c =>
        { c with cardId := sub id 0 16, mfgTime := fieldLe id 40 8, ceremoniesLeft := fieldLe id 28 4, writesLeft := fieldLe id 32 4,
                 cert, certOk := ok, life := lifeState v.s (fieldLe id 40 8) })
      if ok then raiseBus cs { v with s := w } else refuseCard cs w

/-- 10 ms after power-up the device identifies the card; `ans` are the card's answers in order, an empty one where it is silent. -/
def execCardIdentify (cs : Nat) (ans : List (List Byte)) (s : State) : Res :=
  known (decide (cs < 4))
    (let c := getCard s cs
     doIf s (cardsServed s && c.state == 2 && decide (c.since + 10000000 ≤ s.uptime))
       (identify cs { s := modCard s cs (fun c => { c with state := 3 }), ans }))

/-! ### Registers (R427) -/

/-- A card is in the slot. -/
def cardHere (c : CardSlot) : Bool := decide (3 ≤ c.state) && !c.cardId.isEmpty

/-- CARD_SLOTn. -/
def regCardSlot (s : State) (n : Nat) : Nat :=
  let c := getCard s n
  c.state * 2 ^ 28 + b2n c.det * 2 ^ 27 + b2n c.wp * 2 ^ 26 + b2n c.pwren * 2 ^ 25 + c.width * 2 ^ 22 + c.rate * 2 ^ 20 +
    c.tap * 2 ^ 15 + (if cardHere c then c.life else 3) * 2 ^ 13 + c.errors

/-- CARD_LIFEn. -/
def regCardLife (s : State) (n : Nat) : Nat :=
  let c := getCard s n
  c.writesLeft % 2 ^ 17 * 2 ^ 15 + c.ceremoniesLeft % 2 ^ 15

/-- CARD_IDn. -/
def regCardId (s : State) (n : Nat) : Nat := leNat (sub (getCard s n).cardId 0 8)
/-- CARD_IDHn. -/
def regCardIdh (s : State) (n : Nat) : Nat := leNat (sub (getCard s n).cardId 8 8)

/-- Seconds left before a ceremony's time-out, while it waits for a card or a step runs. -/
def cerSeconds (s : State) (c : Ceremony) : Nat := c.timeout - (s.uptime - c.waitFrom) / 10 ^ 9

/-- CARD_CEREMONY. -/
def regCardCeremony (s : State) : Nat :=
  match s.cer with
  | none => 0
  | some c =>
    2 ^ 31 + c.kind * 2 ^ 28 + b2n c.stepJob.isSome * 2 ^ 27 + (c.stepsTotal - c.stepsDone) * 2 ^ 16 + cerSeconds s c % 2 ^ 12

end Sys2Proof.Machine
end

