-- ==== Sys2Proof/Machine/CfgSpace.lean ====
section
/-! DEFINITION. The configuration space of the function (R81, R85, R95): what each word of it reads as, and the writes of its fields. The
places of the fields inside a capability are those of PCIe and CXL (PRESUMED, log entry 45). -/

namespace Sys2Proof.Machine

/-- Configuration requests are answered (R106): in D3hot too. -/
def cfgUp (s : State) : Bool := alive s && s.link.up && s.chip.lc != .scrapped

/-- The header of a capability: ID and the offset of the next. -/
def capHead (id next : Nat) : Nat := next * 2 ^ 8 + id

/-- The header of an extended capability. -/
def extHead (id version next : Nat) : Nat := next * 2 ^ 20 + version * 2 ^ 16 + id

/-- A word of configuration space that only the PCIe and CXL standards define. -/
def stdWord (off : Nat) : Nat := leNat (stdBytes .rom [ascii "PCIE", leBytes 4 off] 4)

/-- A base address register as written. -/
def barWord (s : State) (off : Nat) : Nat := (mapGet 0 s.link.bars off).toNat

/-- The word of configuration space at an offset. -/
def cfgWord (s : State) (off : Nat) : Nat :=
  match off with
  | 0x00 => 0x4128 * 2 ^ 16 + 0x1F4D
  | 0x04 => 2 ^ 20 + b2n s.link.busMaster * 2 ^ 2
  | 0x08 => 0x108000 * 2 ^ 8 + 0xB1
  -- BAR0: 16 MiB, 64-bit, not prefetchable; BAR2: 64 KiB.
  | 0x10 => barWord s 0x10 / 2 ^ 24 * 2 ^ 24 + 4
  | 0x14 => barWord s 0x14
  | 0x18 => barWord s 0x18 / 2 ^ 16 * 2 ^ 16 + 4
  | 0x1C => barWord s 0x1C
  | 0x34 => 0x40
  -- Power Management: D0 and D3hot.
  | 0x40 => capHead 0x01 0x50
  | 0x44 => if s.chip.d3hot then 3 else 0
  -- PCI Express: endpoint, FLR, Max Payload 512, 10-bit tags; the link's speed and width.
  | 0x50 => 2 ^ 17 + capHead 0x10 0x90
  | 0x54 => 2 ^ 28 + 2
  | 0x60 => (s.link.width * 2 ^ 4 + s.link.speed) * 2 ^ 16
  | 0x74 => 2 ^ 17 + 2 ^ 16
  -- MSI-X: 2,048 entries, table and PBA in BAR0.
  | 0x90 => 2047 * 2 ^ 16 + capHead 0x11 0
  | 0x94 => 0x0F00000
  | 0x98 => 0x0F08000
  | 0x100 => extHead 0x0001 2 0x148
  | 0x148 => extHead 0x0003 1 0x158
  | 0x14C => fuseSerial s % 2 ^ 32
  | 0x150 => fuseSerial s / 2 ^ 32
  -- ATS: a queue depth of 0 stands for 32.
  | 0x158 => extHead 0x000F 1 0x160
  | 0x15C => b2n s.link.atsEn * 2 ^ 31
  | 0x160 => extHead 0x001B 1 0x168
  | 0x164 => 20 * 2 ^ 8
  | 0x168 => extHead 0x002E 1 0x180
  | 0x180 => extHead 0x0030 1 0x200
  | 0x184 => 3
  -- DVSEC 0: Cache, IO and Mem capable, HDM_Count 1, Mem_HwInit_Mode 0; CXL.cache enable; the range of the HDM window (R95).
  | 0x200 => extHead 0x0023 1 0x240
  | 0x208 => (1 + 2 + 4 + 1 * 2 ^ 4) * 2 ^ 16
  | 0x20C => b2n s.link.cacheEn + 2 + b2n s.hdm.committed * 4
  | 0x218 => s.hdm.size / 16
  | 0x21C => s.hdm.size % 16 * 2 ^ 28 + 3
  | 0x220 => s.hdm.base.toNat / 2 ^ 32
  | 0x224 => s.hdm.base.toNat % 2 ^ 32
  -- DVSEC 5: phase 2 lasts 5 × 10 µs.
  | 0x240 => extHead 0x0023 1 0x260
  | 0x248 => (2 ^ 8 + 5) * 2 ^ 16 + 5
  -- DVSEC 7: Cache, IO and Mem capable.
  | 0x260 => extHead 0x0023 1 0x280
  | 0x268 => (1 + 2 + 4) * 2 ^ 16 + 7
  -- DVSEC 8: BAR2, offset 0, component registers.
  | 0x280 => extHead 0x0023 1 0x300
  | 0x288 => 8
  | 0x28C => 1 * 2 ^ 8 + 2
  | _ => stdWord off

/-- A write of a word of configuration space: the fields that have an effect here are the base addresses, bus mastering, the power state, ATS
and CXL.cache. -/
def writeCfgWord (s : State) (off v : Nat) : State :=
  match off with
  | 0x04 => { s with link := { s.link with busMaster := v.testBit 2 } }
  | 0x10 | 0x14 | 0x18 | 0x1C => { s with link := { s.link with bars := mapSet 0 s.link.bars off (BitVec.ofNat 32 v) } }
  | 0x44 => { s with chip := { s.chip with d3hot := v % 4 == 3 } }
  | 0x15C => { s with link := { s.link with atsEn := v.testBit 31 } }
  | 0x20C => { s with link := { s.link with cacheEn := v.testBit 0 && s.link.cxl } }
  | _ => s

end Sys2Proof.Machine
end

