-- ==== Sys2Proof/Machine/Retain.lean ====
section
/-! DEFINITION. The check words of retained SRAM banks (R504): the microstore banks of a cell and the operand-memory halves of a BNE, whose
bytes State holds. DEDUCED (log entry 53): a word of a bank is laid out least significant byte first (R5). -/

namespace Sys2Proof.Machine

/-- The bytes of retained bank `b` of domain `d`; none where State holds no bytes of it. -/
def bankBytes (s : State) (d b : Nat) : Option (List Byte) :=
  let e := (getBlock s (d - 128)).bne
  if domKind d = 0 ∧ b < 4 then
    some ((List.range 1024).flatMap (fun i => leBytes 6 (mapGet 0 (getCell s d).store (1024 * b + i)).toNat))
  else if domKind d = 1 ∧ b = 32 then some ((List.range 512).flatMap (fun i => leBytes 32 (mapGet 0 e.h0Mem i).toNat))
  else if domKind d = 1 ∧ b = 33 then some ((List.range 512).flatMap (fun i => leBytes 32 (mapGet 0 e.h1Mem i).toNat))
  else none

/-- The check word of `n` lines of 64 bytes, the first of index `i`. -/
def checkWord : Nat → Nat → List Byte → Nat
  | 0, _, _ => 0
  | n + 1, i, bs => crc64 (leBytes 4 i ++ bs.take 64) ^^^ checkWord n (i + 1) (bs.drop 64)

/-- The check word of a bank as it stands. -/
def bankWord (s : State) (d b : Nat) : Option Nat := (bankBytes s d b).map (fun bs => checkWord (bs.length / 64) 0 bs)

/-- Retained banks of a domain (R504): a block's 32 banks and the 2 halves of its BNE. -/
def retBanks (d : Nat) : List Nat :=
  match domKind d with
  | 0 => List.range 4
  | 1 => List.range 34
  | 2 => List.range 64
  | _ => []

/-- A domain put into state `t` of domain `d`: below DUSK, the check words are copied into the always-on register (R504). -/
def Dom.latched (x : Dom) (s : State) (d t : Nat) : Dom :=
  if 2 ≤ t then { x with words := (retBanks d).filterMap (fun b => (bankWord s d b).map (fun w => (b, w))) } else x

/-- The banks that a woken domain reads back with another check word. -/
def differing (s : State) (d : Nat) : List Nat :=
  ((getDom s d).words.filter (fun e => bankWord s d e.1 != some e.2)).map (fun e => e.1)

end Sys2Proof.Machine
end

