-- ==== Sys2Proof/Machine/Power.lean ====
section
/-! DEFINITION. The power domains (R498 to R507). -/

namespace Sys2Proof.Machine

/-- The unit number of a domain; an HBM stack is recorded against its region (R503). -/
def domUnit (d : Nat) : Nat :=
  match domKind d with
  | 0 => d
  | 1 => 0x80 + (d - 128)
  | 2 => 0x90 + (d - 144)
  | 3 => 0x90 + (d - 148)
  | _ => 0xE0 + (d - 152)

/-- The bit index of a domain's unit. -/
def domBit (d : Nat) : Nat :=
  match domKind d with
  | 0 => d
  | 1 => d
  | 2 => d
  | 3 => 144 + (d - 148)
  | _ => 164 + (d - 152)

/-- The deepest state a domain may use in operation; with `deep`, when its unit is FENCED or FAILED or it is forced (R499). -/
def deepest (kind : Nat) (deep : Bool) : Nat :=
  if deep then 4 else match kind with | 0 => 4 | 1 => 3 | 2 => 2 | 3 => 3 | _ => 4

/-- The child domains of a domain: a block's cells, a region's blocks. -/
def domChildren (d : Nat) : List Nat :=
  match domKind d with
  | 1 => (List.range 8).map (fun i => 8 * (d - 128) + i)
  | 2 => (List.range 4).map (fun i => 128 + 4 * (d - 144) + i)
  | _ => []

/-- A domain may enter a state: it is allowed there, no child is shallower, and it is not forced (R499, R506). -/
def mayEnter (s : State) (d t : Nat) : Bool :=
  let x := getDom s d
  let deep := (getUnit s (domBit d)).state == .fenced || (getUnit s (domBit d)).state == .failed
  decide (1 ≤ t) && decide (t ≤ deepest (domKind d) deep) && !x.forced && !x.failed && decide (x.state = 0) && x.waking.isNone &&
    (domChildren d).all (fun c => decide (t ≤ (getDom s c).state))

/-- Begin an entry (R500). A region at NIGHT or OFF stops its entropy source and DRBG. -/
def beginEntry (s : State) (d t : Nat) : State :=
  let u := modDom s d (fun x => Dom.latched { x with state := t, target := t, entry := some s.uptime, aborted := false } s d t)
  if domKind d = 2 ∧ 3 ≤ t then modRng u (d - 144) (fun r => { r with src := 0, drbg := 0, blocks := [] }) else u

/-- A block or region control core's wait instruction starts its domain's entry: a block only once its BNE is idle and no digest
context is held (R499). -/
def execCoreWait (dom target : Nat) (s : State) : Res :=
  known (decide (dom < 160))
    (let quiet := if domKind dom = 1 then
        let b := getBlock s (dom - 128)
        b.bne.queue.isEmpty && b.bne.held.isEmpty && b.bne.run.isNone && b.bne.long.isNone && b.de.ctx.isEmpty
      else true
     doIf s (alive s && (domKind dom == 1 || domKind dom == 2) && quiet && mayEnter s dom target) (beginEntry s dom target))

/-- A core enters an HBM stack or a PHY by PWR_CTL; a PHY only while its port is unpaired (R392, R499). -/
def execPwrCtlEntry (dom target : Nat) (s : State) : Res :=
  known (decide (dom < 160))
    (doIf s (alive s && (domKind dom == 3 || (domKind dom == 4 && !(portEnt s (dom - 152)).paired)) && mayEnter s dom target)
      (beginEntry s dom target))

/-- ABORTED is cleared in the owner's PWR_STAT; a cell's in CELL_PWR too (R506). -/
def execPwrStatAbortedClear (dom : Nat) (s : State) : Res :=
  known (decide (dom < 160))
    (let t := modDom s dom (fun x => { x with aborted := false })
     doIf s (alive s) (if dom < 128 then modCell t dom (fun c => { c with pwrAborted := false }) else t))

/-- A wake event: each enclosing domain is woken first (R501). `early` says the event came before the last abort point of an entry
in progress. -/
def execDomainWake (dom : Nat) (early : Bool) (s : State) : Res :=
  known (decide (dom < 160))
    (doIf s (alive s) (wakeUnit early s dom))

/-- The failure time of an exit in ns; none from DUSK (R503). -/
def wakeLimit (d st : Nat) : Option Nat :=
  match st with
  | 2 => some 160
  | 3 => some (if domKind d = 2 then 16000 else 1600)
  | 4 => some 16000
  | _ => none

/-- A cell runs again after state `st`: deeper than DUSK its mask pool is gone (R502); from NIGHT its logic state is lost and it
restarts at 0x000; from OFF its customer window is lost with its maker banks reloaded (R503). -/
def cellExit (st : Nat) (c : Cell) : Cell :=
  let c0 := resumePwait c
  let c1 := if 2 ≤ st then { c0 with maskLevel := 0 } else c0
  let c2 := if 3 ≤ st then { c1.wipe with maskLevel := 0, scratch := c1.scratch, lt := c1.lt } else c1
  if st = 4 then { (c2.clearWindow).reloadMaker (fun _ => true) with scratch := [], lt := [] } else c2

/-- Power-good and lock arrive: the domain runs again and its retained banks are checked (R503 to R505). -/
def execWakeComplete (dom : Nat) (s : State) : Res :=
  known (decide (dom < 160))
    (let x := getDom s dom
     let inTime := match x.waking, wakeLimit dom x.state with
       | some t, some l => decide (s.uptime < t + l)
       | some _, none => true
       | none, _ => false
     let t := modDom s dom (fun y =>
       { y with state := 0, waking := none, checks := if x.state = 2 ∨ x.state = 3 then retBanks dom else [],
                differ := if x.state = 2 ∨ x.state = 3 then differing s dom else [] })
     doIf s (alive s && inTime)
       (if dom < 128 then modCell t dom (cellExit x.state)
        else if domKind dom = 2 ∧ 3 ≤ x.state then modRng t (dom - 144) (fun r => { r with src := 3 })
        else t))

/-- Power-good or lock is not seen within four times its nominal time: the domain is FAILED, its jobs are re-queued elsewhere
without counting, and WAKE is raised; an HBM stack takes its region with it (R503). -/
def execWakeFail (dom : Nat) (s : State) : Res :=
  known (decide (dom < 160))
    (let x := getDom s dom
     let due := match x.waking, wakeLimit dom x.state with
       | some t, some l => decide (t + l ≤ s.uptime)
       | _, _ => false
     let t := modDom s dom (fun y => { y with waking := none, failed := true })
     let u := forJobs (fun j => jobOn s (domBit dom) j && !j.isReleased)
       (fun y j => putJob y (placeJob y { j with avoid := some j.unit })) t
     doIf s (alive s && due) (raiseFault u 0x08 (domUnit dom) 0))

/-- A retained bank's check ends; a mismatch raises RETENTION, whose action scrubs it and replays the unreleased jobs that used it (R505). Of a domain,
a bank is taken to be used by every job on it, a BNE half by every job on its BNE (DESIGN CHOICE, log entry 47). -/
def execRetentionCheckDone (dom bank : Nat) (ok : Bool) (s : State) : Res :=
  known (decide (dom < 160))
    (let t := modDom s dom (fun y => { y with checks := y.checks.erase bank })
     doIf s (alive s && (getDom s dom).checks.contains bank) 
       (if ok && !(getDom s dom).differ.contains bank then t else raiseFault t 0x07 (domUnit dom) bank))

/-- No retained bank that a job may have used still waits for its check (R505). -/
def banksChecked (s : State) (j : Job) : Bool :=
  !j.assigned || ((getDom s (144 + j.region)).checks.isEmpty &&
    (16 ≤ j.block || (getDom s (128 + j.block)).checks.isEmpty) && (128 ≤ j.unit || (getDom s j.unit).checks.isEmpty))

/-- POWER_FORCE: a forced domain holds its state until it is released or BOOT (R506). -/
def execPowerForce (job : Nat) (io : JobIo) (s : State) : Res :=
  runMgmt s job 0x0B30 (fun j =>
    let dom := j.desc.pn 44 2
    let st := j.desc.pb 41
    let x := getDom s dom
    let t :=
      if j.desc.pb 40 = 1 then modDom s dom (fun y => { y with forced := false })
      else
        let u := modDom s dom (fun y => Dom.latched { y with forced := true, state := st, target := st, entry := none, waking := none } s dom st)
        if dom < 128 ∧ st < x.state then modCell u dom (cellExit x.state)
        else if domKind dom = 2 ∧ 3 ≤ st then modRng u (dom - 144) (fun r => { r with src := 0, drbg := 0, blocks := [] })
        else u
    answerOk t j io)

end Sys2Proof.Machine
end

