-- ==== Sys2Proof/Machine/Lanes.lean ====
section
/-! DEFINITION. The key lanes (R381 to R402): requests and their answers, quarantine, the miss path, seal generations, the commands of
group 0x08, and the KL registers. -/

namespace Sys2Proof.Machine

/-! ### Registers (R402) -/

/-- KL_SUMMARY. -/
def regKlSummary (s : State) : Nat :=
  maskOf (fun p => (portEnt s p).quarantined || (portNow s p).quarantined) 8 * 2 ^ 16 + maskOf (fun p => (getPort s p).linkUp) 8 * 2 ^ 8 +
    maskOf (fun p => (portEnt s p).paired) 8

/-- Counted NAKs of the last second. -/
def recentNaks (s : State) (p : Nat) : List Nat := (getPort s p).nakTimes.filter (fun t => decide (s.uptime < t + 1000000000))

/-- KL_STATn. -/
def regKlStat (s : State) (p : Nat) : Nat :=
  let e := portEnt s p
  let x := getPort s p
  (if e.paired then (if e.quarantined || (portNow s p).quarantined then 2 else 1) else 0) * 2 ^ 30 +
    b2n (!portsServe s || !unitOnline s (164 + p)) * 2 ^ 29 + b2n x.rekey * 2 ^ 28 + (portSlice s p).getD 0 * 2 ^ 18 + x.credits * 2 ^ 13 +
    x.cache.length

/-- KL_GENn. -/
def regKlGen (s : State) (p : Nat) : Nat := (portEnt s p).g

/-- KL_NONCEn. -/
def regKlNonce (s : State) (p : Nat) : Nat := ((getPort s p).nonce + 1) % 2 ^ 28

/-- KL_NAKn. -/
def regKlNak (s : State) (p : Nat) : Nat :=
  let x := getPort s p
  min 64 (recentNaks s p).length * 2 ^ 25 + x.nakCrc * 2 ^ 16 + x.nakCounter * 2 ^ 8 + x.nakCredit

/-- KL_TRAFFICn. -/
def regKlTraffic (s : State) (p : Nat) : Nat := (getPort s p).hits.toNat * 2 ^ 32 + (getPort s p).misses.toNat

/-- KL_EPOCHn. -/
def regKlEpoch (s : State) (p : Nat) : Nat := (getPort s p).epochSent

/-! ### Requests (R384, R393, R394) -/

/-- OPCODE, TAG, SELECTOR and RQ_CTR of a request frame. -/
def rqOp (f : List Byte) : Nat := byteAt f 0 / 16
def rqTag (f : List Byte) : Nat := beNat (sub f 0 2) % 2 ^ 12
def rqSel (f : List Byte) : Nat := beNat (sub f 2 4)
def rqCtr (f : List Byte) : Nat := beNat (sub f 6 2)

/-- The CRC-8 that follows the 8 bytes of a request is right (R383). -/
def rqCrcOk (f : List Byte) : Bool := crcMsb 8 0x07 0xFF (sub f 0 8) == byteAt f 8

/-- The port is quarantined: the 64th counted NAK within 1 s (R395). -/
def quarantine (s : State) (p : Nat) : State :=
  let n := (portSlice s p).getD 0
  let t := logEvent s 0xA0 0x0401 0
    (leBytes 1 p ++ leBytes 1 n ++ leBytes 2 (recentNaks s p).length ++ leBytes 4 (regKlNak s p))
  let u := modPort t p (fun x => { disablePort x with cache := [], epochFrame := none, nakTimes := x.nakTimes })
  vecQuarantine (requestWrite u 2 { job := none, op := .port p { portNow s p with quarantined := true } })

/-- A NAK is queued; a counted one is noted, and the 64th within 1 s is not sent but quarantines the port. -/
def sendNak (s : State) (p tag reason : Nat) (counted credit : Bool) : State :=
  if counted then
    let t := modPort s p (fun x =>
      { x with nakTimes := (recentNaks s p) ++ [s.uptime],
               nakCrc := if reason = 1 then satInc 0xFF x.nakCrc else x.nakCrc,
               nakCounter := if reason = 2 then satInc 0xFF x.nakCounter else x.nakCounter,
               nakCredit := if reason = 3 then satInc 0xFF x.nakCredit else x.nakCredit })
    if 64 ≤ (recentNaks t p).length then quarantine t p
    else modPort t p (fun x => { x with tx := x.tx ++ [.nak tag reason credit] })
  else modPort s p (fun x => { x with tx := x.tx ++ [.nak tag reason credit] })

/-- NAK and PONG frames that wait to be sent. -/
def waitingNaks (x : Port) : Nat := (x.tx.filter (fun f => match f with | .nak _ _ _ => true | _ => false)).length

/-- The epoch a request asks for, plus one; 0 where it does not exist (R394 check 9). -/
def epochAsked (s : State) (b : LaneBase) (op : Nat) : Nat :=
  if b.kind ≠ 0 then 1
  else match op with
    | 2 => preparedEpoch s (hIndex b.handle)
    | 3 => activeEpoch s (hIndex b.handle) - 1
    | _ => activeEpoch s (hIndex b.handle)

/-- Checks 6 to 9 (R394): the REASON of a NAK, 0 when the key is to be delivered. -/
def bindReason (s : State) (p op sel : Nat) : Nat :=
  match portSlice s p with
  | none => 0x10
  | some n =>
    match laneBase s n (sel / 2 ^ 28) with
    | none => 0x10
    | some b =>
      if op ≠ 1 ∧ b.kind ≠ 0 then 0x13
      else if b.kind = 2 ∧ sel % 2 ^ 28 ≠ 0 then 0x12
      else if epochAsked s b op = 0 then 0x11
      else 0

/-- A KEY request that passed its checks: a hit is answered from the cache, a miss waits for the chip KMAC unit (R396 to R398). -/
def serveKey (s : State) (p op tag sel : Nat) : State :=
  let n := (portSlice s p).getD 0
  match laneBase s n (sel / 2 ^ 28) with
  | none => s
  | some b =>
    let e := epochAsked s b op - 1
    let hit := fun (x : Sealed) => x.binding == sel / 2 ^ 28 && x.channel == sel % 2 ^ 28 && x.epoch == (if b.kind = 0 then e else 0)
    match (if op = 3 then none else (getPort s p).cache.find? hit) with
    | some f =>
      modPort s p (fun x =>
        { x with tx := x.tx ++ [.sealed (spliceTag f.bytes tag) true], hits := x.hits + 1,
                 cache := x.cache.map (fun y => if hit y then { y with used := s.uptime } else y) })
    | none => modPort s p (fun x => { x with pendingMiss := x.pendingMiss ++ [{ op, tag, selector := sel, epoch := e, arrived := s.uptime }] })

/-- A request is judged in the order of R394. -/
def judgeRequest (s : State) (p : Nat) (f : List Byte) : State :=
  let x := getPort s p
  let tag := rqTag f
  if 16 ≤ waitingNaks x then
    -- Dropped without an answer (R395).
    let t := modPort s p (fun y => { y with nakTimes := recentNaks s p ++ [s.uptime], nakCredit := satInc 0xFF y.nakCredit })
    if 64 ≤ (recentNaks t p).length then quarantine t p else t
  else if !rqCrcOk f then sendNak s p tag 1 true false
  else if x.expected ≠ none ∧ x.expected ≠ some (rqCtr f) then sendNak s p tag 2 true false
  else
    let t := modPort s p (fun y => { y with expected := some ((rqCtr f + 1) % 2 ^ 16) })
    if x.credits = 0 then sendNak t p tag 3 true false
    else
      let u := modPort t p (fun y => { y with credits := y.credits - 1 })
      let op := rqOp f
      if op = 0 ∨ 4 < op then sendNak u p tag 4 true true
      else if op = 4 then modPort u p (fun y => { y with tx := y.tx ++ [.nak tag 0 true] })
      else
        let r := bindReason u p op (rqSel f)
        if r = 0 then serveKey u p op tag (rqSel f) else sendNak u p tag r false true

/-- A request frame arrives: its OPCODE is the one the row names. The clock that carries it holds the link up; a port that does not
serve discards it (R40, R392, R395). -/
def klRequest (p : Nat) (f : List Byte) (op : Nat → Bool) (s : State) : Res :=
  known (decide (p < 8))
    (let t := modPort s p (fun x => { x with linkUp := true })
     doIf s (alive s && op (rqOp f)) (if portOn s p then judgeRequest t p f else t))

/-- KEY_CUR. -/
def execKeyCur (port : Nat) (frame : List Byte) (s : State) : Res := klRequest port frame (· == 1) s
/-- KEY_NEXT. -/
def execKeyNext (port : Nat) (frame : List Byte) (s : State) : Res := klRequest port frame (· == 2) s
/-- KEY_PREV. -/
def execKeyPrev (port : Nat) (frame : List Byte) (s : State) : Res := klRequest port frame (· == 3) s
/-- PING. -/
def execPing (port : Nat) (frame : List Byte) (s : State) : Res := klRequest port frame (· == 4) s
/-- A request whose OPCODE is invalid. -/
def execInvalidOpcodeRequest (port : Nat) (frame : List Byte) (s : State) : Res :=
  klRequest port frame (fun o => o == 0 || decide (4 < o)) s

/-- The oldest miss of a port is answered: its frame is sealed, stored and queued (R398). A base that is no longer live, or whose
slot's read fails, gives NAK NO_BINDING. -/
def missDone (s : State) (p : Nat) (q : KlReq) : State :=
  let n := (portSlice s p).getD 0
  let bind := q.selector / 2 ^ 28
  match laneBase s n bind with
  | none => sendNak s p q.tag 0x10 false true
  | some b =>
    match laneParent s n b q.epoch with
    | none => sendNak (match slotOf b.src with | some i => withdrawSlot s i none | none => s) p q.tag 0x10 false true
    | some v =>
      let isNext := b.kind == 0 && preparedEpoch s (hIndex b.handle) == q.epoch + 1
      let held := holdParent s n b q.epoch v
      match sealKeyFrame held p b bind (q.selector % 2 ^ 28) q.epoch v (q.op != 3) isNext with
      | some (t, f) => modPort t p (fun x => { x with tx := x.tx ++ [.sealed (spliceTag f q.tag) true], misses := x.misses + 1 })
      | none => held

/-- KL_MISS_DONE: it waits while the port has no committed seal generation, and the misses of all ports are taken in order of arrival
(R156). -/
def execKlMissDone (port : Nat) (s : State) : Res :=
  known (decide (port < 8))
    (match (getPort s port).pendingMiss with
     | q :: qs =>
       doIf s (alive s && missReady s port && (List.range 8).all (fun p => !missReady s p || decide (q.arrived ≤ missSince s p)))
         (missDone (modPort s port (fun x => { x with pendingMiss := qs })) port q)
     | [] => .next s)

/-- EXPECTED of a NAK sent now: free while the port would take any counter. -/
def nakExpected (s : State) (x : Port) : Nat :=
  match x.expected with | some c => c | none => (Config.freeWord 6 s.freeCtr).toNat % 2 ^ 16

/-- KL_RESPONSE_SEND: the oldest frame leaves, and returns its credit (R393, R397). -/
def execKlResponseSend (port : Nat) (s : State) : Res :=
  known (decide (port < 8))
    (let x := getPort s port
     match x.tx with
     | f :: fs =>
       let out := match f with | .sealed b _ => b | .nak tag r _ => nakFrame tag r (nakExpected s x)
       let back := match f with | .sealed _ c => c | .nak _ _ c => c
       doIf s (alive s && portOn s port)
         (modPort (drew' (emit s (.frame port out)) 1) port
           (fun y => { y with tx := fs, credits := if back then min 16 (y.credits + 1) else y.credits }))
     | [] => .next s)

/-- A prepared Meridian of the slice lies ahead. -/
def meridianAhead (s : State) (n : Nat) : Bool :=
  (eventList s).any (fun e => e.2.slice == n && e.2.state == 1 && e.2.spec.kind == 1 && decide (s.tb.time < e.2.spec.instant))

/-- KL_REKEY: the nonces near their end, so the seal generation is raised (R388). -/
def execKlRekey (port : Nat) (s : State) : Res :=
  known (decide (port < 8))
    (let x := getPort s port
     doIf s (alive s && portOn s port && x.seals.isSome && !x.rekey && decide (2 ^ 28 - 2 ^ 16 ≤ x.nonce) &&
         !meridianAhead s ((portSlice s port).getD 0))
       (raiseGen s port 2 none))

/-- KLn_RXC has not toggled for 1 µs (R383). -/
def execKlRxLinkLoss (port : Nat) (s : State) : Res :=
  known (decide (port < 8)) (doIf s (alive s) (modPort s port (fun x => { x with linkUp := false })))

/-- KLn_RXC toggles (R383). -/
def execKlRxLinkUp (port : Nat) (s : State) : Res :=
  known (decide (port < 8)) (doIf s (alive s) (modPort s port (fun x => { x with linkUp := true })))

/-! ### Group 0x08 (R391, R392) -/

/-- LANE_PAIR: the port drops what it holds, its PHY wakes, and the entry is committed with the next seal generation. -/
def execLanePair (job : Nat) (_ : JobIo) (s : State) : Res :=
  runMgmt s job 0x0800 (fun j =>
    let p := j.desc.pb 40
    let i := hIndex j.desc.keyHandle
    match slotSeed s i with
    | none => corruptJob s j i
    | some _ =>
      let t := modPort (wakeOne false s (152 + p)) p (fun x =>
        { disablePort x with cache := [], nakTimes := [], nakCrc := 0, nakCounter := 0, nakCredit := 0, rekey := true, epochFrame := none })
      stageCommit t j (JobRes.done [] 0)
        [.port p { slot := i, slotGen := hGen j.desc.keyHandle, g := ((portNow s p).g + 1) % 2 ^ 32, paired := true, quarantined := false }])

/-- LANE_UNPAIR. -/
def execLaneUnpair (job : Nat) (_ : JobIo) (s : State) : Res :=
  runMgmt s job 0x0801 (fun j =>
    let p := j.desc.pb 40
    let t := modPort s p (fun x => { disablePort x with cache := [], epochFrame := none })
    stageCommit t j (JobRes.done [] 0) [.port p { PortEnt.none with g := (portNow s p).g }])

/-- LANE_BIND: an entry that another command has filled meanwhile is refused. -/
def execLaneBind (job : Nat) (io : JobIo) (s : State) : Res :=
  runMgmt s job 0x0802 (fun j =>
    let b := j.desc.pb 40
    if bindingOf s j.slice b = 0 then stageCommit s j (JobRes.done [] 0) [.binding j.slice b j.desc.keyHandle] else refuse s j io eParam)

/-- LANE_UNBIND. -/
def execLaneUnbind (job : Nat) (io : JobIo) (s : State) : Res :=
  runMgmt s job 0x0803 (fun j =>
    let b := j.desc.pb 40
    if bindingOf s j.slice b = 0 then refuse s j io eParam else stageCommit s j (JobRes.done [] 0) [.binding j.slice b 0])

/-- LANE_QUERY: the layout of the bound ALGs in its 16 bytes is not given, and they are free. -/
def execLaneQuery (job : Nat) (io : JobIo) (s : State) : Res :=
  runMgmt s job 0x0804 (fun j =>
    let p := j.desc.pb 40
    let n := (portSlice s p).getD 0
    let mask := if (portSlice s p).isSome then maskOf (fun b => bindingOf s n b != 0) 16 else 0
    answer (drew' s 14) j io (JobRes.done (leBytes 4 (regKlStat s p) ++ leBytes 4 (regKlGen s p) ++ leBytes 4 (regKlNonce s p) ++
      leBytes 4 (regKlNak s p) ++ leBytes 8 (regKlTraffic s p) ++ leBytes 8 (regKlEpoch s p) ++ leBytes 2 mask ++ drawBytes s 14 ++
      List.replicate 16 0) 0))

/-- One frame of a prefill: the state, and the frames sealed so far. -/
def prefillOne (n p bind chan : Nat) (b : LaneBase) (op : Nat) (a : State × Nat) : State × Nat :=
  if epochAsked a.1 b op = 0 then a
  else
    let r := sealStore a.1 n p bind chan (epochAsked a.1 b op - 1) (op == 2)
    (r.1, if r.2 then a.2 + 1 else a.2)

/-- LANE_PREFILL: KEY_CUR frames of a range of channels on every paired port of the slice, and KEY_NEXT frames once the next epoch is
prepared. A range that runs past the last channel, or past channel 0 of a direct binding, seals the channels there are (DESIGN CHOICE, log
entry 16). -/
def prefill (s : State) (n bind first count : Nat) : State × Nat :=
  match laneBase s n bind with
  | none => (s, 0)
  | some b =>
    let chans := (List.range count).map (first + ·)
    ((List.range 8).filter (fun p => portSlice s p == some n && portOn s p)).foldl (fun a p =>
      chans.foldl (fun a c =>
        if 2 ^ 28 ≤ c ∨ (b.kind = 2 ∧ c ≠ 0) then a
        else
          let x := prefillOne n p bind c b 1 a
          if b.kind = 0 then prefillOne n p bind c b 2 x else x) a) (s, 0)

/-- LANE_PREFILL. A slot that cannot be read is withdrawn (R325). An empty entry seals no frame: the spec names no status for it (DESIGN
CHOICE, log entry 16). -/
def execLanePrefill (job : Nat) (io : JobIo) (s : State) : Res :=
  runMgmt s job 0x0805 (fun j =>
    let bind := j.desc.pb 40
    match laneBase s j.slice bind with
    | none => answer s j io (JobRes.done [] 0)
    | some b =>
      match slotOf b.src, keyValue s b.src with
      | some i, none => corruptJob s j i
      | _, _ =>
        let r := prefill s j.slice bind (j.desc.pn 44 4) (j.desc.pn 48 4)
        answer r.1 j io (JobRes.done [] r.2))

/-- LANE_LOOPBACK: the frames that failed are reported by the environment. -/
def execLaneLoopback (job : Nat) (io : JobIo) (s : State) : Res :=
  runMgmt s job 0x0806 (fun j =>
    answer s j io (JobRes.done [] (((io.tests.take (j.desc.pn 44 4)).filter (fun b => !b)).length)))

/-- What check 2 looks at in a group 0x08 descriptor (R391): `key` is what KEY_HANDLE names. -/
def laneCmdChecks (s : State) (n : Nat) (d : Desc) (key : Option KeyRef) : Checks :=
  let lc2 := (2, d.lc != 2)
  let noIn := (24, d.inLen != 0)
  let ka := match key with | some k => k.alg | none => 0
  let port := (40, decide (7 < d.pb 40))
  let bind := (40, decide (15 < d.pb 40))
  match d.opcode with
  | 0x0800 => [lc2, (8, key.isSome && ka != 0x0C01), port, noIn] ++ d.rsv 41 64
  | 0x0801 => [lc2, port, noIn] ++ d.rsv 41 64
  | 0x0802 =>
    [lc2, (8, key.isSome && ka != 0x0C01 && ka != 0x0C02), bind, (40, decide (d.pb 40 ≤ 15) && bindingOf s n (d.pb 40) != 0), noIn] ++
      d.rsv 41 64
  | 0x0803 => [lc2, bind, (40, decide (d.pb 40 ≤ 15) && bindingOf s n (d.pb 40) == 0), noIn] ++ d.rsv 41 64
  | 0x0804 => [port, (40, decide (d.pb 40 ≤ 7) && n != 0 && portSlice s (d.pb 40) != some n), noIn] ++ d.rsv 41 64
  | 0x0805 =>
    [lc2, bind, (44, decide (2 ^ 28 ≤ d.pn 44 4)), (48, d.pn 48 4 == 0 || decide (4096 < d.pn 48 4)), noIn] ++ d.rsv 41 44 ++ d.rsv 52 64
  | _ => [lc2, port, (44, d.pn 44 4 == 0 || decide (65536 < d.pn 44 4)), noIn] ++ d.rsv 41 44 ++ d.rsv 48 64

end Sys2Proof.Machine
end

