-- ==== Sys2Proof/Machine/Regs.lean ====
section
/-! DEFINITION. The BAR0 register map (R92 to R94): what every register reads as, the reads and writes of BAR0, and the queue-pair
registers (R123 to R127). -/

namespace Sys2Proof.Machine

/-! ### Registers that no other file gives -/

/-- Numbers below `n` that satisfy `p`, as a 64-bit word of bits `64 w` upwards. -/
def wordOf (p : Nat → Bool) (n w : Nat) : Nat := maskOf (fun k => decide (64 * w + k < n) && p (64 * w + k)) 64

/-- FLT_STAT. -/
def regFltStat (s : State) : Nat :=
  let st := fun k => (getUnit s k).state
  b2n s.flt.fatal * 2 ^ 31 + b2n s.pins.faultN * 2 ^ 30 + b2n s.chip.viral * 2 ^ 29 + b2n (getHandler s 0).first.isSome * 2 ^ 28 +
    countTo 174 (fun k => st k == .fenced || st k == .recovering) * 2 ^ 16 + countTo 174 (fun k => st k == .failed) * 2 ^ 8

/-- FLT_SETTINGS. -/
def regFltSettings (s : State) : Nat := s.flt.recov.quiet * 2 ^ 16 + s.flt.recov.window * 2 ^ 8 + s.flt.recov.limit * 2 ^ 4

/-- Eight bytes of a record; 0 without one. -/
def recWord (r : Option FaultRec) (w : Nat) : Nat := match r with | some x => fieldLe x.bytes (8 * w) 8 | none => 0

/-- EPH_EVENTS. -/
def regEphEvents (s : State) : Nat := ((eventList s).filter (fun e => e.2.isOpen)).length

/-- TMP_STAT. -/
def regTmpStat (s : State) : Nat :=
  b2n (s.root.latch != 0) * 2 ^ 31 + b2n (rootPresent s) * 2 ^ 30 + s.tamper.last * 2 ^ 28 + b2n s.chip.lc.armed * 2 ^ 27 +
    s.tamper.batCopied * 2 ^ 16 + s.tamper.overflowAtStart

/-- TMP_ENROL: the staged survey, else the voted fuse word of a state that has one (R436, R437). -/
def regTmpEnrol (s : State) : Nat :=
  match s.tamper.staged with
  | some w => 2 ^ 35 + w
  | none => if s.chip.lc = .owned ∨ s.chip.lc = .returned then 2 ^ 34 + fuseEnrol s % 2 ^ 34 else 0

/-- TMP_LIVE. -/
def regTmpLive (s : State) : Nat := maskOf (fun k => (mapGet TmpSrc.armed s.tamper.src k).tripped) 18

/-- TMP_LAST. -/
def regTmpLast (s : State) : Nat := s.tamper.lastSource * 2 ^ 24 + s.tamper.lastKind * 2 ^ 16 + s.tamper.lastCell

/-- TMP_COUNT. -/
def regTmpCount (s : State) : Nat := s.tamper.loopCase * 2 ^ 16 + s.tamper.clock

/-- PWR_SUMMARY. -/
def regPwrSummary (s : State) : Nat :=
  let n := fun (p : Dom → Bool) => countTo 160 (fun d => p (getDom s d))
  n (fun d => d.failed) * 2 ^ 32 + n (fun d => d.state == 4) * 2 ^ 24 + n (fun d => d.state == 3) * 2 ^ 16 +
    n (fun d => d.state == 2) * 2 ^ 8 + n (fun d => d.state == 1)

/-- PWR_STATd. -/
def regPwrStat (s : State) (d : Nat) : Nat :=
  let x := getDom s d
  x.state * 2 ^ 29 + x.target * 2 ^ 26 + b2n x.forced * 2 ^ 25 + b2n x.aborted * 2 ^ 24 + b2n x.failed * 2 ^ 23 +
    min 255 x.retLost * 2 ^ 8 + min 255 x.aborts

/-- SL_STATE. -/
def regSlState (s : State) (n : Nat) : Nat :=
  maskOf (fun q => (getQp s n q).enable) 4 * 2 ^ 16 +
    maskOf (fun i => mapGet PasidBind.unbound (getSlice s n).pasids i != .unbound) 8 * 2 ^ 8 + (getSlice s n).state.code

/-- QPq_CFG. -/
def regQpCfg (p : Qp) : Nat := b2n p.coherent * 2 ^ 8 + p.pasidIdx * 2 ^ 5 + p.depth * 2 + b2n p.enable

/-! ### The map -/

/-- A register of a slice window: its width in bits and its value. -/
def readSlice (s : State) (n off : Nat) : Option (Nat × Nat) :=
  let p := getQp s n ((off - 0x1000) / 0x100)
  if off = 0x0000 then some (32, regSlState s n)
  else if off = 0x0004 then some (32, outstanding s n)
  else if off = 0x0008 then some (32, (getSlice s n).notify.toNat)
  else if 0x1000 ≤ off ∧ off < 0x1400 then
    match off % 0x100 with
    | 0x00 => some (64, p.sqBase.toNat)
    | 0x08 => some (64, p.cqBase.toNat)
    | 0x10 => some (32, regQpCfg p)
    | 0x18 => some (32, p.sqTail)
    | 0x1C => some (32, p.sqHead)
    | 0x20 => some (32, p.cqHead)
    | 0x24 => some (32, b2n p.phase * 2 ^ 12 + p.cqTail)
    | 0x28 => some (32, p.cause * 2 ^ 4 + b2n p.stopped)
    | _ => none
  else none

/-- A register of the CHIP region. -/
def readChip (s : State) (off : Nat) : Option (Nat × Nat) :=
  match off with
  | 0x00 => some (32, regChipId s)
  | 0x08 => some (64, fuseSerial s)
  | 0x10 => some (32, regChipMode s)
  | 0x14 => some (32, regChipCond s)
  | 0x18 => some (32, regChipLink s)
  | 0x1C => some (32, s.chip.heartbeat.toNat)
  | 0x20 => some (32, s.chip.hostErr.toNat)
  | _ => none

/-- A register of the FLT region. -/
def readFlt (s : State) (off : Nat) : Option (Nat × Nat) :=
  let h := getHandler s 0
  let st := fun k => (getUnit s k).state
  if off = 0x0000 then some (32, regFltStat s)
  else if off = 0x0004 then some (32, h.count)
  else if off = 0x0008 then some (32, regFltSettings s)
  else if off % 8 ≠ 0 then none
  else if 0x0010 ≤ off ∧ off < 0x0030 then some (64, recWord h.first ((off - 0x10) / 8))
  else if 0x0030 ≤ off ∧ off < 0x0048 then some (64, wordOf (fun k => st k == .fenced || st k == .recovering) 174 ((off - 0x30) / 8))
  else if 0x0048 ≤ off ∧ off < 0x0060 then some (64, wordOf (fun k => st k == .failed) 174 ((off - 0x48) / 8))
  else if 0x0100 ≤ off ∧ off < 0x0300 then some (64, recWord (h.hist[(off - 0x100) / 0x20]?) (off % 0x20 / 8))
  else none

/-- A register of the EPH region. -/
def readEph (s : State) (off : Nat) : Option (Nat × Nat) :=
  match off with
  | 0x00 => some (64, regEphTime s)
  | 0x08 => some (32, regEphStat s)
  | 0x0C => some (32, regEphHold s)
  | 0x10 => some (32, regEphOffset s)
  | 0x14 => some (32, regEphEdges s)
  | 0x18 => some (32, regEphEvents s)
  | 0x1C => some (32, s.eph.late.toNat)
  | _ => none

/-- A register of the KL region. -/
def readKl (s : State) (off : Nat) : Option (Nat × Nat) :=
  let p := (off - 0x100) / 0x40
  if off = 0x0000 then some (32, regKlSummary s)
  else if off = 0x0008 then some (32, 0x0C)
  else if 0x0100 ≤ off ∧ off < 0x0300 then
    match off % 0x40 with
    | 0x00 => some (32, regKlStat s p)
    | 0x04 => some (32, regKlGen s p)
    | 0x08 => some (32, regKlNonce s p)
    | 0x0C => some (32, regKlNak s p)
    | 0x10 => some (64, regKlTraffic s p)
    | 0x18 => some (64, regKlEpoch s p)
    | _ => none
  else none

/-- A register of the CARD region. -/
def readCardReg (s : State) (off : Nat) : Option (Nat × Nat) :=
  let n := (off - 0x100) / 0x40
  if off = 0x0010 then some (32, regCardCeremony s)
  else if 0x0100 ≤ off ∧ off < 0x0200 then
    match off % 0x40 with
    | 0x00 => some (32, regCardSlot s n)
    | 0x04 => some (32, regCardLife s n)
    | 0x08 => some (64, regCardId s n)
    | 0x10 => some (64, regCardIdh s n)
    | _ => none
  else none

/-- A register of the TMP region. -/
def readTmp (s : State) (off : Nat) : Option (Nat × Nat) :=
  match off with
  | 0x00 => some (32, regTmpStat s)
  | 0x08 => some (64, regTmpEnrol s)
  | 0x10 => some (32, regTmpLive s)
  | 0x18 => some (32, regTmpLast s)
  | 0x1C => some (32, regTmpCount s)
  | _ => none

/-- A register of the PWR region. -/
def readPwr (s : State) (off : Nat) : Option (Nat × Nat) :=
  if off = 0 then some (64, regPwrSummary s)
  else if 0x100 ≤ off ∧ off < 0x100 + 160 * 4 ∧ off % 4 = 0 then some (32, regPwrStat s ((off - 0x100) / 4))
  else none

/-- A register of the RNG region. -/
def readRng (s : State) (off : Nat) : Option (Nat × Nat) :=
  let r := (off - 0x100) / 0x40
  if off = 0 then some (32, regRngSummary s)
  else if 0x100 ≤ off ∧ off < 0x200 then
    match off % 0x40 with
    | 0x00 => some (32, regRngSrc s r)
    | 0x04 => some (32, regRngAlarms s r)
    | 0x08 => some (32, regRngDrbg s r)
    | _ => none
  else none

/-- MSI-X table word `i` (R85): a vector starts masked. -/
def msixWord (s : State) (i : Nat) : Nat := if i % 4 = 3 then (mapGet 1 s.link.msix i).toNat else (mapGet 0 s.link.msix i).toNat

/-- The register that begins at a BAR0 offset: its width and value. Unassigned offsets have none and read as 0; in SCRAPPED only
CHIP_ID and CHIP_SERIAL answer (R93, R94). -/
def readReg (s : State) (a : Nat) : Option (Nat × Nat) :=
  let off := a % 0x10000
  if s.chip.lc = .scrapped ∧ a ≠ 0x00 ∧ a ≠ 0x08 then none
  else if 0x100000 ≤ a ∧ a < 0x500000 then readSlice s ((a - 0x100000) / 0x10000) off
  else if 0xF00000 ≤ a ∧ a < 0xF08000 ∧ a % 4 = 0 then some (32, msixWord s ((a - 0xF00000) / 4))
  else if 0xF08000 ≤ a ∧ a < 0xF08100 ∧ a % 8 = 0 then
    some (64, maskOf (fun k => s.link.msixPend.contains ((a - 0xF08000) * 8 + k)) 64)
  else
    match a / 0x10000 with
    | 0 => readChip s off
    | 1 => readFlt s off
    | 2 => readEph s off
    | 3 => readKl s off
    | 4 => readCardReg s off
    | 5 => readTmp s off
    | 6 => readPwr s off
    | 7 => readRng s off
    | _ => none

/-! ### Accesses (R93) -/

/-- BAR0 can be reached. -/
def bar0Up (s : State) : Bool := alive s && s.link.up && !s.chip.d3hot

/-- An access of the wrong size or alignment reads 0 or is ignored, and CHIP_HOSTERR increments. -/
def execBar0BadAccess (wr : Bool) (addr size : Nat) (s : State) : Res :=
  let t := { s with chip := { s.chip with hostErr := BitVec.ofNat 16 (satInc 0xFFFF s.chip.hostErr.toNat) } }
  doIf s (bar0Up s && (!(size == 4 || size == 8) || addr % size != 0))
    (if wr then t else emit t (.readData (List.replicate size 0)))

/-- What a 4-byte read returns: a 32-bit register, the low half of a 64-bit one, or its high half as the low read latched it; an
unassigned offset reads 0. -/
def read4 (s : State) (a : Nat) : Nat :=
  match readReg s a with
  | some (_, v) => v % 2 ^ 32
  | none =>
    (match readReg s (a - 4), mapGet none s.chip.lowLatch (a - 4) with
     | some (64, _), some h => h.toNat
     | some (64, v), none => v / 2 ^ 32
     | _, _ => 0)

/-- The high halves latched after a 4-byte read at `a`: a read of a low half latches its own, the next read of the high half takes it. -/
def latchAfter (s : State) (a : Nat) : FMap (Option W32) :=
  match readReg s a with
  | some (64, v) => mapSet none s.chip.lowLatch a (some (BitVec.ofNat 32 (v / 2 ^ 32)))
  | _ => if 4 ≤ a then mapErase s.chip.lowLatch (a - 4) else s.chip.lowLatch

/-- What an 8-byte read returns: a 64-bit register, or two 32-bit ones. -/
def read8 (s : State) (a : Nat) : Nat :=
  match readReg s a with
  | some (64, v) => v
  | r => (match r with | some (_, v) => v % 2 ^ 32 | none => 0) + (match readReg s (a + 4) with | some (_, v) => v % 2 ^ 32 | none => 0) * 2 ^ 32

/-- A host read of 4 or 8 bytes. The table has one row for it: the read of the low half of a 64-bit register, which latches its high half; the
same command reads a whole 64-bit register, any other register, and with `cfg` a word of configuration space (R85, R93). -/
def execBar0LowHalfRead (r : HostRead) (s : State) : Res :=
  let off := r.addr.off
  if r.addr.cfg then doIf s (cfgUp s && off % 4 == 0 && r.size == 4) (emit s (.readData (leBytes 4 (cfgWord s off))))
  else
    doIf s (bar0Up s && (r.size == 4 || r.size == 8) && off % r.size == 0)
      (if r.size = 8 then emit s (.readData (leBytes 8 (read8 s off)))
       else emit { s with chip := { s.chip with lowLatch := latchAfter s off } } (.readData (leBytes 4 (read4 s off))))

/-! ### Queue pairs (R124 to R127) -/

/-- The device serves the slice's rings: doorbells are accepted and descriptors fetched (R39, R69). -/
def slServes (s : State) (n : Nat) : Bool :=
  s.chip.mode != .boot && s.chip.mode != .halt && ((getSlice s n).state == .active || (getSlice s n).state == .quiescing)

/-- A job of a queue pair is admitted and not completed. -/
def qpBusy (s : State) (n q : Nat) : Bool := s.jobs.any (fun j => j.slice == n && j.qp == q)

/-- The first `n` entries of the doorbells' record. -/
def takeBells : Nat → List (Nat × Nat) → List (Nat × Nat)
  | _, [] => []
  | n, (k, t) :: l => if n = 0 then [] else (min k n, t) :: takeBells (n - k) l

/-- The doorbells' record after a write at `now` that leaves `n` entries available (R32, R125): the entries that were available keep their
arrival, the new ones arrive now. -/
def bellsAfter (l : List (Nat × Nat)) (n now : Nat) : List (Nat × Nat) :=
  let old := (l.map (fun e => e.1)).sum
  if old < n then l ++ [(n - old, now)] else takeBells n l

/-- A write of QPq_SQ_TAIL. -/
def doorbell (s : State) (n q tail : Nat) : State :=
  let p := getQp s n q
  if !slServes s n then s
  else if p.enable ∧ p.entries ≤ tail then (if p.stopped then s else stopQp s n q 1)
  else modQp s n q (fun x => { x with sqTail := tail,
                                      bells := bellsAfter x.bells ((tail + x.entries - x.sqHead) % x.entries) s.uptime })

/-- SQ_DOORBELL. -/
def execSqDoorbell (sl qp tail : Nat) (s : State) : Res :=
  known (decide (sl < 64) && decide (qp < 4)) (doIf s (bar0Up s) (doorbell s sl qp (tail % 2 ^ 12)))

/-- A write of QPq_CQ_HEAD: inside the span from the present CQ HEAD to CQ_TAIL it consumes completions. -/
def cqHead (s : State) (n q head : Nat) : State :=
  let p := getQp s n q
  if !p.enable then modQp s n q (fun x => { x with cqHead := head })
  else if p.entries ≤ head ∨ (p.cqTail + p.entries - p.cqHead) % p.entries < (head + p.entries - p.cqHead) % p.entries then
    (if p.stopped then s else stopQp s n q 2)
  else modQp s n q (fun x => { x with cqHead := head })

/-- CQ_HEAD_WRITE. -/
def execCqHeadWrite (sl qp head : Nat) (s : State) : Res :=
  known (decide (sl < 64) && decide (qp < 4)) (doIf s (bar0Up s) (cqHead s sl qp (head % 2 ^ 12)))

/-- The fields of a QPq_CFG value. -/
def cfgFields (p : Qp) (cfg : Nat) : Qp := { p with coherent := cfg.testBit 8, pasidIdx := bits cfg 7 5, depth := bits cfg 4 1 }

/-- A write of QPq_CFG (R124): while ENABLE reads 1 it may only clear it. DESIGN CHOICE (log entry 47): a successful enable clears STOPPED
and leaves CAUSE as it was; the spec says nothing of CAUSE there. -/
def writeCfg (s : State) (n q cfg : Nat) : State :=
  let p := getQp s n q
  let x := getSlice s n
  if p.enable then
    (if cfg.testBit 0 then s
     else modQp s n q (fun y => if qpBusy s n q then { y with draining := true } else { y with enable := false, draining := false }))
  else if cfg.testBit 0 then
    (if (x.state = .configured ∨ x.state = .active) ∧ 6 ≤ bits cfg 4 1 ∧ bits cfg 4 1 ≤ 12 ∧
        mapGet PasidBind.unbound x.pasids (bits cfg 7 5) ≠ .unbound then
       modQp s n q (fun y => { cfgFields y cfg with
         enable := true, draining := false, sqTail := 0, sqHead := 0, cqHead := 0, cqTail := 0, phase := true, stopped := false,
         bells := [] })
     else modQp s n q (fun y => { cfgFields y cfg with cause := 4, stopped := true }))
  else modQp s n q (fun y => cfgFields y cfg)

/-- QP_ENABLE: a write of QPq_CFG that sets ENABLE from 0 to 1. -/
def execQpEnable (sl qp cfg : Nat) (s : State) : Res :=
  known (decide (sl < 64) && decide (qp < 4)) (doIf s (bar0Up s && cfg.testBit 0 && !(getQp s sl qp).enable) (writeCfg s sl qp cfg))

/-- QP_DISABLE: a write that clears ENABLE. -/
def execQpDisable (sl qp : Nat) (s : State) : Res :=
  known (decide (sl < 64) && decide (qp < 4)) (doIf s (bar0Up s && (getQp s sl qp).enable) (writeCfg s sl qp 0))

/-- The last admitted job of a queue pair whose ENABLE was cleared has completed. -/
def execQpDisableDone (sl qp : Nat) (s : State) : Res :=
  known (decide (sl < 64) && decide (qp < 4))
    (doIf s ((getQp s sl qp).draining && !qpBusy s sl qp) (modQp s sl qp (fun y => { y with enable := false, draining := false })))

/-- A W1C write of SL_NOTIFY. -/
def execSlNotifyClear (sl : Nat) (mask : Byte) (s : State) : Res :=
  known (decide (sl < 64)) (doIf s (bar0Up s) (modSlice s sl (fun x => { x with notify := x.notify &&& ~~~mask })))

/-! ### Register writes (R7, R8) -/

/-- A write of an MSI-X table word: a vector that is unmasked while it is pending is signalled (R85). -/
def writeMsix (s : State) (i v : Nat) : State :=
  let w := BitVec.ofNat 32 v
  let t := { s with link := { s.link with
    msix := if i % 4 = 3 then mapSet 1 s.link.msix i (w &&& 1) else mapSet 0 s.link.msix i w } }
  if i % 4 = 3 ∧ w.getLsbD 0 = false ∧ t.link.msixPend.contains (i / 4) then
    emit { t with link := { t.link with msixPend := t.link.msixPend.erase (i / 4) } } (.msix (i / 4))
  else t

/-- A ring base, which takes no write while ENABLE reads 1; bits 11:0 are reserved. -/
def ringBase (p : Qp) (old : W64) (v : Nat) : W64 := if p.enable then old else BitVec.ofNat 64 (v / 2 ^ 12 * 2 ^ 12)

/-- Write the 32 bits at a BAR0 offset: a read-only field ignores it. -/
def writeReg (s : State) (a v : Nat) : State :=
  let n := (a - 0x100000) / 0x10000
  let off := a % 0x10000
  let q := (off - 0x1000) / 0x100
  let lo := fun (w : W64) => w.toNat / 2 ^ 32 * 2 ^ 32 + v
  let hi := fun (w : W64) => v * 2 ^ 32 + w.toNat % 2 ^ 32
  if s.chip.lc = .scrapped then s
  else if 0xF00000 ≤ a ∧ a < 0xF08000 then writeMsix s ((a - 0xF00000) / 4) v
  else if 0x100000 ≤ a ∧ a < 0x500000 then
    (if off = 0x0008 then modSlice s n (fun x => { x with notify := x.notify &&& ~~~(BitVec.ofNat 8 v) })
     else if 0x1000 ≤ off ∧ off < 0x1400 then
       match off % 0x100 with
       | 0x00 => modQp s n q (fun p => { p with sqBase := ringBase p p.sqBase (lo p.sqBase) })
       | 0x04 => modQp s n q (fun p => { p with sqBase := ringBase p p.sqBase (hi p.sqBase) })
       | 0x08 => modQp s n q (fun p => { p with cqBase := ringBase p p.cqBase (lo p.cqBase) })
       | 0x0C => modQp s n q (fun p => { p with cqBase := ringBase p p.cqBase (hi p.cqBase) })
       | 0x10 => writeCfg s n q v
       | 0x18 => doorbell s n q (v % 2 ^ 12)
       | 0x20 => cqHead s n q (v % 2 ^ 12)
       | _ => s
     else s)
  else s

/-- REGISTER_WRITE: 4 or 8 bytes, naturally aligned; 8 bytes over two 32-bit registers write both. With `cfg` it writes a word of
configuration space (R85). -/
def execRegisterWrite (addr : HostAddr) (size val : Nat) (s : State) : Res :=
  if addr.cfg then doIf s (cfgUp s && addr.off % 4 == 0 && size == 4) (writeCfgWord s addr.off (val % 2 ^ 32))
  else
    doIf s (bar0Up s && (size == 4 || size == 8) && addr.off % size == 0)
      (let t := writeReg s addr.off (val % 2 ^ 32)
       if size = 8 then writeReg t (addr.off + 4) (val / 2 ^ 32 % 2 ^ 32) else t)

end Sys2Proof.Machine
end

