-- ==== Sys2Proof/Machine/Ceremony.lean ====
section
/-! DEFINITION. Ceremonies (R417 to R426): share records, the card steps, removal, commits and final actions, and the commands of
group 0x09. -/

namespace Sys2Proof.Machine

/-! ### Small parts -/

/-- Change the ceremony in progress. -/
def modCer (s : State) (f : Ceremony → Ceremony) : State := { s with cer := s.cer.map f }

/-- Change its card step. -/
def modStep (s : State) (f : CardStep → CardStep) : State := modCer s (fun c => { c with step := c.step.map f })

/-- An old write is taken back: the requests of a job leave the write of a record, begun or not (R79, R421). -/
def retractWrite (s : State) (k job : Nat) : State :=
  let w := mapGet WriteQ.none s.alm.writes k
  let keep := fun (r : AlmReq) => r.job != some job
  let w' := { w with reqs := w.reqs.filter keep, follow := w.follow.filter keep }
  let t := { s with alm := { s.alm with writes := mapSet WriteQ.none s.alm.writes k w' } }
  if w'.reqs = [] ∧ w.reqs ≠ [] then endWrite t k else t

/-- The device enters ASSAY (R46): every slice takes the state its record holds, and every random bit chain starts again. A
sensor still in alarm responds again (R439). -/
def enterAssay (s : State) (trig op : Nat) : State :=
  let t := startSlices (setMode (forJobs (fun _ => true) (fun x j => failJob x j eAborted 0 false) s) .assay trig op 0)
  { (List.range 4).foldl (fun x r => modRng x r (fun g =>
      { g with src := 1, drbg := 0, blocks := [], cond := 0, startFails := 0, seedSrc := r })) t with
    tamper := { t.tamper with src := [] } }

/-! ### Share records (R417, R418) -/

/-- A bank whose MAGIC, VERSION and SEQ are good; its block CRC was good when it was read. -/
def shareOk (b : List Byte) : Bool :=
  sub b 0 4 == [0x46, 0x59, 0x53, 0x48] && byteAt b 4 == 1 && fieldLe b 8 8 != 0

/-- SEQ of a bank as read, 0 when it is not valid. -/
def shareSeq (b : Option (List Byte)) : Nat := match b with | some x => if shareOk x then fieldLe x 8 8 else 0 | none => 0

/-- A bank is protected: valid, and of the recorded SERIAL, ROOT_ID and SHARE_EPOCH. -/
def shareProtected (s : State) (b : Option (List Byte)) : Bool :=
  match b, custOf s with
  | some x, some c =>
    shareOk x && fieldLe x 16 8 == fuseSerial s && sub x 24 4 == padTo 4 c.rootId && fieldLe x 28 4 == c.epoch
  | _, _ => false

/-- The bank a READ step uses: the protected one, of two the one with the higher SEQ. -/
def readBank (s : State) (p : CardStep) : Option Bool :=
  match shareProtected s p.bankA, shareProtected s p.bankB with
  | false, false => none
  | true, false => some false
  | false, true => some true
  | true, true => some (decide (shareSeq p.bankA < shareSeq p.bankB))

/-- The order in which unprotected banks are written: blank, invalid, then by SEQ. -/
def bankRank (b : Option (List Byte)) : Nat :=
  match b with
  | some x => if x.all (· == 0) then 0 else if shareOk x then 2 + fieldLe x 8 8 else 1
  | none => 1

/-- The bank a write step writes. -/
def writeBankOf (s : State) (p : CardStep) : Option Bool :=
  match shareProtected s p.bankA, shareProtected s p.bankB with
  | true, true => none
  | true, false => some true
  | false, true => some false
  | false, false => some (decide (bankRank p.bankB < bankRank p.bankA))

/-- Bytes 0 to 39 of a record. -/
def shareHeader (s : State) (epoch m x seq : Nat) : List Byte :=
  [0x46, 0x59, 0x53, 0x48, 1, 1] ++ leBytes 1 m ++ leBytes 1 x ++ leBytes 8 seq ++ leBytes 8 (fuseSerial s) ++
    padTo 4 (rootIdOf (rootSecret s)) ++ leBytes 4 epoch ++ leBytes 8 (now s)

/-- What SE_SEAL is sent: header, ct and the share under K (R419). -/
def sealInput (s : State) (c : Ceremony) (p : CardStep) (card : CardSlot) : List Byte :=
  let e := encaps 0x0102 (sub card.cert 1344 1184) p.rnd
  let k := kmac256 e.2 (e.1 ++ padTo 16 card.cardId) 32 (ascii "FY4128-CDK")
  p.header ++ e.1 ++ gcmSeal k p.header (rootShare s c.newEpoch c.newM p.x)

/-- What SE_UNSEAL is sent: bank, encapsulation key, challenge (R420). -/
def unsealInput (p : CardStep) : List Byte :=
  padTo 512 ((if p.useB then p.bankB else p.bankA).getD []) ++ publicOf 0x0102 0 0 (sub p.rnd 0 64) ++ sub p.rnd 64 32

/-- The share of a READ step's result; none when its signature, decapsulation or decryption fails (R420). -/
def openShare (p : CardStep) (cert : List Byte) : Option (List Byte) :=
  let ct := sub p.result 0 1088
  let g := sub p.result 1088 48
  let ch := sub p.rnd 64 32
  if verdict 0x0701 0 0 0 (sub cert 32 1312) (ascii "FY4128-CSHR") (ct ++ g ++ ch ++ p.header) (sub p.result 1136 2420) = (stOk, 0) then
    gcmOpen (kmac256 (decaps 0x0102 (sub p.rnd 0 64) ct) (ct ++ ch) 32 (ascii "FY4128-CRK")) (p.header ++ ch) g
  else none

/-! ### The custodian list -/

/-- The bank of the custodian list and the root its tag was made under (R318, R319). -/
def custRoot (s : State) : List Byte :=
  let p := pairOf s 1
  match p.a, p.b with
  | .written q _ r, .written q' _ r' => if q' < q then r else r'
  | .written _ _ r, _ => r
  | _, .written _ _ r => r
  | _, _ => []

/-- The lowest x-coordinate never given in this epoch (R317). -/
def freeX (c : CustList) : Option Nat := firstFrom (fun x => (mapGet none c.cards x).isNone) 1 9

/-- x-coordinates never given. -/
def freeXs (c : CustList) : Nat := countTo 9 (fun x => (mapGet none c.cards (x + 1)).isNone)

/-- Cards enrolled. -/
def enrolledCards (c : CustList) : Nat := countTo 9 (fun x => (mapGet none c.cards (x + 1)).any (fun k => k.enrolled))

/-- The card is enrolled at x. -/
def enrolledAt (c : CustList) (x : Nat) (card : List Byte) : Bool :=
  (mapGet none c.cards x).any (fun k => k.enrolled && k.cardId == card)

/-- The x-coordinate a card is enrolled at; 0 for none. -/
def enrolledX (c : CustList) (card : List Byte) : Nat :=
  match firstFrom (fun x => enrolledAt c x card) 1 9 with | some x => x | none => 0

/-- The cards a ceremony wrote, as a list starts with them. -/
def writtenCards (l : List (Nat × List Byte)) : FMap (Option Custodian) :=
  l.foldl (fun m e => mapSet none m e.1 (some { cardId := e.2, enrolled := true })) []

/-- The list the ceremony commits (R424). -/
def newList (s : State) (c : Ceremony) : CustList :=
  let old : CustList := (custOf s).getD { epoch := 0, m := 0, rootCheck := [], rootId := [], created := 0, cards := [] }
  match c.kind with
  | 1 => { epoch := 1, m := c.newM, rootCheck := rootCheckOf (rootSecret s), rootId := rootIdOf (rootSecret s),
           created := fieldLe s.root.record 56 8, cards := writtenCards c.written }
  | 2 => { old with cards := (c.written.getLast?).elim old.cards (fun e =>
             mapSet none old.cards e.1 (some { cardId := e.2, enrolled := true })) }
  | 3 => { old with cards := mapSet none old.cards c.x ((mapGet none old.cards c.x).map (fun k => { k with enrolled := false })) }
  | 4 => { old with epoch := old.epoch + 1, m := c.newM, cards := writtenCards c.written }
  | _ => old

/-! ### How a ceremony and its steps end -/

/-- The mode an abort leads to (R47). -/
def abortMode (c : Ceremony) : Mode :=
  match c.kind with | 5 => .umbra | 6 => .drain | 7 => c.fromMode | _ => .service

/-- The ceremony ends as an abort (R50, R425). -/
def abortCeremony (s : State) (op : Nat) : State :=
  match s.cer with
  | none => s
  | some c => dropCeremony (setMode (logAbort s) (abortMode c) 8 op 0)

/-- The running step's command completes; its card, if still in its slot, waits for a command. -/
def endStep (s : State) (r : JobRes) : State :=
  match s.cer with
  | none => s
  | some c =>
    let t := { idleCards s with cer := some { c with stepJob := none, step := none } }
    match c.stepJob with
    | none => t
    | some k => (match getJob t k with | some j => settle t j JobIo.quiet r | none => t)

/-- The step is refused for its card: it waits for a card again. -/
def refuseStep (s : State) (status detail : Nat) : State := endStep s (JobRes.status0 status detail)

/-- The step has succeeded: it counts, and the time-out restarts (R79). -/
def countStep (s : State) : State :=
  modCer s (fun c => { c with stepsDone := c.stepsDone + 1, waitFrom := s.uptime, stepJob := none, step := none })

/-- No step is left. -/
def lastDone (s : State) : Bool := s.cer.any (fun c => decide (c.stepsTotal ≤ c.stepsDone))

/-- The step's command completes OK. -/
def passStep (s : State) : State := countStep (endStep s (JobRes.done [] 0))

/-- Commit a record as the step's commit: the job completes when it is committed. -/
def commitStep (s : State) (c : Ceremony) (ops : List AlmOp) : State :=
  match c.stepJob.bind (getJob s) with
  | none => s
  | some j =>
    let t := stageCommit (modStep (idleCards s) (fun p => { p with pos := 30 })) { j with parked := false } (JobRes.done [] 0) ops
    -- TAKE_OWNERSHIP commits the custodian list, the record of S00 (R116, R533) and then the intent, which is the release point
    -- (R452).
    if c.kind = 1 then modJob t j.id (fun x => { x with writes := 3 }) else t

/-- The final action of the last step, or the step's own commit (R424). -/
def concludeStep (s : State) (c : Ceremony) (write : Bool) (card : List Byte) (x : Nat) : State :=
  let final := decide (c.stepsTotal ≤ c.stepsDone + 1)
  let t := if write && c.kind == 2 then s else logCer s 0 card x
  let u := modCer t (fun y => if write then { y with written := y.written ++ [(x, card)] } else y)
  let c' := u.cer.getD c
  match c.kind with
  | 2 => if write then commitStep u c' [.custodian (newList u c')] else passStep u
  | 5 => if final then enterAssay { passStep (clearLatch u) with cer := none } 8 0x0902 else passStep u
  | 6 => if final then commitStep u c' [.intent (newIntent u 4 [] 0)] else passStep u
  | 7 => if final then commitStep u c' [.intent (newIntent u 5 [] 0)] else passStep u
  | _ => if final then commitStep u c' [.custodian (newList u c')] else passStep u

/-- A share was read: at M shares the root is reassembled or confirmed, and the shares are zeroed (R319, R420). -/
def takeShare (s : State) (c : Ceremony) (card : List Byte) (x : Nat) (y : List Byte) : State :=
  let l := c.shares ++ [(x, y)]
  if l.length < c.m then concludeStep (modCer s (fun d => { d with shares := l })) { c with shares := l } false card x
  else
    let r := combineShares l
    match custOf s with
    | some k =>
      if rootCheckOf r = k.rootCheck ∧ custRoot s = r then
        let t := modCer (if rootPresent s then s else installRoot s r k.created) (fun d => { d with shares := [] })
        concludeStep t { c with shares := [] } false card x
      else abortCeremony (endStep s (JobRes.status0 eQuorum 0)) 0x0902
    | none => abortCeremony (endStep s (JobRes.status0 eQuorum 0)) 0x0902

/-- The seven result blocks of a READ step are in (R420 steps 6 to 8). -/
def finishRead (s : State) (c : Ceremony) (p : CardStep) : State :=
  let card := getCard s p.cs
  match openShare p card.cert with
  | none => refuseStep s eCardRefused 7
  | some y =>
    let x := byteAt p.header 7
    if !(custOf s).any (fun k => enrolledAt k x card.cardId) then refuseStep s eCardRefused 5
    else if c.shares.any (fun e => e.1 == x) then refuseStep s eCardRefused 6
    else takeShare s c card.cardId x y

/-! ### The course of a card step (R419, R420) -/

/-- The block number of the bank in use. -/
def bankBlock (p : CardStep) : Nat := if p.useB then 17 else 16

/-- Send the next command of a step. -/
def sendStep (s : State) (p : CardStep) (pos op arg : Nat) : State :=
  sendCard (modCard (modStep s (fun q => { q with pos })) p.cs (fun c => { c with state := 5, retries := 0, crcFails := 0, busy := false }))
    p.cs op arg

/-- Both banks are read: choose one, then open a session. -/
def chooseBank (s : State) (c : Ceremony) (p : CardStep) : State :=
  let go := fun (q : CardStep) => sendStep (modStep s (fun _ => q)) q 2 0x20 0
  if p.write then
    match writeBankOf s p with
    | none => refuseStep s eCardRefused ((Config.freeWord 7 3).toNat % 2 ^ 16)
    | some b => go { p with useB := b, header := shareHeader s c.newEpoch c.newM p.x (max (shareSeq p.bankA) (shareSeq p.bankB) + 1) }
  else
    match readBank s p with
    | none => refuseStep s eCardRefused 5
    | some b => go { p with useB := b, header := sub ((if b then p.bankB else p.bankA).getD []) 0 40 }

/-- Begin a position of a step. -/
def enterPos (s : State) (pos : Nat) : State :=
  match s.cer with
  | none => s
  | some c =>
    match c.step with
    | none => s
    | some p =>
      match pos with
      | 0 => sendStep s p 0 0x10 16
      | 1 => sendStep s p 1 0x10 17
      | 2 => chooseBank s c p
      | 3 => if p.write then sendStep s p 3 0x21 3 else sendStep s p 3 0x22 4
      | 20 => if (getCard s p.cs).wp then refuseStep s eCardWp 0 else sendStep s p 20 0x11 (bankBlock p)
      | 22 => sendStep s p 22 0x10 (bankBlock p)
      | k => sendStep s p k 0x23 (k - 5)

/-- Start a TUNE sweep on a card. -/
def startTune (s : State) (cs : Nat) : State :=
  sendCard (modCard s cs (fun c => { c with tuning := some [], crcFails := 0, state := if c.state = 5 then 5 else 3 })) cs 0x04 0

/-- The tries of a command are spent: a bank whose block cannot be read is invalid, anything else ends the step (R411). Three CRC
failures at 100 MHz bring a new TUNE (R413). -/
def spentStep (s : State) (p : CardStep) (bankData : Bool) : State :=
  let card := getCard s p.cs
  let tune := decide (3 ≤ card.crcFails) && card.rate == 2
  if bankData && decide (p.pos ≤ 1) then
    let t := modStep s (fun q => { q with pos := p.pos + 1 })
    if tune then startTune t p.cs else enterPos t (p.pos + 1)
  else
    let t := refuseStep s eCardIo 0
    if tune then startTune t p.cs else t

/-- A command failed: it is sent again, up to two more times. -/
def retryStep (s : State) (p : CardStep) (crc bankData : Bool) : State :=
  let t := modCard s p.cs (fun c => { c with crcFails := if crc then c.crcFails + 1 else c.crcFails })
  let card := getCard t p.cs
  match card.cmd with
  | some (op, arg) =>
    if card.retries < 2 then sendCard (cardError (modCard t p.cs (fun c => { c with retries := c.retries + 1 })) p.cs) p.cs op arg
    else spentStep t p bankData
  | none => t

/-- The bank write failed: the block is written again, up to two more times (R411). -/
def rewriteStep (s : State) (p : CardStep) : State :=
  if p.rewrites < 2 then enterPos (cardError (modStep s (fun q => { q with rewrites := q.rewrites + 1 })) p.cs) 20
  else refuseStep s eCardIo 0

/-- The card begins to work on the data it was sent. -/
def sendData (s : State) (p : CardStep) (pos : Nat) (blocks : List (List Byte)) : State :=
  modCard (blocks.foldl (fun t b => sendBlock t p.cs b) (modStep s (fun q => { q with pos }))) p.cs (fun c =>
    { c with busy := true, since := s.uptime })

/-- Cut a byte string into `n` blocks of 512. -/
def blocks512 : Nat → List Byte → List (List Byte)
  | 0, _ => []
  | n + 1, bs => padTo 512 bs :: blocks512 n (bs.drop 512)

/-- A command of the step has its good answer, with the block it carries. -/
def goodStep (s : State) (c : Ceremony) (p : CardStep) (data : List Byte) : State :=
  match p.pos with
  | 0 => enterPos (modStep s (fun q => { q with bankA := some data })) 1
  | 1 => enterPos (modStep s (fun q => { q with bankB := some data })) 2
  | 2 => enterPos s 3
  | 3 =>
    if p.write then sendData s p 4 (blocks512 3 (sealInput s c p (getCard s p.cs)))
    else sendData s p 4 (blocks512 4 (unsealInput p))
  | 20 => sendData s p 21 [p.block]
  | 22 =>
    if data = padTo 512 p.block then concludeStep s c true (getCard s p.cs).cardId p.x else rewriteStep s p
  | k =>
    if p.write then
      (if sub data 0 40 = p.header then enterPos (modStep s (fun q => { q with block := data })) 20 else refuseStep s eCardRefused 7)
    else
      let q := { p with result := p.result ++ data }
      let t := modStep s (fun _ => q)
      if k < 11 then enterPos t (k + 1) else finishRead t c q

/-- What a response STATUS other than accepted means for the step (R410). -/
def badStatus (s : State) (p : CardStep) (st : Nat) : State :=
  match st with
  | 1 => retryStep s p true false
  | 6 => refuseStep s eCardRefused 4
  | 8 => refuseStep s eCardRefused 7
  | _ => refuseStep s eCardIo 0

/-- An answer of the card to the step's command: a frame, a frame with its block, or the block alone. -/
def answerStep (s : State) (c : Ceremony) (p : CardStep) (bs : List Byte) : State :=
  let card := getCard s p.cs
  let n := match card.cmd with | some (op, _) => cardDataLen op | none => 0
  if card.data then (if blockOk n bs then goodStep s c p (bs.take n) else retryStep s p true true)
  else if !frameOk bs then retryStep s p true false
  else if frameStatus bs ≠ 0 then badStatus s p (frameStatus bs)
  else if n = 0 then goodStep s c p []
  else if bs.length = 8 then modCard s p.cs (fun x => { x with data := true })
  else if blockOk n (bs.drop 8) then goodStep s c p ((bs.drop 8).take n)
  else retryStep s p true true

/-- After a sweep the step goes on, or the card is ready. -/
def afterTune (s : State) (cs : Nat) : State :=
  let t := modCard s cs (fun c => { c with tuning := none, cmd := none, crcFails := 0 })
  if (getCard t cs).state = 5 then
    match t.cer.bind (fun c => c.step) with
    | some p => enterPos t p.pos
    | none => readyCard cs t
  else readyCard cs t

/-- One answer of a sweep (R413): after 32 taps the tap is set, or the bus falls back. -/
def tuneStep (s : State) (cs : Nat) (l : List Bool) (pass : Bool) : State :=
  if 32 ≤ l.length then afterTune (modCard (setBus cs 1 1 s) cs (fun c => { c with tap := 0 })) cs
  else
    let l' := l ++ [pass]
    let t := modCard s cs (fun c => { c with tuning := some l' })
    if l'.length < 32 then sendCard t cs 0x04 0
    else match tapOf l' with
      | some tap => afterTune (modCard t cs (fun c => { c with tap })) cs
      | none => sendCard t cs 0x03 5

/-- The step that runs on card slot `cs`, while its command is unfinished. -/
def stepOn (s : State) (cs : Nat) : Option (Ceremony × CardStep) :=
  match s.cer with
  | none => none
  | some c =>
    match c.step with
    | none => none
    | some p => if p.cs = cs ∧ c.stepJob.any (fun k => (getJob s k).isSome) then some (c, p) else none

/-- An answer arrives, or none does. -/
def cardAnswer (s : State) (cs : Nat) (bs : Option (List Byte)) : State :=
  match (getCard s cs).tuning with
  | some l => tuneStep s cs l (bs.any tunePass)
  | none =>
    match stepOn s cs with
    | some (c, p) => (match bs with | some b => answerStep s c p b | none => retryStep s p false false)
    | none => idleCards s

/-- A response of the card arrives (R406); `wp` is the level of CSn_WP. -/
def execCardResponse (cs : Nat) (bytes : List Byte) (wp : Bool) (s : State) : Res :=
  known (decide (cs < 4))
    (let c := getCard s cs
     doIf s (cardsServed s && c.cmd.isSome && !c.busy && decide (3 ≤ c.state)) (cardAnswer (modCard s cs (fun x => { x with wp })) cs (some bytes)))

/-- The clock period of a card's bus in tenths of a nanosecond. -/
def cardPeriod (c : CardSlot) : Nat := match c.rate with | 0 => 25000 | 1 => 400 | _ => 100

/-- No response has come 64 clocks after the 64 of the command (R411). -/
def execCardResponseTimeout (cs : Nat) (s : State) : Res :=
  known (decide (cs < 4))
    (let c := getCard s cs
     doIf s (cardsServed s && c.cmd.isSome && !c.busy && decide (3 ≤ c.state) && decide (128 * cardPeriod c ≤ 10 * (s.uptime - c.since)))
       (cardAnswer s cs none))

/-- A STATUS poll of a busy card; `status` is the DATA of its answer (R408, R409). -/
def pollStep (s : State) (cs status : Nat) : State :=
  match stepOn s cs with
  | none => idleCards s
  | some (_, p) =>
    if status.testBit 0 then s
    else if p.pos = 4 then
      (if status.testBit 3 ∧ status / 256 % 256 = 0 then enterPos s 5 else refuseStep s eCardRefused 7)
    else if status.testBit 1 ∧ status.testBit 2 = false then enterPos s 22
    else rewriteStep s p

/-- Every 20 µs while the card is busy. -/
def execCardStatusPoll (cs status : Nat) (wp : Bool) (s : State) : Res :=
  known (decide (cs < 4))
    (let c := getCard s cs
     let t := emit (modCard s cs (fun x => { x with wp })) (.card cs 0x02 (cardFrame 0x02 0))
     doIf s (cardsServed s && c.busy && decide (c.since + 20000 ≤ s.uptime)) (pollStep t cs status))

/-- BUSY has lasted longer than 10 ms (R411). -/
def execCardBusyTimeout (cs : Nat) (s : State) : Res :=
  known (decide (cs < 4))
    (let c := getCard s cs
     doIf s (cardsServed s && c.busy && decide (c.since + 10000000 < s.uptime))
       (match stepOn s cs with | some _ => refuseStep s eCardIo 0 | none => idleCards s))

/-! ### Removal (R404, R421) -/

/-- The phase in which a step's card is removed. -/
def removalPhase (s : State) (p : CardStep) : Nat :=
  let c := getCard s p.cs
  match p.pos with
  | 20 => 1
  | 21 => if 10 * (s.uptime - c.since) < 1042 * cardPeriod c then 4 else 5
  | 22 => 6
  | 30 => 6
  | k => if k ≤ 1 then (if c.data then 2 else 1) else 3

/-- The step of a removed card completes with E_CARD_ABSENT. One whose commit is under way is taken back; a READ step needs its card
no more by then, and one past its release point stands. -/
def dropStep (s : State) (cs : Nat) : State :=
  match stepOn s cs with
  | none => s
  | some (c, p) =>
    let late := c.stepJob.any (fun k => (getJob s k).any (fun j => j.isReleased))
    if 31 ≤ p.pos ∨ (p.pos = 30 ∧ (!p.write ∨ late)) then s
    else
      let t := match c.stepJob with | some k => if p.pos = 30 then retractWrite s 1 k else s | none => s
      -- What the record would have named is forgotten again.
      let u := if p.pos = 30 then modCer t (fun d => { d with written := d.written.dropLast }) else t
      refuseStep (logCer u 1 (getCard s cs).cardId (removalPhase s p)) eCardAbsent (removalPhase s p)

/-- CSn_DET# rises: clock, bus and supply go, and S00 is signalled. -/
def execCardDetectRise (cs : Nat) (s : State) : Res :=
  known (decide (cs < 4))
    (let c := getCard s cs
     doIf s (alive s && (c.det || c.state != 0))
       (let t := modCard (dropStep s cs) cs (fun _ => CardSlot.empty)
        if cardsServed s then vecCard t else t))

/-! ### CEREMONY_BEGIN (R423, R426, R436) -/

/-- The life-cycle states R47 allows for a kind. -/
def kindLcOk (k : Nat) (l : Lc) : Bool :=
  match k with | 1 => l == .sealed | 5 => l == .sealed || l == .owned | 7 => l == .sealed || l == .owned | _ => l == .owned

/-- The modes R47 allows; `drained` is the flag as it stood just before admission (R51). -/
def kindModeOk (k : Nat) (m : Mode) (drained : Bool) : Bool :=
  match k with
  | 5 => m == .umbra
  | 6 => m == .drain && drained
  | 7 => (m == .drain && drained) || m == .umbra
  | _ => m == .service

/-- SEQ of the event-log entry of the most recent entry to UMBRA: the latest mode transition into it, or the latest lock set again there
(R445). -/
def lockSeq (s : State) : Option Nat :=
  (s.alm.log.reverse.find? (fun e => !e.torn &&
    ((e.source == 0xA0 && e.code == 1 && byteAt e.data 1 == 6) || (e.source == 0xB0 && e.code == 0x0120)))).map (fun e => e.seq)

/-- The status of an unlock token (R426, R446). -/
def tokenStatus (s : State) (kind : Nat) (b : List Byte) : Nat :=
  let owner := if s.chip.lc = .owned then fuseOwner s else fuseFwHash s
  let pub := sub b 64 2592
  let until_ := fieldLe b 24 8
  -- RSV bytes of a token that host software presents (R9, R426).
  if (sub b 6 2 ++ sub b 32 32).any (· != 0) then eParam
  else if !(sub b 0 4 == [0x46, 0x59, 0x55, 0x4C] && byteAt b 4 == 1 && byteAt b 5 == kind && fieldLe b 8 8 == fuseSerial s &&
      some (fieldLe b 16 8) == lockSeq s && sha384 pub == owner && mldsaOk pub (sub b 0 2656) (ascii "FY4128-UNLOCK") (sub b 2656 4627)) then
    eToken
  else if until_ = 0xFFFFFFFFFFFFFFFF then stOk
  else if !s.tb.set then eTime
  else if until_ < s.tb.time then eToken else stOk

/-- The share limits of R317 for a kind. -/
def limitsOk (s : State) (kind m n x : Nat) : Bool :=
  match custOf s with
  | none => kind == 1 || s.chip.lc == .sealed
  | some c =>
    match kind with
    | 2 => decide (enrolledCards c + n ≤ 9) && decide (n ≤ freeXs c)
    | 3 => decide (c.m + 1 ≤ enrolledCards c) && (mapGet none c.cards x).any (fun k => k.enrolled)
    | 4 => decide (2 ≤ m) && decide (m ≤ n)
    | _ => true

/-- The sensor survey of TAKE_OWNERSHIP: outcome 2k is loop k's static test, 2k + 1 its PRBS test, 32 + k case switch k
(R436). -/
def survey (tests : List Bool) : Nat :=
  let ok := fun i => tests.getD i true
  maskOf (fun k => ok (2 * k)) 16 + maskOf (fun k => ok (2 * k) && ok (2 * k + 1)) 16 * 2 ^ 16 +
    maskOf (fun k => ok (32 + k)) 2 * 2 ^ 32

/-- Begin a ceremony: the device enters CEREMONY, and RESULT gives the number of steps. -/
def startCeremony (s : State) (j : Job) (io : JobIo) (input : List Byte) : State :=
  let kind := j.desc.pb 40
  let m := match custOf s with | some c => if s.chip.lc = .owned then c.m else 0 | none => 0
  let epoch := match custOf s with | some c => c.epoch | none => 0
  let n := j.desc.pb 42
  let steps := match kind with
    | 1 => n
    | 2 => m + n
    | 4 => m + n
    | _ => if m = 0 then 1 else m
  let t := j.desc.pn 44 4
  let c : Ceremony := {
    kind, m := if kind = 1 then 0 else m, n, x := j.desc.pb 43, timeout := if t = 0 then 600 else t, fromMode := s.chip.mode,
    stepsDone := 0, stepsTotal := steps, waitFrom := s.uptime, shares := [], written := [],
    newM := if kind = 1 ∨ kind = 4 then j.desc.pb 41 else m,
    newEpoch := if kind = 1 then 1 else if kind = 4 then epoch + 1 else epoch,
    ownerHash := if kind = 1 then sha384 input else [], stepJob := none, step := none, firstJob := s.nextJob }
  answer (setMode { s with cer := some c } .ceremony 7 0x0901 0) j io (JobRes.done [] steps)

/-- The root of TAKE_OWNERSHIP: 32 bytes drawn with prediction resistance (R304, R312). The command waits for an unused block. -/
def withFreshRoot (s : State) (j : Job) (io : JobIo) (f : State → State) : State :=
  match servingDrbg s 0 with
  | none => if allFailed s then refuse s j io eRng else s
  | some r =>
    let q := (rngOf s r).seedSrc
    if hasBlock s q then
      let t := callDrbg (reseeded (useBlock s q) r) r 1
      f (installRoot (drew' t 32) (drawBytes t 32) (now t))
    else s

/-- Another command of the group is running. -/
def otherCeremonyJob (s : State) (j : Job) : Bool := s.jobs.any (fun k => decide (k.id < j.id) && k.desc.opcode / 256 == 9)

/-- CEREMONY_BEGIN. -/
def execCeremonyBegin (job : Nat) (io : JobIo) (s : State) : Res :=
  runMgmt s job 0x0901 (fun j =>
    let kind := j.desc.pb 40
    let drained := byteAt (j.saved.headD []) 0 == 1
    if otherCeremonyJob s j || overtaken s then refuse s j io eMode
    else if !kindLcOk kind s.chip.lc then refuse s j io eLifecycle
    else if s.cer.isSome || !kindModeOk kind s.chip.mode drained then refuse s j io eMode
    else withInput s j io (fun b =>
      let tok := if s.chip.mode = .umbra then tokenStatus s kind b else stOk
      if tok ≠ stOk then refuse s j io tok
      else if !limitsOk s kind (j.desc.pb 41) (j.desc.pb 42) (j.desc.pb 43) then refuse s j io eQuota
      else if kind = 1 then
        withFreshRoot s j io (fun t => startCeremony { t with tamper := { t.tamper with staged := some (survey io.tests) } } j io b)
      else startCeremony s j io b))

/-! ### CEREMONY_STEP (R424) -/

/-- The step that comes next is a write step. -/
def nextIsWrite (c : Ceremony) : Bool := c.kind == 1 || ((c.kind == 2 || c.kind == 4) && decide (c.m ≤ c.stepsDone))

/-- The x-coordinate a write step gives. -/
def nextX (s : State) (c : Ceremony) : Nat :=
  match c.kind with
  | 1 => c.stepsDone + 1
  | 4 => c.stepsDone - c.m + 1
  | _ => ((custOf s).bind freeX).getD 0

/-- The reason a card is refused at the start of a step: the certificate, its life, its wear, its use (R415, R416, R424); 0 for
none. -/
def refuseReason (s : State) (c : Ceremony) (card : CardSlot) (write : Bool) : Nat :=
  let life := lifeState s card.mfgTime
  if !card.certOk then 1
  else if life = 2 then 2
  else if life = 1 ∧ write then 3
  else if card.ceremoniesLeft = 0 ∨ (write ∧ card.writesLeft = 0) then 4
  else if write ∧ c.kind = 2 ∧ (custOf s).any (fun k => enrolledX k card.cardId != 0) then 8
  else if write ∧ c.kind = 4 ∧ c.written.any (fun e => e.2 == card.cardId) then 8
  else 0

/-- Begin the card part of a step: its randomness is drawn, and the banks are read. -/
def beginCardStep (s : State) (j : Job) (io : JobIo) (c : Ceremony) (cs : Nat) (write : Bool) : State :=
  let n := if write then 32 else 96
  withRng s j 1 (refuse s j io eRng) (fun t =>
    let p : CardStep := { cs, write, x := nextX s c, pos := 0, bankA := none, bankB := none, useB := false, header := [], block := [],
                          rnd := drawBytes t n, result := [], rewrites := 0 }
    enterPos (modCer (putJob (drew' t n) { j with parked := true }) (fun d => { d with stepJob := some j.id, step := some p })) 0)

/-- A step with a card. -/
def cardStep (s : State) (j : Job) (io : JobIo) (c : Ceremony) (cs : Nat) : State :=
  let card := getCard s cs
  let write := nextIsWrite c
  let t := if cardHere card then modCard s cs (fun x => { x with life := lifeState s x.mfgTime, wp := io.wp }) else s
  let why := refuseReason s c card write
  if card.state < 2 then answer s j io (JobRes.status0 eCardAbsent 0)
  -- A card still being brought up is waited for.
  else if card.state < 4 ∨ card.state = 5 then s
  -- A card that could not be read or brought up stays in its slot, and the step ends for its bus (R411).
  else if card.state = 6 ∧ (card.certOk ∨ card.cert = []) then answer t j io (JobRes.status0 eCardIo 0)
  else if why ≠ 0 then answer t j io (JobRes.status0 eCardRefused why)
  else if write && io.wp then answer t j io (JobRes.status0 eCardWp 0)
  else beginCardStep t j io c cs write

/-- CEREMONY_STEP. -/
def execCeremonyStep (job : Nat) (io : JobIo) (s : State) : Res :=
  runMgmt s job 0x0902 (fun j =>
    if j.parked then s
    else match s.cer with
    | none => refuse s j io eMode
    | some c =>
      let slot := j.desc.pb 40
      let cardless := (c.kind == 5 || c.kind == 7) && c.m == 0
      if otherCeremonyJob s j then refuse s j io eMode
      -- The first card step of an exclusive ceremony waits for the jobs admitted before it (R48).
      else if exclusive s ∧ c.stepsDone = 0 ∧ s.jobs.any (fun k => decide (k.id < c.firstJob)) then s
      else if (slot == 0xFF) != cardless then answer s j io (JobRes.status0 eParam 0x0228)
      else if cardless then concludeStep (modCer (putJob s { j with parked := true }) (fun d => { d with stepJob := some j.id })) { c with stepJob := some j.id } false [] 0
      else cardStep s j io c slot)

/-! ### The other commands (R422, R425) -/

/-- CEREMONY_ABORT. -/
def execCeremonyAbort (job : Nat) (io : JobIo) (s : State) : Res :=
  runMgmt s job 0x0903 (fun j =>
    if s.cer.isNone || otherCeremonyJob s j || overtaken s then refuse s j io eMode
    else answerOk (abortCeremony s 0x0903) j io)

/-- CEREMONY_QUERY. -/
def execCeremonyQuery (job : Nat) (io : JobIo) (s : State) : Res :=
  runMgmt s job 0x0904 (fun j =>
    if otherCeremonyJob s j then refuse s j io eMode
    else answer s j io (JobRes.done (padTo 32 (match s.cer with
      | none => []
      | some c =>
        leBytes 1 c.kind ++ leBytes 1 (if c.kind = 1 ∨ c.kind = 4 then c.newM else 0) ++ leBytes 1 c.n ++ leBytes 1 c.stepsDone ++
          leBytes 1 (c.stepsTotal - c.stepsDone) ++ [0, 0, 0] ++ leBytes 4 (cerSeconds s c) ++
          (List.range 9).map (fun i => if c.shares.any (fun e => e.1 == i + 1) then 1 else 0))) 0))

/-- CARD_QUERY. -/
def execCardQuery (job : Nat) (io : JobIo) (s : State) : Res :=
  runMgmt s job 0x0900 (fun j =>
    let n := j.desc.pb 40
    let c := getCard s n
    if otherCeremonyJob s j then refuse s j io eMode
    else answer s j io (JobRes.done (padTo 64
      (leBytes 4 (regCardSlot s n) ++ leBytes 4 (regCardLife s n) ++ padTo 16 c.cardId ++ leBytes 8 c.mfgTime ++
        leBytes 1 (if cardHere c then lifeState s c.mfgTime else 3) ++
        leBytes 1 (if cardHere c then ((custOf s).map (fun k => enrolledX k c.cardId)).getD 0 else 0))) 0))

/-- The time-out of a ceremony has been reached before the commit of its step, and nothing of a higher rank overtakes it (R76, R79). -/
def timeoutDue (s : State) : Bool :=
  match s.cer with
  | none => false
  | some c =>
    let late := c.stepJob.any (fun k => (getJob s k).any (fun j => j.isReleased)) || c.step.any (fun p => decide (31 ≤ p.pos))
    alive s && s.chip.mode == .ceremony && decide (c.waitFrom + c.timeout * 10 ^ 9 ≤ s.uptime) && !late && !overtaken s

/-- The ceremony ends as an abort: the step that runs ends with E_ABORTED, its record is not committed (R50). -/
def ceremonyTimesOut (io : JobIo) (s : State) : State :=
  let k := s.cer.bind (fun c => c.stepJob)
  let t := match k with | some k => retractWrite (retractWrite s 1 k) 0 k | none => s
  let u := match k.bind (getJob t) with
    | some j => settle (modCer t (fun d => { d with stepJob := none, step := none })) j io (JobRes.status0 eAborted 0)
    | none => t
  abortCeremony u 0

/-- The wait for a card, or the step that runs, reaches the time-out before its commit (R50, R79). -/
def execCeremonyTimeout (io : JobIo) (s : State) : Res := doIf s (timeoutDue s) (ceremonyTimesOut io s)

/-- Checks on the descriptors of group 0x09 (R422, R423). -/
def cerCmdChecks (s : State) (d : Desc) : Checks :=
  let noIn := (24, d.inLen != 0)
  let lc2 := (2, d.lc != 2)
  let k := d.pb 40
  let m := d.pb 41
  let n := d.pb 42
  let x := d.pb 43
  let t := d.pn 44 4
  match d.opcode with
  | 0x0900 => [lc2, (40, decide (3 < k)), noIn] ++ d.rsv 41 64
  | 0x0901 =>
    [lc2, (24, d.inLen != (match k with | 1 => 2592 | 5 => 7283 | 7 => if s.chip.mode = .umbra then 7283 else 0 | _ => 0)),
     (40, k == 0 || decide (7 < k)),
     (41, if k = 1 ∨ k = 4 then decide (m < 2) || decide (n < m) else m != 0),
     (42, if k = 1 ∨ k = 4 then decide (n < 2) || decide (9 < n) else if k = 2 then n == 0 || decide (9 < n) else n != 0),
     (43, if k = 3 then !(custOf s).any (fun c => (mapGet none c.cards x).any (fun e => e.enrolled)) else x != 0),
     (44, t != 0 && (decide (t < 60) || decide (3600 < t)))] ++ d.rsv 48 64
  | 0x0902 => [lc2, (40, decide (3 < k) && k != 0xFF), noIn] ++ d.rsv 41 64
  | _ => [lc2, noIn] ++ d.rsv 40 64

/-- Output lengths of the group. -/
def cerCmdOut (op : Nat) : Nat := if op = 0x0900 then 64 else if op = 0x0904 then 32 else 0

/-! ### When a step's record commits (R424, R452) -/

/-- Fuse bits that stay 0 after 8 pulses: those whose outcome is false. -/
def deadOf (tests : List Bool) : List Nat := (List.range tests.length).filter (fun i => !tests.getD i true)

/-- Record 0 of a ceremony's change is committed: the change is carried out, then BOOT, or HALT in SCRAPPED. -/
def runChange (s : State) (i : Intent) (dead : List Nat) : State :=
  let t := carryOut dead s i
  let u := if carryMissed t i then raiseFault t 0x37 0xC5 0 else t
  if i.target = 5 then
    let v := clearLatch { u with chip := { u.chip with lc := .scrapped }, root := { u.root with lcHeld := 5 }, cer := none }
    enterHalt v 8 0
  else bootState (setMode u .boot 4 0x0902 0) 4

/-- What follows a ledger commit of record `rid`: `s` is the state before it, `t` after it. Under a reset or a FATAL fault the record stands
and nothing follows; the next BOOT completes a recorded change (R76, R78). -/
def cerCommitted (s t : State) (rid : Nat) (tests : List Bool) : State :=
  if overtaken s then t else
  match t.cer with
  | none => t
  | some c =>
    match c.stepJob with
    | none => t
    | some k =>
      if (getJob s k).any (fun j => j.pos == .committing) then
        if rid = 1 ∧ payload t 1 ≠ payload s 1 ∧ c.step.any (fun p => p.pos == 30) then
          (if c.kind = 1 then
             requestWrite (modStep (modJob t k (fun j => { j with released := none })) (fun p => { p with pos := 31 })) 4
               { job := some k, op := .slice 0 { state := .active, cfg := SliceCfg.dflt, removal := false } }
           else if (getJob t k).isNone then
             let u := countStep t
             if lastDone u then { setMode u .service 8 0x0902 0 with cer := none } else u
           else t)
        else if rid = ridSlice 0 ∧ c.kind = 1 ∧ c.step.any (fun p => p.pos == 31) ∧ (getJob t k).any (fun j => j.pos == .committing) then
          let i := newIntent t 3 c.ownerHash (t.tamper.staged.getD 0)
          requestWrite (modStep (modJob t k (fun j => { j with released := none })) (fun p => { p with pos := 32 })) 0
            { job := some k, op := .intent i }
        else if rid = 0 ∧ (intentOf s).isNone ∧ (getJob t k).isNone then
          (match intentOf t with | some i => runChange t i (deadOf tests) | none => t)
        else if (getJob t k).all (fun j => j.pos != .committing) then
          -- The commit failed: the command begins again, or has ended.
          modCer t (fun d => { d with
            stepJob := none, step := none,
            written := if d.step.any (fun p => p.write && p.pos == 30) then d.written.dropLast else d.written })
        else t
      else t

end Sys2Proof.Machine
end

