-- ==== Sys2Proof/Machine/Flags.lean ====
section
/-! DEFINITION. The flag computations of the microsequencer (R213): every OP that sets a flag sets it here. -/

namespace Sys2Proof.Machine

/-- Z and N of a result; a tagged result leaves them unchanged (R213, R230). -/
def flagsZN (c : Cell) (r : W64) (t : Nat) : Cell := if t = 0 then { c with z := r == 0, n := r.msb } else c

/-- C as well. -/
def flagsZNC (c : Cell) (r : W64) (carry : Bool) (t : Nat) : Cell :=
  if t = 0 then { c with z := r == 0, n := r.msb, c := carry } else c

/-- Carry out of a 64-bit addition. -/
def carryAdd (a b : W64) : Bool := decide (2 ^ 64 ≤ a.toNat + b.toNat)

/-- C of a subtraction: 1 when the first operand is not below the second, unsigned. -/
def carrySub (a b : W64) : Bool := decide (b.toNat ≤ a.toNat)

/-- VZ of a compare: every result element is 0. -/
def flagVz (c : Cell) (b : Bool) : Cell := { c with vz := b }

end Sys2Proof.Machine
end

