-- ==== Sys2Proof/Machine/Operands.lean ====
section
/-! DEFINITION. The operand forms of the microword: register triples, shift counts, immediates and effective addresses
(R212 to R219). -/

namespace Sys2Proof.Machine

/-- A register-register scalar form: A, B and C name X registers, IMM unused. -/
def formRRR (w : MicroWord) : Bool := reg (wA w) && reg (wB w) && reg (wC w) && wImm w == 0

/-- IMM sign-extended to 64 bits. -/
def immS (w : MicroWord) : W64 := BitVec.signExtend 64 (BitVec.ofNat 9 (wImm w))

/-- IMM[8:2] sign-extended: the offset of VLD and VST (R219). -/
def immV (w : MicroWord) : W64 := BitVec.signExtend 64 (BitVec.ofNat 7 (wImm w / 4))

/-- The shift form: k is IMM[5:0] when IMM[8] is 0 and X[C][5:0] when it is 1; IMM[7:6] must be 0, and C with it when it is
not used (R203, R212). -/
def formShift (w : MicroWord) : Bool :=
  reg (wA w) && reg (wB w) && bits (wImm w) 7 6 == 0 &&
    (if bit (wImm w) 8 then reg (wC w) && bits (wImm w) 5 0 == 0 else wC w == 0)

/-- The shift count k. -/
def shiftCount (c : Cell) (w : MicroWord) : Nat :=
  if bit (wImm w) 8 then (getX c (wC w)).toNat % 64 else bits (wImm w) 5 0

/-- The tag of the shift count. -/
def shiftTag (c : Cell) (w : MicroWord) : Nat := if bit (wImm w) 8 then tagX c (wC w) else 0

/-- The effective address of LD and ST. -/
def eaScalar (c : Cell) (w : MicroWord) : Nat := (getX c (wB w) + immS w * 8).toNat

/-- The effective address of VLD and VST. -/
def eaVector (c : Cell) (w : MicroWord) : Nat := (getX c (wB w) + immV w * 16).toNat

/-- The element addresses of VGATH and VSCAT: X[B] + V[C][i] × w/8, offsets unsigned (R222). -/
def eaElems (c : Cell) (w : MicroWord) : List Nat :=
  let wd := elemW (wImm w)
  (elems wd (getV c (wC w))).map (fun o => (getX c (wB w) + BitVec.ofNat 64 (o * (wd / 8))).toNat)

/-- A three-register vector form whose only immediate is the width. -/
def formVVV (w : MicroWord) : Bool := reg (wA w) && reg (wB w) && reg (wC w) && wImm w / 4 == 0

/-- Register `k` of triple `t` (R229). -/
def tripleReg (t k : Nat) : Nat := 3 * t + k

/-- The modulus a polynomial word selects (R225). -/
def polyQ (c : Cell) (w : MicroWord) : Nat :=
  match wImm w % 4 with
  | 0 => 3329
  | 1 => 8380417
  | 2 => 12289
  | _ => c.puq.toNat

/-- The number of coefficients a polynomial word selects. -/
def polyN (w : MicroWord) : Nat := 256 * 2 ^ bits (wImm w) 3 2

end Sys2Proof.Machine
end

