-- ==== Sys2Proof/Machine/CellMem.lean ====
section
/-! DEFINITION. Loads, stores, the DMA port, key loading, the BNE request, the share check and the hash unit's words
(R214, R216, R217, R226, R227, R248). -/

namespace Sys2Proof.Machine

/-- LD: X[A] := the 64-bit word, with its line's tag. -/
def opLd (_ : CellCtx) (w : MicroWord) (c : Cell) : WordEnd :=
  let a := eaScalar c w
  legalIf c (reg (wA w) && reg (wB w) && wC w == 0 && tagX c (wB w) == 0)
    (guardAccess c 8 [a] (.done (setX c (wA w) (BitVec.ofNat 64 (leNat (cread c a 8))) (tagAt c a))))

/-- ST: the 64-bit word := X[C]; the data may be tagged, the address not. -/
def opSt (_ : CellCtx) (w : MicroWord) (c : Cell) : WordEnd :=
  let a := eaScalar c w
  let t := tagX c (wC w)
  legalIf c (wA w == 0 && reg (wB w) && reg (wC w) && tagX c (wB w) == 0 && storeTagOk c a t)
    (guardAccess c 8 [a] (.done (storeTagged c a (leBytes 8 (getX c (wC w)).toNat) t)))

/-- The streams a transfer may name and in which direction (R216). -/
def streamOk (k : Nat) (out : Bool) : Bool :=
  match k with
  | 0 => !out
  | 1 => out
  | 2 | 3 | 4 => true
  | _ => false

/-- The extent of a stream. -/
def streamExtent (k : CellCtx) (n : Nat) : Nat :=
  match n with
  | 0 => k.inLen
  | 1 => k.outCap
  | 2 => k.ext2
  | 3 => k.ext3
  | _ => 0x40000

/-- The operands of a transfer are public registers and legal. -/
def dmaForm (c : Cell) (w : MicroWord) (out : Bool) : Bool :=
  reg (wA w) && reg (wB w) && reg (wC w) && tagX c (wA w) == 0 && tagX c (wB w) == 0 && tagX c (wC w) == 0 &&
    wImm w / 8 == 0 && streamOk (wImm w % 8) out && decide (1 ≤ (getX c (wC w)).toNat) &&
    decide ((getX c (wC w)).toNat ≤ 65536)

/-- Stream 4 reads and writes the window, whose pages must be mapped (R199). -/
def windowProbe (stream off len : Nat) : List Nat := if stream = 4 then rangeProbe (0x100000 + off) len else []

/-- The tags a copy of `n` bytes from `src` to `dst` brings to the lines it writes; none where shares meet in one line. -/
def moveTags (c : Cell) (src dst n : Nat) : List (Nat × Option Nat) :=
  (linesOf dst n).map (fun l =>
    let lo := max l dst
    (l, joinTags c (linesOf (src + (lo - dst)) (min (l + 64) (dst + n) - lo))))

/-- The tags a transfer brings to the lines it writes: the window's and scratch's lines keep their shares (R246). -/
def dmaTags (c : Cell) (op : DmaOp) : List (Nat × Option Nat) :=
  if op.stream ≠ 4 then []
  else if op.kind = 0 then moveTags c (0x100000 + op.offset) op.addr op.len
  else moveTags c op.addr (0x100000 + op.offset) op.len

/-- A transfer obeys the tags: no two shares meet in a line, and a tagged line leaves a customer macro-op only with CUSTOM_OUT (R230,
R231). -/
def dmaTagsOk (c : Cell) (op : DmaOp) (cust : Bool) : Bool :=
  (dmaTags c op).all (fun p => match p.2 with | some t => storeTagOk c p.1 t | none => false) &&
    (op.kind != 1 || !cust || c.customOut || (linesOf op.addr op.len).all (fun l => tagAt c l == 0))

/-- Issue a transfer: past the end of its stream it faults (KIND 4, ELEM 0 and the cell address: DESIGN CHOICE, log entry 47), a ninth one
stalls (R216). -/
def issueDma (k : CellCtx) (c : Cell) (op : DmaOp) : WordEnd :=
  if streamExtent k op.stream < op.offset + op.len then accessFault c 4 0 op.addr
  else guardAccess c 1 (rangeProbe op.addr op.len ++ windowProbe op.stream op.offset op.len)
    (if c.dma.length < 8 then .done { c with dma := c.dma ++ [op] } else .stall)

/-- DMAIN: X[C] bytes from offset X[B] of a stream to X[A]. -/
def opDmain (k : CellCtx) (w : MicroWord) (c : Cell) : WordEnd :=
  let op : DmaOp := ⟨0, wImm w % 8, (getX c (wB w)).toNat, (getX c (wA w)).toNat, (getX c (wC w)).toNat⟩
  legalIf c (dmaForm c w false && dmaTagsOk c op (custPc c)) (issueDma k c op)

/-- DMAOUT: X[C] bytes from X[A] to offset X[B] of a stream; a tagged line leaves the customer window only with CUSTOM_OUT
(R231). -/
def opDmaout (k : CellCtx) (w : MicroWord) (c : Cell) : WordEnd :=
  let op : DmaOp := ⟨1, wImm w % 8, (getX c (wB w)).toNat, (getX c (wA w)).toNat, (getX c (wC w)).toNat⟩
  legalIf c (dmaForm c w true && dmaTagsOk c op (custPc c)) (issueDma k c op)

/-- The lines three shares of `n` bytes at `a` touch, with their tags (R199). -/
def shareLines (a n : Nat) : List (Nat × Nat) :=
  ((List.range 3).map (fun i => (linesOf (a + i * 0x4000) n).map (fun l => (l, i + 1)))).flatten

/-- Mask units of 128 bits the sharing of `n` bytes draws: two of the three shares are random (R228, assumption 24). -/
def shareMask (n : Nat) : Nat := (2 * n + 15) / 16

/-- LOADKEY: write the selected key as three shares at X[A] and its images and set X[C] to its length (R217); too few mask bits stall it
(R228). An X[A] outside both ranges is an access fault, one that is no bank-0 address is illegal. -/
def opLoadkey (k : CellCtx) (w : MicroWord) (c : Cell) : WordEnd :=
  let sel := (getX c (wB w)).toNat
  let a := (getX c (wA w)).toNat
  let n := k.keyLens.getD sel 0
  legalIf c
    (reg (wA w) && reg (wB w) && reg (wC w) && wImm w == 0 && tagX c (wA w) == 0 && tagX c (wB w) == 0 &&
      decide (sel < 2) && decide (sel < k.keyLens.length))
    (guardForbidden c 1 (rangeProbe a n)
      (legalIf c (decide (a + n ≤ 0x4000) && (shareLines a n).all (fun p => storeTagOk c p.1 p.2))
        (if c.dma.length < 8 ∧ shareMask n ≤ c.maskLevel then
           .done { setX c (wC w) (BitVec.ofNat 64 n) 0 with
                     dma := c.dma ++ [⟨2, sel, 0, a, n⟩], maskLevel := c.maskLevel - shareMask n }
         else .stall)))

/-- BNEREQ: pass the request block at window offset X[B] to the BNE; a full queue stalls it (R217, R261). -/
def opBnereq (k : CellCtx) (w : MicroWord) (c : Cell) : WordEnd :=
  legalIf c (wA w == 0 && reg (wB w) && wC w == 0 && wImm w == 0 && tagX c (wB w) == 0)
    (guardAccess c 1 (rangeProbe (0x100000 + (getX c (wB w)).toNat) 32)
      (if k.bneRoom then .done { c with bnePend := c.bnePend + 1 } else .stall))

/-- SCHK: start the combining of the accumulated projections and draw the next vector (R226); too few mask bits stall it (R228). -/
def opSchk (_ : CellCtx) (w : MicroWord) (c : Cell) : WordEnd :=
  legalIf c (wA w == 0 && wB w == 0 && wC w == 0 && wImm w == 0)
    (if c.maskLevel < Config.checkMask.val then .stall else .done c.startCheck.drawProj)

/-- A byte range that leaves bank 0 has no images (R248): a masked operation on it is legal only without shares. -/
def inBank0 (a n : Nat) : Bool := decide (a + n ≤ 0x4000)

/-- Mask units of 128 bits that a masked Keccak operation draws: 24 rounds of 1,600 bits for every permutation it runs (R227). An absorb
permutes at each full block; a squeeze permutes after padding, once for each block of output; raw Keccak does not pad. -/
def hashDue (h : HashUnit) (sq : Bool) (n : Nat) : Nat :=
  let r := match h.func with | 3 => 136 | 4 => 104 | 5 => 72 | 6 => 168 | 7 => 136 | _ => max h.rate 8
  let blocks := fun (m : Nat) => if h.func = 8 then max 1 ((m + r - 1) / r) else (m + r - 1) / r
  let perms := if sq then blocks (h.squeezed + n) - blocks h.squeezed else (h.input.length % r + n) / r
  if h.masked then 300 * perms else 0

/-- HINIT selects the hash unit's function (R227); it stalls while the unit works. -/
def opHinit (_ : CellCtx) (w : MicroWord) (c : Cell) : WordEnd :=
  let f := wImm w % 16
  let m := bit (wImm w) 8
  let r := (getX c (wB w)).toNat
  legalIf c
    (wA w == 0 && wC w == 0 && bits (wImm w) 7 4 == 0 && decide (f ≤ 8) && (!m || decide (3 ≤ f)) &&
      (if f = 8 then reg (wB w) && tagX c (wB w) == 0 && decide (8 ≤ r) && decide (r ≤ 168) && r % 8 == 0 else wB w == 0))
    (if c.hash.busy.isSome then .stall else .done { c with hash := ⟨f, m, if f = 8 then r else 0, [], 0, false, none, 0⟩ })

/-- Absorb X[C] bytes from X[B]: the lines must be public, or hold the three shares in masked mode (R227, R248). -/
def opHabs (_ : CellCtx) (w : MicroWord) (c : Cell) : WordEnd :=
  let a := (getX c (wB w)).toNat
  let n := (getX c (wC w)).toNat
  let tagged := (linesOf a (min n 0x40001)).any (fun l => tagAt c l != 0)
  legalIf c
    (wA w == 0 && reg (wB w) && reg (wC w) && wImm w == 0 && tagX c (wB w) == 0 && tagX c (wC w) == 0 &&
      (!tagged || (c.hash.masked && inBank0 a n && (shareLines a n).all (fun p => tagAt c p.1 == p.2))))
    (guardAccess c 1 (rangeProbe a n)
      (if c.hash.busy.isSome then .stall
       else .done { c with hash := { c.hash with busy := some (false, a, n), due := hashDue c.hash false n } }))

/-- Squeeze X[C] bytes to X[A]; masked output goes to the three shares (R227, R248). -/
def opHsqz (_ : CellCtx) (w : MicroWord) (c : Cell) : WordEnd :=
  let a := (getX c (wA w)).toNat
  let n := (getX c (wC w)).toNat
  legalIf c
    (reg (wA w) && wB w == 0 && reg (wC w) && wImm w == 0 && tagX c (wA w) == 0 && tagX c (wC w) == 0)
    (guardAccess c 1 (rangeProbe a n)
      (legalIf c (!c.hash.masked || (inBank0 a n && (shareLines a n).all (fun p => storeTagOk c p.1 p.2)))
        (if c.hash.busy.isSome then .stall
         else .done { c with hash := { c.hash with busy := some (true, a, n), due := hashDue c.hash true n } })))

end Sys2Proof.Machine
end

