-- ==== Sys2Proof/Machine/CellVec.lean ====
section
/-! DEFINITION. The vector operations (R218 to R223), the masked gadgets (R229) and UNMASK (R231). -/

namespace Sys2Proof.Machine

/-- VLD: V[A] := 16 bytes, with the line's tag. -/
def opVld (_ : CellCtx) (w : MicroWord) (c : Cell) : WordEnd :=
  let a := eaVector c w
  legalIf c (reg (wA w) && reg (wB w) && wC w == 0 && tagX c (wB w) == 0)
    (guardAccess c 16 [a] (.done (setV c (wA w) (BitVec.ofNat 128 (leNat (cread c a 16))) (tagAt c a))))

/-- VST. -/
def opVst (_ : CellCtx) (w : MicroWord) (c : Cell) : WordEnd :=
  let a := eaVector c w
  let t := tagV c (wA w)
  legalIf c (reg (wA w) && reg (wB w) && wC w == 0 && tagX c (wB w) == 0 && storeTagOk c a t)
    (guardAccess c 16 [a] (.done (storeTagged c a (leBytes 16 (getV c (wA w)).toNat) t)))

/-- VBCAST: every element := the low w bits of X[B]. -/
def opVbcast (_ : CellCtx) (w : MicroWord) (c : Cell) : WordEnd :=
  let wd := elemW (wImm w)
  legalIf c (reg (wA w) && reg (wB w) && wC w == 0 && wImm w / 4 == 0)
    (.done (setV c (wA w) (ofElems wd (List.replicate (128 / wd) ((getX c (wB w)).toNat % 2 ^ wd))) (tagX c (wB w))))

/-- VEXT: X[A] := element IMM[5:2] mod n of V[B], zero-extended. -/
def opVext (_ : CellCtx) (w : MicroWord) (c : Cell) : WordEnd :=
  let wd := elemW (wImm w)
  let e := (elems wd (getV c (wB w))).getD (bits (wImm w) 5 2 % (128 / wd)) 0
  legalIf c (reg (wA w) && reg (wB w) && wC w == 0 && wImm w / 64 == 0)
    (.done (setX c (wA w) (BitVec.ofNat 64 e) (tagV c (wB w))))

/-- An element operation of V[B] and V[C] whose tags join by `j`. -/
def vec2 (w : MicroWord) (c : Cell) (form : Bool) (j : Nat → Nat → Option Nat) (f : Nat → Nat → Nat → Nat) : WordEnd :=
  let wd := elemW (wImm w)
  if form && reg (wA w) && reg (wB w) && reg (wC w) then
    match j (tagV c (wB w)) (tagV c (wC w)) with
    | some t =>
      .done (setV c (wA w) (ofElems wd (List.zipWith (f wd) (elems wd (getV c (wB w))) (elems wd (getV c (wC w))))) t)
    | none => illegal c
  else illegal c

/-- An element operation of V[B] alone. -/
def vec1 (w : MicroWord) (c : Cell) (form : Bool) (tagged : Bool) (f : Nat → Nat → Nat) : WordEnd :=
  let wd := elemW (wImm w)
  legalIf c (form && reg (wA w) && reg (wB w) && wC w == 0 && (tagged || tagV c (wB w) == 0))
    (.done (setV c (wA w) (ofElems wd ((elems wd (getV c (wB w))).map (f wd))) (tagV c (wB w))))

/-- Both sources public. -/
def noTag (a b : Nat) : Option Nat := if a = 0 ∧ b = 0 then some 0 else none

/-- The value of an element as a signed integer. -/
def sElem (w v : Nat) : Int := if v.testBit (w - 1) then (v : Int) - 2 ^ w else v

/-- An integer as an element. -/
def toElem (w : Nat) (v : Int) : Nat := (v % (2 ^ w : Int)).toNat

/-- VADD. -/
def opVadd (_ : CellCtx) (w : MicroWord) (c : Cell) : WordEnd :=
  vec2 w c (formVVV w) joinTag (fun wd a b => (a + b) % 2 ^ wd)

/-- VSUB. -/
def opVsub (_ : CellCtx) (w : MicroWord) (c : Cell) : WordEnd :=
  vec2 w c (formVVV w) joinTag (fun wd a b => (a + (2 ^ wd - b)) % 2 ^ wd)

/-- VADDM: one conditional subtraction of q (R220). -/
def opVaddm (_ : CellCtx) (w : MicroWord) (c : Cell) : WordEnd :=
  let q := c.vmod.toNat
  vec2 w c (formVVV w) joinTag (fun wd a b => (if q ≤ a + b then a + b - q else a + b) % 2 ^ wd)

/-- VSUBM: one conditional addition of q (R220). -/
def opVsubm (_ : CellCtx) (w : MicroWord) (c : Cell) : WordEnd :=
  let q := c.vmod.toNat
  vec2 w c (formVVV w) joinTag
    (fun wd a b => toElem wd (if (a : Int) - b < 0 then (a : Int) - b + q else (a : Int) - b))

/-- Clamp an exact result to the element's range (R220). -/
def clampElem (signed : Bool) (w : Nat) (v : Int) : Nat :=
  if signed then toElem w (max (-(2 ^ (w - 1))) (min v (2 ^ (w - 1) - 1))) else toElem w (max 0 (min v (2 ^ w - 1)))

/-- A saturating operation on exact operands. -/
def satOp (w : MicroWord) (c : Cell) (f : Int → Int → Int) : WordEnd :=
  let s := bit (wImm w) 2
  vec2 w c (wImm w / 8 == 0) noTag
    (fun wd a b => clampElem s wd (if s then f (sElem wd a) (sElem wd b) else f a b))

/-- VADDS. -/
def opVadds (_ : CellCtx) (w : MicroWord) (c : Cell) : WordEnd := satOp w c (· + ·)

/-- VSUBS. -/
def opVsubs (_ : CellCtx) (w : MicroWord) (c : Cell) : WordEnd := satOp w c (· - ·)

/-- VMUL. -/
def opVmul (_ : CellCtx) (w : MicroWord) (c : Cell) : WordEnd :=
  vec2 w c (formVVV w) oneTag (fun wd a b => a * b % 2 ^ wd)

/-- VMULHR: (a × b + 2^(w−1)) >> w, signed (R220). -/
def opVmulhr (_ : CellCtx) (w : MicroWord) (c : Cell) : WordEnd :=
  vec2 w c (formVVV w && (wImm w % 4 == 1 || wImm w % 4 == 2)) noTag
    (fun wd a b => toElem wd ((sElem wd a * sElem wd b + 2 ^ (wd - 1)) / (2 ^ wd : Int)))

/-- VRSHR: round-shift right by s (R220). -/
def opVrshr (_ : CellCtx) (w : MicroWord) (c : Cell) : WordEnd :=
  let s := bits (wImm w) 7 2
  let g := bit (wImm w) 8
  vec1 w c (decide (s < elemW (wImm w))) false
    (fun wd a =>
      if s = 0 then a
      else toElem wd (((if g then sElem wd a else (a : Int)) + 2 ^ (s - 1)) / (2 ^ s : Int)))

/-- VSH: left, or logical right; 0 when s ≥ w. -/
def opVsh (_ : CellCtx) (w : MicroWord) (c : Cell) : WordEnd :=
  let s := bits (wImm w) 7 2
  vec1 w c true true
    (fun wd a => if wd ≤ s then 0 else if bit (wImm w) 8 then a / 2 ^ s else a * 2 ^ s % 2 ^ wd)

/-- VAND. -/
def opVand (_ : CellCtx) (w : MicroWord) (c : Cell) : WordEnd :=
  vec2 w c (formVVV w) oneTag (fun _ a b => a &&& b)

/-- VOR. -/
def opVor (_ : CellCtx) (w : MicroWord) (c : Cell) : WordEnd :=
  vec2 w c (formVVV w) noTag (fun _ a b => a ||| b)

/-- VXOR. -/
def opVxor (_ : CellCtx) (w : MicroWord) (c : Cell) : WordEnd :=
  vec2 w c (formVVV w) joinTag (fun _ a b => a ^^^ b)

/-- The predicates of VCMP. -/
def cmpPred (p w a b : Nat) : Bool :=
  match p with
  | 0 => a == b
  | 1 => a != b
  | 2 => decide (a < b)
  | 3 => decide (sElem w a < sElem w b)
  | 4 => decide (a ≤ b)
  | _ => decide (sElem w a ≤ sElem w b)

/-- VCMP: all ones where the predicate holds; VZ is 1 when every element of the result is 0. -/
def opVcmp (_ : CellCtx) (w : MicroWord) (c : Cell) : WordEnd :=
  let p := bits (wImm w) 4 2
  match vec2 w c (wImm w / 32 == 0 && decide (p < 6)) noTag (fun wd a b => if cmpPred p wd a b then 2 ^ wd - 1 else 0) with
  | .done c' => .done (flagVz c' (getV c' (wA w) == 0))
  | e => e

/-- Compress_d as R221 writes it. -/
def compressD (q d x : Nat) : Nat := (x * 2 ^ (d + 1) + q) / (2 * q) % 2 ^ d

/-- Decompress_d as R221 writes it. -/
def decompressD (q d x : Nat) : Nat := (x % 2 ^ d * 2 * q + 2 ^ d) / 2 ^ (d + 1)

/-- The form of VCOMP and VDECOMP: 16-bit elements, d from 1 to 12. -/
def formComp (w : MicroWord) : Bool :=
  wImm w % 4 == 1 && wImm w / 64 == 0 && decide (1 ≤ bits (wImm w) 5 2) && decide (bits (wImm w) 5 2 ≤ 12)

/-- A free element. -/
def freeElem (c : Cell) (wd k : Nat) : Nat := (freeBits c k).toNat % 2 ^ wd

/-- Elements computed modulo `q`: the spec states none for a modulus of 0, and they are free then (assumption 24). -/
def modElems (c : Cell) (wd q : Nat) (vals : List Nat) : List Nat :=
  if q = 0 then (List.range vals.length).map (freeElem c wd) else vals

/-- The draws `modElems` makes. -/
def drewMod (c : Cell) (q n : Nat) : Cell := if q = 0 then drew c n else c

/-- VCOMP. -/
def opVcomp (_ : CellCtx) (w : MicroWord) (c : Cell) : WordEnd :=
  let q := c.vmod.toNat
  let vals := (elems 16 (getV c (wB w))).map (compressD q (bits (wImm w) 5 2))
  legalIf c (formComp w && reg (wA w) && reg (wB w) && wC w == 0 && tagV c (wB w) == 0)
    (.done (drewMod (setV c (wA w) (ofElems 16 (modElems c 16 q vals)) 0) q 8))

/-- VDECOMP. -/
def opVdecomp (_ : CellCtx) (w : MicroWord) (c : Cell) : WordEnd :=
  vec1 w c (formComp w) false (fun _ a => decompressD c.vmod.toNat (bits (wImm w) 5 2) a)

/-- VPERM: V[A][i] := V[B][V[C][i] mod n]; the indices must be public. -/
def opVperm (_ : CellCtx) (w : MicroWord) (c : Cell) : WordEnd :=
  let wd := elemW (wImm w)
  let src := elems wd (getV c (wB w))
  legalIf c (formVVV w && tagV c (wC w) == 0)
    (.done (setV c (wA w) (ofElems wd ((elems wd (getV c (wC w))).map (fun i => src.getD (i % (128 / wd)) 0)))
      (tagV c (wB w))))

/-- VGATH: read every element, then write V[A] (R222). -/
def opVgath (_ : CellCtx) (w : MicroWord) (c : Cell) : WordEnd :=
  let wd := elemW (wImm w)
  let as := eaElems c w
  legalIf c (formVVV w && tagX c (wB w) == 0 && tagV c (wC w) == 0)
    (match joinTags c as with
      | some t => guardAccess c (wd / 8) as (.done (setV c (wA w) (ofElems wd (as.map (fun a => leNat (cread c a (wd / 8))))) t))
      | none => illegal c)

/-- Write the elements in order of index, so that a shared address keeps the higher one. -/
def scatterAll (n t : Nat) : Cell → List (Nat × Nat) → Cell
  | c, [] => c
  | c, (a, v) :: l => scatterAll n t (storeTagged c a (leBytes n v) t) l

/-- VSCAT (R222). -/
def opVscat (_ : CellCtx) (w : MicroWord) (c : Cell) : WordEnd :=
  let wd := elemW (wImm w)
  let as := eaElems c w
  let t := tagV c (wA w)
  legalIf c (formVVV w && tagX c (wB w) == 0 && tagV c (wC w) == 0 && as.all (fun a => storeTagOk c a t))
    (guardAccess c (wd / 8) as
        (.done (scatterAll (wd / 8) t c (as.zip (elems wd (getV c (wA w)))))))

/-! ### Gadgets (R229) -/

/-- The three shares of a triple, by element. -/
def tripleElems (c : Cell) (wd t : Nat) : List (Nat × Nat × Nat) :=
  (elems wd (getV c (tripleReg t 0))).zip
    ((elems wd (getV c (tripleReg t 1))).zip (elems wd (getV c (tripleReg t 2))))

/-- Recombined Boolean shares. -/
def boolVal (s : Nat × Nat × Nat) : Nat := s.1 ^^^ s.2.1 ^^^ s.2.2
/-- Recombined arithmetic shares modulo `m`. -/
def arithVal (m : Nat) (s : Nat × Nat × Nat) : Nat := (s.1 + s.2.1 + s.2.2) % m

/-- Write a fresh sharing of the values to triple `t`, tagged 1, 2 and 3: two shares are free, the third completes. -/
def writeTriple (c : Cell) (wd t : Nat) (arith : Bool) (vals : List Nat) : Cell :=
  let n := vals.length
  let r1 := (List.range n).map (fun i => freeElem c wd (2 * i))
  let r2 := (List.range n).map (fun i => freeElem c wd (2 * i + 1))
  let last := (List.range n).map (fun i =>
    let v := vals.getD i 0
    let a := r1.getD i 0
    let b := r2.getD i 0
    if arith then (v + 2 * 2 ^ wd - a - b) % 2 ^ wd else (v ^^^ a) ^^^ b)
  let c1 := setV c (tripleReg t 0) (ofElems wd r1) 1
  let c2 := setV c1 (tripleReg t 1) (ofElems wd r2) 2
  drew (setV c2 (tripleReg t 2) (ofElems wd last) 3) (2 * n)

/-- The mask units of 128 bits a gadget draws. -/
def gadgetMask (f : Nat) : Nat :=
  match f with
  | 0 => 2
  | 1 => 3
  | 2 => 12
  | 3 => 6
  | 4 => 16
  | 5 => 20
  | _ => 12

/-- HighBits of FIPS 204 for q = 8,380,417 and a γ2. -/
def highBits (g2 r : Nat) : Nat :=
  let q := 8380417
  let r' := r % q
  let a := 2 * g2
  let r0 := r' % a
  if r0 ≤ g2 then (if r' - r0 = q - 1 then 0 else r' / a)
  else if r' + (a - r0) = q - 1 then 0 else r' / a + 1

/-- The operands a gadget uses are triples 0-4, the others 0, and IMM fits it. -/
def gadgetForm (w : MicroWord) : Bool :=
  let f := bits (wImm w) 8 6
  let p := bits (wImm w) 5 2
  let useA := decide (f ≤ 5)
  let useC := f == 1 || f == 7
  (if useA then decide (wA w ≤ 4) else wA w == 0) && decide (wB w ≤ 4) &&
    (if useC then decide (wC w ≤ 4) else wC w == 0) &&
    (match f with
      | 4 => wImm w % 4 == 1 && decide (1 ≤ p) && decide (p ≤ 12)
      | 5 => wImm w % 4 == 2 && decide (p ≤ 1)
      | _ => p == 0)

/-- Centred absolute value modulo `q`. -/
def centredAbs (q v : Nat) : Nat := min (v % q) (q - v % q)

/-- GADGET: the masked gadgets; too few mask bits stall it (R228, R229). -/
def opGadget (_ : CellCtx) (w : MicroWord) (c : Cell) : WordEnd :=
  let f := bits (wImm w) 8 6
  let wd := elemW (wImm w)
  let q := c.vmod.toNat
  let need := gadgetMask f
  let b := tripleElems c wd (wB w)
  let d := bits (wImm w) 5 2
  let paid := { c with maskLevel := c.maskLevel - need }
  legalIf c (gadgetForm w)
    (if c.maskLevel < need then .stall
     else
      match f with
      | 0 => .done (writeTriple paid wd (wA w) false (b.map boolVal))
      | 1 =>
        .done (writeTriple paid wd (wA w) false
          (List.zipWith (fun x y => boolVal x &&& boolVal y) b (tripleElems c wd (wC w))))
      | 2 => .done (writeTriple paid wd (wA w) false (b.map (arithVal (2 ^ wd))))
      | 3 => .done (writeTriple paid wd (wA w) true (b.map boolVal))
      | 4 =>
        .done (writeTriple (drewMod paid q b.length) wd (wA w) false (modElems paid wd q (b.map (fun s => compressD q d (arithVal q s)))))
      | 5 =>
        let g2 := if d = 0 then 95232 else 261888
        .done (writeTriple paid wd (wA w) false (b.map (fun s => highBits g2 (arithVal 8380417 s))))
      | 6 =>
        .done (flagVz (drewMod paid q 1)
          (if q = 0 then (freeBits paid 0).getLsbD 0 else b.all (fun s => decide (centredAbs q (arithVal q s) < c.vbound.toNat))))
      | _ =>
        .done (flagVz paid ((List.zipWith (fun x y => boolVal x == boolVal y) b (tripleElems c wd (wC w))).all id)))

/-- UNMASK: V[A] := the sum of the shares of triple B, untagged; in the customer window only with CUSTOM_OUT (R231). -/
def opUnmask (_ : CellCtx) (w : MicroWord) (c : Cell) : WordEnd :=
  let wd := elemW (wImm w)
  let b := tripleElems c wd (wB w)
  let q := if bit (wImm w) 2 then c.vmod.toNat else 1
  let vals := if bit (wImm w) 2 then modElems c wd q (b.map (arithVal q)) else b.map boolVal
  legalIf c (reg (wA w) && decide (wB w ≤ 4) && wC w == 0 && wImm w / 8 == 0 && (!custPc c || c.customOut))
    (.done (drewMod (setV c (wA w) (ofElems wd vals) 0) q b.length))

end Sys2Proof.Machine
end

