-- ==== Sys2Proof/Machine/Ntt.lean ====
section
/-! DEFINITION. The number-theoretic transforms of FIPS 203 and FIPS 204 and the pointwise operations of the polynomial
unit (R225), on lists of coefficients. -/

namespace Sys2Proof.Machine

/-- The low `w` bits of `v` in reverse order. -/
def bitRev : Nat → Nat → Nat
  | 0, _ => 0
  | w + 1, v => (v % 2) * 2 ^ w + bitRev w (v / 2)

/-- Addition modulo `q`. -/
def addQ (q a b : Nat) : Nat := (a + b) % q
/-- Subtraction modulo `q`. -/
def subQ (q a b : Nat) : Nat := (a + (q - b % q)) % q

/-- A butterfly of the forward transform on the two halves of one block. -/
def fwdBlock (q z : Nat) (lo hi : List Nat) : List Nat :=
  let t := hi.map (fun h => z * h % q)
  List.zipWith (addQ q) lo t ++ List.zipWith (subQ q) lo t

/-- A butterfly of the inverse transform. -/
def invBlock (q z : Nat) (lo hi : List Nat) : List Nat :=
  List.zipWith (addQ q) lo hi ++ List.zipWith (fun l h => z * subQ q h l % q) lo hi

/-- One layer: `n` blocks of two halves of `len` coefficients; block number `b` uses the factor `z b`. -/
def layer (f : Nat → List Nat → List Nat → List Nat) (z : Nat → Nat) (len : Nat) : Nat → Nat → List Nat → List Nat
  | 0, _, _ => []
  | n + 1, b, l => f (z b) (l.take len) ((l.drop len).take len) ++ layer f z len n (b + 1) (l.drop (2 * len))

/-- The layers of the forward transform: `k` of them are left, the present one has `2 ^ lv` blocks. -/
def fwdLayers (q root w : Nat) : Nat → Nat → List Nat → List Nat
  | 0, _, l => l
  | k + 1, lv, l =>
    fwdLayers q root w k (lv + 1)
      (layer (fwdBlock q) (fun b => root ^ bitRev w (2 ^ lv + b) % q) (l.length / 2 ^ (lv + 1)) (2 ^ lv) 0 l)

/-- The layers of the inverse transform, from the one with `2 ^ (k - 1)` blocks down. -/
def invLayers (q root w : Nat) : Nat → List Nat → List Nat
  | 0, l => l
  | k + 1, l =>
    invLayers q root w k
      (layer (invBlock q) (fun b => root ^ bitRev w (2 ^ (k + 1) - 1 - b) % q) (l.length / 2 ^ (k + 1)) (2 ^ k) 0 l)

/-- Exchange two elements of a list. -/
def swapAt (l : List Nat) (p : Nat × Nat) : List Nat :=
  if p.1 < l.length ∧ p.2 < l.length then (l.set p.1 (l.getD p.2 0)).set p.2 (l.getD p.1 0) else l

/-- The exchanges that bring a transform modulo 12,289 into the order the device holds it in, and back (R225). -/
def toDevice (l : List Nat) : List Nat := (Config.nttSwaps l.length).foldl swapAt l
/-- Back from the device's order. -/
def fromDevice (l : List Nat) : List Nat := (Config.nttSwaps l.length).reverse.foldl swapAt l

/-- A primitive `2 * 2 ^ k`-th root of unity modulo 12,289 (11 is a primitive root of that prime). -/
def root12289 (k : Nat) : Nat := 11 ^ (12288 / 2 ^ (k + 1)) % 12289

/-- The forward transform of FIPS 203 (q = 3,329, 7 layers) or FIPS 204 (q = 8,380,417, 8 layers) on 256 coefficients, and for q = 12,289
the negacyclic transform in an order the spec leaves to the device (R225, log entry 51); the other lengths of the first two moduli have no
stated transform. -/
def nttFwd (q : Nat) (l : List Nat) : List Nat :=
  let r := l.map (· % q)
  if q = 3329 ∧ l.length = 256 then fwdLayers q 17 7 7 0 r
  else if q = 8380417 ∧ l.length = 256 then fwdLayers q 1753 8 8 0 r
  else if q = 12289 then toDevice (fwdLayers q (root12289 l.length.log2) l.length.log2 l.length.log2 0 r)
  else (List.range l.length).map (fun i => Config.stdCoef .ntt q r [] i % q)

/-- The inverse transform, scaled. -/
def nttInv (q : Nat) (l : List Nat) : List Nat :=
  let r := l.map (· % q)
  if q = 3329 ∧ l.length = 256 then (invLayers q 17 7 7 r).map (fun a => a * 3303 % q)
  else if q = 8380417 ∧ l.length = 256 then (invLayers q 1753 8 8 r).map (fun a => a * 8347681 % q)
  else if q = 12289 then
    (invLayers q (root12289 l.length.log2) l.length.log2 l.length.log2 (fromDevice r)).map (fun a => a * 6145 ^ l.length.log2 % q)
  else (List.range l.length).map (fun i => Config.stdCoef .intt q r [] i % q)

/-- The base-case multiplication of FIPS 203 on pairs of coefficients, from pair number `i` on. -/
def basePairs (q : Nat) : Nat → List Nat → List Nat → List Nat
  | i, a0 :: a1 :: a, b0 :: b1 :: b =>
    let g := 17 ^ (2 * bitRev 7 i + 1) % q
    (a0 * b0 + a1 * b1 % q * g) % q :: (a0 * b1 + a1 * b0) % q :: basePairs q (i + 1) a b
  | _, _, _ => []

/-- The product of two coefficient lists: pointwise, or base-case. -/
def polyMul (q : Nat) (base : Bool) (a b : List Nat) : List Nat :=
  let a' := a.map (· % q)
  let b' := b.map (· % q)
  if base then
    if a.length = 256 then basePairs q 0 a' b'
    else (List.range a.length).map (fun i => Config.stdCoef .baseMul q a' b' i % q)
  else List.zipWith (fun x y => x * y % q) a' b'

/-- Sum of coefficient lists modulo `q`. -/
def polyAdd (q : Nat) (a b : List Nat) : List Nat := List.zipWith (fun x y => (x % q + y % q) % q) a b
/-- Difference of coefficient lists modulo `q`. -/
def polySub (q : Nat) (a b : List Nat) : List Nat := List.zipWith (fun x y => subQ q (x % q) (y % q)) a b

end Sys2Proof.Machine
end

