-- ==== Sys2Proof/Machine/CellPoly.lean ====
section
/-! DEFINITION. The polynomial unit's words (R199, R225, R226): coefficients are 32-bit little-endian words. -/

namespace Sys2Proof.Machine

/-- Read `n` coefficients. -/
def readPoly (c : Cell) (a : Nat) : Nat → List Nat
  | 0 => []
  | n + 1 => leNat (cread c a 4) :: readPoly c (a + 4) n

/-- Write coefficients with a tag. -/
def writePoly (t : Nat) : Cell → Nat → List Nat → Cell
  | c, _, [] => c
  | c, a, v :: l => writePoly t (storeTagged c a (leBytes 4 v) t) (a + 4) l

/-- Every line of the operand may take a store with tag `t`. -/
def polyStoreOk (c : Cell) (a n t : Nat) : Bool := (linesOf a (4 * n)).all (fun l => storeTagOk c l t)

/-- The common tag of an operand's lines. -/
def polyTag (c : Cell) (a n : Nat) : Option Nat := joinTags c (linesOf a (4 * n))

/-- The immediate of a polynomial word: n code below 3, IMM[8:6] 0, IMM[5] only on PMUL and PMAC with q = 3,329, and for
code 3 an odd PU_Q of at least 3 (R225). -/
def polyForm (c : Cell) (w : MicroWord) (transform mul : Bool) : Bool :=
  let im := wImm w
  bits im 3 2 != 3 && im / 64 == 0 && (!bit im 5 || (mul && im % 4 == 0)) &&
    (im % 4 != 3 || (!transform && c.puq.toNat % 2 == 1 && decide (3 ≤ c.puq.toNat)))

/-- The operand of `n` coefficients at `a` lies in scratch, aligned: the lanes reach the scratch banks only (R199). -/
def polyAddrs (a n : Nat) : List Nat := (List.range n).map (fun i => a + 4 * i)

/-- An access the polynomial unit may not make: outside scratch or misaligned. -/
def polyGuard (c : Cell) (as : List (Nat × Nat)) (e : WordEnd) : WordEnd :=
  match as.find? (fun p => p.1 % 4 != 0 || decide (0x10000 < p.1 + 4 * p.2)) with
  | some p =>
    let i := if p.1 % 4 ≠ 0 then 0 else (0x10000 - min p.1 0x10000) / 4
    .check (recordFault c false (if p.1 % 4 ≠ 0 then 3 else 2) i (p.1 + 4 * i)) 5
  | none => e

/-- Bank 0 holds `n` coefficients from `a`. -/
def inBank (b a n : Nat) : Bool := decide (b * 0x4000 ≤ a) && decide (a + 4 * n ≤ (b + 1) * 0x4000)

/-- The projection of a coefficient list by the present vector, modulo `q` (R226). -/
def projection (c : Cell) (q : Nat) (l : List Nat) : Nat :=
  (List.zipWith (fun i v => (Config.freeWord 1 (c.projVec + i)).toNat % q * v) (List.range l.length) l).sum % q

/-- A masked operation's share of the projections (R226): that of each lane's inputs, carried through the operation, and that of the
outputs it left in its bank from address `a`. -/
def project (q n : Nat) (ins : List (List Nat)) (a : Nat) (c : Cell) : Cell :=
  let sum : LaneSums :=
    { q, ins := ins.map (projection c q),
      outs := (List.range 3).map (fun i => projection c q (readPoly c (a + i * 0x4000) n)) }
  { c with unchecked := true, projs := c.projs ++ [sum] }

/-- Run one polynomial operation. `f` combines the share number, the present destination, the first and the second
source. -/
def runPoly (w : MicroWord) (c : Cell) (transform mul needA useC : Bool)
    (f : Nat → List Nat → List Nat → List Nat → List Nat) : WordEnd :=
  let n := polyN w
  let a := (getX c (wA w)).toNat
  let b := (getX c (wB w)).toNat
  let d := if useC then (getX c (wC w)).toNat else 0
  let src (p : Nat) : List Nat := readPoly c p n
  if polyForm c w transform mul && reg (wA w) && reg (wB w) && (if useC then reg (wC w) else wC w == 0) &&
      tagX c (wA w) == 0 && tagX c (wB w) == 0 && (!useC || tagX c (wC w) == 0) then
    if bit (wImm w) 4 then
      polyGuard c ([(a, n), (b, n)] ++ if useC then [(d, n)] else [])
        (legalIf c
          (inBank 0 a n && inBank 0 b n && (!useC || inBank 3 d n) &&
            (!useC || polyTag c d n == some 0) &&
            (List.range 3).all (fun i =>
              match polyTag c (b + i * 0x4000) n with
              | some t => polyStoreOk c (a + i * 0x4000) n t
              | none => false))
          (let s2 := if useC then src d else []
           let one (i : Nat) : Nat × List Nat × Nat :=
            (a + i * 0x4000, f i (if needA then src (a + i * 0x4000) else []) (src (b + i * 0x4000)) s2,
              (polyTag c (b + i * 0x4000) n).getD 0)
           .done (project (polyQ c w) n ((List.range 3).map (fun i => (one i).2.1)) a
             ((List.range 3).foldl (fun c' i => writePoly (one i).2.2 c' (one i).1 (one i).2.1) c))))
    else
      polyGuard c ([(a, n), (b, n)] ++ if useC then [(d, n)] else [])
        (match polyTag c b n, (if useC then polyTag c d n else some 0), (if needA then polyTag c a n else some 0) with
          | some tb, some td, some ta =>
            match joinTag tb td with
            | some t' =>
              match joinTag t' ta with
              | some t =>
                legalIf c (polyStoreOk c a n t)
                  (.done (writePoly t c a (f 0 (if needA then src a else []) (src b) (if useC then src d else []))))
              | none => illegal c
            | none => illegal c
          | _, _, _ => illegal c)
  else illegal c

/-- NTT. -/
def opNtt (_ : CellCtx) (w : MicroWord) (c : Cell) : WordEnd :=
  runPoly w c true false false false (fun _ _ b _ => nttFwd (polyQ c w) b)

/-- INTT. -/
def opIntt (_ : CellCtx) (w : MicroWord) (c : Cell) : WordEnd :=
  runPoly w c true false false false (fun _ _ b _ => nttInv (polyQ c w) b)

/-- PMUL. -/
def opPmul (_ : CellCtx) (w : MicroWord) (c : Cell) : WordEnd :=
  runPoly w c false true false true (fun _ _ b d => polyMul (polyQ c w) (bit (wImm w) 5) b d)

/-- PMAC. -/
def opPmac (_ : CellCtx) (w : MicroWord) (c : Cell) : WordEnd :=
  runPoly w c false true true true
    (fun _ a b d => polyAdd (polyQ c w) a (polyMul (polyQ c w) (bit (wImm w) 5) b d))

/-- PADD: in masked mode the public operand joins share 0 (assumption 20). -/
def opPadd (_ : CellCtx) (w : MicroWord) (c : Cell) : WordEnd :=
  runPoly w c false false false true
    (fun i _ b d => if i = 0 then polyAdd (polyQ c w) b d else b.map (· % polyQ c w))

/-- PSUB. -/
def opPsub (_ : CellCtx) (w : MicroWord) (c : Cell) : WordEnd :=
  runPoly w c false false false true
    (fun i _ b d => if i = 0 then polySub (polyQ c w) b d else b.map (· % polyQ c w))

end Sys2Proof.Machine
end

