-- ==== Sys2Proof/Machine/CellScalar.lean ====
section
/-! DEFINITION. The scalar operations of the microword: arithmetic, logic, shifts, compare, cell registers, calls (R207,
R212 to R215). -/

namespace Sys2Proof.Machine

/-- NOP. -/
def opNop (_ : CellCtx) (w : MicroWord) (c : Cell) : WordEnd :=
  legalIf c (wA w == 0 && wB w == 0 && wC w == 0 && wImm w == 0) (.done c)

/-- Two tagged sources may meet in the same share (ADD, SUB, XOR: R230). -/
def opJoin (w : MicroWord) (c : Cell) (f : W64 → W64 → Cell → Nat → Cell) : WordEnd :=
  if formRRR w then
    match joinTag (tagX c (wB w)) (tagX c (wC w)) with
    | some t => .done (f (getX c (wB w)) (getX c (wC w)) c t)
    | none => illegal c
  else illegal c

/-- ADD: X[A] := X[B] + X[C]. -/
def opAdd (_ : CellCtx) (w : MicroWord) (c : Cell) : WordEnd :=
  opJoin w c (fun a b c t => flagsZNC (setX c (wA w) (a + b) t) (a + b) (carryAdd a b) t)

/-- SUB: X[A] := X[B] − X[C]. -/
def opSub (_ : CellCtx) (w : MicroWord) (c : Cell) : WordEnd :=
  opJoin w c (fun a b c t => flagsZNC (setX c (wA w) (a - b) t) (a - b) (carrySub a b) t)

/-- XOR. -/
def opXor (_ : CellCtx) (w : MicroWord) (c : Cell) : WordEnd :=
  opJoin w c (fun a b c t => flagsZN (setX c (wA w) (a ^^^ b) t) (a ^^^ b) t)

/-- ADDI: X[A] := X[B] + sext(IMM); its source must be public. -/
def opAddi (_ : CellCtx) (w : MicroWord) (c : Cell) : WordEnd :=
  let a := getX c (wB w)
  let r := a + immS w
  legalIf c (reg (wA w) && reg (wB w) && wC w == 0 && tagX c (wB w) == 0)
    (.done (flagsZNC (setX c (wA w) r 0) r (carryAdd a (immS w)) 0))

/-- AND: one tagged source with a public second one. -/
def opAnd (_ : CellCtx) (w : MicroWord) (c : Cell) : WordEnd :=
  if formRRR w then
    match oneTag (tagX c (wB w)) (tagX c (wC w)) with
    | some t =>
      let r := getX c (wB w) &&& getX c (wC w)
      .done (flagsZN (setX c (wA w) r t) r t)
    | none => illegal c
  else illegal c

/-- A scalar operation of two public sources that sets Z and N. -/
def opPublic (w : MicroWord) (c : Cell) (f : W64 → W64 → W64) : WordEnd :=
  let r := f (getX c (wB w)) (getX c (wC w))
  legalIf c (formRRR w && tagX c (wB w) == 0 && tagX c (wC w) == 0) (.done (flagsZN (setX c (wA w) r 0) r 0))

/-- OR. -/
def opOr (_ : CellCtx) (w : MicroWord) (c : Cell) : WordEnd := opPublic w c (· ||| ·)

/-- MUL: low 64 bits of the product. -/
def opMul (_ : CellCtx) (w : MicroWord) (c : Cell) : WordEnd := opPublic w c (· * ·)

/-- MULHU: high 64 bits of the unsigned product. -/
def opMulhu (_ : CellCtx) (w : MicroWord) (c : Cell) : WordEnd :=
  opPublic w c (fun a b => BitVec.ofNat 64 (a.toNat * b.toNat / 2 ^ 64))

/-- A shift of X[B] by k. -/
def opShift (w : MicroWord) (c : Cell) (f : W64 → Nat → W64) : WordEnd :=
  if formShift w then
    match oneTag (tagX c (wB w)) (shiftTag c w) with
    | some t =>
      let r := f (getX c (wB w)) (shiftCount c w)
      .done (flagsZN (setX c (wA w) r t) r t)
    | none => illegal c
  else illegal c

/-- SHL. -/
def opShl (_ : CellCtx) (w : MicroWord) (c : Cell) : WordEnd := opShift w c (fun a k => a <<< k)

/-- SHR, logical. -/
def opShr (_ : CellCtx) (w : MicroWord) (c : Cell) : WordEnd := opShift w c (fun a k => a >>> k)

/-- SAR, arithmetic. -/
def opSar (_ : CellCtx) (w : MicroWord) (c : Cell) : WordEnd := opShift w c (fun a k => a.sshiftRight k)

/-- LDS: X[A] := (X[A] << 9) or zext(IMM). -/
def opLds (_ : CellCtx) (w : MicroWord) (c : Cell) : WordEnd :=
  let r := (getX c (wA w) <<< 9) ||| BitVec.ofNat 64 (wImm w)
  legalIf c (reg (wA w) && wB w == 0 && wC w == 0 && tagX c (wA w) == 0) (.done (flagsZN (setX c (wA w) r 0) r 0))

/-- CMP: flags from X[B] − X[C]. -/
def opCmp (_ : CellCtx) (w : MicroWord) (c : Cell) : WordEnd :=
  let a := getX c (wB w)
  let b := getX c (wC w)
  legalIf c (wA w == 0 && reg (wB w) && reg (wC w) && wImm w == 0 && tagX c (wB w) == 0 && tagX c (wC w) == 0)
    (.done (flagsZNC c (a - b) (carrySub a b) 0))

/-! ### Cell registers (R234) -/

/-- What MFC reads at offset `off`; an offset no register occupies reads 0 (R215). -/
def cellRegRead (num : Nat) (c : Cell) (off : Nat) : W64 :=
  BitVec.ofNat 64 <|
  match off with
  | 0x000 => num
  | 0x004 => c.macroOp * 2 ^ 16 + b2n c.job.isSome * 2 ^ 15 + b2n c.abort * 2 ^ 14 + b2n c.customOut * 2 ^ 13 +
      c.lc * 2 ^ 8 + c.slice
  | 0x008 => cellFlags c
  | 0x010 => b2n c.fValid * 2 ^ 31 + b2n c.fRestart * 2 ^ 30 + c.fKind * 2 ^ 26 + c.fElem * 2 ^ 16 + c.fPc
  | 0x014 => c.fAddr.toNat
  | 0x018 => c.mCause * 2 ^ 28 + (c.mPc / 1024) * 2 ^ 26 + c.mPc
  | 0x020 => c.wdogExp
  | 0x024 => c.jobLim
  | 0x028 => c.timer
  | 0x030 => c.vmod.toNat
  | 0x034 => c.puq.toNat
  | 0x038 => c.vbound.toNat
  | 0x040 => b2n (decide (2 ^ 20 ≤ c.maskOut) && !c.maskStopped) * 2 ^ 31 + b2n c.maskStopped * 2 ^ 30 + c.maskLevel
  | 0x044 => c.maskLow.toNat
  | 0x050 => b2n c.hash.busy.isSome * 2 ^ 31 + b2n c.hash.masked * 2 ^ 30 + c.hash.func
  | 0x058 => c.dma.length
  | 0x060 => b2n c.pwrAborted * 8 + c.pwrTarget
  | 0x070 => (c.msgs.headD 0).toNat
  | _ => 0

/-- A read of CELL_MSG removes the oldest message (RC). -/
def cellRegSide (c : Cell) (off : Nat) : Cell := if off = 0x070 then { c with msgs := c.msgs.tail } else c

/-- What MTC writes at offset `off`: fields that are RO or reserved keep their value (R7, R8, R234). -/
def cellRegWrite (c : Cell) (off : Nat) (v : Nat) : Cell :=
  match off with
  | 0x008 => { c with z := bit v 0, n := bit v 1, c := bit v 2, vz := bit v 3 }
  | 0x028 => { c with timer := v % 2 ^ 32 }
  | 0x030 => { c with vmod := BitVec.ofNat 24 v }
  | 0x034 => { c with puq := BitVec.ofNat 24 v }
  | 0x038 => { c with vbound := BitVec.ofNat 32 v }
  | 0x044 => { c with maskLow := BitVec.ofNat 14 v }
  | 0x060 => { c with pwrTarget := v % 8, pwrAborted := c.pwrAborted && !bit v 3 }
  | _ => c

/-- The offsets a customer-window word may write (R234). -/
def custWritable (off : Nat) : Bool := off == 0x028 || off == 0x030 || off == 0x034 || off == 0x038 || off == 0x044

/-- MFC: X[A] := the register, zero-extended. The cell's number comes with the cell. -/
def opMfc (num : Nat) (_ : CellCtx) (w : MicroWord) (c : Cell) : WordEnd :=
  let off := wImm w * 4
  legalIf c (reg (wA w) && wB w == 0 && wC w == 0)
    (.done (cellRegSide (setX c (wA w) (cellRegRead num c off) 0) off))

/-- MTC: the register := the low 32 bits of X[B]. -/
def opMtc (_ : CellCtx) (w : MicroWord) (c : Cell) : WordEnd :=
  let off := wImm w * 4
  legalIf c (wA w == 0 && reg (wB w) && wC w == 0 && tagX c (wB w) == 0 && (!custPc c || custWritable off))
    (.done (cellRegWrite c off ((getX c (wB w)).toNat % 2 ^ 32)))

/-! ### Calls (R207) -/

/-- CALL: push the return address, go to NEXT. -/
def opCall (_ : CellCtx) (w : MicroWord) (c : Cell) : WordEnd :=
  legalIf c
    (bits w.toNat 41 39 == 0 && wImm w == 0 && decide (c.stack.length < 8) &&
      (!custPc c || decide (0xC00 ≤ wNext w) || gateEntry (wNext w)))
    (.goto { c with stack := wRet w :: c.stack } (wNext w))

/-- RET: pop the return stack; with IMM 1, the fault return of R224, which clears VALID. -/
def opRet (_ : CellCtx) (w : MicroWord) (c : Cell) : WordEnd :=
  if wA w == 0 && wB w == 0 && wC w == 0 && wNext w == 0 then
    match wImm w, c.stack with
    | 0, pc :: st => legalIf c (transferOk c pc) (.goto { c with stack := st } pc)
    | 1, _ => -- With VALID 0 it goes to CELL_FAULT.PC as well: DESIGN CHOICE, log entry 47.
      legalIf c (transferOk c c.fPc) (.goto { c with fValid := false } c.fPc)
    | _, _ => illegal c
  else illegal c

/-- The block control core maps the page of the recorded restartable fault and replies with a message, whose content the spec
leaves open (R224, assumption 21). -/
def coreReply (c : Cell) : Cell :=
  if c.fValid ∧ c.fRestart ∧ 0x100000 ≤ c.fAddr.toNat ∧ c.fAddr.toNat < 0x140000 then
    drew { c with pages := mapSet false c.pages ((c.fAddr.toNat - 0x100000) / 4096) true, msgs := c.msgs ++ [freeBits c 0] } 1
  else c

/-- MSG: send X[B] to the block control core, which holds it; what the core does with it is its firmware's, except the answer to the maker
handler of a restartable fault (R212, R217, R224). -/
def opMsg (_ : CellCtx) (w : MicroWord) (c : Cell) : WordEnd :=
  legalIf c (wA w == 0 && reg (wB w) && wC w == 0 && wImm w == 0 && tagX c (wB w) == 0)
    (.done (coreReply { c with sent := c.sent ++ [getX c (wB w)] }))

/-- PWAIT: illegal in the customer window, while a job is active, and with a TARGET that is 0 or above 4 (R234). -/
def opPwait (_ : CellCtx) (w : MicroWord) (c : Cell) : WordEnd :=
  legalIf c
    (wA w == 0 && wB w == 0 && wC w == 0 && wImm w == 0 && !custPc c && c.job.isNone && decide (1 ≤ c.pwrTarget) &&
      decide (c.pwrTarget ≤ 4))
    (.done { c with pwrAborted := false })

end Sys2Proof.Machine
end

