-- ==== Sys2Proof/Machine/CellRun.lean ====
section
/-! DEFINITION. How a word of microcode runs: parity and legality (R202, R203), the operation, its successor (R204 to R206),
waits (R208 to R210), restartable faults (R224), machine checks (R232, R233) and the end of a macro-op. -/

namespace Sys2Proof.Machine

/-! ### What the job gives its cell -/

/-- The job of cell `n`. -/
def cellJob (s : State) (n : Nat) : Option Job := (getCell s n).job.bind (getJob s)

/-- The key whose expanded form a stream names: 2 that of KEY_HANDLE, 3 the job's peer key, which is the peer-public key it names, else the
second key (R216). -/
def streamKey (j : Job) (stream : Nat) : Option KeyRef :=
  if stream = 2 then j.keys[0]? else (match j.keys.find? (fun k => k.kind == 2) with | some k => some k | none => j.keys[1]?)

/-- The entry behind stream 2 or 3 of cell `n`. -/
def streamEnt (s : State) (n : Nat) (j : Job) (stream : Nat) : Option ExpEnt :=
  (streamKey j stream).bind (fun k => expEntOf s (n / 32) k.handle)

/-- What LOADKEY writes of a key: its masked expanded form where the region's cache holds one that bank 0 can take, else its seed (R217;
DESIGN CHOICE, log entry 50). -/
def loadBytes (s : State) (n : Nat) (k : KeyRef) (seed : List Byte) : List Byte :=
  match expEntOf s (n / 32) k.handle with
  | some e => if k.kind ≠ 2 ∧ e.size ≤ 16 then e.bytes 0 (e.size * 1024) else seed
  | none => seed

/-- What the job gives the microcode of cell `n`. -/
def cellCtx (s : State) (n : Nat) : CellCtx :=
  let room := decide ((getBlock s (n / 8)).bne.queue.length < 32)
  match cellJob s n with
  | some j =>
    let ext := fun i => (match streamEnt s n j i with | some e => e.size * 1024 | none => 0)
    { inLen := j.desc.inLen, outCap := j.desc.outCap, params := j.desc.params,
      keyLens := (j.keys.zip (List.range j.keys.length)).map (fun p => (loadBytes s n p.1 ((heldKey s j p.2).getD [])).length), ext2 := ext 2, ext3 := ext 3, bneRoom := room }
  | none => { inLen := 0, outCap := 0, params := [], keyLens := [], ext2 := 0, ext3 := 0, bneRoom := room }

/-! ### The end of a macro-op -/

/-- The result a customer macro-op leaves (R250, R251): what SET_RESULT and PUT_KEY gave. PUT_KEY's key fills its index at
release, and RESULT takes the generation there. MASKED is set where a key was resolved. -/
def customResult (j : Job) (c : Cell) : JobRes :=
  let n := c.outLen.getD 0
  let r :=
    if j.desc.outCap < n then { JobRes.status0 eCapacity 0 with outNeed := n, result := c.result.toNat }
    else JobRes.done (bytesGet c.outBytes 0 n) c.result.toNat
  let fills : List VolFill := match c.putKey with
    | some k =>
      [{ kind := 3, index := k.index, alg := k.alg, policy := k.policy, value := k.value, pub := [], depth := 0, parent := 0,
         label := [], src := some (.value k.value),
         rooted := !(j.keys.all (fun x => x.kind == 3 && !x.rooted)), hbmMib := 0 }]
    | none => []
  { r with guarantee := if j.keys.isEmpty then 0 else 4, fills }

/-- A customer macro-op ends: its result is staged and the cell wiped (R200, R206). A maker macro-op waits at END for the row of
its command, which stands for its whole microprogram. -/
def endMacro (s : State) (n : Nat) : State :=
  let c := getCell s n
  match c.job with
  | none => modCell s n (fun x => { x with pc := 0, ending := false })
  | some k =>
    match getJob s k with
    | none => s
    | some j =>
      if 0xC0 ≤ c.macroOp then
        let t := freeCells s k
        let r := customResult j c
        if r.status = stOk then stage t j r false
        else endJob t j { Cpl.bare t r.status r.detail n with replays := j.replays, outLen := r.outNeed, result := r.result } 0 false
      else modCell s n (fun x => { x with pc := 1, hold := true, ending := false })

/-- Control reaches `pc`: at END the implicit share check runs first (R226). -/
def enterPc (s : State) (n pc : Nat) : State :=
  let t := modCell s n (fun c => { c with pc := pc, hold := false, stalled := false, wd := 0 })
  if pc = 1 then
    (if (getCell t n).unchecked ∨ (getCell t n).schk then
       modCell t n (fun c => { (if c.unchecked then c.startCheck else c) with ending := true, hold := true })
     else endMacro t n)
  else t

/-! ### Machine checks -/

/-- A machine check of this cause ends a customer job with E_MICROCODE (R232). -/
def customerEnds (cause cond : Nat) : Bool :=
  cause == 4 || cause == 5 || cause == 6 || cause == 7 || (cause == 2 && (cond == 12 || cond == 14))

/-- The fault source of a cause (R467). -/
def checkSource (cause : Nat) : Nat := match cause with | 1 => 1 | 2 => 2 | 3 => 3 | _ => 4

/-- E_MICROCODE. -/
def eMicrocode : Nat := 0x0230

/-- The words of an image as the customer window holds them (R236, R237). -/
def windowOf (img : List Byte) : FMap MicroWord :=
  (List.range (min (fieldLe img 6 2) 1024)).filterMap (fun k =>
    let w := BitVec.ofNat 48 (fieldLe img (1040 + 8 * k) 6)
    if w = 0 then none else some (0xC00 + k, w))

/-- The customer window loaded with an image under a slice's tag (R235). -/
def loadWindow (c : Cell) (n : Nat) (img : List Byte) : Cell :=
  { c with store := mapFilter (fun k _ => decide (k < 0xC00)) c.store ++ windowOf img, winTag := some n, winImage := img }

/-- What a machine check reloads (R232): the customer window from the registered image after a parity error there, the bank of a maker word
from the signed image after a parity error or an illegal word. -/
def reloadBank (c : Cell) (cause : Nat) : Cell :=
  if custPc c then
    (if cause = 1 then (match c.winTag with | some m => loadWindow c m c.winImage | none => c) else c)
  else if cause = 1 ∨ cause = 4 then c.reloadMaker (fun b => b == c.pc / 1024) else c

/-- A machine check of cell `n` at its present word (R232, R233). `cust` says the customer column applies. -/
def machineCheck (s : State) (n cause cond : Nat) (cust : Bool) : State :=
  let c := getCell s n
  let s1 := modCell s n (fun c => { c with mCause := cause, mPc := c.pc })
  let info := cellInfo (getCell s1 n)
  if cust ∧ customerEnds cause cond then
    let t := raiseFault s1 0x09 n info
    match c.job with
    | some k =>
      (match getJob t k with
       | some j => failJob t { j with unit := n } eMicrocode (cause * 2 ^ 12 + c.pc) false
       | none => modCell t n Cell.wipe)
    | none => modCell t n Cell.wipe
  else
    let s2 := modCell s1 n (fun x => reloadBank x cause)
    raiseFault s2 (checkSource cause) n info

/-! ### One word -/

/-- OPs that write X15 when their destination names it. -/
def writesX15 (w : MicroWord) : Bool :=
  let op := wOp w
  (wA w == 15 && ((decide (1 ≤ op) && decide (op ≤ 12)) || op == 0x0E || op == 0x10 || op == 0x2B)) || (wC w == 15 && op == 0x18)

/-- COND fits the OP (R203, R205): 0 on CALL and RET, 15 on PWAIT and there alone; LOOP not with an OP that writes X15. -/
def condLegal (w : MicroWord) : Bool :=
  let op := wOp w
  if op = 0x12 ∨ op = 0x13 then wCond w == 0
  else if op = 0x15 then wCond w == 15
  else wCond w != 15 && !(wCond w == 5 && writesX15 w)

/-- The cell's domain is ACTIVE, it is in service and nothing stops its sequencer. -/
def cellRuns (s : State) (n : Nat) : Bool :=
  let c := getCell s n
  ungated s && !s.flt.fatal && s.chip.mode != .boot && s.chip.mode != .halt && cellServes s n &&
    decide ((getDom s n).state = 0) && (getDom s n).waking.isNone && !c.halted && !c.hold && !c.ending

/-- The successor of a word whose OP is done: the word holds on a wait, or control passes (R204 to R206). -/
def takeNext (s : State) (n : Nat) (w : MicroWord) : State :=
  let c := getCell s n
  match successor c w with
  | none => modCell s n (fun x => { x with hold := true, stalled := false, wd := 0 })
  | some (c', pc) =>
    if transferOk c pc then enterPc (modCell s n (fun _ => c')) n pc
    else machineCheck s n 4 (wCond w) (custPc c)

/-- Run the word at the cell's pc with its operation. -/
def runWord (f : CellCtx → MicroWord → Cell → WordEnd) (s : State) (n : Nat) : State :=
  let c := getCell s n
  let w := mapGet 0 c.store c.pc
  let cust := custPc c
  if !wParityOk w then machineCheck s n 1 (wCond w) cust
  else if !condLegal w then machineCheck s n 4 (wCond w) cust
  else
    match f (cellCtx s n) w c with
    | .done c' => takeNext (modCell s n (fun _ => c')) n w
    | .goto c' pc => enterPc (modCell s n (fun _ => c')) n pc
    | .stall => modCell s n (fun x => if x.stalled then x else { x with stalled := true, wd := 0 })
    | .check c' cause => machineCheck (modCell s n (fun _ => c')) n cause (wCond w) cust
    | .restart elem addr =>
      if c.fValid then machineCheck s n 6 (wCond w) cust
      else enterPc (modCell s n (fun x => recordFault x true 1 elem addr)) n 2

/-- A row of the microword table: the word at the pc of a running cell has that OP, and it runs. A gate is entered as a whole, by
its own row (R249). -/
def runRow (op : Nat) (f : CellCtx → MicroWord → Cell → WordEnd) (n : Nat) (s : State) : Res :=
  known (decide (n < 128))
    (let c := getCell s n
     doIf s (cellRuns s n && !gateEntry c.pc && wOp (mapGet 0 c.store c.pc) == op) (runWord f s n))

def execNop (cell : Nat) (s : State) : Res := runRow 0x00 opNop cell s
def execAdd (cell : Nat) (s : State) : Res := runRow 0x01 opAdd cell s
def execSub (cell : Nat) (s : State) : Res := runRow 0x02 opSub cell s
def execAddi (cell : Nat) (s : State) : Res := runRow 0x03 opAddi cell s
def execAndOp (cell : Nat) (s : State) : Res := runRow 0x04 opAnd cell s
def execOrOp (cell : Nat) (s : State) : Res := runRow 0x05 opOr cell s
def execXor (cell : Nat) (s : State) : Res := runRow 0x06 opXor cell s
def execShl (cell : Nat) (s : State) : Res := runRow 0x07 opShl cell s
def execShr (cell : Nat) (s : State) : Res := runRow 0x08 opShr cell s
def execSar (cell : Nat) (s : State) : Res := runRow 0x09 opSar cell s
def execMul (cell : Nat) (s : State) : Res := runRow 0x0A opMul cell s
def execMulhu (cell : Nat) (s : State) : Res := runRow 0x0B opMulhu cell s
def execLds (cell : Nat) (s : State) : Res := runRow 0x0C opLds cell s
def execCmp (cell : Nat) (s : State) : Res := runRow 0x0D opCmp cell s
def execLd (cell : Nat) (s : State) : Res := runRow 0x0E opLd cell s
def execSt (cell : Nat) (s : State) : Res := runRow 0x0F opSt cell s
def execMfc (cell : Nat) (s : State) : Res := runRow 0x10 (opMfc cell) cell s
def execMtc (cell : Nat) (s : State) : Res := runRow 0x11 opMtc cell s
def execCall (cell : Nat) (s : State) : Res := runRow 0x12 opCall cell s
def execRet (cell : Nat) (s : State) : Res := runRow 0x13 opRet cell s
def execMsg (cell : Nat) (s : State) : Res := runRow 0x14 opMsg cell s
def execDmain (cell : Nat) (s : State) : Res := runRow 0x16 opDmain cell s
def execDmaout (cell : Nat) (s : State) : Res := runRow 0x17 opDmaout cell s
def execLoadkey (cell : Nat) (s : State) : Res := runRow 0x18 opLoadkey cell s
def execSchk (cell : Nat) (s : State) : Res := runRow 0x1A opSchk cell s
def execHinit (cell : Nat) (s : State) : Res := runRow 0x1B opHinit cell s
def execHabs (cell : Nat) (s : State) : Res := runRow 0x1C opHabs cell s
def execHsqz (cell : Nat) (s : State) : Res := runRow 0x1D opHsqz cell s
def execGadget (cell : Nat) (s : State) : Res := runRow 0x1E opGadget cell s
def execUnmask (cell : Nat) (s : State) : Res := runRow 0x1F opUnmask cell s
def execNtt (cell : Nat) (s : State) : Res := runRow 0x20 opNtt cell s
def execIntt (cell : Nat) (s : State) : Res := runRow 0x21 opIntt cell s
def execPmul (cell : Nat) (s : State) : Res := runRow 0x22 opPmul cell s
def execPmac (cell : Nat) (s : State) : Res := runRow 0x23 opPmac cell s
def execPadd (cell : Nat) (s : State) : Res := runRow 0x24 opPadd cell s
def execPsub (cell : Nat) (s : State) : Res := runRow 0x25 opPsub cell s
def execVld (cell : Nat) (s : State) : Res := runRow 0x28 opVld cell s
def execVst (cell : Nat) (s : State) : Res := runRow 0x29 opVst cell s
def execVbcast (cell : Nat) (s : State) : Res := runRow 0x2A opVbcast cell s
def execVext (cell : Nat) (s : State) : Res := runRow 0x2B opVext cell s
def execVadd (cell : Nat) (s : State) : Res := runRow 0x2C opVadd cell s
def execVsub (cell : Nat) (s : State) : Res := runRow 0x2D opVsub cell s
def execVaddm (cell : Nat) (s : State) : Res := runRow 0x2E opVaddm cell s
def execVsubm (cell : Nat) (s : State) : Res := runRow 0x2F opVsubm cell s
def execVadds (cell : Nat) (s : State) : Res := runRow 0x30 opVadds cell s
def execVsubs (cell : Nat) (s : State) : Res := runRow 0x31 opVsubs cell s
def execVmul (cell : Nat) (s : State) : Res := runRow 0x32 opVmul cell s
def execVmulhr (cell : Nat) (s : State) : Res := runRow 0x33 opVmulhr cell s
def execVrshr (cell : Nat) (s : State) : Res := runRow 0x34 opVrshr cell s
def execVsh (cell : Nat) (s : State) : Res := runRow 0x35 opVsh cell s
def execVand (cell : Nat) (s : State) : Res := runRow 0x36 opVand cell s
def execVor (cell : Nat) (s : State) : Res := runRow 0x37 opVor cell s
def execVxor (cell : Nat) (s : State) : Res := runRow 0x38 opVxor cell s
def execVcmp (cell : Nat) (s : State) : Res := runRow 0x39 opVcmp cell s
def execVcomp (cell : Nat) (s : State) : Res := runRow 0x3A opVcomp cell s
def execVdecomp (cell : Nat) (s : State) : Res := runRow 0x3B opVdecomp cell s
def execVperm (cell : Nat) (s : State) : Res := runRow 0x3C opVperm cell s
def execVgath (cell : Nat) (s : State) : Res := runRow 0x3D opVgath cell s
def execVscat (cell : Nat) (s : State) : Res := runRow 0x3E opVscat cell s

/-- A read of CELL_MSG: MFC at offset 0x070 removes the oldest message (R234). -/
def execCellMsgRead (cell : Nat) (s : State) : Res :=
  known (decide (cell < 128))
    (let c := getCell s cell
     let w := mapGet 0 c.store c.pc
     doIf s (cellRuns s cell && !gateEntry c.pc && wOp w == 0x10 && wImm w == 0x1C) (runWord (opMfc cell) s cell))

/-- A reserved OP is illegal (R203, R212). -/
def execReservedOp (cell : Nat) (s : State) : Res :=
  known (decide (cell < 128))
    (let c := getCell s cell
     let op := wOp (mapGet 0 c.store c.pc)
     doIf s (cellRuns s cell && !gateEntry c.pc && (op == 0x26 || op == 0x27 || op == 0x3F)) (runWord (fun _ _ c => illegal c) s cell))

/-- Some slice holds an LC0 reservation (R74, R120). -/
def lc0Reserved (s : State) : Bool := s.slices.any (fun e => e.2.state != .absent && decide (0 < e.2.cfg.lc0Cells))

/-- Another cell of the region stays at DUSK or above, as R74 requires while a slice holds an LC0 reservation. -/
def regionKeeps (s : State) (n : Nat) : Bool :=
  !regionOnline s (n / 32) || !lc0Reserved s ||
    (List.range 32).any (fun i => 32 * (n / 32) + i != n && decide ((getDom s (32 * (n / 32) + i)).state ≤ 1))

/-- PWAIT: the cell enters the state in CELL_PWR.TARGET and holds until it wakes (R498 to R500). `core` is what the block control
core has written there after the microcode's own MTC, if it has (R234); the cores keep a cell of the region awake for LC0 (R74). -/
def execPwait (cell : Nat) (core : Option Nat) (s : State) : Res :=
  known (decide (cell < 128))
    (let c := getCell s cell
     let target := core.getD c.pwrTarget
     let t := modCell s cell (fun x => { x with pwrTarget := target })
     let u := runWord opPwait t cell
     let d := getDom s cell
     -- The word holds on COND 15 and the entry begins; a machine check instead leaves the domain as it is.
     doIf s (cellRuns s cell && !gateEntry c.pc && wOp (mapGet 0 c.store c.pc) == 0x15 && decide (target < 8) &&
         (decide (target ≤ 1) || decide (4 < target) || regionKeeps s cell) && !d.forced && !d.failed)
       (if (getCell u cell).hold then
          modDom u cell (fun x => Dom.latched { x with state := target, target := target, entry := some s.uptime, aborted := false } s cell target)
        else u))

end Sys2Proof.Machine
end

