-- ==== Sys2Proof/Machine/CellEvents.lean ====
section
/-! DEFINITION. What happens beside a cell's words: transfers, the hash unit, share checks, waits and time-outs, the run limit, aborts,
mask reseeds, and the service gates (R216, R217, R224 to R228, R232, R249, R250). -/

namespace Sys2Proof.Machine

/-! ### Transfers -/

/-- Write a string as three Boolean shares at an address and its images, tagged 1, 2 and 3: two shares are free. -/
def writeShares (c : Cell) (a : Nat) (v : List Byte) : Cell :=
  let n := v.length
  let r1 := freeByteList 1 c.draws n
  let r2 := freeByteList 1 (c.draws + n) n
  let put := fun (x : Cell) (i : Nat) (bs : List Byte) =>
    (linesOf (a + i * 0x4000) n).foldl (fun y l => setTagAt y l (i + 1)) (cwrite x (a + i * 0x4000) bs)
  drew (put (put (put c 0 (xorBytes (xorBytes v r1) r2)) 1 r1) 2 r2) (2 * n)

/-- The bytes a transfer moves: job input, the entry of an expanded key (stream 2 or 3), the window, cell memory, or a key. -/
def dmaBytes (s : State) (n : Nat) (j : Option Job) (op : DmaOp) (input : List Byte) : List Byte :=
  let c := getCell s n
  match op.kind with
  | 0 =>
    (match op.stream with
     | 0 => sub input op.offset op.len
     | 4 => bytesGet c.win op.offset op.len
     | k => (match j.bind (fun j => streamEnt s n j k) with
        | some e => e.bytes op.offset op.len
        | none => freeByteList 1 c.draws op.len))
  | 1 => cread c op.addr op.len
  | _ =>
    (match j with
     | some j => (match j.keys[op.stream]? with
        | some k => padTo op.len (loadBytes s n k ((heldKey s j op.stream).getD []))
        | none => [])
     | none => [])

/-- Where a transfer puts its bytes, with the tags they carry (R216, R217, R230). -/
def dmaPut (s : State) (n : Nat) (j : Option Job) (op : DmaOp) (bs : List Byte) : State :=
  let c := getCell s n
  let tagged := fun (x : Cell) => (dmaTags c op).foldl (fun y p => if p.2.getD 0 = 0 then y else setTagAt y p.1 (p.2.getD 0)) x
  match op.kind, op.stream with
  | 0, k => modCell s n (fun x => drew (tagged (cwrite x op.addr bs)) (if k = 2 ∨ k = 3 then op.len else 0))
  | 1, 1 => modCell s n (fun x => { x with outBytes := bytesSet x.outBytes op.offset bs })
  | 1, 4 => modCell s n (fun x => tagged { x with win := bytesSet x.win op.offset bs })
  | 1, k =>
    (match j.bind (fun j => streamKey j k) with
     | some key => modRegion s (n / 32) (fun r =>
        { r with expanded := r.expanded.map (fun e => if e.handle = key.handle then e.store op.offset bs else e) })
     | none => s)
  | _, _ => modCell s n (fun x => writeShares x op.addr bs)

/-- A transfer that was issued takes effect. The tags are looked at again: lines may have changed since the issue (R231, R246). -/
def transfer (s : State) (n : Nat) (op : DmaOp) (input : List Byte) : State :=
  let cust := decide (0xC0 ≤ (getCell s n).macroOp)
  if op.kind ≤ 1 ∧ !dmaTagsOk (getCell s n) op cust then machineCheck s n 4 0 cust
  else dmaPut s n (cellJob s n) op (dmaBytes s n (cellJob s n) op input)

/-- The oldest transfer of a cell finishes. Reading the job input can end the job: a failed or poisoned read (R101), or a scatter
list shorter or longer than IN_LEN (R289). -/
def execDmaTransferDone (cell : Nat) (io : JobIo) (s : State) : Res :=
  known (decide (cell < 128))
    (let c := getCell s cell
     match c.dma with
     | [] => .next s
     | op :: rest =>
       let t := modCell s cell (fun x => { x with dma := rest })
       let u :=
         if op.kind = 0 ∧ op.stream = 0 then
           match cellJob s cell with
           | some j =>
             -- The stream is read up to the transfer's end; what was delivered before brings no event again (R288).
             let upto := op.offset + op.len
             let i := jobInputTo j io upto
             withReadAt s j op.offset op.len
               (if i.status = stOk then transfer (putJob t { j with got := max j.got upto }) cell op i.bytes
                else stageFail t { j with unit := cell } io i.fail)
           | none => t
         else transfer t cell op []
       doIf s (ungated s && !c.halted) u)

/-! ### Hash unit -/

/-- Output bytes 0 to `n` − 1 of the hash unit; what the function does not define is free (R227). -/
def hashOut (h : HashUnit) (draws n : Nat) : List Byte :=
  let fixed := fun (d : List Byte) => d.take n ++ freeByteList 1 draws (n - d.length)
  if h.odd then freeByteList 1 draws n
  else
    match h.func with
    | 0 => fixed (sha256 h.input)
    | 1 => fixed (sha384 h.input)
    | 2 => fixed (sha512 h.input)
    | 3 => fixed (sha3_256 h.input)
    | 4 => fixed (sha3_384 h.input)
    | 5 => fixed (sha3_512 h.input)
    | 6 => shake128 h.input n
    | 7 => shake256 h.input n
    | _ =>
      if h.rate = 0 ∨ h.input.length % h.rate ≠ 0 then freeByteList 1 draws n
      else
        (kSqueeze h.rate ((n + h.rate - 1) / h.rate)
          (kAbsorbAll h.rate (h.input.length / h.rate) 0 h.input)).take n

/-- The hash unit finishes an absorb or a squeeze. Masked Keccak draws 1,600 mask bits per round and waits for the pool to supply them: until
all are drawn the unit stays busy (R227, R228). Shares are absorbed recombined and output re-shared (R248). -/
def execHashOpDone (cell : Nat) (s : State) : Res :=
  known (decide (cell < 128))
    (let c := getCell s cell
     match c.hash.busy with
     | none => .next s
     | some (sq, a, n) =>
       let h := c.hash
       let pay := min h.due c.maskLevel
       let c' : Cell :=
         if pay < h.due then { c with hash := { h with due := h.due - pay } }
         else if sq then
           let out := (hashOut h c.draws (h.squeezed + n)).drop h.squeezed
           let d := drew c (h.squeezed + n)
           let e := if h.masked then writeShares d a out else cwrite d a out
           { e with hash := { h with busy := none, due := 0, squeezed := h.squeezed + n } }
         else
           let tagged := (linesOf a n).any (fun l => tagAt c l != 0)
           let bs := if h.masked ∧ tagged then
               xorBytes (xorBytes (cread c a n) (cread c (a + 0x4000) n)) (cread c (a + 0x8000) n)
             else cread c a n
           { c with hash := { h with busy := none, due := 0, input := h.input ++ bs, odd := h.odd || decide (0 < h.squeezed) } }
       doIf s (ungated s && !c.halted) (modCell s cell (fun _ => { c' with maskLevel := c.maskLevel - pay })))

/-! ### Share check, waits -/

/-- A share check ends; a non-zero sum raises SHARE (R226). The sums are those the lanes accumulated; `ok` false stands for a fault in the
combining itself. -/
def execSchkDone (cell : Nat) (ok : Bool) (s : State) : Res :=
  known (decide (cell < 128))
    (let c := getCell s cell
     let w := mapGet 0 c.store c.pc
     let t := modCell s cell (fun x => { x with schk := false })
     doIf s (ungated s && !c.halted && c.schk)
       (if !ok || !c.schkOk then machineCheck t cell 3 (wCond w) (custPc c)
        else if c.ending then endMacro t cell
        else t))

/-- A holding word's condition holds: its successor is taken (R204, R210). A word at END holds for its command's row. -/
def execWaitConditionMet (cell : Nat) (s : State) : Res :=
  known (decide (cell < 128))
    (let c := getCell s cell
     let w := mapGet 0 c.store c.pc
     let t := modCell s cell (fun x => { x with hold := false, wd := 0 })
     doIf s (ungated s && !c.halted && c.hold && !c.ending && decide (8 ≤ wCond w) && condHolds c (wCond w))
       (if transferOk c (wNext w) then enterPc t cell (wNext w) else machineCheck t cell 4 (wCond w) (custPc c)))

/-- The watchdog count reaches 2^EXP while the word still holds or stalls, or a gate still runs; a condition that holds wins (R209, R210). -/
def execWaitTimeout (cell : Nat) (s : State) : Res :=
  known (decide (cell < 128))
    (let c := getCell s cell
     let w := mapGet 0 c.store c.pc
     doIf s (ungated s && !c.halted && decide (2 ^ c.wdogExp ≤ c.wd) &&
         (c.stalled || (c.job.isSome && gateEntry c.pc && !c.hold) || (c.hold && decide (8 ≤ wCond w) && !condHolds c (wCond w))))
       -- Only a wait on COND 12 or 14 is the customer's own (R232).
       (machineCheck s cell 2 (if c.hold then wCond w else 0) (custPc c)))

/-- CELL_TIMER counts down to 0; a word that holds on it goes on (R204, R234). The tick of the model is 1.6 cycles: the last cycles
of a count are this row's. -/
def execCellTimerExpire (cell : Nat) (s : State) : Res :=
  known (decide (cell < 128))
    (let c := getCell s cell
     let w := mapGet 0 c.store c.pc
     let t := modCell s cell (fun x => { x with timer := 0 })
     doIf s (ungated s && !c.halted && decide (c.timer ≤ 2))
       (if c.hold && wCond w == 12 then
          (if transferOk c (wNext w) then enterPc t cell (wNext w) else machineCheck t cell 4 (wCond w) (custPc c))
        else t))

/-- CELL_JOBLIM reaches 0 in the customer window (R232, R234). -/
def execJoblim (cell : Nat) (s : State) : Res :=
  known (decide (cell < 128))
    (let c := getCell s cell
     doIf s (ungated s && !c.halted && c.job.isSome && custPc c && decide (c.jobLim = 0)) (machineCheck s cell 7 0 true))

/-- CELL_JOB.ABORT is set and the job reaches its abort check, or a customer job a word boundary: it is squashed and the cell returns
to 0x000 with CELL_FAULT cleared (R139, R224, R232). -/
def execCellJobAbort (cell : Nat) (s : State) : Res :=
  known (decide (cell < 128))
    (match cellJob s cell with
     | some j => doIf s (ungated s && squashDue s j) (failJob s { j with unit := cell } eAborted 0 false)
     | none => .next s)

/-! ### Masks -/

/-- After 2^20 outputs the mask generator reseeds from its region's DRBG, or from the one that serves it; without any it stops, and a
job that needs masks ends with E_RNG once every source has failed (R228, R307). -/
def execMaskReseed (cell : Nat) (s : State) : Res :=
  known (decide (cell < 128))
    (let c := getCell s cell
     let t := match servingDrbg s (cell / 32) with
       | some r => modCell (drew' (callDrbg s r 1) 32) cell (fun x => { x with maskOut := 0, maskStopped := false })
       | none =>
         let u := modCell s cell (fun x => { x with maskStopped := true })
         if allFailed s ∧ c.stalled then
           match cellJob s cell with
           | some j => failJob u { j with unit := cell } eRng 0 false
           | none => u
         else u
     doIf s (ungated s && decide (2 ^ 20 ≤ c.maskOut)) t)

/-! ### Service gates (R249) -/

/-- Cell `n` stands at a gate's entry with a job. -/
def atGate (s : State) (n a : Nat) : Bool :=
  cellRuns s n && decide ((getCell s n).pc = a) && (getCell s n).job.isSome

/-- Return from a gate to the CALL's return address. -/
def gateReturn (s : State) (n : Nat) : State :=
  match (getCell s n).stack with
  | pc :: st => enterPc (modCell s n (fun c => { c with stack := st })) n pc
  | [] => machineCheck s n 4 0 true

/-- GET_PARAMS. -/
def execGetParams (cell : Nat) (s : State) : Res :=
  known (decide (cell < 128))
    (let k := cellCtx s cell
     let v := fun i => BitVec.ofNat 64 (fieldLe k.params i 8)
     let t := modCell s cell (fun c =>
       setX (setX (setX (setX c 1 (v 8) 0) 2 (v 16) 0) 3 (BitVec.ofNat 64 k.inLen) 0) 4 (BitVec.ofNat 64 k.outCap) 0)
     doIf s (atGate s cell 4) (gateReturn t cell))

/-- SET_RESULT (R250). -/
def execSetResult (cell : Nat) (s : State) : Res :=
  known (decide (cell < 128))
    (let t := modCell s cell (fun c => { c with outLen := some (getX c 1).toNat, result := (getX c 2).truncate 32 })
     doIf s (atGate s cell 8) (gateReturn t cell))

/-- RANDOM: X2 fresh DRBG bytes at X1, untagged. An X2 outside 1 to 4,096 is ILLEGAL (R249, R250); the addresses obey R198. -/
def execRandom (cell : Nat) (s : State) : Res :=
  known (decide (cell < 128))
    (let c := getCell s cell
     let a := (getX c 1).toNat
     let n := (getX c 2).toNat
     let go := match firstFault c 1 (fun k => decide (2 ≤ k)) 0 (rangeProbe a n), firstFault c 1 (fun k => k == 1) 0 (rangeProbe a n) with
       | some (i, x, k), _ =>
         if c.fValid then machineCheck s cell 6 0 true else machineCheck (modCell s cell (fun y => recordFault y false k i x)) cell 5 0 true
       | none, some (i, x, _) =>
         if c.fValid then machineCheck s cell 6 0 true else enterPc (modCell s cell (fun y => recordFault y true 1 i x)) cell 2
       | none, none =>
         match servingDrbg s (cell / 32) with
         | some r =>
           let t := callDrbg s r 1
           gateReturn (drew' (modCell t cell (fun y => cwrite y a (drawBytes t n))) n) cell
         | none =>
           if allFailed s then
             (match cellJob s cell with
              | some j => failJob s { j with unit := cell } eRng 0 false
              | none => s)
           else modCell s cell (fun y => { y with stalled := true })
     doIf s (atGate s cell 0x10) (if n = 0 ∨ 4096 < n then machineCheck s cell 4 0 true else go))

end Sys2Proof.Machine
end

