-- ==== Sys2Proof/Machine/Bne.lean ====
section
/-! DEFINITION. The big-number engine (chapter 09): its functions (R259), the order of its requests and long operations (R261, R262), operand
memory (R265 to R269), cycles (R273, R275, R276), and BNEREQ. -/

namespace Sys2Proof.Machine

/-! ### Functions -/

/-- A long operation (R262). -/
def BneReq.long (r : BneReq) : Bool := (r.func == 8 && (r.alg == 0x0604 || r.alg == 0x0605)) || r.func == 0x0A || r.func == 0x0B

/-- The request's hashing runs on the block's digest engine (R260). -/
def BneReq.hashes (r : BneReq) : Bool := r.func == 6 || r.func == 7 || (decide (4 ≤ r.func) && decide (r.func ≤ 9) && r.mode % 4 == 1)

/-- The families a function serves (R259). -/
def bneServed (func : Nat) : List Fam :=
  match func with
  | 1 => [.nist, .mont, .edwards]
  | 2 => [.nist, .mont]
  | 3 => [.nist, .mont]
  | 4 => [.nist]
  | 5 => [.nist]
  | 6 => [.edwards]
  | 7 => [.edwards]
  | 8 => [.rsa]
  | 9 => [.rsa]
  | 0x0A => [.rsa]
  | 0x0B => [.rsa]
  | 0x0C => [.mlkem, .mceliece, .hqc, .nist, .mont, .edwards, .rsa, .mldsa, .slhdsa, .lms, .xmss, .fndsa, .hybrid]
  | 0x0D => [.nist]
  | _ => []

/-- MODE fits the function: 0 outside signing; MSG 0 with EdDSA only, DER and DET with ECDSA only, PSS with RSA only (R172, R173). -/
def bneModeOk (func mode : Nat) : Bool :=
  if 4 ≤ func ∧ func ≤ 9 then
    bits mode 7 5 == 0 && mode % 4 != 3 && (!bit mode 4 || func == 8 || func == 9) && (!bit mode 3 || func == 4 || func == 5) &&
      (!bit mode 2 || func == 4 || func == 5) && (mode % 4 != 0 || func == 6 || func == 7)
  else mode == 0

/-- A misaligned block, an undefined FUNC, or an ALG or MODE that FUNC does not serve (R259). -/
def BneReq.refused (r : BneReq) : Bool := r.bad || !famIn r.alg (bneServed r.func) || !bneModeOk r.func r.mode

/-- The check before release applies: a signature (R277). -/
def BneReq.signs (r : BneReq) : Bool := r.func == 4 || r.func == 6 || r.func == 8

/-- A private operation, which runs blinded (R274). -/
def BneReq.blinded (r : BneReq) : Bool := !r.refused && (r.func ≤ 4 || r.func == 6 || r.func == 8 || r.func == 0x0A || r.func == 0x0B)

/-- Bytes a request takes from the blinding buffer: those of its operation and, for a signature, those of its check (R274, R277). The count
depends on ALG and FUNC alone and is the implementation's. -/
def blindNeed (r : BneReq) : Nat :=
  if r.blinded then (Config.blindBytes r.alg r.func).val * (if r.signs then 2 else 1) else 0

/-- What a request brings into operand memory: the key form, the blinding, and an input that is not hashed outside (R254, R260, R274). -/
def BneReq.operands (r : BneReq) : List Byte := r.key ++ r.blind ++ (if r.hashes then [] else r.input)

/-- Bytes as 256-bit words of a half from its first word on; the order of contents in a half is the device's own (DESIGN CHOICE, log entry
52). -/
def wordsOf (bs : List Byte) : FMap (BitVec 256) :=
  (List.range (min 512 ((bs.length + 31) / 32))).foldl (fun m i => mapSet 0 m i (BitVec.ofNat 256 (fieldLe bs (32 * i) 32))) []

/-- The public values a request takes from the host pass their checks (R270). -/
def BneReq.valid (r : BneReq) : Bool :=
  match r.func with
  | 2 => pubStatus r.alg r.input == stOk
  | 3 => pubStatus r.alg r.input == stOk
  | 0x0C => pubStatus r.alg r.input == stOk
  | 0x0D => scalarOk r.alg r.input
  | _ => true

/-- The request loads its key: it is served and its inputs are valid (R270). -/
def BneReq.loadsKey (r : BneReq) : Bool := !r.refused && r.valid

/-- The BNE's check of its own input fails (R272): an EC scalar outside [1, order − 1], or an RSA representative that is 0 or not below the
modulus. The representative of a whole job is made by the padding of its own command. -/
def BneReq.inputBad (r : BneReq) : Bool :=
  r.loadsKey && ((famOf r.alg == some .nist && (r.func == 1 || r.func == 2 || r.func == 4) && !scalarOk r.alg r.key) ||
    (r.func == 8 && r.cell.isSome && (beNat r.input == 0 || decide (beNat r.pub ≤ beNat r.input))))

/-- A verdict as RESULT and DETAIL words. -/
def verdictRes (v : Nat × Nat) : BneRes :=
  { status := v.1, result := if v.1 = stOk ∧ v.2 = 0 then 1 else 0, detail := if v.1 = stOk then v.2 else 0,
    out := if v.1 = stOk then leBytes 4 (if v.2 = 0 then 1 else 0) ++ leBytes 4 v.2 else [], checked := true }

/-- The bytes of a signature at the head of a string (R178). -/
def sigHead (r : BneReq) (bs : List Byte) : List Byte × List Byte :=
  let n := sigLen r.alg 1 0 false
  (bs.take n, bs.drop n)

/-- What a request's function leaves (R259, R270 to R272, R275, R277). The check before release passes unless BNE_REQUEST_DONE reports
otherwise. -/
def bneCompute (r : BneReq) : BneRes :=
  let ok := fun (out : List Byte) => ({ status := stOk, result := 0, detail := 0, out, checked := true } : BneRes)
  let fail := fun (st : Nat) => ({ status := st, result := 0, detail := 0, out := [], checked := true } : BneRes)
  if r.refused then fail eParam
  else
    match r.func with
    | 1 => ok (publicOf r.alg 0 0 r.key)
    | 2 =>
      let st := agreeStatus r.alg r.key r.input
      if st = stOk then ok (agree r.alg r.key r.input) else fail st
    | 3 =>
      let e := newSeed r.alg r.rnd
      let st := agreeStatus r.alg e r.input
      if st = stOk then ok (publicOf r.alg 0 0 e ++ agree r.alg e r.input) else fail st
    | 5 =>
      let x := if r.sig = [] then (r.input.drop (hashLen r.hash), r.input.take (hashLen r.hash)) else (r.sig, r.input)
      verdictRes (verdict r.alg r.mode r.hash r.salt r.pub r.ctx x.2 x.1)
    | 7 =>
      let x := if r.sig = [] then sigHead r r.input else (r.sig, r.input)
      verdictRes (verdict r.alg r.mode r.hash r.salt r.pub r.ctx x.2 x.1)
    | 9 =>
      let x := if r.sig = [] then sigHead r r.input else (r.sig, r.input)
      verdictRes (verdict r.alg r.mode r.hash r.salt r.pub r.ctx x.2 x.1)
    | 0x0A => ok (newSeed r.alg r.rnd ++ publicOf r.alg 0 0 (newSeed r.alg r.rnd))
    | 0x0B => ok (stdBytes .rsaPrivate [leBytes 2 r.alg, r.key] (2 * pubLen r.alg))
    | 0x0C => if pubStatus r.alg r.input = stOk then ok [] else fail (pubStatus r.alg r.input)
    | 0x0D => if scalarOk r.alg r.input then ok [] else fail eInputRange
    | _ => ok (signature r.alg 0 0 r.mode r.hash r.salt r.key r.ctx r.input r.rnd 0)

/-! ### Cycles -/

/-- Validation cycles (R273). -/
def validCycles (a : Nat) : Nat :=
  match famOf a with
  | some .nist => pick a [640, 960, 1600]
  | some .mont => pick a [32, 48]
  | some .edwards => pick a [0, 0, 9600, 21000]
  | some .rsa => pick a [128, 160, 192, 256, 320]
  | _ => 0

/-- Job totals of R275: PUBLIC, Sign, Verify, AGREE. -/
def bneTotals (a : Nat) : List Nat :=
  match a with
  | 0x0401 => [18290, 36500, 73100, 53330]
  | 0x0402 => [36570, 80000, 160000, 116360]
  | 0x0403 => [98460, 196900, 393800, 320000]
  | 0x0501 => [7760, 0, 0, 23270]
  | 0x0502 => [30480, 0, 0, 91430]
  | 0x0503 => [8400, 28440, 56890, 0]
  | 0x0504 => [32000, 102400, 213300, 0]
  | 0x0601 => [0, 170670, 10670, 0]
  | 0x0602 => [0, 426670, 21330, 0]
  | 0x0603 => [0, 640000, 36570, 0]
  | 0x0604 => [0, 2133330, 80000, 0]
  | 0x0605 => [0, 5120000, 142220, 0]
  | _ => [0, 0, 0, 0]

/-- Cycles from a request's start to its result, the wipe excluded (R259, R273, R275, R276); none where the spec gives no count. A request
that skips the key load is followed by no wipe, so that the whole saving of R276 is taken off its job total. -/
def bneCycles (r : BneReq) : Option Nat :=
  let t := fun i => (bneTotals r.alg).getD i 0
  let total := match r.func with
    | 1 => some (t 0)
    | 2 => some (t 3)
    | 3 => some (t 0 + t 3 - 256)
    | 4 => some (t 1)
    | 6 => some (t 1)
    | 8 => some (t 1)
    | 5 => some (t 2)
    | 7 => some (t 2)
    | 9 => some (t 2)
    | _ => none
  if r.refused then some 16
  else if !r.valid ∨ r.func = 0x0C ∨ r.func = 0x0D then some (validCycles r.alg)
  else total.map (fun n => n - (if r.adj = 1 then (if famOf r.alg = some .rsa then 256 + 4 * pubLen r.alg else 856) else 256))

/-! ### The order of requests (R261, R262) -/

/-- Whether `a` is taken before `b`: latency class, then age (R19). -/
def bneFirst (a b : BneReq) : Bool := decide (a.lc < b.lc) || (a.lc == b.lc && decide (a.age ≤ b.age))

/-- The request of a queue to be taken next among those that satisfy `p`. -/
def bneNext (p : BneReq → Bool) (q : List BneReq) : Option BneReq :=
  (q.filter p).foldl (fun a r => match a with | none => some r | some m => if bneFirst m r then some m else some r) none

/-- Take one request out of a queue. -/
def bneTake (q : List BneReq) (r : BneReq) : List BneReq := q.erase r

/-- A long operation's state lies in H1 and pauses between segments: H0 runs queued LC0 and LC1 requests until none remains or their
cycles exceed 262,144. -/
def bneSlack (e : Bne) : Bool := e.long.isNone || (e.paused && decide (e.spent ≤ 262144))

/-- H0 as a request finds it: a dirty half, or one that holds another slice's content, is wiped first; the same slice and handle skip
the key load (R267, R268). `r` stands in the queue and runs as `q`. -/
def bneEnter (e : Bne) (r q : BneReq) (now : Nat) : Bne :=
  let adj := match e.h0 with
    | some (n, h) => if e.dirty then 0 else if n ≠ r.slice then 2 else if h = r.handle ∧ h ≠ 0 then 1 else 0
    | none => 0
  let x := if e.dirty ∨ (e.h0Used ∧ e.owner ≠ some r.slice) then e.wipe0 now else e
  { x with queue := bneTake x.queue r, run := some { q with adj }, res := none, hashed := none, h0 := none, h0Used := true,
           owner := some r.slice, h0Mem := wordsOf (if q.loadsKey then q.operands else q.input), pipe := true, blind := x.blind - blindNeed r }

/-- A long operation takes H1 (R262). -/
def bneEnterLong (e : Bne) (r q : BneReq) : Bne :=
  { e with queue := bneTake e.queue r, long := some q, longRes := none, longHashed := none, paused := false, spent := 0, h1Used := true,
           h1Mem := wordsOf q.operands, pipe := true, blind := e.blind - blindNeed r }

/-- A second request of a whole job enters the queue when there is room. -/
def bneUnhold (e : Bne) : Bne :=
  match e.held with
  | r :: l => if e.queue.length < 32 then { e with queue := e.queue ++ [r], held := l } else e
  | [] => e

/-- The request of a BNE that hashes becomes a requester of the digest engine (R260): EdDSA with its own hash. -/
def askHash (s : State) (blk : Nat) (r : BneReq) : State :=
  if r.hashes ∧ !r.refused then
    modDe s blk (fun d => { d with waiting := d.waiting ++
      [{ job := r.job, bne := true, slice := r.slice, lc := r.lc,
         hash := if r.alg = 0x0503 then 3 else if r.alg = 0x0504 then 8 else r.hash, priv := true, since := s.uptime }] })
  else s

/-- The BNE takes the next request, once the blinding buffer holds what it needs (R274). A paused long operation goes on when H0 has
nothing more to run for it. -/
def execBneRequestStart (blk : Nat) (s : State) : Res :=
  known (decide (blk < 16))
    (let e := (getBlock s blk).bne
     let pickable := fun (r : BneReq) => if e.long.isSome then !r.long && decide (r.lc ≤ 1) else true
     let t :=
       match (if bneSlack e then bneNext pickable e.queue else none) with
       | some r =>
         if e.blind < blindNeed r then s
         else
           let q := { r with blind := drawBytes s (blindNeed r) }
           let u := modBne (drew' s (blindNeed r)) blk (fun x => bneUnhold (if r.long then bneEnterLong x r q else bneEnter x r q s.uptime))
           askHash u blk q
       | none => if e.paused then modBne s blk (fun x => { x with paused := false, spent := 0 }) else modBne s blk bneUnhold
     doIf s (serving s && bneServes s blk && blockAwake s blk && e.run.isNone) t)

/-- A function runs on the request that is in progress, once a wipe of its half has finished (R265): in H0, or the long operation in H1. -/
def bneRow (func blk : Nat) (s : State) : Res :=
  known (decide (blk < 16))
    (let e := (getBlock s blk).bne
     let h0 := match e.run with
       | some r => r.func == func && e.res.isNone && (!r.hashes || e.hashed.isSome || r.refused) && decide (e.till0 ≤ s.uptime)
       | none => false
     let h1 := match e.long with
       | some r => r.func == func && e.longRes.isNone && !e.paused && e.run.isNone && (!r.hashes || e.longHashed.isSome || r.refused) &&
           decide (e.till1 ≤ s.uptime)
       | none => false
     -- The hash and the result stand in the half beside the operands (R292).
     let mem := fun (r : Option BneReq) (h : Option (List Byte)) =>
       wordsOf (match r with | some r => r.operands ++ h.getD [] ++ (bneCompute r).out | none => [])
     doIf s (serving s && bneServes s blk && blockAwake s blk && (h0 || h1))
       (modBne s blk (fun x =>
         if h0 then { x with res := x.run.map bneCompute, h0Mem := mem x.run x.hashed }
         else { x with longRes := x.long.map bneCompute, h1Mem := mem x.long x.longHashed })))

/-- PUBLIC: the public key of the seed SEL names (R259). -/
def execBnePublic (blk : Nat) (s : State) : Res := bneRow 1 blk s
/-- AGREE: the peer's key is validated, then the shared secret computed (R167, R270). -/
def execAgree (blk : Nat) (s : State) : Res := bneRow 2 blk s
/-- EPHEMERAL_AGREE: the classical half of a hybrid encapsulation (R168, R259). -/
def execEphemeralAgree (blk : Nat) (s : State) : Res := bneRow 3 blk s
/-- ECDSA_SIGN (R178, R277). -/
def execEcdsaSign (blk : Nat) (s : State) : Res := bneRow 4 blk s
/-- ECDSA_VERIFY (R180). -/
def execEcdsaVerify (blk : Nat) (s : State) : Res := bneRow 5 blk s
/-- EDDSA_SIGN (R277). -/
def execEddsaSign (blk : Nat) (s : State) : Res := bneRow 6 blk s
/-- EDDSA_VERIFY (R180). -/
def execEddsaVerify (blk : Nat) (s : State) : Res := bneRow 7 blk s
/-- RSA_SIGN (R277); RSA-6144 and RSA-8192 run as long operations (R262). -/
def execRsaSign (blk : Nat) (s : State) : Res := bneRow 8 blk s
/-- RSA_VERIFY (R180, R272). -/
def execRsaVerify (blk : Nat) (s : State) : Res := bneRow 9 blk s
/-- RSA_KEYGEN: seed form and modulus, as a long operation (R148, R276). -/
def execRsaKeygen (blk : Nat) (s : State) : Res := bneRow 0x0A blk s
/-- RSA_REBUILD: the private form from the seed, as a long operation (R158, R259). -/
def execRsaRebuild (blk : Nat) (s : State) : Res := bneRow 0x0B blk s
/-- VALIDATE: the checks of R167 and R179, combined in the order of R270. -/
def execValidate (blk : Nat) (s : State) : Res := bneRow 0x0C blk s
/-- SCALAR_CHECK: an imported scalar lies in [1, order − 1] (R271). -/
def execScalarCheck (blk : Nat) (s : State) : Res := bneRow 0x0D blk s

/-- A long operation's segment of 262,144 cycles ends, and queued work of H0 may run (R262). A request whose slice is being reset stops
at this boundary and is squashed (R139). -/
def execBneSegmentEnd (blk : Nat) (s : State) : Res :=
  known (decide (blk < 16))
    (let e := (getBlock s blk).bne
     let due := fun (o : Option BneReq) => match o with
       | some r => (match getJob s r.job with | some j => if squashDue s j then some j else none | none => none)
       | none => none
     let t := match due e.run, due e.long with
       | some j, _ => failJob s j eAborted 0 false
       | none, some j => failJob s j eAborted 0 false
       | none, none =>
         if e.long.isSome ∧ e.longRes.isNone ∧ !e.paused then modBne s blk (fun x => { x with paused := true, spent := 0 }) else s
     doIf s (ungated s) t)

/-! ### BNEREQ (R217, R259) -/

/-- The request a block in a cell's window describes. -/
def rawReq (s : State) (n : Nat) (j : Job) (off : Nat) : BneReq :=
  let c := getCell s n
  let b := bytesGet c.win off 32
  let sel := byteAt b 1
  let k := j.keys[sel]?
  let v := (heldKey s j sel).getD []
  let alg := fieldLe b 2 2
  -- An RSA private operation takes the form of the expanded-key cache, or the one rebuilt where there is none (R254).
  let form := match k with | some k => rsaForm s (n / 32) k v | none => v
  { job := j.id, cell := some n, func := byteAt b 0, sel, alg, mode := byteAt b 4, hash := byteAt b 5, lc := j.lc,
    inOff := fieldLe b 8 4, inLen := fieldLe b 12 4, outOff := fieldLe b 16 4, outCap := fieldLe b 20 4,
    bad := off % 32 != 0, input := bytesGet c.win (fieldLe b 8 4) (fieldLe b 12 4 % 2 ^ 18),
    slice := j.slice, handle := (match k with | some k => k.handle | none => 0), key := if byteAt b 0 = 8 then form else v,
    pub := (match k with | some k => if k.kind = 2 then v else publicOf k.alg 0 0 v | none => []), ctx := [], sig := [], salt := 0,
    blkOff := off, adj := 0, rnd := drawBytes s (seedLen alg), age := j.id, twin := false, spoilt := false, blind := [] }

/-- BNEREQ: the request block at window offset X[B] goes to the block's BNE, or to the one that stands in for it (R264); a full queue
stalls the word (R261). -/
def execBnereq (cell : Nat) (s : State) : Res :=
  let c := getCell s cell
  let off := (getX c (wB (mapGet 0 c.store c.pc))).toNat
  let run := runWord opBnereq s cell
  known (decide (cell < 128))
    (let go := match (match c.job with | some k => getJob s k | none => none), bneFor s (cell / 8) with
       | some j, some b =>
         if !bneRoom s b then modCell s cell (fun x => { x with stalled := true })
         else if (getCell run cell).bnePend = c.bnePend + 1 then
           drew' (modBne run b (fun x => { x with queue := x.queue ++ [rawReq s cell j off] })) (seedLen (fieldLe (bytesGet c.win off 32) 2 2))
         else run
       | _, none => modCell s cell (fun x => { x with stalled := true })
       | none, _ => run
     doIf s (cellRuns s cell && !gateEntry c.pc && wOp (mapGet 0 c.store c.pc) == 0x19) go)

end Sys2Proof.Machine
end

