-- ==== Sys2Proof/Machine/BneDone.lean ====
section
/-! DEFINITION. The end of a BNE request: the wipe policy (R266 to R268), the check before release (R277, R278), the request block of
a BNEREQ (R259), and how a job goes on with the answer; PUT_KEY (R251). -/

namespace Sys2Proof.Machine

/-- H0 after its request: kept under the slice and handle, or wiped; a failed check zeroes the signature and leaves it dirty. A request that
failed validation has loaded no key (R266 to R268, R270, R278). -/
def leaveH0 (s : State) (b : Nat) (r : BneReq) (ok : Bool) : State :=
  let cy := (bneCycles r).getD 0
  modBne s b (fun e =>
    let x : Bne := { e with run := none, res := none, hashed := none, spent := if e.long.isSome then e.spent + cy else 0 }
    if !keepsH0 s r then x.wipe0 s.uptime
    else if ok then { x with h0 := if r.loadsKey ∨ r.adj = 1 then some (r.slice, r.handle) else none, h0Mem := wordsOf (if r.loadsKey then r.key else []) }
    else { x with dirty := true, h0 := none, h0Mem := wordsOf r.operands })

/-- H1 after a long operation (R265). -/
def leaveH1 (s : State) (b : Nat) : State :=
  modBne s b (fun e => { e.wipe1 s.uptime with long := none, longRes := none, longHashed := none, paused := false, spent := 0 })

/-- The cycles a request block reports: a free value where the spec gives no count (R275, R276). -/
def reportCycles (s : State) (r : BneReq) : Nat := (bneCycles r).getD ((Config.freeWord 5 s.freeCtr).toNat % 2 ^ 32)

/-- The request block of a whole job as the block control core builds it from the descriptor and the BNE leaves it (R259). The offsets of
its window are not the job's. -/
def reqBlock (r : BneReq) (st outLen cycles : Nat) : List Byte :=
  leBytes 1 r.func ++ leBytes 1 r.sel ++ leBytes 2 r.alg ++ leBytes 1 r.mode ++ leBytes 1 r.hash ++ leBytes 1 r.lc ++ [0] ++
    leBytes 4 r.inOff ++ leBytes 4 r.inLen ++ leBytes 4 r.outOff ++ leBytes 4 r.outCap ++ leBytes 2 st ++ leBytes 2 outLen ++ leBytes 4 cycles

/-- The answer of a BNEREQ goes into the cell's window: the output, then bytes 24 to 31 of the block. -/
def answerCell (s : State) (c : Nat) (r : BneReq) (x : BneRes) : State :=
  let st := if x.status = stOk ∧ r.outCap < x.out.length then eCapacity else x.status
  let out := if st = stOk then x.out else []
  let tail := leBytes 2 st ++ leBytes 2 out.length ++ leBytes 4 (reportCycles s r)
  modCell (drew' s 1) c (fun y =>
    { y with win := bytesSet (if r.outOff + out.length ≤ 0x40000 then bytesSet y.win r.outOff out else y.win) (r.blkOff + 24) tail,
             bnePend := y.bnePend - 1 })

/-- The second request of a whole job: the block control core holds it until the queue has room (R253); without a BNE in service the job is
replayed. -/
def askAgain (s : State) (j : Job) (r : BneReq) : State :=
  match bneFor s j.block with
  | some b =>
    putJob (wakeUnit false (modBne s b (fun x =>
        if x.queue.length < 32 then { x with queue := x.queue ++ [r] } else { x with held := x.held ++ [r] })) (128 + b))
      { j with pos := .onBne b, unit := if j.unit < 128 then j.unit else 0x80 + b }
  | none => replayJob s j false

/-- A whole job goes on with an answer of status OK. -/
def goOn (s : State) (j : Job) (io : JobIo) (r : BneReq) (x : BneRes) : State :=
  let sv := fun i => j.saved.getD i []
  let seed := if r.func = 0x0A then x.out.take (seedLen r.alg) else sv 0
  match j.desc.opcode, r.func with
  | 0x0200, _ => keepGenerated s j seed
  | 0x0202, _ => givePublic s j (pubOfKey s j.key0 seed)
  | 0x0206, _ => keepPeer s j (sv 0)
  | 0x020C, _ => keepImported s j (leNat (sv 1)) (leNat (sv 2)) (sv 0)
  | 0x0300, _ => keepKem s j seed
  | 0x0303, _ => stage s j (secretResult j [] x.out 0) false
  | 0x0304, _ =>
    let p := pubLen r.alg
    let ctPq := sv 0
    let ctCl := x.out.take p
    stage s { j with saved := j.saved ++ [x.out] }
      (secretResult j (ctPq ++ ctCl) (combine (sv 1) (x.out.drop p) ctPq ctCl) (leNat (sv 2))) j.dual
  | 0x0305, _ => stage s j (secretResult j [] (combine (sv 0) x.out (sv 1) (sv 2)) (maskedFlag s j j.alg)) false
  | 0x0400, _ => keepKem s j seed
  | 0x0401, 0x0B =>
    -- The private form is rebuilt from the seed, and the signature is made with it (R158, R254).
    askAgain s { j with saved := [[0], sv 0] } (sigReq j 8 x.out [] (sv 1) (sv 2) [] (sv 3))
  | 0x0401, _ => stage s j { JobRes.done x.out 0 with guarantee := 1 + leNat (sv 0), forms := formUse j true (sv 1) } false
  | 0x0402, 0x0C => askAgain s { j with saved := [] } (sigReq j (bneVerifyFunc j.alg) [] (sv 0) (sv 2) (sv 3) (sv 1) [])
  | 0x0402, _ => endVerify s j io (if x.result = 1 then (stOk, 0) else (stOk, max x.detail 1)) []
  | _, _ => s

/-- A request has ended on BNE `b`; `pass` says that the signature's check before release passed. A request that fails it, or whose own
input is out of range, is discarded and its job replayed on the BNE of another block (R272, R278). -/
def endRequest (s : State) (b : Nat) (io : JobIo) (r : BneReq) (x : BneRes) (pass : Bool) : State :=
  match getJob s r.job with
  | none => s
  | some j =>
    if r.twin then putJob s { j with twin := some x.out }
    else if !pass then replayJob s { j with unit := 0x80 + b } true
    else
      match r.cell with
      | some c => answerCell s c r x
      | none =>
        let j' := { j with pos := if j.unit < 128 then .running j.unit else j.pos }
        let s := modBne (drew' s 1) b (fun e => { e with block := reqBlock r x.status x.out.length (reportCycles s r) })
        if x.status = stOk then goOn (putJob s j') j' io r x
        else if r.refused then replayJob s j false
        else stageErr s j io x.status

/-- A request completes: its result is written, H0 is wiped or kept, and its job goes on. The first test outcome is that of the check
before release. A signature that fails is replayed on another block's BNE (R278). -/
def execBneRequestDone (blk : Nat) (io : JobIo) (s : State) : Res :=
  known (decide (blk < 16))
    (let e := (getBlock s blk).bne
     let pass := fun (r : BneReq) => !r.inputBad && (!r.signs || (io.tests.getD 0 true && !r.spoilt))
     let t := match e.run, e.res with
       | some r, some x => endRequest (leaveH0 s blk r (pass r)) blk io r x (pass r || x.status != stOk)
       | _, _ =>
         (match e.long, e.longRes with
          | some r, some x => if e.paused then s else endRequest (leaveH1 s blk) blk io r x (pass r || x.status != stOk)
          | _, _ => s)
     doIf s (serving s && bneServes s blk) t)

/-! ### PUT_KEY (R251) -/

/-- The three shares of 32 bytes at a bank-0 address carry tags 1, 2 and 3. -/
def sharesTagged (c : Cell) (a : Nat) : Bool :=
  (List.range 3).all (fun i => (linesOf (a + i * 0x4000) 32).all (fun l => tagAt c l == i + 1))

/-- End a customer job at a gate with a status; it is not replayed. -/
def gateFail (s : State) (n : Nat) (st : Nat) : State :=
  match (match (getCell s n).job with | some k => getJob s k | none => none) with
  | some j => failJob s { j with unit := n } st 0 false
  | none => s

/-- PUT_KEY. -/
def execPutKey (cell : Nat) (s : State) : Res :=
  known (decide (cell < 128))
    (let c := getCell s cell
     let x1 := (getX c 1).toNat
     let a := (getX c 2).toNat
     let index := bits x1 31 0
     let pol := bits x1 47 32
     let alg := bits x1 63 48
     let parent := match (match c.job with | some k => getJob s k | none => none) with | some j => j.keys.head? | none => none
     let v := xorBytes (xorBytes (cread c a 32) (cread c (a + 0x4000) 32)) (cread c (a + 0x8000) 32)
     let t :=
       if a % 64 ≠ 0 ∨ 0x4000 ≤ a ∨ !sharesTagged c a ∨ c.putKey.isSome then machineCheck s cell 4 0 true
       else if 65535 < index ∨ (alg ≠ 0x0C01 ∧ alg ≠ 0x0C02) then gateFail s cell eParam
       else if !(match parent with | some k => childPolOk k.policy pol | none => false) then gateFail s cell ePolicy
       -- A bit that R155 allows and the ALG does not carry fails as R146 says.
       else if !polOk alg pol then gateFail s cell eParam
       else gateReturn (modCell s cell (fun y => { y with putKey := some { index, policy := pol, alg, value := v } })) cell
     doIf s (atGate s cell 0x0C) t)

end Sys2Proof.Machine
end

