-- ==== Sys2Proof/Machine/Micro.lean ====
section
/-! DEFINITION. Group 0x0A (R237 to R247): the checks on a customer image, loading and unloading it, and the start of a customer
macro-op; WDOG_CONFIG (R211). -/

namespace Sys2Proof.Machine

/-! ### Images (R237, R238) -/

/-- WORDS of an image. -/
def imgWords (b : List Byte) : Nat := fieldLe b 6 2
/-- SEQ of an image. -/
def imgSeq (b : List Byte) : Nat := fieldLe b 8 4
/-- Word `k` of an image. -/
def imgWord (b : List Byte) (k : Nat) : MicroWord := BitVec.ofNat 48 (fieldLe b (1040 + 8 * k) 6)
/-- PUBKEY. -/
def imgKey (b : List Byte) : List Byte := sub b (1040 + 8 * imgWords b) 2592
/-- SIG. -/
def imgSig (b : List Byte) : List Byte := sub b (3632 + 8 * imgWords b) 4627

/-- Entry `m`: ENTRY, CLASSES, KEYS, POL0, POL1, IN_MIN, IN_MAX. -/
structure ImgEntry where
  entry : Nat
  classes : Nat
  keys : Nat
  pol0 : Nat
  pol1 : Nat
  inMin : Nat
  inMax : Nat
  deriving DecidableEq, Repr

/-- Read entry `m`. -/
def imgEntry (b : List Byte) (m : Nat) : ImgEntry :=
  let o := 16 + 16 * m
  { entry := fieldLe b o 2, classes := byteAt b (o + 2), keys := byteAt b (o + 3), pol0 := fieldLe b (o + 4) 2,
    pol1 := fieldLe b (o + 6) 2, inMin := fieldLe b (o + 8) 4, inMax := fieldLe b (o + 12) 4 }

/-- Entry `m` registers a macro-op. -/
def imgHas (b : List Byte) (m : Nat) : Bool := !zeros b (16 + 16 * m) (32 + 16 * m)

/-- An entry obeys R238. -/
def ImgEntry.ok (e : ImgEntry) (words : Nat) : Bool :=
  let n := e.keys % 4
  let rsv := polStateful + polEpoch + 0xFC00
  decide (0xC00 ≤ e.entry) && decide (e.entry < 0xC00 + words) && decide (1 ≤ e.classes) && decide (e.classes < 8) &&
    decide (e.keys < 8) && decide (n ≤ 2) && (n != 0 || e.pol0 == 0) && (n == 2 || e.pol1 == 0) && e.pol0 &&& rsv == 0 &&
    e.pol1 &&& rsv == 0 && decide (e.inMin ≤ e.inMax)

/-- A word is statically illegal in the customer window (R247). -/
def staticBad (w : MicroWord) : Bool :=
  let op := wOp w
  let co := wCond w
  let nx := wNext w
  let inside := fun (a : Nat) => decide (0xC00 ≤ a)
  if op = 0x14 ∨ op = 0x15 ∨ op = 0x19 ∨ op = 0x26 ∨ op = 0x27 ∨ op = 0x3F ∨ co = 15 then true
  else if op = 0x13 then co != 0 || wImm w != 0 || nx != 0
  else if op = 0x12 then
    co != 0 || !(inside nx || nx == 4 || nx == 8 || nx == 0x0C || nx == 0x10) || !inside (bits w.toNat 38 27)
  else
    (if 1 ≤ co ∧ co ≤ 7 then !inside nx || !inside (nx ^^^ 1) else !inside nx && nx != 1) ||
      (op == 0x16 && !(wImm w % 8 == 0 || wImm w % 8 == 3 || wImm w % 8 == 4)) || (op == 0x17 && !(wImm w % 8 == 1 || wImm w % 8 == 4))

/-- The header of an image passes check 1 for a slice and an IN_LEN. -/
def imgHeaderOk (b : List Byte) (n len : Nat) : Bool :=
  b.take 5 == [0x46, 0x59, 0x55, 0x43, 1] && byteAt b 5 == n && decide (1 ≤ imgWords b) && decide (imgWords b ≤ 1024) &&
    zeros b 12 16 && len == 8259 + 8 * imgWords b

/-- The reason and index MICRO_LOAD fails with (R241, R242); none when every check passes. -/
def imgCheck (s : State) (n : Nat) (b : List Byte) : Option (Nat × Nat) :=
  let signed := s.chip.lc == .sealed || s.chip.lc == .owned
  let w := imgWords b
  let recd := imageRecOf s n
  let words := List.range w
  if !imgHeaderOk b n b.length then some (1, 0)
  else if (words.find? (fun k => !zeros b (1046 + 8 * k) (1048 + 8 * k))).isSome then
    (words.find? (fun k => !zeros b (1046 + 8 * k) (1048 + 8 * k))).map (fun k => (1, k))
  else if signed ∧ sha384 (imgKey b) ≠ fuseOwner s then some (2, 0)
  else if signed ∧ verdict 0x0703 0 0 0 (imgKey b) (ascii "FY4128-UCODE") (b.take (3632 + 8 * w)) (imgSig b) ≠ (stOk, 0) then
    some (3, 0)
  else if recd.digest ≠ [] ∧ (imgSeq b < recd.seq ∨ (imgSeq b = recd.seq ∧ recd.digest ≠ sha384 b)) then some (4, 0)
  else
    match (List.range 64).find? (fun m => imgHas b m && !(imgEntry b m).ok w) with
    | some m => some (5, m)
    | none =>
      if (List.range 64).all (fun m => !imgHas b m) then some (5, 0)
      else
        match words.find? (fun k => !wParityOk (imgWord b k)) with
        | some k => some (6, k)
        | none => (words.find? (fun k => staticBad (imgWord b k))).map (fun k => (7, k))

/-- E_IMAGE (R252). -/
def eImage : Nat := 0x0240

/-- MICRO_LOAD (R241). -/
def execMicroLoad (job : Nat) (io : JobIo) (s : State) : Res :=
  runMgmt s job 0x0A00 (fun j =>
    withInput s j io (fun b =>
      let n := j.desc.pb 40
      match imgCheck s n b with
      | some (r, i) => answer s j io (JobRes.status0 eImage (r * 2 ^ 12 + i))
      | none => stageCommit s j (JobRes.done [] 0) [.image n (imgSeq b) (sha384 b) b]))

/-- MICRO_UNLOAD (R243). -/
def execMicroUnload (job : Nat) (io : JobIo) (s : State) : Res :=
  runMgmt s job 0x0A01 (fun j =>
    let t := { s with micro := mapErase s.micro (j.desc.pb 40) }
    -- Windows that no job uses are scrubbed at once, the others with their last job (freeCells).
    answerOk { t with cells := mapAll Cell.reset (fun _ c => if staleWindow t j.id c then c.clearWindow else c) t.cells } j io)

/-- The MICRO_QUERY record (R244). -/
def microRecord (m : Option Micro) : List Byte :=
  match m with
  | none => List.replicate 64 0
  | some x =>
    leBytes 4 x.seq ++ leBytes 2 (imgWords x.image) ++ [0, 0] ++ leBytes 8 (maskOf (imgHas x.image) 64) ++ padTo 48 x.digest

/-- MICRO_QUERY. -/
def execMicroQuery (job : Nat) (io : JobIo) (s : State) : Res :=
  runMgmt s job 0x0A02 (fun j => answer s j io (JobRes.done (microRecord (mapGet none s.micro (j.desc.pb 40))) 0))

/-! ### Invocation (R245, R246) -/

/-- A customer macro-op starts at its ENTRY, on a cell whose window holds the image of its admission. -/
def execCustomerMacroOp (job : Nat) (_ : JobIo) (s : State) : Res :=
  match getJob s job with
  | some j =>
    let m := j.desc.opcode - 0x0AC0
    let e := imgEntry j.image m
    let n := j.unit
    let c := getCell s n
    let out := bit e.keys 2 && j.keys.all (fun k => hasPol k.policy polCustom)
    doIf s (serving s && decide (0x0AC0 ≤ j.desc.opcode) && decide (j.desc.opcode ≤ 0x0AFF) && j.onCell && j.res.isNone &&
        c.job == some j.id && decide (c.macroOp < 0xC0) && !c.halted && cellServes s n)
      (modCell s n (fun x =>
        { x with macroOp := 0xC0 + m, customOut := out, jobLim := jobLimOf s j, jobSub := 0, pc := e.entry, hold := false,
                 stalled := false, wd := 0 }))
  | none => .next s

/-- What check 2 looks at in an invocation (R245). -/
def invokeChecks (d : Desc) (e : ImgEntry) : Checks :=
  let n := e.keys % 4
  [(2, !bit e.classes (d.flags % 4) || bit d.flags 2), (24, decide (d.inLen < e.inMin) || decide (e.inMax < d.inLen)),
   (8, if n = 0 then d.keyHandle != 0 else d.keyHandle == 0), (40, if n = 2 then d.pn 40 8 == 0 else d.pn 40 8 != 0)]

/-! ### WDOG_CONFIG -/

/-- WDOG_CONFIG (R211): RESULT is the previous EXP. -/
def execWdogConfig (job : Nat) (_ : JobIo) (s : State) : Res :=
  runMgmt s job 0x0B10 (fun j => stageCommit s j (JobRes.done [] (settings s).wdogExp) [.wdog (j.desc.pb 40)])

end Sys2Proof.Machine
end

