-- ==== Sys2Proof/Machine/Almanac.lean ====
section
/-! DEFINITION. The Almanac's rows (chapters 12 and 13): commits, slot writes and zeroing, progress pages, the scrub, ALMANAC_QUERY,
LOG_READ, and the leaf records at a start (R345). -/

namespace Sys2Proof.Machine

/-! ### Writes -/

/-- IDE_REQUIRED holds back a commit that is the release point of a job not yet released (R91). -/
def holdsRelease (s : State) (js : List Nat) : Bool := ideHold s && js.any (fun k => (getJob s k).any (fun j => !j.isReleased))

/-- A ledger write ends: its read-backs are `rb`, good where not given (R341). A ceremony step whose time-out came first is taken back before
it (R79). -/
def execLedgerCommit (rid : Nat) (rb : List Bool) (io : JobIo) (s : State) : Res :=
  let t := if timeoutDue s then ceremonyTimesOut io s else s
  doIf s (alive s && decide (rid < 2 ^ 20) && (mapGet WriteQ.none s.alm.writes rid).started &&
      !holdsRelease s (reqJobs (mapGet WriteQ.none s.alm.writes rid).reqs))
    (if (mapGet WriteQ.none t.alm.writes rid).started then cerCommitted t (commitWrite t rid rb io) rid io.tests else t)

/-- The slot write a job waits for: its key and content. -/
def slotWriteOf (s : State) (job : Nat) : Option (Nat × AlmOp) :=
  s.alm.writes.findSome? (fun e =>
    if 2 ^ 20 ≤ e.1 ∧ e.1 < 2 ^ 21 ∧ e.2.started then
      (match e.2.reqs with | r :: _ => if r.job = some job then some (e.1, r.op) else none | [] => none)
    else none)

/-- The slot record of a job is written and read back (R322 step 3): its ledger records are committed next. A failure discards the
attempt. -/
def execSlotWriteCommit (job : Nat) (ok : Bool) (s : State) : Res :=
  match slotWriteOf s job with
  | none => .next s
  | some (k, op) =>
    let t := endWrite (if ok then opEffect s op else s) k
    let u := match getJob t job with
      | none => t
      | some j =>
        (match (match j.res with | some r => r.slot | none => none) with
         | some n => if ok then slotWritten t j n else replayJob t j false
         | none => t)
    doIf s (alive s && !holdsRelease s [job]) u

/-- A slot in ZEROING is overwritten with 0 once the jobs admitted before its retirement have ended; a third failed read-back leaves it
DEAD (R321, R324). -/
def execSlotZeroing (idx : Nat) (ok : Bool) (s : State) : Res :=
  let e := slotEnt s idx
  let t := if ok then opEffect s (.slotZero idx) else s
  known (decide (idx < 262144))
    (doIf s (alive s && e.state == 2 && s.chip.mode != .umbra && s.chip.mode != .boot && s.chip.mode != .halt &&
        !slotEntPending s idx && s.scrubs.all (fun w => w.handle != slotHandle s idx))
      (requestWrite t 5 { job := none, op := .slotEnt idx { SlotEnt.free with gen := e.gen, state := if ok then 0 else 4 } }))

/-! ### Progress pages (R344) -/

/-- The keys a page takes: those used since the last one, at most 127. -/
def pageKeys (s : State) : List (Nat × Tree) := (s.trees.filter (fun e => e.2.dirty)).take 127

/-- SEQ of a page; 0 for one that fails its check. -/
def pageSeq (p : Option ProgPage) : Nat := match p with | some x => x.seq | none => 0

/-- The valid page with the higher SEQ. -/
def newestPage (s : State) : Option ProgPage := if pageSeq s.alm.pageA < pageSeq s.alm.pageB then s.alm.pageB else s.alm.pageA

/-- HIGH_WATER of a leaf record as committed. -/
def highWater (s : State) (rid : Nat) : Nat := match leafOf s rid with | some l => l.highWater | none => 0

/-- Write the older page with the HIGH_WATER values `hw`; `ok` says it reads back. -/
def writePageOf (hw : Nat → Nat) (s : State) (ok : Bool) : State :=
  let ks := pageKeys s
  let p : ProgPage := {
    seq := max (pageSeq s.alm.pageA) (pageSeq s.alm.pageB) + 1,
    ents := ks.map (fun e => (e.1, (hw e.1, e.2.next))) }
  let v := if ok then some p else none
  let t := if pageSeq s.alm.pageB < pageSeq s.alm.pageA then { s with alm := { s.alm with pageB := v } }
           else { s with alm := { s.alm with pageA := v } }
  if ok then ks.foldl (fun x e => modTree x e.1 (fun y => { y with dirty := false })) t else t

/-- Write the older page. -/
def writePage (s : State) (ok : Bool) : State := writePageOf (highWater s) s ok

/-- A progress page is written. -/
def execProgressPageWrite (ok : Bool) (s : State) : Res := doIf s (alive s && !(pageKeys s).isEmpty) (writePage s ok)

/-- The leaf records at a start (R189, R345), of the keys that have not started yet: the next leaf is HIGH_WATER, BURNED takes in what the page does not show as used, and a
commit must come before the first leaf. -/
def startLeaves (s : State) : State :=
  ((leafRids s).filter (fun e => getTree s e.1 == Tree.none)).foldl (fun t e =>
    let l := e.2
    let p := match newestPage s with
      | some g =>
        let x := mapGet (0, 0) g.ents e.1
        if x.1 = l.highWater ∧ l.nextAtCommit ≤ x.2 ∧ x.2 ≤ l.highWater then x.2 else l.nextAtCommit
      | none => l.nextAtCommit
    modTree t e.1 (fun y => { y with next := l.highWater, burned := l.burned + (l.highWater - p), startCommit := true })) s

/-! ### The scrub (R342) -/

/-- The 24-hour scrub found these ledger records and slot records corrected on reading: the records are committed again as copies, the
slot records rewritten in place. -/
def execAlmanacScrub (pairs slots : List Nat) (s : State) : Res :=
  let t := pairs.foldl (fun x rid =>
    if rid < 64432 ∧ viewRec x rid ≠ .empty ∧ viewRec x rid ≠ .lost ∧ mapGet WriteQ.none x.alm.writes rid = WriteQ.none then
      requestWrite x 5 { job := none, op := .copy rid }
    else x) s
  let n := pairs.length + slots.length
  let u := if n = 0 then t else raiseFault t 0x36 0xC0 n
  doIf s (alive s && rootPresent s && s.chip.mode != .boot && s.chip.mode != .halt) u

/-! ### Queries (R349) -/

/-- Spares named by an entry of the map. -/
def sparesUsed (s : State) : Nat := ((spareEnts s).map (fun e => e.spare)).dedup.length

/-- The highest SEQ − BASE_SEQ over all records. -/
def wearOf (s : State) : Nat :=
  s.alm.pairs.foldl (fun a e => if e.1 < 64432 then max a (curSeq s e.1 - baseSeq s e.1) else a) 0

/-- Log entries that read. -/
def goodLog (s : State) : List LogEnt := s.alm.log.filter (fun e => !e.torn)

/-- ALMANAC_QUERY. -/
def execAlmanacQuery (job : Nat) (io : JobIo) (s : State) : Res :=
  runMgmt s job 0x0B50 (fun j =>
    let l := goodLog s
    let recent := (s.alm.commits.filter (fun t => decide (s.uptime < t + 1000000000))).length
    answer s j io (JobRes.done (padTo 64
      (leBytes 2 (sparesUsed s) ++ leBytes 2 (1024 - sparesUsed s) ++ leBytes 4 s.alm.lost ++ leBytes 8 (wearOf s) ++
        leBytes 8 (match l.head? with | some e => e.seq | none => 0) ++ leBytes 8 (match l.getLast? with | some e => e.seq | none => 0) ++
        leBytes 4 recent)) 0))

/-- LOG_READ. -/
def execLogRead (job : Nat) (io : JobIo) (s : State) : Res :=
  runMgmt s job 0x0B51 (fun j =>
    let l := ((goodLog s).filter (fun e => decide (j.desc.pn 40 8 ≤ e.seq))).take (j.desc.pn 48 4)
    answer s j io (JobRes.done ((l.map LogEnt.bytes).flatten) l.length))

end Sys2Proof.Machine
end

