-- ==== Sys2Proof/Machine/De.lean ====
section
/-! DEFINITION. The digest engine (chapter 10): contexts and their order (R281 to R283), the keyed-state cache (R285 to R287), results (R291,
R292), and group 0x05 (R192 to R195). -/

namespace Sys2Proof.Machine

/-! ### Contexts -/

/-- Context `n` of an engine. -/
def deCtx (d : De) (n : Nat) : Option DeCtx := mapGet none d.ctx n

/-- The context a requester of a class may take: context 3 for LC0 when free, else the lowest free of 0 to 2 (R281). -/
def deFree (d : De) (lc : Nat) : Option Nat :=
  if lc = 0 ∧ (deCtx d 3).isNone then some 3 else (List.range 3).find? (fun n => (deCtx d n).isNone)

/-! ### Keyed states (R285, R286) -/

/-- An entry matches a handle, HASH and, for KMAC, S. -/
def Ksc.fits (x : Ksc) (h : W64) (hash : Nat) (cust : List Byte) : Bool := x.handle == h && x.hash == hash && x.cust == cust

/-- The entry of a keyed function, where the engine holds one. -/
def kscFind (d : De) (h : W64) (hash : Nat) (cust : List Byte) : Option Ksc := d.ksc.find? (fun x => x.fits h hash cust)

/-- Put a keyed state into a cache of 64 entries with 16 for a slice: the least recently used goes, a slice at its limit replaces its
own. A second store of the same match is discarded. -/
def kscPut (l : List Ksc) (e : Ksc) : List Ksc :=
  let own := fun (x : Ksc) => x.slice == e.slice
  let drop := fun (p : Ksc → Bool) =>
    match (l.filter p).foldl (fun a x => match a with | none => some x | some y => if x.used < y.used then some x else some y) none with
    | some y => l.erase y
    | none => l
  if l.any (fun x => x.fits e.handle e.hash e.cust) then l
  else (if 16 ≤ (l.filter own).length then drop own else if 64 ≤ l.length then drop (fun _ => true) else l) ++ [e]

/-- The keyed state a plan starts from enters the cache of the engine. -/
def keepState (s : State) (j : Job) (blk hash : Nat) (cust : List Byte) (p : DePlan) : State :=
  match j.keys with
  | k :: _ =>
    let e : Ksc :=
      { handle := k.handle, slice := j.slice, hash, cust, used := s.uptime, inner := p.start, outer := p.outer,
        chain := (chainOf s 8 k.handle).tail }
    modDe s blk (fun d => { d with ksc := kscPut d.ksc e })
  | [] => s

/-- A keyed state was used. -/
def touchState (s : State) (blk : Nat) (h : W64) (hash : Nat) (cust : List Byte) : State :=
  modDe s blk (fun d => { d with ksc := d.ksc.map (fun x => if x.fits h hash cust then { x with used := s.uptime } else x) })

/-! ### Messages block by block (R280, R285, R286) -/

/-- Words of a SHA-2 state as bytes. -/
def wordBytes (f : Sha2) (ws : List Nat) : List Byte := (ws.map (beBytes (f.w / 8))).flatten

/-- One compression of a SHA-2 state held as bytes. -/
def shaStep (f : Sha2) (st blk : List Byte) : List Byte := wordBytes f (sha2Block f (sha2K f) (beWords (f.w / 8) 8 st) blk)

/-- One permutation of a Keccak state held as bytes, after absorbing a block. -/
def keccakStep (st blk : List Byte) : List Byte := kBytes (keccakF (kAbsorb (BitVec.ofNat 1600 (leNat st)) blk))

/-- One block of a plan's family. -/
def DePlan.compress (p : DePlan) (st blk : List Byte) : List Byte :=
  match p.fam with
  | 0 => shaStep sha2w32 st blk
  | 1 => shaStep sha2w64 st blk
  | _ => keccakStep st blk

/-- Blocks of the padded message. -/
def DePlan.blocks (p : DePlan) : Nat := p.body.length / p.rate

/-- All blocks of a message (R280, R286). -/
def DePlan.total (p : DePlan) : Nat := p.keyBlocks + p.blocks + p.tail

/-- The state before the first block: the key blocks begin from nothing. -/
def DePlan.init (p : DePlan) : List Byte := if p.keyBlocks = 0 then p.start else []

/-- The padded outer block of an HMAC: the inner digest behind the block of the key. -/
def DePlan.outerBlock (p : DePlan) (inner : List Byte) : List Byte :=
  (sha2Pad (if p.fam = 0 then sha2w32 else sha2w64) (List.replicate p.rate 0 ++ inner.take p.size)).drop p.rate

/-- The state after block number `i`: the key blocks lead to the keyed state, the message is absorbed, an HMAC ends with its outer
compression, an XOF goes on squeezing. -/
def DePlan.next (p : DePlan) (i : Nat) (st : List Byte) : List Byte :=
  if i < p.keyBlocks then (if i + 1 = p.keyBlocks then p.start else st)
  else if i - p.keyBlocks < p.blocks then p.compress st (sub p.body ((i - p.keyBlocks) * p.rate) p.rate)
  else if p.outer = [] then p.compress st []
  else p.compress p.outer (p.outerBlock st)

/-- The SHA-2 family of a HASH: its plan family, its words, initial value and digest length. -/
def shaFam (h : Nat) : Nat × Sha2 × List Nat × Nat :=
  match h % 16 with
  | 1 => (0, sha2w32, sha2Iv sha2w32 0, 32)
  | 2 => (1, sha2w64, sha2Iv sha2w64 8, 48)
  | _ => (1, sha2w64, sha2Iv sha2w64 0, 64)

/-- A plain SHA-2 message. -/
def shaPlan (h : Nat) (m : List Byte) : DePlan :=
  let f := shaFam h
  { fam := f.1, rate := 2 * f.2.1.w, size := f.2.2.2, keyBlocks := 0, start := wordBytes f.2.1 f.2.2.1, outer := [], body := sha2Pad f.2.1 m, tail := 0 }

/-- A Keccak message that is padded with a domain byte, for `n` bytes of output. -/
def keccakPlan (rate : Nat) (dom : Byte) (m : List Byte) (n : Nat) : DePlan :=
  { fam := 2, rate, size := n, keyBlocks := 0, start := List.replicate 200 0, outer := [], body := kPad rate dom m, tail := (max n 1 - 1) / rate }

/-- The message of a DIGEST (R170, R192). -/
def digestPlan (h n : Nat) (name cust m : List Byte) : DePlan :=
  let rate := (hashBlock h).1
  match h with
  | 1 => shaPlan h m
  | 2 => shaPlan h m
  | 3 => shaPlan h m
  | 7 => keccakPlan rate 0x1F m n
  | 8 => keccakPlan rate 0x1F m n
  | 9 => if name = [] ∧ cust = [] then keccakPlan rate 0x1F m n
         else keccakPlan rate 0x04 (bytepad (encodeString name ++ encodeString cust) rate ++ m) n
  | 10 => if name = [] ∧ cust = [] then keccakPlan rate 0x1F m n
          else keccakPlan rate 0x04 (bytepad (encodeString name ++ encodeString cust) rate ++ m) n
  | _ => keccakPlan rate 0x06 m (hashLen h)

/-- An HMAC: the key blocks lead to the inner and outer chaining values (R285, R286). `h` names its hash. -/
def hmacPlan (h : Nat) (key m : List Byte) (hit : Bool) : DePlan :=
  let f := shaFam h
  let b := 2 * f.2.1.w
  let long := decide (b < key.length)
  let hashed := (wordBytes f.2.1 (sha2Blocks f.2.1 (sha2K f.2.1) (sha2Count b key.length) f.2.2.1 (sha2Pad f.2.1 key))).take f.2.2.2
  let k := padTo b (if long then hashed else key)
  let iv := wordBytes f.2.1 f.2.2.1
  { fam := f.1, rate := b, size := f.2.2.2, keyBlocks := if hit then 0 else 2 + (if long then sha2Count b key.length else 0),
    start := shaStep f.2.1 iv (k.map (· ^^^ 0x36)), outer := shaStep f.2.1 iv (k.map (· ^^^ 0x5C)),
    body := (sha2Pad f.2.1 (List.replicate b 0 ++ m)).drop b, tail := 1 }

/-- A KMAC: the prefix block and the block of the encoded key lead to the keyed state (R285). -/
def kmacPlan (rate : Nat) (key cust m : List Byte) (n : Nat) (hit : Bool) : DePlan :=
  let pre := bytepad (encodeString (ascii "KMAC") ++ encodeString cust) rate ++ bytepad (encodeString key) rate
  let start := (List.range (pre.length / rate)).foldl (fun st i => keccakStep st (sub pre (i * rate) rate)) (List.replicate 200 0)
  { fam := 2, rate, size := n, keyBlocks := if hit then 0 else pre.length / rate, start, outer := [],
    body := kPad rate 0x04 (m ++ rightEncode (8 * n)), tail := (max n 1 - 1) / rate }

/-- A MAC of R170. -/
def macPlan (h : Nat) (key cust m : List Byte) (n : Nat) (hit : Bool) : DePlan :=
  match h with
  | 0x18 => kmacPlan 168 key cust m n hit
  | 0x19 => kmacPlan 136 key cust m n hit
  | _ => hmacPlan h key m hit

/-- HKDF as the HMACs of RFC 5869 (R286): the extract, then one for each output block. -/
def hkdfPlans (h : Nat) (key salt info : List Byte) (n : Nat) : List DePlan :=
  let f := shaFam h
  let b := 2 * f.2.1.w
  let hash := if h = 1 then sha256 else sha384
  let s := if salt = [] then List.replicate f.2.2.2 0 else salt
  let prk := hmac hash b s key
  let ts := hkdfBlocks hash b prk info ((n + f.2.2.2 - 1) / f.2.2.2) 1 []
  hmacPlan h s key false ::
    (List.range ((n + f.2.2.2 - 1) / f.2.2.2)).map (fun i =>
      hmacPlan h prk ((if i = 0 then [] else sub ts ((i - 1) * f.2.2.2) f.2.2.2) ++ info ++ [BitVec.ofNat 8 (i + 1)]) false)

/-- What an EdDSA request hashes (RFC 8032): signing hashes the message behind the prefix and then behind R and the public key; verification
only the latter. A pre-hash comes first (R260). -/
def edMessages (r : BneReq) : List (List Byte) :=
  let is448 := r.alg == 0x0504
  let pre := r.mode % 4 != 0
  let m := if r.mode % 4 = 1 then digestOf r.hash 64 [] [] r.input else r.input
  let dom := if is448 then ascii "SigEd448" ++ [if pre then 1 else 0, BitVec.ofNat 8 r.ctx.length] ++ r.ctx
    else if pre ∨ r.ctx ≠ [] then ascii "SigEd25519 no Ed25519 collisions" ++ [if pre then 1 else 0, BitVec.ofNat 8 r.ctx.length] ++ r.ctx
    else []
  let n := pubLen r.alg
  let hd := if is448 then (shake256 r.key 114).drop 57 else (sha512 r.key).drop 32
  let pub := if r.pub = [] then publicOf r.alg 0 0 r.key else r.pub
  let big := ((bneCompute r).out).take n
  (if r.mode % 4 = 1 then [r.input] else []) ++
    (if r.func = 6 then [dom ++ hd ++ m, dom ++ big ++ pub ++ m] else [dom ++ r.sig.take n ++ pub ++ m])

/-- The messages a BNE sends to the digest engine, with the function of each, and the hash that comes back (R260, R292). -/
def bneHash (r : BneReq) : List DePlan × List Byte :=
  if r.func = 6 ∨ r.func = 7 then
    let h := if r.alg = 0x0504 then 8 else 3
    let n := if h = 8 then 114 else 64
    ((edMessages r).map (digestPlan h n [] []), digestOf h n [] [] ((edMessages r).getLastD []))
  else ([digestPlan r.hash (hashLen r.hash) [] [] r.input], digestOf r.hash (hashLen r.hash) [] [] r.input)

/-- A waiting requester still waits: its job stands in the block, or its BNE request is in progress. -/
def deWaits (s : State) (b : Nat) (r : DeReq) : Bool :=
  match getJob s r.job with
  | some j => if r.bne then ((getBlock s b).bne.run.toList ++ (getBlock s b).bne.long.toList).any (fun x => x.job == r.job) else j.pos == .block b
  | none => false

/-- The requester to be served next: latency class, then age (R282). -/
def deNext (l : List DeReq) : Option DeReq :=
  l.foldl (fun a r => match a with
    | none => some r
    | some m => if m.lc < r.lc ∨ (m.lc = r.lc ∧ m.job ≤ r.job) then some m else some r) none

/-- A context that a requester receives. -/
def newCtx (r : DeReq) (now : Nat) : DeCtx :=
  { req := r, ready := false, waitFrom := now, plans := [], ran := 0, st := [], keep := none, value := [], done := false, starved := false }

/-- A context with its input delivered: it is ready to run (R283). -/
def DeCtx.load (c : DeCtx) (ps : List DePlan) (now : Nat) : DeCtx :=
  { c with plans := ps, ran := 0, st := (match ps with | p :: _ => p.init | [] => []), ready := true, waitFrom := now }

/-- A requester receives a context, with its result registers zeroed (R281, R291). The input of a BNE's request is at hand. -/
def deGrant (s : State) (b n : Nat) (r : DeReq) : State :=
  let own := fun (x : BneReq) => x.job == r.job && x.hashes
  let e := (getBlock s b).bne
  let c := newCtx r s.uptime
  let c' := match (if r.bne then (match e.run.filter own with | some x => some x | none => e.long.filter own) else none) with
    | some x => { c.load (bneHash x).1 s.uptime with value := (bneHash x).2 }
    | none => c
  modDe s b (fun d => { d with waiting := d.waiting.erase r, ctx := mapSet none d.ctx n (some c'), results := mapErase d.results n })

/-- A waiting requester receives a context. A job's keys are resolved before (R333). -/
def execDeContextGrant (blk : Nat) (s : State) : Res :=
  known (decide (blk < 16))
    (let d := (getBlock s blk).de
     let t := match deNext (d.waiting.filter (deWaits s blk)) with
       | some r =>
         (match deFree d r.lc with
          | some n =>
            if r.bne then deGrant s blk n r
            else
              (match getJob s r.job with
               | some j =>
                 withKeys s j (fun x vs =>
                   putJob (deGrant x blk n r) { j with pos := .running (0x90 + blk), unit := 0x90 + blk, vals := some vs })
               | none => s)
          | none => s)
       | none => s
     doIf s (serving s && blockServes s blk && blockAwake s blk) t)

/-- The held contexts with input ready that satisfy `p`, best first by class, then by the time each has waited. -/
def deBest (d : De) (p : Nat → DeCtx → Bool) : Option Nat :=
  (List.range 4).foldl (fun a n =>
    match deCtx d n with
    | none => a
    | some x =>
      if x.ready && p n x then
        (match a with
         | none => some n
         | some m =>
           (match deCtx d m with
            | some y => if y.req.lc < x.req.lc ∨ (y.req.lc = x.req.lc ∧ y.waitFrom ≤ x.waitFrom) then some m else some n
            | none => some n))
      else a) none

/-- The context the engine runs after a block of context `n` (R283): one that has starved before every other, for 64 blocks; one of a higher
class; after 64 blocks one of the same class; and any where the running one has no input ready. -/
def deChoose (d : De) (n : Nat) : Option Nat :=
  match (deCtx d n).filter (fun c => c.ready) with
  | none => (match deBest d (fun _ x => x.starved) with | some m => some m | none => deBest d (fun _ _ => true))
  | some c =>
    if d.hold64 ∧ d.blocks < 64 then some n
    else
      match deBest d (fun m x => m != n && x.starved) with
      | some m => some m
      | none =>
        match deBest d (fun m x => m != n && decide (x.req.lc < c.req.lc)) with
        | some m => some m
        | none =>
          if 64 ≤ d.blocks then
            (match deBest d (fun m x => m != n && x.req.lc == c.req.lc) with | some m => some m | none => some n)
          else some n

/-- The engine goes on with the context `m`; one chosen for having starved keeps it for 64 blocks. -/
def deSwitch (d : De) (n : Nat) (m : Option Nat) (now : Nat) : De :=
  if m = some n then d
  else
    let starved := match m with | some k => (deCtx d k).any (fun c => c.starved) | none => false
    let out := match deCtx d n with | some c => mapSet none d.ctx n (some { c with waitFrom := now }) | none => d.ctx
    let ctx := match m with
      | some k => (match mapGet none out k with | some c => mapSet none out k (some { c with starved := false }) | none => out)
      | none => out
    { d with running := m, blocks := 0, hold64 := starved, ctx }

/-- The bytes a context has squeezed or computed: all at its end, before it what its further squeeze blocks have brought. -/
def DeCtx.produced (c : DeCtx) (out : List Byte) : Nat :=
  match c.plans with
  | [p] => if p.fam = 2 ∧ p.keyBlocks + p.blocks ≤ c.ran then min out.length ((c.ran - p.keyBlocks - p.blocks + 1) * p.rate) else 0
  | _ => if c.plans = [] then out.length else 0

/-- The piece of 64 bytes that stands in the result registers when `n` bytes of a result have been produced (R291). -/
def lastPiece (out : List Byte) (n : Nat) : List Byte := (out.take n).drop ((n - 1) / 64 * 64)

/-- A context's result in the registers (R291): a public one, in pieces of 64 bytes of which the last stays there until the context is given
to another requester; of MAC_VERIFY the verdict alone, as one byte; another private one never enters them (R292). -/
def dePublish (d : De) (n : Nat) (c : DeCtx) (op : Nat) (r : JobRes) : De :=
  if op = 0x0502 then (if c.plans = [] then { d with results := mapSet [] d.results n (leBytes 1 r.result) } else d)
  else if c.req.priv then d
  else { d with results := mapSet [] d.results n (lastPiece r.out (c.produced r.out)) }

/-- A context whose result stands in its registers is copied to the job's staging and freed (R291). -/
def deCopy (blk : Nat) (s : State) (n : Nat) : State :=
  match deCtx (getBlock s blk).de n with
  | some c =>
    if c.done then
      (match getJob s c.req.job with
       | some j => putJob (modDe s blk (fun d => { d with ctx := mapErase d.ctx n })) { j with pos := .staged false }
       | none => modDe s blk (fun d => { d with ctx := mapErase d.ctx n }))
    else s
  | none => s

/-- The block control core copies every result that is ready. -/
def deCopyAll (s : State) (blk : Nat) : State := (List.range 4).foldl (deCopy blk) s

/-- A context after one more block of its message (R280). -/
def DeCtx.step (c : DeCtx) : DeCtx :=
  match c.plans with
  | [] => c
  | p :: ps =>
    if c.ran + 1 < p.total then { c with ran := c.ran + 1, st := p.next c.ran c.st }
    else { c with plans := ps, ran := 0, st := (match ps with | q :: _ => q.init | [] => p.next c.ran c.st), ready := !ps.isEmpty }

/-- The block after `ran` blocks of a message is one of its input stream: a key block or a squeeze takes none. -/
def DePlan.reads (p : DePlan) (ran : Nat) : Bool := decide (p.keyBlocks ≤ ran) && decide (ran < p.keyBlocks + p.blocks)

/-- A context whose next block of input has not arrived has no input ready (R283); a BNE's hash input is at hand. -/
def DeCtx.await (c : DeCtx) (more : Bool) : DeCtx :=
  match c.plans with
  | p :: _ => if !more && !c.req.bne && p.reads c.ran then { c with ready := false } else c
  | [] => c

/-- At the next block boundary the input that a context waited for has arrived. -/
def deArrive (d : De) (now : Nat) : De :=
  (List.range 4).foldl (fun x n =>
    match deCtx x n with
    | some c => if !c.ready && !c.plans.isEmpty then { x with ctx := mapSet none x.ctx n (some { c with ready := true, waitFrom := now }) } else x
    | none => x) d

/-- A keyed state enters the engine's cache once its key blocks have run (R286). -/
def deKeep (s : State) (blk : Nat) (c : DeCtx) : State :=
  match c.keep, c.plans with
  | some (hash, cust), p :: _ =>
    if c.ran + 1 = p.keyBlocks then
      (match getJob s c.req.job with
       | some j => keepState s j blk hash cust p
       | none => s)
    else s
  | _, _ => s

/-- The end of a message: the hash goes to the BNE that asked (R292), a result stands ready to be copied (R291). -/
def deEnds (s : State) (blk n : Nat) (c : DeCtx) (j : Job) : State :=
  if c.req.bne then
    modBne (modDe s blk (fun d => { d with ctx := mapErase d.ctx n })) blk (fun b =>
      if b.run.any (fun r => r.job == c.req.job && r.hashes) then { b with hashed := some c.value } else { b with longHashed := some c.value })
  else
    match j.res with
    | some _ => modDe s blk (fun d => { d with ctx := mapSet none d.ctx n (some { c with done := true }) })
    | none => s

/-- A block ends. First the results that stand ready are copied and their contexts freed (R291). The running context absorbs or squeezes one
block of its message (R280); at its end its result stands ready, or goes to the BNE that asked (R292). A requester whose slice is being reset
stops here (R294). Then the engine decides what runs next (R283). `more` says that the running context's next block of input, which the host's
memory delivers, has arrived. -/
def execDeBlockDone (blk : Nat) (more : Bool) (s : State) : Res :=
  known (decide (blk < 16))
    (let t := modDe (deCopyAll s blk) blk (fun d => deArrive d s.uptime)
     let d := (getBlock t blk).de
     let u :=
       match d.running with
       | none => modDe t blk (fun d => deSwitch d 4 (deChoose d 4) t.uptime)
       | some n =>
         let s1 := modDe t blk (fun d => { d with blocks := d.blocks + 1, hold64 := d.hold64 && decide (d.blocks + 1 < 64) })
         let s2 :=
           match deCtx d n with
           | none => s1
           | some c =>
             (match getJob t c.req.job with
              | none => modDe s1 blk (fun d => { d with ctx := mapErase d.ctx n })
              | some j =>
                if squashDue t j then failJob s1 j eAborted 0 false
                else if c.plans = [] then s1
                else
                  let c' := c.step.await more
                  let s3 := modDe (deKeep s1 blk c) blk (fun d =>
                    let x := { d with ctx := mapSet none d.ctx n (some c') }
                    match j.res with | some r => if c.req.bne then x else dePublish x n c' j.desc.opcode r | none => x)
                  if c'.plans = [] then deEnds s3 blk n c' j else s3)
         modDe s2 blk (fun d => deSwitch d n (deChoose d n) t.uptime)
     doIf s (ungated s && blockServes s blk && blockAwake s blk) u)

/-- A context has had input ready for 2^20 cycles without running: at the next block boundary it is chosen before every other (R283). -/
def execDeStarvationExpire (blk : Nat) (s : State) : Res :=
  known (decide (blk < 16))
    (let d := (getBlock s blk).de
     let t := match deBest d (fun n x => some n != d.running && decide (x.waitFrom + 655360 ≤ s.uptime)) with
       | some n =>
         modDe s blk (fun d => match deCtx d n with
           | some c => { d with ctx := mapSet none d.ctx n (some { c with starved := true }) }
           | none => d)
       | none => s
     doIf s (ungated s && blockServes s blk && blockAwake s blk) t)

/-! ### Group 0x05 -/

/-- The job's context on its engine. -/
def deCtxOf (s : State) (j : Job) : Option (Nat × Nat) :=
  match j.pos with
  | .running u =>
    if 0x90 ≤ u ∧ u < 0xA0 then
      ((List.range 4).find? (fun n => (deCtx (getBlock s (u - 0x90)).de n).any (fun c => c.req.job == j.id && !c.req.bne))).map (fun n => (u - 0x90, n))
    else none
  | _ => none

/-- The job holds a context that waits for its input. -/
def deHolds (s : State) (j : Job) : Bool :=
  match deCtxOf s j with
  | some (b, n) => (deCtx (getBlock s b).de n).any (fun c => !c.ready && !c.done && c.plans.isEmpty)
  | none => false

/-- The input of a job is delivered to its context: the messages it runs, and the result that stands when their last block has ended. An idle
engine loads the context. -/
def deResult (s : State) (j : Job) (ps : List DePlan) (keep : Option (Nat × List Byte)) (r : JobRes) : State :=
  match deCtxOf s j with
  | some (b, n) =>
    putJob (modDe s b (fun d =>
      let ctx := match deCtx d n with | some c => mapSet none d.ctx n (some { c.load ps s.uptime with keep }) | none => d.ctx
      { d with ctx, running := (match d.running with | some k => some k | none => some n), blocks := if d.running.isNone then 0 else d.blocks }))
      { j with res := some r, got := j.desc.inLen }
  | none => s

/-- Run a keyed function: on a hit its keyed state is loaded with the context, on a miss the key blocks run first and lead to an entry, but
for an S longer than 32 bytes (R285, R286). `f` builds the message for a hit or a miss. -/
def deKeyed (s : State) (j : Job) (hash : Nat) (cust : List Byte) (f : Bool → DePlan) (r : JobRes) : State :=
  match deCtxOf s j with
  | some (b, _) =>
    let h := match j.keys with | k :: _ => k.handle | [] => 0
    if cust.length ≤ 32 then
      (match kscFind (getBlock s b).de h hash cust with
       | some e =>
         deResult (touchState s b h hash cust) { j with spared := (f false).keyBlocks } [{ f true with start := e.inner, outer := e.outer }] none r
       | none => deResult s j [f false] (some (hash, cust)) r)
    else deResult s j [f false] none r
  | none => s

/-- A MAC of R170 with a tag of `n` bytes. -/
def macOf (h n : Nat) (key cust m : List Byte) : List Byte :=
  match h with
  | 0x11 => (hmac sha256 64 key m).take n
  | 0x12 => (hmac sha384 128 key m).take n
  | 0x13 => (hmac sha512 128 key m).take n
  | 0x18 => kmac128 key m n cust
  | _ => kmac256 key m n cust

/-- DIGEST: N ‖ S ‖ message (R192). -/
def execDigest (job : Nat) (io : JobIo) (s : State) : Res :=
  runEngine s job 0x0500 (deHolds s) (fun j =>
    engineInput s j io (fun m =>
      let d := j.desc
      let a := d.pb 46
      let b := d.pb 47
      deResult s j [digestPlan (d.pb 40) (d.pn 42 4) (m.take a) ((m.drop a).take b) (m.drop (a + b))] none
        (JobRes.done (digestOf (d.pb 40) (d.pn 42 4) (m.take a) ((m.drop a).take b) (m.drop (a + b))) 0)))

/-- MAC_GENERATE: S ‖ message (R192, R193). -/
def execMacGenerate (job : Nat) (io : JobIo) (s : State) : Res :=
  runEngine s job 0x0501 (deHolds s) (fun j =>
    engineInput s j io (fun m =>
      withKeys s j (fun t vs =>
        let d := j.desc
        let c := m.take (d.pb 47)
        deKeyed t j (d.pb 40) c (macPlan (d.pb 40) (vs.headD []) c (m.drop (d.pb 47)) (d.pn 42 2))
          (JobRes.done (macOf (d.pb 40) (d.pn 42 2) (vs.headD []) c (m.drop (d.pb 47))) 0))))

/-- MAC_VERIFY: S ‖ tag ‖ message; RESULT is 1 for a match (R192). -/
def execMacVerify (job : Nat) (io : JobIo) (s : State) : Res :=
  runEngine s job 0x0502 (deHolds s) (fun j =>
    engineInput s j io (fun m =>
      withKeys s j (fun t vs =>
        let d := j.desc
        let n := d.pn 42 2
        let c := m.take (d.pb 47)
        let r := m.drop (d.pb 47)
        deKeyed t j (d.pb 40) c (macPlan (d.pb 40) (vs.headD []) c (r.drop n) n)
          (JobRes.done [] (b2n (macOf (d.pb 40) n (vs.headD []) c (r.drop n) == r.take n))))))

/-- The key a KDF computes (R194): KMAC256 with the label as customization, or HKDF with the salt. -/
def kdfOf (d : Desc) (n : Nat) (key m : List Byte) : List Byte :=
  let p := m.take (d.pb 56)
  let q := m.drop (d.pb 56)
  if d.pb 40 = 0 then kmac256 key q n p
  else if d.pb 41 = 1 then hkdf sha256 64 32 key p q n
  else hkdf sha384 128 48 key p q n

/-- A key made by KDF is rooted when its parent is a slot, a derived key or itself rooted (R195). -/
def rootedParent (k : KeyRef) : Bool := k.kind != 3 || k.rooted

/-- KDF (R194, R195). -/
def execKdf (job : Nat) (io : JobIo) (s : State) : Res :=
  runEngine s job 0x0503 (deHolds s) (fun j =>
    engineInput s j io (fun m =>
      withKeys s j (fun t vs =>
        let d := j.desc
        let n := if d.pb 50 = 0 then 32 else d.pn 52 4
        let v := kdfOf d n (vs.headD []) m
        let p := m.take (d.pb 56)
        let q := m.drop (d.pb 56)
        let rooted := match j.keys with | k :: _ => rootedParent k | [] => false
        let r := if d.pb 50 = 0 then { JobRes.done [] 0 with fills := [ephFill (d.pn 44 4) (d.pn 48 2) (d.pn 42 2) v rooted] }
          else JobRes.done v 0
        if d.pb 40 = 0 then deKeyed t j 0x19 p (kmacPlan 136 (vs.headD []) p q n) r
        else deResult t j (hkdfPlans (d.pb 41) (vs.headD []) p q n) none r)))

/-! ### Parameters (R170, R192 to R195) -/

/-- Tag lengths of a MAC identifier; none for one that is not a MAC. -/
def macMax (h : Nat) : Nat := match h with | 0x11 => 32 | 0x12 => 48 | 0x13 => 64 | 0x18 => 64 | 0x19 => 64 | _ => 0

/-- The largest IN_LEN of a class of group 0x05. -/
def deLimit (lc : Nat) : Nat := match lc with | 0 => 4096 | 1 => 262144 | _ => 2 ^ 32 - 1

/-- What check 2 looks at in a group 0x05 descriptor. -/
def digestChecks (d : Desc) : Checks :=
  let lc := d.flags % 4
  let h := d.pb 40
  let xof := decide (7 ≤ h) && decide (h ≤ 10)
  let csh := h == 9 || h == 10
  let kmac := h == 0x18 || h == 0x19
  match d.opcode with
  | 0x0500 =>
    [(40, decide (h < 1) || decide (10 < h)), (42, if xof then decide (d.pn 42 4 < 1) || decide (65536 < d.pn 42 4) else d.pn 42 4 != 0),
     (46, !csh && d.pb 46 != 0), (47, !csh && d.pb 47 != 0),
     (24, decide (deLimit lc < d.inLen) || decide (d.inLen < d.pb 46 + d.pb 47))] ++ d.rsv 41 42 ++ d.rsv 48 64
  | 0x0503 =>
    let a := d.pn 48 2
    let out := d.pb 50
    [(24, decide (4096 < d.inLen)), (40, decide (1 < d.pb 40)),
     (41, if d.pb 40 = 0 then d.pb 41 != 0 else d.pb 41 != 1 && d.pb 41 != 2),
     (42, if out = 0 then !polOk a (d.pn 42 2) else d.pn 42 2 != 0), (44, if out = 0 then decide (65535 < d.pn 44 4) else d.pn 44 4 != 0),
     (48, if out = 0 then a != 0x0C01 && a != 0x0C02 else a != 0), (50, decide (1 < out)),
     (52, if out = 0 then d.pn 52 4 != 0 else decide (d.pn 52 4 < 16) || decide (1024 < d.pn 52 4)),
     (56, decide (d.inLen < d.pb 56))] ++ d.rsv 51 52 ++ d.rsv 57 64
  | _ =>
    let fixed := d.pb 47 + (if d.opcode = 0x0502 then d.pn 42 2 else 0)
    [(24, decide (deLimit lc < d.inLen) || decide (d.inLen < fixed)), (40, macMax h == 0),
     (42, decide (d.pn 42 2 < 16) || decide (macMax h < d.pn 42 2)), (47, !kmac && d.pb 47 != 0)] ++
      d.rsv 41 42 ++ d.rsv 44 47 ++ d.rsv 48 64

/-- The output length the parameters of a group 0x05 command fix (R192). -/
def digestOut (d : Desc) : Nat :=
  match d.opcode with
  | 0x0500 => if 7 ≤ d.pb 40 then d.pn 42 4 else hashLen (d.pb 40)
  | 0x0501 => d.pn 42 2
  | 0x0503 => if d.pb 50 = 1 then d.pn 52 4 else 0
  | _ => 0

/-! ### Registers (R293) -/

/-- DE_RESULT_LENn. -/
def regDeLen (d : De) (n : Nat) : Nat := (mapGet [] d.results n).length

/-- DE_CTX_STATn. READY: the result registers hold a result not yet copied. -/
def regDeCtx (d : De) (n : Nat) : Nat :=
  match deCtx d n with
  | some c =>
    2 ^ 31 + b2n c.req.priv * 2 ^ 30 + b2n (c.done && regDeLen d n != 0) * 2 ^ 29 + c.req.slice * 2 ^ 20 + c.req.lc * 2 ^ 18 + b2n c.req.bne * 2 ^ 17 +
      c.req.hash * 2 ^ 8
  | none => 0

/-- DE_RESULTn_w: 0 while the context is private. -/
def regDeResult (d : De) (n w : Nat) : Nat :=
  if (deCtx d n).any (fun c => c.req.priv) then 0 else fieldLe (mapGet [] d.results n) (4 * w) 4

/-- DE_QUEUE. -/
def regDeQueue (d : De) : Nat :=
  min 255 d.waiting.length * 2 ^ 16 + b2n d.running.isNone * 2 ^ 15 + d.running.getD 0 * 2 ^ 13 + min 64 d.ksc.length

/-- A read of the engine's registers by its block or region control core, at an offset from the engine's base (R293). An offset that holds no
register reads 0. -/
def deRegRead (d : De) (off : Nat) : Nat :=
  if off = 0x040 then regDeQueue d
  else if off < 0x040 then (if off % 16 = 0 then regDeCtx d (off / 16) else if off % 16 = 8 then regDeLen d (off / 16) else 0)
  else if 0x100 ≤ off ∧ off < 0x200 ∧ off % 4 = 0 then regDeResult d ((off - 0x100) / 64) ((off - 0x100) % 64 / 4)
  else 0

end Sys2Proof.Machine
end

