-- ==== Sys2Proof/Machine/Sched.lean ====
section
/-! DEFINITION. The path of an admitted job (R18 to R31, R119, R120, R135, R136): the picks of the dispatcher, the blocks and the cells, the
checks before release, the release, and the limits of R72 and R482. -/

namespace Sys2Proof.Machine

/-! ### What runs a job -/

/-- The unit a job runs on: 0 a management core, 1 the chip KMAC unit, 2 a digest engine, 3 a BNE, 4 a cell. `vol` says that the key of
KEY_PUBLIC or KEY_QUERY is a peer. -/
def unitKind (op alg : Nat) (peer : Bool) : Nat :=
  let g := op / 256
  if g = 1 ∨ g = 6 ∨ g = 7 ∨ g = 8 ∨ g = 9 ∨ g = 0x0B then 0
  else if op = 0x0A00 ∨ op = 0x0A01 ∨ op = 0x0A02 then 0
  else if op = 0x0201 ∨ op = 0x0207 ∨ op = 0x0208 ∨ op = 0x0404 then 0
  else if op = 0x0202 ∧ peer then 0
  else if op = 0x0203 then 0
  else if op = 0x0204 ∨ op = 0x0205 then 1
  else if g = 5 then 2
  else if op = 0x0303 then 3
  else if (op = 0x0200 ∨ op = 0x0202 ∨ op = 0x0206 ∨ op = 0x0300 ∨ op = 0x0400 ∨ op = 0x0401 ∨ op = 0x0402) ∧ bneFam alg then 3
  else 4

/-- The kind of unit a job needs. -/
def Job.kind (j : Job) : Nat :=
  unitKind j.desc.opcode j.alg (match j.keys with | k :: _ => k.kind == 2 | [] => false)

/-! ### The dispatcher (R135, R136) -/

/-- Completion entries of a queue pair that are reserved or not consumed (R125): those of its admitted jobs, and those between CQ_HEAD and
CQ_TAIL. -/
def cqUsed (s : State) (n q : Nat) : Nat :=
  let p := getQp s n q
  (s.jobs.filter (fun j => j.slice == n && j.qp == q)).length + (p.cqTail + p.entries - p.cqHead) % p.entries

/-- A completion entry can be reserved (R125). -/
def cqRoom (s : State) (n q : Nat) : Bool := decide (cqUsed s n q + 1 < (getQp s n q).entries)

/-- Every enabled queue pair of a slice is stalled on its completion ring (R135). -/
def allStalled (s : State) (n : Nat) : Bool :=
  (List.range 4).any (fun q => (getQp s n q).enable) &&
    (List.range 4).all (fun q => !(getQp s n q).enable || !cqRoom s n q)

/-- The lowest virtual time among the slices with queued jobs; none without any. -/
def leastVtime (s : State) : Option Rat :=
  (s.slices.filter (fun e => hasQueued s e.1)).foldl (fun a e =>
    match a with | none => some e.2.vtime | some v => some (min v e.2.vtime)) none

/-- A slice with no queued jobs receives one: its virtual time is raised (R136). -/
def raiseVtime (s : State) (n : Nat) : State :=
  if hasQueued s n then s
  else match leastVtime s with
    | some v => if (getSlice s n).vtime < v then modSlice s n (fun x => { x with vtime := v }) else s
    | none => s

/-- Whether the dispatcher takes job `a` before job `b` of the same class: replays at the head (R481), then the slice with the lower virtual
time, the lower slice number, and age. -/
def pickFirst (s : State) (a b : Job) : Bool :=
  let ra := decide (0 < a.replays)
  let rb := decide (0 < b.replays)
  if ra != rb then ra
  else
    let va := (getSlice s a.slice).vtime
    let vb := (getSlice s b.slice).vtime
    if ra then decide (a.id < b.id)
    else decide (va < vb) || (decide (va = vb) && (decide (a.slice < b.slice) || (a.slice == b.slice && decide (a.id < b.id))))

/-- The best of a list under an order. -/
def bestJob (before : Job → Job → Bool) (l : List Job) : Option Job :=
  l.foldl (fun a j => match a with | none => some j | some m => if before j m then some j else some m) none

/-- A free cell in service of region `r` (R120). -/
def freeCellIn (s : State) (r : Nat) : Bool :=
  (List.range 32).any (fun i => cellServes s (32 * r + i) && (getCell s (32 * r + i)).job.isNone)

/-- The waiting job of class `lc` the dispatcher takes while the region's queue has room. -/
def pickOf (s : State) (rgn lc : Nat) : Option Job :=
  if regionRoom s rgn lc ∧ (lc ≠ 0 ∨ freeCellIn s rgn) then
    bestJob (pickFirst s) (s.jobs.filter (fun j => j.pos == .waiting && j.lc == lc && !allStalled s j.slice))
  else none

/-- The classes up to `lc`, first the one with a job to take (R135). -/
def pickUpTo (s : State) (rgn lc : Nat) : Option Job := (List.range (lc + 1)).findSome? (pickOf s rgn)

/-- A replay is picked ahead of the jobs of other slices whose virtual time is lower (R485). -/
def jumpOthers (s : State) (j : Job) : State :=
  if j.replays = 0 then s
  else
    { s with jobs := s.jobs.map (fun k =>
        if k.pos = .waiting ∧ k.lc = j.lc ∧ k.slice ≠ j.slice ∧ k.replays = 0 ∧ (getSlice s k.slice).vtime ≤ (getSlice s j.slice).vtime
        then { k with jumped := true } else k) }

/-- A region queue of a class gains room: the dispatcher picks a waiting job and gives it to the region R18 chooses. -/
def execDispatchPick (rgn lc : Nat) (s : State) : Res :=
  known (decide (rgn < 4) && decide (lc < 3))
    (match pickUpTo s rgn lc with
     | none => .next s
     | some j =>
       let t := jumpOthers s j
       doIf s (serving s && regionRoom s rgn lc)
         (putJob t (placeJob t { j with waitedLong := j.waitedLong || decide (j.waitFrom + 100000 < s.uptime) })))

/-! ### Blocks (R19) -/

/-- Block `b` may take a job: it is in service, has room for it (R481) and, for a whole BNE job, its BNE is in service (R264). -/
def blockTakes (s : State) (j : Job) (b : Nat) : Bool :=
  blockServes s b && decide (blockQueue s b < 64) && (j.kind != 3 || bneServes s b)

/-- No unit of block `b` that could run the job is another than the one its last attempt ran on (R28). -/
def avoids (s : State) (j : Job) (b : Nat) : Bool :=
  match j.kind with
  | 2 => j.avoid == some (0x90 + b)
  | 3 => j.avoid == some (0x80 + b)
  | _ => j.avoid == some (0x80 + b) || (List.range 8).all (fun i => j.avoid == some (8 * b + i) || !cellServes s (8 * b + i))

/-- Block `b` has a unit in service that the replay of a job may go to. -/
def couldTake (s : State) (j : Job) (b : Nat) : Bool :=
  blockServes s b && (j.kind != 3 || bneServes s b) && !avoids s j b

/-- The block for a job: the one with the fewest jobs of its class, the lowest on a tie; a replay goes to another unit while one is in
service, and waits for its queue (R28, R278). -/
def chooseBlock (s : State) (j : Job) (r : Nat) : Option Nat :=
  let l := (List.range 4).map (fun i => 4 * r + i)
  match leastOf (fun b => blockTakes s j b && !avoids s j b) (fun b => blockLoad s b j.lc) l with
  | some b => some b
  | none => if l.any (couldTake s j) then none else leastOf (blockTakes s j) (fun b => blockLoad s b j.lc) l

/-- A digest job asks for a context of its block's engine (R281, R282); MAC_VERIFY and KDF are private (R292). -/
def askDe (s : State) (j : Job) (b : Nat) : State :=
  modDe s b (fun d => { d with waiting := d.waiting ++
    [{ job := j.id, bne := false, slice := j.slice, lc := j.lc, hash := if j.desc.opcode ≠ 0x0503 then j.desc.pb 40 else if j.desc.pb 40 = 0 then 0x19 else j.desc.pb 41,
       priv := j.desc.opcode == 0x0502 || j.desc.opcode == 0x0503, since := s.uptime }] })

/-- The region arbiter gives a queued job to a block. -/
def execBlockAssign (job : Nat) (s : State) : Res :=
  match getJob s job with
  | some j =>
    (match j.pos with
     | .region r =>
       (match chooseBlock s j r with
        | some b =>
          -- The work wakes the block, its region and the region's HBM stack (R74).
          let t := putJob (wakeUnit false (wakeUnit false s (148 + r)) (128 + b)) { j with pos := .block b, block := b }
          doIf s (serving s && decide (r < 4) && regionOnline s r) (if j.kind = 2 then askDe t j b else t)
        | none => .next s)
     | _ => .next s)
  | none => .next s

/-! ### Cells (R19, R120, R235) -/

/-- LC0_CELLS of all slices. -/
def lc0Cells (s : State) : Nat := (s.slices.map (fun e => if e.2.state = .absent then 0 else e.2.cfg.lc0Cells)).sum

/-- With a job of class 1 or 2 on cell `c`, its region keeps enough other cells free or running LC0 jobs (R120). -/
def keepsLc0 (s : State) (c : Nat) : Bool :=
  let r := c / 32
  -- Reservations are not applied in MAINTENANCE and UMBRA (R75).
  s.chip.mode == .maintenance || s.chip.mode == .umbra || decide (lc0Cells s ≤ ((List.range 32).filter (fun i =>
    let k := 32 * r + i
    k != c && cellServes s k && ((getCell s k).job.isNone || (getCell s k).lc == 0))).length)

/-- A cell of the block, in service and free. -/
def cellFree (s : State) (c : Nat) : Bool := cellServes s c && (getCell s c).job.isNone && !(getCell s c).halted

/-- The customer window of a cell holds the job's image. -/
def holdsImage (s : State) (j : Job) (c : Nat) : Bool :=
  (getCell s c).winTag == some j.slice && (getCell s c).winImage == j.image

/-- The block arbiter may start job `j` on cell `c`. A replay goes to another cell of the block while one is in service (R28); a customer
macro-op prefers a free cell that holds its image. -/
def startsOn (s : State) (j : Job) (c : Nat) : Bool :=
  let others := (List.range 8).map (fun i => c / 8 * 8 + i)
  j.pos == .block (c / 8) && j.kind == 4 && j.res.isNone && (j.lc == 0 || keepsLc0 s c) &&
    !(j.avoid == some c && others.any (fun k => k != c && cellServes s k)) &&
    (j.image.isEmpty || holdsImage s j c || !others.any (fun k => cellFree s k && holdsImage s j k))

/-- Class, replays first, then age. -/
def startFirst (a b : Job) : Bool :=
  decide (a.lc < b.lc) || (a.lc == b.lc && (
    (decide (0 < a.replays) && decide (b.replays = 0)) ||
    (decide (0 < a.replays) == decide (0 < b.replays) && decide (a.id < b.id))))

/-- The job waits for a second cell, and cell `c` may be it. -/
def secondOn (s : State) (j : Job) (c : Nat) : Bool :=
  j.second.isNone && (j.lc == 0 || keepsLc0 s c) &&
    (match j.firstCell with | some f => if j.dual then dualsOn s j f c else checksOn f c | none => false)

/-- The job cell `c` starts next: a job of its block, or the second execution or the check of one (R19, R25, R27). -/
def nextFor (s : State) (c : Nat) : Option Job := bestJob startFirst (s.jobs.filter (fun j => startsOn s j c || secondOn s j c))

/-- A cell after the job-end wipe with a job's values at its start (R200, R211, R226, R234); it waits at END for the row of its command. -/
def startCell (s : State) (j : Job) (x : Cell) : Cell :=
  { x.wipe.drawProj with
    job := some j.id, macroOp := if j.image.isEmpty then (Config.makerOp j.desc.opcode).val else 0, customOut := false, lc := j.lc,
    slice := j.slice, jobLim := jobLimOf s j, wdogExp := (settings s).wdogExp, pc := 1, hold := true }

/-- A cell takes the check or the second execution of a job. -/
def takeSecond (s : State) (j : Job) (c : Nat) : State :=
  putJob (modCell s c (startCell s j)) { j with second := some c }

/-- A cell takes a job: its values of R200, the job's identity, and WDOG (R211). A maker macro-op waits for the row of its command, which
stands for its microprogram; a customer macro-op waits for CUSTOMER_MACRO_OP with its window loaded (R235). -/
def cellTakes (s : State) (j : Job) (c : Nat) : State :=
  putJob (modCell s c (fun x =>
    let w := startCell s j x
    if j.image.isEmpty ∨ holdsImage s j c then w else loadWindow w j.slice j.image))
    { j with pos := .running c, unit := c }

/-- The block arbiter starts a job on a free cell; its keys are resolved first (R333). The check or the second execution of a job takes
its cell the same way. A cell that does not run is woken for the job first (R74). -/
def execCellJobStart (cell : Nat) (s : State) : Res :=
  known (decide (cell < 128))
    (match nextFor s cell with
     | none => .next s
     | some j =>
       doIf s (serving s && cellFree s cell)
         (if !(domAwake s cell && blockAwake s (cell / 8)) then wakeUnit false s cell
          else if secondOn s j cell then takeSecond s j cell
          else withKeys s j (fun t vs => cellTakes t { j with vals := some vs } cell)))

/-! ### Checks before release (R25, R27) -/

/-- A check before release fails: the attempt is discarded and the job replayed; the fault CHECK names the cell that produced it, DUAL
both cells of a mismatch (R25, R27, R467). -/
def failCheck (s : State) (j : Job) (dual : Bool) : State :=
  let t := replayJob s j true
  let other := (j.second.getD j.unit)
  if 128 ≤ j.unit then t
  else if dual then
    let u := raiseFor t j 0x06 j.unit (cellInfo (getCell s j.unit))
    if other = j.unit then u else raiseFor u j 0x06 other (cellInfo (getCell s other))
  else raiseFor t j 0x05 j.unit (cellInfo (getCell s j.unit))

/-- A check before release ends on its second cell: it sets a guarantee flag, or it fails. -/
def endCheck (s : State) (job : Nat) (dual : Bool) (flag : Nat) (ok : Bool) : Res :=
  match getJob s job with
  | some j =>
    (match j.res with
     | some r =>
       doIf s (serving s && j.pos == .staged true && j.dual == dual && j.second.isSome)
         (if ok && !r.spoilt then
            putJob (freeEngines s j.id) { j with pos := .staged false, second := none, twin := none,
                                                 res := some { r with guarantee := r.guarantee + flag } }
          else failCheck s j dual)
     | none => .next s)
  | none => .next s

/-- The verification of a signature on another cell ends (R25). -/
def execVerifyBeforeReleaseDone (job : Nat) (ok : Bool) (_ : JobIo) (s : State) : Res := endCheck s job false 1 ok

/-- Both executions of a dual encapsulation have ended and are compared (R27): `ok` says that the cells agree; the classical parts of a
hybrid one are compared as the BNEs left them (R168). -/
def execDualCompare (job : Nat) (ok : Bool) (_ : JobIo) (s : State) : Res :=
  match getJob s job with
  | some j =>
    if j.desc.opcode = 0x0304 then
      (match j.twin with
       | some y => endCheck s job true 2 (ok && y == j.saved.getD 3 [])
       | none => .next s)
    else endCheck s job true 2 ok
  | none => .next s

/-! ### Release (R20 to R24) -/

/-- A job that makes a slot key writes its slot record first (R322): the release point is the commit of the records that follow. -/
def writeSlot (s : State) (j : Job) (n : SlotNew) : State :=
  let digest := if n.pub = [] then [] else sha3_256 n.pub
  requestWrite (putJob s { j with pos := .committing, writes := 0 }) (2 + j.lc)
    { job := some j.id,
      op := .slotWrite n.index (slotRecord s j.slice n.index (nextGen s n.index) n.alg n.policy n.origin (now s) n.seed digest) }

/-- Release from the staged result. -/
def releaseJob (s : State) (j : Job) (r : JobRes) (io : JobIo) : State :=
  let f := outPage j io (r.fit j.desc.outCap)
  if f.status = stOk then
    (match f.slot with
     | some n => writeSlot s j n
     | none => finishJob s j f io)
  else
    endJob s j { Cpl.bare s f.status f.detail j.unit with replays := j.replays, outLen := f.outNeed, result := f.result } io.cycles io.cplFault

/-- A job reaches its release point and its output goes out. Once its slice is being reset or removed it stops here instead (R139). No result leaves while IDE is required and not secure (R91), or while a retained
bank it used is unchecked (R505). -/
def execJobRelease (job : Nat) (io : JobIo) (s : State) : Res :=
  match getJob s job with
  | some j =>
    (match j.res with
     | some r =>
       if squashDue s j && !isResetJob s j then
         doIf s (serving s && j.pos == .staged false) (failJob s j eAborted 0 io.cplFault)
       else
         doIf s (serving s && j.pos == .staged false && !ideHold s && banksChecked s j && (j.ofEvent || s.link.up))
           (releaseJob s j r io)
     | none => .next s)
  | none => .next s

/-! ### Limits -/

/-- A job of R72 still unassigned when its bound passes completes with E_RETRY_EXHAUSTED. -/
def execUnassignedBoundExpire (job : Nat) (io : JobIo) (s : State) : Res :=
  match getJob s job with
  | some j =>
    doIf s (serving s && noRegion s && !j.isReleased && lateJob s j &&
        (j.pos == .waiting || (j.onChip && j.res.isNone && j.needsRegion)))
      (failJob s j eRetryExhausted 0 io.cplFault)
  | none => .next s

/-- What a ceremony step that ended with its job leaves: the ceremony waits for the next one. -/
def dropStepOf (s : State) (k : Nat) : State :=
  if s.cer.any (fun c => c.stepJob == some k) then
    { idleCards s with cer := s.cer.map (fun c => { c with stepJob := none, step := none }) }
  else s

/-- An unreleased job still outstanding 8 s after its bound is abandoned (R482); a leaf it used is burned. -/
def execJobAbandonTimeout (job : Nat) (io : JobIo) (s : State) : Res :=
  match getJob s job with
  | some j =>
    doIf s (ungated s && !j.isReleased && !writeBegun s j && decide (j.since + jobBound j + 8000000000 ≤ s.uptime))
      (dropStepOf (failJob s j eRetryExhausted 0 io.cplFault) j.id)
  | none => .next s

/-! ### Scrubs that wait (R160, R334) -/

/-- The jobs a scrub waits for have ended: those admitted before its event; for an expanded entry those of them that use the key. -/
def scrubDue (s : State) (w : ScrubWait) : Bool :=
  s.jobs.all (fun j => decide (w.before ≤ j.id) || (w.expOnly && j.keys.all (fun k => k.handle != w.handle)))

/-- The scrub of a key whose jobs have ended. -/
def execKeyScrubAfterJobs (handle : W64) (s : State) : Res :=
  let due := s.scrubs.filter (fun w => w.handle == handle && scrubDue s w)
  let t := { s with scrubs := s.scrubs.filter (fun w => !(w.handle == handle && scrubDue s w)) }
  doIf s (alive s && !due.isEmpty)
    (if due.any (fun w => !w.expOnly) then scrubKey (scrubLane t (hSlice handle) (· == handle)) handle
     else filterExpanded t (fun e => e.handle != handle))

end Sys2Proof.Machine
end

