-- ==== Sys2Proof/Machine/SliceCmds.lean ====
section
/-! DEFINITION. Group 0x01 (R122) and the ends of what it begins: slice states (R115 to R117), configuration and quotas (R118, R119), PASIDs
(R121, R534), the HDM window, apertures and bias (R95 to R98), resets and removals (R138, R139), DRAIN (R51), and GPF (R86). -/

namespace Sys2Proof.Machine

/-! ### The configuration block (R118) -/

/-- A configuration block as 128 bytes. -/
def SliceCfg.bytes (c : SliceCfg) : List Byte :=
  leBytes 1 c.version ++ [0] ++ leBytes 2 c.settings ++ leBytes 2 c.weight ++ leBytes 1 c.lc0Cells ++ leBytes 1 c.lc1En ++
    leBytes 4 c.maxOut ++ leBytes 4 c.keySlots ++ leBytes 2 c.hbmGib ++ leBytes 1 c.ports ++ [0] ++ leBytes 4 c.events ++
    leBytes 4 c.leafBatch ++ [0, 0, 0, 0] ++ leBytes 8 c.epochOrigin ++ leBytes 8 c.epochLength ++ List.replicate 80 0

/-- The fields of a block. -/
def SliceCfg.ofBytes (b : List Byte) : SliceCfg :=
  { version := byteAt b 0, settings := fieldLe b 2 2, weight := fieldLe b 4 2, lc0Cells := byteAt b 6, lc1En := byteAt b 7,
    maxOut := fieldLe b 8 4, keySlots := fieldLe b 12 4, hbmGib := fieldLe b 16 2, ports := byteAt b 18, events := fieldLe b 20 4,
    leafBatch := fieldLe b 24 4, epochOrigin := fieldLe b 32 8, epochLength := fieldLe b 40 8 }

/-- The settings enable epochs. -/
def SliceCfg.epochEn (c : SliceCfg) : Bool := c.settings.testBit 2

/-- Reserved bytes are 0 and every field lies in its range (R118, R331). -/
def cfgOk (b : List Byte) : Bool :=
  let c := SliceCfg.ofBytes b
  c.version == 1 && byteAt b 1 == 0 && decide (c.settings < 8) && decide (1 ≤ c.weight) && decide (c.weight ≤ 1000) &&
    decide (c.lc0Cells ≤ 8) && decide (c.lc1En ≤ 1) && decide (1 ≤ c.maxOut) && decide (c.maxOut ≤ 65536) &&
    decide (c.keySlots ≤ 262144) && decide (c.hbmGib ≤ 112) && byteAt b 19 == 0 && decide (c.events ≤ 65536) &&
    decide (16 ≤ c.leafBatch) && decide (c.leafBatch ≤ 65536) && zeros b 28 32 && c.epochOrigin != 2 ^ 64 - 1 &&
    decide (c.epochLength ≤ 2 ^ 32) && zeros b 48 128 &&
    (!c.epochEn || (c.epochOrigin != 0 && c.epochLength != 0 && c.epochOrigin % 1000000000 == 0))

/-- The fields that are not live (R118). -/
def SliceCfg.fixed (c : SliceCfg) : List Nat := [c.version, c.hbmGib, c.ports, c.epochOrigin, c.epochLength]

/-- A total over the slices that exist, but for slice `n`. -/
def totalOf (s : State) (n : Nat) (f : SliceCfg → Nat) : Nat :=
  (s.slices.map (fun e => if e.2.state = .absent ∨ e.1 = n then 0 else f e.2.cfg)).sum

/-- The ports of the slices that exist, but for slice `n`. -/
def portsOf (s : State) (n : Nat) : Nat :=
  s.slices.foldl (fun a e => if e.2.state = .absent ∨ e.1 = n then a else a ||| e.2.cfg.ports) 0

/-- A block for slice `n` keeps the totals, the ports and the slice's present use (R119). DESIGN CHOICE (log entry 47): MAX_OUTSTANDING
below the jobs now outstanding is no quota below present use, since MAX_OUTSTANDING may be overcommitted. -/
def quotaOk (s : State) (n : Nat) (c : SliceCfg) : Bool :=
  decide (totalOf s n (fun x => x.keySlots) + c.keySlots ≤ 262144) && decide (totalOf s n (fun x => x.events) + c.events ≤ 65536) &&
    decide (totalOf s n (fun x => x.hbmGib) + c.hbmGib ≤ 112) && decide (totalOf s n (fun x => x.lc0Cells) + c.lc0Cells ≤ 16) &&
    portsOf s n &&& c.ports == 0 && decide (slotsUsed s n ≤ c.keySlots) && decide (eventsUsed s n ≤ c.events) &&
    decide (hbmUse s n ≤ c.hbmGib * 1024)

/-! ### Queries -/

/-- DEVICE_QUERY. -/
def execDeviceQuery (job : Nat) (io : JobIo) (s : State) : Res :=
  runMgmt s job 0x0100 (fun j =>
    let free := fun (m : Nat) (f : SliceCfg → Nat) => m - totalOf s 64 f
    answer s j io (JobRes.done
      (leBytes 4 (regChipMode s) ++ leBytes 4 (regChipCond s) ++ leBytes 4 (regChipLink s) ++
        leBytes 4 (free 262144 (fun c => c.keySlots)) ++ leBytes 4 (free 65536 (fun c => c.events)) ++
        leBytes 2 (free 112 (fun c => c.hbmGib)) ++ leBytes 1 (0xFF - portsOf s 64) ++ [0] ++
        (List.range 4).flatMap (fun r => leBytes 1 (if regionOnline s r then free 16 (fun c => c.lc0Cells) else 0)) ++
        leBytes 4 s.jobs.length ++ List.replicate 32 0) 0))

/-- The PASID indices bound. -/
def pasidMask (x : Slice) : Nat := maskOf (fun i => mapGet .unbound x.pasids i != .unbound) 8

/-- SLICE_QUERY: the block of a slice that does not exist reads as zeros. -/
def execSliceQuery (job : Nat) (io : JobIo) (s : State) : Res :=
  runMgmt s job 0x0101 (fun j =>
    let n := j.desc.pb 40
    let x := getSlice s n
    answer s j io (JobRes.done
      ((if x.state = .absent then List.replicate 128 0 else x.cfg.bytes) ++ leBytes 1 x.state.code ++ [0, 0, 0] ++
        leBytes 4 (outstanding s n) ++ leBytes 4 (slotsUsed s n) ++ leBytes 4 (eventsUsed s n) ++
        leBytes 2 ((hbmUse s n + 1023) / 1024) ++ leBytes 1 (pasidMask x) ++ List.replicate 13 0) 0))

/-! ### Configuration and state -/

/-- A record of S00 is not committed in BLANK and SEALED (R533). -/
def uncommitted (s : State) (n : Nat) : Bool := n == 0 && (s.chip.lc == .blank || s.chip.lc == .sealed)

/-- The state a slice's record holds: that of a slice being reset is the one the reset gives (R117). -/
def recState (x : Slice) : SliceState :=
  match x.resetRec with
  | some r => if r.prior = .quiescing then .configured else r.prior
  | none => x.state

/-- A command takes a slice to a state and configuration: it releases at the commit of the slice's record (R117). -/
def takeRec (s : State) (j : Job) (io : JobIo) (n : Nat) (r : SliceRec) : State :=
  if uncommitted s n then answerOk (applySliceRec s n r) j io else stageCommit s j (JobRes.done [] 0) [.slice n r]

/-- A block that SLICE_CREATE or SLICE_CONFIGURE may not take, or the change it makes. -/
def withBlock (s : State) (j : Job) (io : JobIo) (n : Nat) (ok : SliceCfg → Bool) (st : SliceState) : State :=
  withInput s j io (fun b =>
    let c := SliceCfg.ofBytes b
    if !cfgOk b then answer s j io (JobRes.status0 eParam 0x02FF)
    else if !ok c then refuse s j io eMode
    else if !quotaOk s n c then refuse s j io eQuota
    else takeRec s j io n { state := st, cfg := c, removal := false })

/-- SLICE_CREATE (R115, R116). -/
def execSliceCreate (job : Nat) (io : JobIo) (s : State) : Res :=
  runMgmt s job 0x0102 (fun j =>
    let n := j.desc.pb 40
    if (getSlice s n).state ≠ .absent ∨ s.chip.lc = .blank ∨ s.chip.lc = .sealed then refuse s j io eMode
    else withBlock s j io n (fun _ => true) .configured)

/-- SLICE_CONFIGURE (R118). DESIGN CHOICE (log entry 47): live fields may be changed while the slice is QUIESCING or RESETTING too; R118
names ACTIVE alone. -/
def execSliceConfigure (job : Nat) (io : JobIo) (s : State) : Res :=
  runMgmt s job 0x0103 (fun j =>
    let n := j.desc.pb 40
    let x := getSlice s n
    if x.state = .absent then refuse s j io eMode
    else withBlock s j io n (fun c => x.state == .configured || n == 0 || c.fixed == x.cfg.fixed) (recState x))

/-- A state change along R115. -/
def changeState (s : State) (j : Job) (io : JobIo) (old new : SliceState) : State :=
  let n := j.desc.pb 40
  let x := getSlice s n
  if x.state = old then takeRec s j io n { state := new, cfg := x.cfg, removal := false } else refuse s j io eMode

/-- SLICE_ACTIVATE. -/
def execSliceActivate (job : Nat) (io : JobIo) (s : State) : Res :=
  runMgmt s job 0x0104 (fun j => changeState s j io .configured .active)

/-- SLICE_QUIESCE. -/
def execSliceQuiesce (job : Nat) (io : JobIo) (s : State) : Res :=
  runMgmt s job 0x0105 (fun j => changeState s j io .active .quiescing)

/-- No change of a slice's record is pending. -/
def recIdle (s : State) (n : Nat) : Bool := mapGet WriteQ.none s.alm.writes (ridSlice n) == WriteQ.none

/-- The record of a slice is committed with its present state. -/
def saveSlice (s : State) (n : Nat) : State :=
  let x := getSlice s n
  if uncommitted s n then s
  else requestWrite s 4 { job := none, op := .slice n { state := recState x, cfg := x.cfg, removal := false } }

/-- The device is in a mode in which slices change state (R80). -/
def slicesRun (s : State) : Bool := ungated s && s.chip.mode != .boot && s.chip.mode != .halt

/-- The last admitted job of a QUIESCING slice has completed: the slice becomes CONFIGURED. -/
def execQuiesceComplete (sl : Nat) (s : State) : Res :=
  known (decide (sl < 64))
    (doIf s (slicesRun s && (getSlice s sl).state == .quiescing && decide (outstanding s sl = 0) && recIdle s sl)
      (saveSlice (notifyState (modSlice s sl (fun x => { x with state := .configured })) sl) sl))

/-! ### Resets and removals (R138, R139) -/

/-- A command waits for the end of the reset or removal it has begun. -/
def park (s : State) (j : Job) : State := modJob s j.id (fun x => { x with parked := true, unit := unitMgmt })

/-- SLICE_RESET. A replay of the command goes on with the reset it began. -/
def execSliceReset (job : Nat) (io : JobIo) (s : State) : Res :=
  runMgmt s job 0x0106 (fun j =>
    let n := j.desc.pb 40
    let x := getSlice s n
    if j.parked then s
    else if isResetJob s j then park s j
    else if x.state = .absent ∨ x.state = .resetting ∨ (n = 0 ∧ s.chip.mode = .ceremony) then refuse s j io eMode
    else
      -- The record of a QUIESCING slice takes the state the reset gives (R117).
      (let t := beginReset (park s j) n (some j.id) false
       if x.state = .quiescing then saveSlice t n else t))

/-- A removal commits its intent with the slice's record, and the slice enters RESETTING (R117, R139). -/
def beginRemoval (s : State) (j : Job) (n : Nat) : State :=
  let x := getSlice s n
  askWrite (beginReset (park s j) n (some j.id) true) j (2 + j.lc) (.slice n { state := recState x, cfg := x.cfg, removal := true })

/-- SLICE_REMOVE: for a slice that is RESETTING it waits until the reset has finished (R138). -/
def execSliceRemove (job : Nat) (io : JobIo) (s : State) : Res :=
  runMgmt s job 0x0107 (fun j =>
    let n := j.desc.pb 40
    let x := getSlice s n
    if j.parked then s
    else if isResetJob s j then
      -- Its intent is asked for again when the attempt that asked for it was discarded.
      (if recIdle s n ∧ !(sliceRecOf s n).any (fun r => r.removal) then
         askWrite (park s j) j (2 + j.lc) (.slice n { state := recState x, cfg := x.cfg, removal := true })
       else park s j)
    else if x.state = .absent then refuse s j io eMode
    else if x.state = .resetting then modSlice (park s j) n (fun y => { y with removeWaits := some j.id })
    else beginRemoval s j n)

/-- Every job of a slice has ended, but for the commands of resets and removals. -/
def slicesJobsDone (s : State) (n : Nat) : Bool := s.jobs.all (fun j => j.slice != n || isResetJob s j)

/-- The removal that waited for the end of a reset begins. -/
def nextRemoval (s : State) (n : Nat) (w : Option Nat) : State :=
  match w.bind (getJob s) with
  | some j => beginRemoval (modSlice s n (fun x => { x with removeWaits := none })) j n
  | none => modSlice s n (fun x => { x with removeWaits := none })

/-- Steps 5 and 6 of R139: the scrub, the rings, the completion of the command, and the state held before. -/
def execSliceResetDone (sl : Nat) (io : JobIo) (s : State) : Res :=
  known (decide (sl < 64))
    (let x := getSlice s sl
     match x.resetRec with
     | some r =>
       let st := if r.prior = .quiescing then .configured else r.prior
       let t := resetQps (modSlice (scrubSlice s sl) sl (fun y => { y with state := st, resetRec := none })) sl false
       let u := if r.prior = .quiescing then saveSlice t sl else t
       let v := notifyReset (notifyState u sl) sl
       let w := (match r.job.bind (getJob v) with
         | some j => answerOk v j io
         | none => v)
       doIf s (slicesRun s && x.state == .resetting && !r.removal && slicesJobsDone s sl && recIdle s sl)
         (nextRemoval w sl x.removeWaits)
     | none => .next s)

/-- The slots of a slice that are LIVE or WITHDRAWN. -/
def ownSlots (s : State) (n : Nat) : List Nat :=
  s.alm.pairs.flatMap (fun e =>
    if 1024 ≤ e.1 ∧ e.1 < 17408 then
      ((List.range 16).map (fun k => (e.1 - 1024) * 16 + k)).filter (fun i =>
        (slotEnt s i).slice == n && ((slotEnt s i).state == 1 || (slotEnt s i).state == 3))
    else [])

/-- A write that belongs to no job. -/
def askAlone (s : State) (o : AlmOp) : State := requestWrite s 4 { job := none, op := o }

/-- The first steps of R117: the slice's slots are retired and its events deleted; a slot whose retirement is under way is not asked for
again. -/
def retireSlots (s : State) (n : Nat) : State :=
  (ownSlots s n).foldl (fun x i => if slotEntPending x i then x else (retireOps x i).foldl askAlone x) (dropEvents s n)

/-- The last steps of R117, once the slots are retired: the slice's records are erased, and it becomes ABSENT. -/
def removeSlice (s : State) (n : Nat) : State :=
  let u := askAlone (askAlone s (.imageErase n)) (.sliceErase n)
  let v := modSlice u n (fun x => { Slice.absent with notify := x.notify, volBump := x.volBump })
  { v with micro := mapErase v.micro n, qps := (List.range 4).foldl (fun m q => mapErase m (4 * n + q)) v.qps }

/-- Steps 5 and 7 of R139, once the intent is committed: the slots are retired and the events deleted; once that is committed the completion
goes to S00 and the slice becomes ABSENT. -/
def execSliceRemoveDone (sl : Nat) (io : JobIo) (s : State) : Res :=
  known (decide (sl < 64))
    (let x := getSlice s sl
     match x.resetRec with
     | some r =>
       let u := retireSlots (scrubSlice s sl) sl
       let t := notifyState (removeSlice u sl) sl
       doIf s (slicesRun s && x.state == .resetting && r.removal && slicesJobsDone s sl && recIdle s sl &&
           (sliceRecOf s sl).any (fun e => e.removal))
         (if (ownSlots s sl).isEmpty then (match r.job.bind (getJob t) with | some j => answerOk t j io | none => t) else u)
     | none => .next s)

/-! ### PASIDs (R121, R534) -/

/-- Another slice holds the PASID. -/
def pasidTaken (s : State) (n : Nat) (p : BitVec 20) : Bool :=
  s.slices.any (fun e => e.1 != n && e.2.pasids.any (fun b => b.2 == .pasid p))

/-- PASIDs of the slice may change. -/
def pasidTarget (x : Slice) : Bool := x.state == .configured || x.state == .active || x.state == .quiescing

/-- PASID_BIND. DESIGN CHOICE (log entry 47): a bind to an index already bound replaces what it holds, also under an enabled queue pair;
the spec is silent. -/
def execPasidBind (job : Nat) (io : JobIo) (s : State) : Res :=
  runMgmt s job 0x0108 (fun j =>
    let n := j.desc.pb 40
    let p := BitVec.ofNat 20 (j.desc.pn 44 4)
    if !pasidTarget (getSlice s n) then refuse s j io eMode
    else if pasidTaken s n p then refuse s j io eParam
    else answerOk (modSlice s n (fun x => { x with pasids := mapSet .unbound x.pasids (j.desc.pb 41) (.pasid p) })) j io)

/-- An enabled queue pair of a slice uses a PASID index. -/
def pasidUsed (s : State) (n i : Nat) : Bool :=
  (List.range 4).any (fun q => (getQp s n q).enable && (getQp s n q).pasidIdx == i)

/-- PASID_UNBIND. -/
def execPasidUnbind (job : Nat) (io : JobIo) (s : State) : Res :=
  runMgmt s job 0x0109 (fun j =>
    let n := j.desc.pb 40
    let i := j.desc.pb 41
    if !pasidTarget (getSlice s n) ∨ pasidUsed s n i then refuse s j io eMode
    else answerOk (modSlice s n (fun x => { x with pasids := mapSet .unbound x.pasids i .unbound })) j io)

/-! ### HDM window, apertures, bias (R95 to R98) -/

/-- HDM_WINDOW_SET: not while the decoder is committed. -/
def execHdmWindowSet (job : Nat) (io : JobIo) (s : State) : Res :=
  runMgmt s job 0x010A (fun j =>
    let z := j.desc.pn 44 4
    if s.hdm.committed ∧ z ≠ s.hdm.size then refuse s j io eMode
    else answerOk { s with hdm := { s.hdm with size := z } } j io)

/-- Two ranges of GiB meet. -/
def rangesMeet (a n b m : Nat) : Bool := decide (a < b + m) && decide (b < a + n)

/-- Slice `n` gets an aperture: what lay in the old one and not in the new is encrypted under the slice's key, so its lines read as poison
(R96). -/
def setAperture (s : State) (n off size : Nat) : State :=
  let x := getSlice s n
  let old := fun a => decide (x.apOff * 2 ^ 30 ≤ a) && decide (a < (x.apOff + x.apSize) * 2 ^ 30)
  let new := fun a => decide (off * 2 ^ 30 ≤ a) && decide (a < (off + size) * 2 ^ 30)
  let gone := s.hdm.mem.filter (fun e => old e.1 && !new e.1)
  let t := modSlice s n (fun y => { y with apOff := off, apSize := size })
  { t with hdm := { t.hdm with
      mem := mapFilter (fun a _ => !(old a && !new a)) t.hdm.mem,
      poison := gone.foldl (fun m e => mapSet false m (e.1 / 64) true) t.hdm.poison } }

/-- HDM_APERTURE_SET: within the window, apart from every other aperture, within the slice's HBM quota. -/
def execHdmApertureSet (job : Nat) (io : JobIo) (s : State) : Res :=
  runMgmt s job 0x010B (fun j =>
    let n := j.desc.pb 40
    let off := j.desc.pn 44 4
    let size := j.desc.pn 48 4
    let x := getSlice s n
    if x.state = .absent then refuse s j io eMode
    else if 0 < size ∧ (s.hdm.size < 4 * (off + size) ∨
        s.slices.any (fun e => e.1 != n && decide (0 < e.2.apSize) && rangesMeet off size e.2.apOff e.2.apSize)) then refuse s j io eParam
    else if x.cfg.hbmGib * 1024 < hbmUse s n - x.apSize * 1024 + size * 1024 then refuse s j io eQuota
    else answerOk (setAperture s n off size) j io)

/-- BIAS_SET: the device obtains ownership of every line of a page before it flips it to device bias (R98). -/
def execBiasSet (job : Nat) (io : JobIo) (s : State) : Res :=
  runMgmt s job 0x010C (fun j =>
    let x := getSlice s (j.desc.pb 40)
    let first := j.desc.pn 44 4
    let count := j.desc.pn 48 4
    if x.apSize * 512 < first + count then refuse s j io eParam
    -- Ownership cannot be obtained while CXL.cache is disabled: the flip does not complete (log entry 46).
    else if j.desc.pb 41 ≠ 0 ∧ !s.link.cacheEn then s
    else
      let pages := (List.range count).map (fun k => x.apOff * 512 + first + k)
      let t :=
        if j.desc.pb 41 = 0 then
          { s with hdm := { s.hdm with devBias := mapFilter (fun p _ => !(decide (x.apOff * 512 + first ≤ p) &&
              decide (p < x.apOff * 512 + first + count))) s.hdm.devBias } }
        else pages.foldl (fun y p => emit { y with hdm := { y.hdm with devBias := mapSet false y.hdm.devBias p true } } (.ack 3 p)) s
      answerOk t j io)

/-! ### The device -/

/-- IDE_REQUIRED_SET (R91). -/
def execIdeRequiredSet (job : Nat) (io : JobIo) (s : State) : Res :=
  runMgmt s job 0x010D (fun j =>
    settle { s with link := { s.link with ideReq := j.desc.pb 41 == 1 } } j io (JobRes.done [] 0))

/-- OWNER_CERT_INSTALL (R89). -/
def execOwnerCertInstall (job : Nat) (io : JobIo) (s : State) : Res :=
  runMgmt s job 0x010E (fun j =>
    withInput s j io (fun b => answerOk { s with link := { s.link with cert1 := b } } j io))

/-- DRAIN_BEGIN (R51, R60). -/
def execDrainBegin (job : Nat) (io : JobIo) (s : State) : Res :=
  runMgmt s job 0x0110 (fun j =>
    if s.chip.mode = .service ∧ ¬ overtaken s then answerOk (setMode s .drain 7 0x0110 0) j io else refuse s j io eMode)

/-- DRAIN_CANCEL (R52, R60). -/
def execDrainCancel (job : Nat) (io : JobIo) (s : State) : Res :=
  runMgmt s job 0x0111 (fun j =>
    if s.chip.mode = .drain ∧ ¬ overtaken s then answerOk (setMode s .service 7 0x0111 0) j io else refuse s j io eMode)

/-- No admitted job and no Almanac write remain in DRAIN: the drained flag sets. -/
def execDrained (s : State) : Res :=
  doIf s (slicesRun s && s.chip.mode == .drain && s.jobs.isEmpty && noWrites s) { s with chip := { s.chip with drained := true } }

/-- The drained flag as it stood just before the job's admission (R51). -/
def Job.sawDrained (j : Job) : Bool := byteAt (j.saved.headD []) 0 == 1

/-- MAINT_ENTER: in OWNED, from a drained DRAIN (R52, R53). -/
def execMaintEnter (job : Nat) (io : JobIo) (s : State) : Res :=
  runMgmt s job 0x0112 (fun j =>
    if s.chip.mode = .drain ∧ s.chip.lc = .owned ∧ j.sawDrained ∧ ¬ overtaken s then answerOk (setMode s .maintenance 7 0x0112 0) j io
    else refuse s j io eMode)

/-- The writes in flight as RESET# finds them: none begun. -/
def noneBegun (s : State) : Bool := s.alm.writes.all (fun e => !e.2.started)

/-- The reset of a device by command: the entry into BOOT is logged before it takes effect (R539), and writes in flight end first (R343). -/
def deviceReset (s : State) : State :=
  let t := setMode s .boot 3 0x0113 0
  if noneBegun s then bootState t 3 else { t with supply := { t.supply with resetWaiting := true }, chip := { t.chip with bootCause := 3 } }

/-- DEVICE_RESET: from a drained DRAIN or from MAINTENANCE; the completion is written first (R60). -/
def execDeviceReset (job : Nat) (io : JobIo) (s : State) : Res :=
  runMgmt s job 0x0113 (fun j =>
    if (s.chip.mode = .maintenance ∨ (s.chip.mode = .drain ∧ j.sawDrained)) ∧ ¬ overtaken s then deviceReset (answerOk s j io)
    else refuse s j io eMode)

/-! ### GPF (R86) -/

/-- The first pending write is carried out. -/
def commitNext (s : State) : State :=
  match s.alm.writes with
  | [] => s
  | (k, w) :: _ =>
    if k < 2 ^ 20 then cerCommitted s (commitWrite s k [] JobIo.quiet) k []
    else if k < 2 ^ 21 then
      (match w.reqs with
       | r :: _ =>
         (match (match r.job with | some n => execSlotWriteCommit n true (modWrite s k (fun x => { x with started := true })) | none => .next s) with
          | .next t => if t.alm.writes = s.alm.writes then endWrite (opEffect s r.op) k else t
          | _ => s)
       | [] => endWrite s k)
    else endWrite (w.reqs.foldl (fun x r => opEffect x r.op) s) k

/-- A GPF request: every pending write is committed and a progress page written, then the device acknowledges. Jobs are not affected. -/
def execGpfRequest (s : State) : Res :=
  let t := (List.range (8 + 4 * s.alm.writes.length)).foldl (fun x _ => commitNext x) s
  doIf s (alive s && s.link.up) (emit (writePage t true) (.ack 0 0))

end Sys2Proof.Machine
end

