-- ==== Sys2Proof/Machine/Admit.lean ====
section
/-! DEFINITION. Admission: the seven checks of R17 with the command matrix of R65 and R66, quotas, handles and policies, and the fetch of
descriptors (R125, R541). -/

namespace Sys2Proof.Machine

/-! ### What an opcode takes -/

/-- The opcodes defined, invocations of customer macro-ops apart. -/
def opcodes : List Nat :=
  [0x0100, 0x0101, 0x0102, 0x0103, 0x0104, 0x0105, 0x0106, 0x0107, 0x0108, 0x0109, 0x010A, 0x010B, 0x010C, 0x010D, 0x010E, 0x0110,
   0x0111, 0x0112, 0x0113, 0x0200, 0x0201, 0x0202, 0x0203, 0x0204, 0x0205, 0x0206, 0x0207, 0x0208, 0x0209, 0x020A, 0x020B, 0x020C] ++
  [0x0300, 0x0301, 0x0302, 0x0303, 0x0304, 0x0305, 0x0400, 0x0401, 0x0402, 0x0403, 0x0404, 0x0500, 0x0501, 0x0502, 0x0503, 0x0600,
   0x0700, 0x0701, 0x0702, 0x0710, 0x0711, 0x0712, 0x0800, 0x0801, 0x0802, 0x0803, 0x0804, 0x0805, 0x0806, 0x0900, 0x0901, 0x0902] ++
  [0x0903, 0x0904, 0x0A00, 0x0A01, 0x0A02, 0x0B10, 0x0B20, 0x0B21, 0x0B22, 0x0B23, 0x0B30, 0x0B40, 0x0B50, 0x0B51, 0x0B60, 0x0B61]

/-- The opcode is an invocation of a customer macro-op (R240). -/
def isCustom (op : Nat) : Bool := decide (0x0AC0 ≤ op) && decide (op ≤ 0x0AFF)

/-- The opcode reads an input. -/
def takesIn (op : Nat) : Bool :=
  [0x0102, 0x0103, 0x010E, 0x0204, 0x0206, 0x0209, 0x020A, 0x020C, 0x0301, 0x0302, 0x0303, 0x0304, 0x0305, 0x0401, 0x0402, 0x0500, 0x0501,
   0x0502, 0x0503, 0x0710, 0x0901, 0x0A00, 0x0B61].contains op || isCustom op

/-- The opcode gives an output. -/
def givesOut (op : Nat) : Bool :=
  [0x0100, 0x0101, 0x0200, 0x0201, 0x0202, 0x0205, 0x0209, 0x020B, 0x020C, 0x0300, 0x0301, 0x0302, 0x0303, 0x0304, 0x0305, 0x0400, 0x0401,
   0x0403, 0x0404, 0x0500, 0x0501, 0x0503, 0x0600, 0x0701, 0x0712, 0x0804, 0x0900, 0x0904, 0x0A02, 0x0B21, 0x0B40, 0x0B50,
   0x0B51].contains op || isCustom op

/-- The opcode is an encapsulation (R27, R129). -/
def isEncaps (op : Nat) : Bool := op == 0x0301 || op == 0x0304 || op == 0x0209

/-- The kinds of handle KEY_HANDLE may name; none where the opcode takes no key. -/
def keyKinds (op : Nat) : List Nat :=
  if isCustom op then [0, 1, 2, 3]
  else match op with
    | 0x0201 => [0, 1, 2, 3]
    | 0x0202 => [0, 1, 2, 3]
    | 0x0203 => [0]
    | 0x0204 => [0, 1, 3]
    | 0x0205 => [0]
    | 0x0207 => [1, 2, 3]
    | 0x0208 => [0, 1, 2, 3]
    | 0x0209 => [2]
    | 0x020A => [0, 3]
    | 0x020B => [0, 1]
    | 0x020C => [0, 1, 3]
    | 0x0301 => [2]
    | 0x0302 => [0, 3]
    | 0x0303 => [0, 1, 3]
    | 0x0304 => [2]
    | 0x0305 => [0, 3]
    -- A peer's policy never carries SIGN: check 7 refuses it (the chapter's table of errors).
    | 0x0401 => [0, 1, 2, 3]
    | 0x0402 => [0, 1, 2, 3]
    | 0x0404 => [0]
    | 0x0501 => [0, 1, 3]
    | 0x0502 => [0, 1, 3]
    | 0x0503 => [0, 1, 3]
    | 0x0800 => [0]
    | 0x0802 => [0, 1, 3]
    | _ => []

/-- A KEY_HANDLE of 0 means no key. -/
def keyOptional (op : Nat) : Bool := op == 0x0209 || op == 0x0301 || op == 0x0304 || op == 0x0402

/-- The table entry of the macro-op an invocation names. -/
def Desc.entry (d : Desc) (img : List Byte) : ImgEntry := imgEntry img (d.opcode - 0x0AC0)

/-- The image registered for a slice. -/
def imageOf (s : State) (n : Nat) : List Byte := match mapGet none s.micro n with | some m => m.image | none => []

/-- KEY_HANDLE names a key. -/
def usesKey (s : State) (n : Nat) (d : Desc) : Bool :=
  if isCustom d.opcode then decide (1 ≤ (d.entry (imageOf s n)).keys % 4)
  else !(keyKinds d.opcode).isEmpty && !(keyOptional d.opcode && d.keyHandle == 0)

/-- PARAMS bytes 40 to 47 name a second key. -/
def usesKey2 (s : State) (n : Nat) (d : Desc) : Bool :=
  d.opcode == 0x020B || (isCustom d.opcode && (d.entry (imageOf s n)).keys % 4 == 2)

/-- The second handle. -/
def Desc.handle2 (d : Desc) : W64 := BitVec.ofNat 64 (d.pn 40 8)

/-- What a handle of the job names: check 6 refuses one of a kind the opcode does not take, check 2 has judged its family before (R17,
R149). KEY_RETIRE also takes a withdrawn slot (R153). -/
def keyNamed (s : State) (n op : Nat) (h : W64) : Nat × Option KeyRef :=
  if !(keyKinds op).contains (hKind h) then (eHandle, (findKey s n h).2)
  else
    let e := slotEnt s (hIndex h)
    if op = 0x0203 ∧ hSlice h = n ∧ hIndex h < kindRange 0 ∧ e.state = 3 ∧ e.slice = n ∧ e.gen = hGen h then (stOk, some (slotRef s (hIndex h)))
    else findKey s n h

/-- The first key. -/
def key1 (s : State) (n : Nat) (d : Desc) : Nat × Option KeyRef :=
  if usesKey s n d then keyNamed s n d.opcode d.keyHandle else (stOk, none)

/-- The second key. -/
def key2 (s : State) (n : Nat) (d : Desc) : Nat × Option KeyRef :=
  if usesKey2 s n d then
    (if (hKind d.handle2) = 2 ∧ !isCustom d.opcode then (eHandle, (findKey s n d.handle2).2) else findKey s n d.handle2)
  else (stOk, none)

/-- LEVELS and LOWER of a stateful slot key. -/
def levelsKnown (s : State) (k : Option KeyRef) : Option (Nat × Nat) :=
  match k with
  | some r => if famIn r.alg [.lms, .xmss] ∧ r.kind = 0 then some (levelsOf s r) else none
  | none => none

/-! ### Check 2 -/

/-- Group 0x01 (R116, R118, R121, R122). -/
def sysChecks (n : Nat) (d : Desc) : Checks :=
  let t := d.pb 40
  let own := (40, n != 0 && t != n)
  let tgt := (40, decide (63 < t))
  let len := fun (k : Nat) => (24, d.inLen != k)
  (2, d.lc != 2) :: (match d.opcode with
    | 0x0100 => len 0 :: d.rsv 40 64
    | 0x0101 => [len 0, own, tgt] ++ d.rsv 41 64
    | 0x0102 => [len 128, tgt] ++ d.rsv 41 64
    | 0x0103 => [len 128, tgt] ++ d.rsv 41 64
    | 0x0104 => [len 0, tgt] ++ d.rsv 41 64
    | 0x0105 => [len 0, tgt, (40, t == 0)] ++ d.rsv 41 64
    | 0x0106 => [len 0, own, tgt] ++ d.rsv 41 64
    | 0x0107 => [len 0, tgt, (40, t == 0)] ++ d.rsv 41 64
    | 0x0108 => [len 0, tgt, (41, decide (7 < d.pb 41)), (44, decide (0xFFFFF < d.pn 44 4))] ++ d.rsv 42 44 ++ d.rsv 48 64
    | 0x0109 => [len 0, tgt, (41, decide (7 < d.pb 41))] ++ d.rsv 42 64
    | 0x010A => [len 0, (44, decide (256 < d.pn 44 4))] ++ d.rsv 40 44 ++ d.rsv 48 64
    | 0x010B => [len 0, tgt] ++ d.rsv 41 44 ++ d.rsv 52 64
    | 0x010C => [len 0, own, tgt, (41, decide (1 < d.pb 41))] ++ d.rsv 42 44 ++ d.rsv 52 64
    | 0x010D => [len 0, (41, decide (1 < d.pb 41))] ++ d.rsv 40 41 ++ d.rsv 42 64
    | 0x010E => (24, decide (4096 < d.inLen)) :: d.rsv 40 64
    | _ => len 0 :: d.rsv 40 64)

/-- GET_RANDOM (R196). -/
def randomChecks (d : Desc) : Checks :=
  let n := d.pn 44 4
  [(24, d.inLen != 0), (40, decide (1 < d.pb 40) || (d.pb 40 == 1 && d.lc != 2)),
   (44, n == 0 || decide ((match d.lc with | 0 => 256 | 1 => 65536 | _ => 1048576) < n))] ++ d.rsv 41 44 ++ d.rsv 48 64

/-- Group 0x0A (R240, R245). -/
def microChecks (s : State) (n : Nat) (d : Desc) : Checks :=
  if isCustom d.opcode then invokeChecks d (d.entry (imageOf s n))
  else
    [(2, d.lc != 2), (40, decide (63 < d.pb 40) || (getSlice s (d.pb 40)).state == .absent),
     (24, if d.opcode = 0x0A00 then decide (d.inLen < 8267) || decide (16451 < d.inLen) else d.inLen != 0)] ++ d.rsv 41 64

/-- Group 0x0B (R211, R308, R349, R456, R460, R478, R506). -/
def diagChecks (s : State) (d : Desc) : Checks :=
  let dom := d.pn 44 2
  let st := d.pb 41
  [(2, d.lc != 2), (24, d.opcode != 0x0B61 && d.inLen != 0)] ++ (match d.opcode with
    | 0x0B10 => (40, decide (d.pb 40 < 12) || decide (24 < d.pb 40)) :: d.rsv 41 64
    | 0x0B30 =>
      [(40, decide (1 < d.pb 40)), (44, decide (159 < dom)),
       (41, decide (4 < st) || (d.pb 40 == 0 && decide (dom ≤ 159) && (decide (deepest (domKind dom) true < st) ||
          (domChildren dom).any (fun c => decide ((getDom s c).state < st)))))] ++ d.rsv 42 44 ++ d.rsv 46 64
    | 0x0B40 => [(40, decide (3 < d.pb 40)), (41, decide (1 < d.pb 41))] ++ d.rsv 42 64
    | 0x0B50 => d.rsv 40 64
    | 0x0B51 => (48, d.pn 48 4 == 0 || decide (4096 < d.pn 48 4)) :: d.rsv 52 64
    | 0x0B60 => (40, decide (5 < d.pb 40)) :: d.rsv 41 64
    | 0x0B61 => d.rsv 40 64
    | _ => faultChecks d)

/-- The checks of an opcode's own table. -/
def opChecks (s : State) (n : Nat) (d : Desc) (k : Option KeyRef) : Checks :=
  match d.opcode / 256 with
  | 1 => sysChecks n d
  | 2 => keyCmdChecks d k
  | 3 => kemCmdChecks d k
  | 4 => sigCmdChecks d k (levelsKnown s k)
  | 5 => (8, d.opcode != 0x0500 && k.any (fun r => r.alg != 0x0C02)) :: digestChecks d
  | 6 => randomChecks d
  | 7 => timeCmdChecks d
  | 8 => laneCmdChecks s n d k
  | 9 => cerCmdChecks s d
  | 10 => microChecks s n d
  | _ => diagChecks s d

/-- The output length that follows from the opcode and its parameters; 0 where there is none or it depends on the data (R129). -/
def outNeeded (s : State) (_ : Nat) (d : Desc) (k : Option KeyRef) : Nat :=
  match d.opcode / 256 with
  | 1 => if d.opcode = 0x0100 then 64 else if d.opcode = 0x0101 then 160 else 0
  | 2 => keyCmdOut d k
  | 3 => kemCmdOut d k
  | 4 => sigCmdOut d k (levelsKnown s k)
  | 5 => digestOut d
  | 6 => d.pn 44 4
  | 7 => if d.opcode = 0x0701 then 64 else 0
  | 8 => if d.opcode = 0x0804 then 64 else 0
  | 9 => cerCmdOut d.opcode
  | 10 => if d.opcode = 0x0A02 then 64 else 0
  | _ => (match d.opcode with | 0x0B21 => 560 | 0x0B40 => 48 | 0x0B50 => 64 | 0x0B51 => 64 * d.pn 48 4 | _ => 0)

/-- Check 2 (R9, R97, R128, R129). -/
def check2 (s : State) (n : Nat) (d : Desc) (k : Option KeyRef) : Checks :=
  let op := d.opcode
  let need := outNeeded s n d k
  let len := if need = 0 then d.outCap else need
  [(2, d.lc == 3), (2, decide (64 ≤ d.flags)), (2, bit d.flags 2 && !isEncaps op), (2, bit d.flags 3 && !givesOut op),
   (2, d.sgl && !takesIn op), (8, if usesKey s n d then d.keyHandle.toNat % 2 ^ 16 != 0 else d.keyHandle != 0),
   (40, usesKey2 s n d && d.handle2.toNat % 2 ^ 16 != 0), (16, !takesIn op && d.inAddr != 0), (24, !takesIn op && d.inLen != 0),
   (28, !givesOut op && d.outCap != 0), (32, !givesOut op && d.outAddr != 0),
   (32, bit d.flags 3 && decide ((getSlice s n).apSize * 2 ^ 30 < d.outAddr + len))] ++ opChecks s n d k

/-- Check 3 (R129). -/
def check3 (d : Desc) : Checks := [(16, d.sgl && d.inAddr % 16 != 0), (32, bit d.flags 3 && d.outAddr % 64 != 0)]

/-! ### Check 4: the command matrix (R57, R62 to R69, R535, R537) -/

/-- Queries of groups 0x01, 0x08 and 0x0B. -/
def isQuery (op : Nat) : Bool := [0x0100, 0x0101, 0x0804, 0x0B21, 0x0B50, 0x0B51].contains op

/-- Diagnostics that are disruptive (R535). -/
def isDisruptive (op : Nat) : Bool := op == 0x0B23 || op == 0x0B30 || op == 0x0B60

/-- The commands S00 alone issues in a cell marked All: class C of group 0x01, time declaration, pairing. -/
def ownerOnly (op : Nat) : Bool := seriesOf op == 1 || op == 0x0700 || op == 0x0702 || op == 0x0800 || op == 0x0801

/-- A command that makes a slot key or a derived key (R537). -/
def makesRooted (op : Nat) : Bool := op == 0x0200 || op == 0x020C || op == 0x0403 || op == 0x0204 || op == 0x0205

/-- A handle of the job is a slot or derived one. -/
def namesRooted (s : State) (n : Nat) (d : Desc) : Bool :=
  (usesKey s n d && decide (hKind d.keyHandle < 2)) || (usesKey2 s n d && decide (hKind d.handle2 < 2))

/-- Only ephemeral and peer-public handles. -/
def ephOnly (s : State) (n : Nat) (d : Desc) : Bool := !namesRooted s n d && !makesRooted d.opcode

/-- The columns SERVICE and non-exclusive CEREMONY of R66. -/
def serviceCell (z : Bool) (op : Nat) : Bool :=
  match op / 256 with
  | 9 => z
  | 10 => z || isCustom op
  | 11 => z && !isDisruptive op
  | _ => op != 0x0806 && (z || !ownerOnly op)

/-- SERVICE in SEALED (R63). -/
def sealedService (s : State) (n : Nat) (d : Desc) : Bool :=
  let op := d.opcode
  match op / 256 with
  | 1 => isQuery op || op == 0x0110
  | 3 => ephOnly s n d
  | 4 => ephOnly s n d
  | 5 => ephOnly s n d
  | 6 => true
  | 7 => op == 0x0700
  | 9 => op != 0x0901 || d.pb 40 == 1 || d.pb 40 == 7
  | 11 => isQuery op
  | _ => false

/-- DRAIN in SEALED (R63). -/
def sealedDrain (d : Desc) : Bool :=
  let op := d.opcode
  match op / 256 with
  | 1 => isQuery op || op == 0x0111 || op == 0x0113
  | 7 => op == 0x0700
  | 9 => op == 0x0901 && d.pb 40 == 7
  | 11 => isQuery op
  | _ => false

/-- The columns MAINTENANCE: of OWNED, and of the states whose working mode it is (R65). -/
def maintCell (s : State) (n : Nat) (d : Desc) : Bool :=
  let op := d.opcode
  let g := op / 256
  let l := s.chip.lc
  let z := n == 0 || l == .factory || l == .returned
  if l = .owned then
    z && (match g with
      | 2 => false
      | 8 => op == 0x0806
      | 9 => false
      | _ => !(decide (3 ≤ g) && decide (g ≤ 5) && makesRooted op) && !namesRooted s n d)
  else
    z && (if 2 ≤ g ∧ g ≤ 5 then l != .blank || ephOnly s n d else if g = 8 then op == 0x0806 else g != 9)

/-- A command group is allowed in the present mode and life-cycle state. -/
def matrixOk (s : State) (n : Nat) (d : Desc) : Bool :=
  let op := d.opcode
  let g := op / 256
  let z := n == 0
  match s.chip.mode with
  | .assay => z && ((g == 1 && isQuery op) || g == 7 || (g == 11 && isQuery op))
  | .service => if s.chip.lc = .sealed then z && sealedService s n d else serviceCell z op
  | .ceremony =>
    op != 0x0901 &&
      (if exclusive s then z && ((g == 1 && isQuery op) || g == 7 || (g == 8 && isQuery op) || g == 9 || (g == 11 && isQuery op))
       else serviceCell z op)
  | .drain =>
    if s.chip.lc = .sealed then z && sealedDrain d
    else
      (g == 1 && (isQuery op || (z && (op == 0x0111 || op == 0x0112 || op == 0x0113)))) || (z && g == 7) || (g == 8 && isQuery op) ||
        (z && g == 9) || (z && g == 11 && !isDisruptive op)
  | .maintenance => maintCell s n d
  | .umbra =>
    z && ((g == 1 && isQuery op) || op == 0x0700 || (op == 0x0901 && (d.pb 40 == 5 || d.pb 40 == 7)) || (g == 11 && isQuery op))
  | _ => false

/-- Check 4: the matrix, the slice's state (R69), the attachment mode (R111), and what an opcode's own rules put there (R89, R152, R389). -/
def check4 (s : State) (n : Nat) (d : Desc) (k : Option KeyRef) : Bool :=
  (getSlice s n).state == .active && matrixOk s n d &&
    !((bit d.flags 3 || d.opcode == 0x010C) && !s.link.cxl) &&
    !(d.opcode == 0x010E && s.chip.lc != .owned) &&
    !(d.opcode == 0x0203 && k.any (fun r => r.kind == 0 && slotBlocked s r.handle none)) &&
    !(d.opcode == 0x0800 && (portSlice s (d.pb 40)).isNone)

/-! ### Check 5: quotas -/

/-- A slot index may be written: it is FREE and no job has reserved it. -/
def slotFree (s : State) (i : Nat) : Bool :=
  (slotEnt s i).state == 0 && s.jobs.all (fun j => j.reserved != some i || j.desc.opcode == 0x0710)

/-- The opcode makes a slot key. -/
def makesSlot (op : Nat) : Bool := op == 0x0200 || op == 0x020C || op == 0x0403

/-- Slots reserved by admitted jobs of a slice. -/
def slotsReserved (s : State) (n : Nat) : Nat :=
  (s.jobs.filter (fun j => j.slice == n && j.reserved.isSome && makesSlot j.desc.opcode)).length

/-- The slot a job takes (R151). -/
def slotChosen (s : State) (d : Desc) : Option Nat :=
  if d.pn 44 4 = 0xFFFFFFFF then firstFrom (slotFree s) 0 262144 else some (d.pn 44 4)

/-- PIN would take a slice's pinned entries of a region beyond 256 MiB (R160). -/
def pinFull (s : State) (n : Nat) (h : W64) : Bool :=
  (List.range 4).any (fun r =>
    let l := (getRegion s r).expanded
    let pinned := expUse l (fun e => e.slice == n && e.pinned)
    let more := expUse l (fun e => e.handle == h && !e.pinned)
    decide (0 < more) && decide (262144 < pinned + more))

/-- Check 5: outstanding jobs, latency classes (R120), slots and leaf records (R151, R344), HBM (R158, R185), pins (R160). DESIGN CHOICE
(log entry 47): a Classic McEliece peer is charged when its index fills, without a reservation at admission, and the key it replaces is
not credited here. -/
def check5 (s : State) (n : Nat) (d : Desc) (k : Option KeyRef) : Checks :=
  let c := (getSlice s n).cfg
  let op := d.opcode
  let hbm := fun (m : Nat) => decide (c.hbmGib * 1024 < hbmUse s n + m)
  [(255, decide (c.maxOut ≤ outstanding s n)), (2, (d.lc == 0 && c.lc0Cells == 0) || (d.lc == 1 && c.lc1En == 0)),
   (255, makesSlot op && (decide (c.keySlots ≤ slotsUsed s n + slotsReserved s n) || (slotChosen s d).isNone)),
   (255, op == 0x0403 && (hbm (treeMib d.alg (d.pb 48) (d.pb 49)) ||
      (firstFrom (fun r => (leafOf s r).isNone && !recLost s r) 17408 16384).isNone)),
   (255, op == 0x0206 && decide (0 < peerMib d.alg) && hbm (peerMib d.alg)),
   (255, op == 0x0208 && d.pb 40 == 1 && k.any (fun r => pinFull s n r.handle)),
   (255, op == 0x0710 && (freeEvent s).isNone)]

/-! ### Checks 6 and 7 -/

/-- The first of a list of outcomes that is an error, by offset. -/
def firstErr (l : List (Nat × Nat)) : Option (Nat × Nat) :=
  (l.filter (fun e => e.2 != stOk)).foldl (fun a e =>
    match a with | none => some e | some m => if e.1 < m.1 then some e else some m) none

/-- What a SLOT parameter names (R151). -/
def slotStatus (s : State) (i : Nat) : Nat :=
  if slotFree s i then stOk else if (slotEnt s i).state = 3 ∨ (slotEnt s i).state = 4 then eSlotCorrupt else eSlotUsed

/-- Check 6 (R141, R151, R371). -/
def check6 (s : State) (n : Nat) (d : Desc) : Option (Nat × Nat) :=
  firstErr
    [(8, (key1 s n d).1), (40, (key2 s n d).1), (44, if makesSlot d.opcode ∧ d.pn 44 4 ≠ 0xFFFFFFFF then slotStatus s (d.pn 44 4) else stOk),
     (40, if (d.opcode = 0x0711 ∨ d.opcode = 0x0712) ∧ (findEvent s n (d.pn 40 4)).isNone then eHandle else stOk)]

/-- The policy KEY_HANDLE needs, by opcode. -/
def policyNeeded (s : State) (n : Nat) (d : Desc) : Nat :=
  if isCustom d.opcode then (d.entry (imageOf s n)).pol0
  else match d.opcode with
    | 0x0204 => polDerive
    | 0x0205 => polEpoch
    | 0x020A => polWrap
    | 0x020B => polExport
    | 0x020C => polWrap
    | 0x0301 => polKem
    | 0x0302 => polKem
    | 0x0303 => polKem
    | 0x0304 => polKem
    | 0x0305 => polKem
    | 0x0401 => polSign
    | 0x0402 => polVerify
    | 0x0503 => polDerive
    | 0x0800 => polLane
    | 0x0802 => polLane
    | _ => 0

/-- An entry that asks for CUSTOM_OUT needs it of every key (R246). -/
def outNeedsPol (s : State) (n : Nat) (d : Desc) : Nat :=
  if isCustom d.opcode ∧ bit (d.entry (imageOf s n)).keys 2 then polCustom else 0

/-- EPOCH_BOUND keys serve EPOCH_HANDLE, key lanes and the commands that only look at or end a key (R145). -/
def epochUse (op : Nat) : Bool := [0x0201, 0x0203, 0x0205, 0x0208, 0x020B, 0x0800, 0x0802].contains op

/-- Check 7 (R145, R146, R155, R195, R245, R246). -/
def check7 (s : State) (n : Nat) (d : Desc) (k l : Option KeyRef) : Checks :=
  let op := d.opcode
  let c := (getSlice s n).cfg
  let makes := op == 0x0200 || op == 0x0204 || op == 0x020C
  [(8, k.any (fun r => !hasPol r.policy (policyNeeded s n d))),
   (8, k.any (fun r => !hasPol r.policy (outNeedsPol s n d))), (40, l.any (fun r => !hasPol r.policy (outNeedsPol s n d))),
   (8, k.any (fun r => hasPol r.policy polEpoch && !epochUse op)),
   (8, op == 0x020B && k.any (fun r => hasPol r.policy polStateful)),
   (8, op == 0x0503 && d.pb 50 == 1 && k.any (fun r => r.kind != 3 || r.rooted)),
   (40, l.any (fun r => !hasPol r.policy (if op = 0x020B then polWrap else (d.entry (imageOf s n)).pol1))),
   (42, (op == 0x0204 || (op == 0x0503 && d.pb 50 == 0)) && k.any (fun r => !childPolOk r.policy (d.pn 42 2))),
   (42, makes && hasPol (d.pn 42 2) polEpoch && op != 0x020C && !c.epochEn)]

/-! ### Admission -/

/-- How admission ends: a status with DETAIL, or the job's keys. -/
inductive Verdict where
  | refused (status detail : Nat)
  | admitted (keys : List KeyRef)
  deriving DecidableEq, Repr

/-- DETAIL of a check that fails at a byte offset (R131). -/
def checkDetail (check off : Nat) : Nat := check * 256 + off

/-- The opcode is defined for the slice (check 1; R245). -/
def opDefined (s : State) (n : Nat) (d : Desc) : Bool :=
  if isCustom d.opcode then imageOf s n != [] && imgHas (imageOf s n) (d.opcode - 0x0AC0) else opcodes.contains d.opcode

/-- The checks in the order of R17. -/
def admission (s : State) (n : Nat) (d : Desc) (label : List Byte) : Verdict :=
  let k := key1 s n d
  let l := key2 s n d
  if !opDefined s n d then .refused eOpcode (checkDetail 1 0)
  else
    match firstBad ((40, usesKey2 s n d && d.opcode == 0x020B && l.2.any (fun r => r.alg != 0x0C01)) ::
        (255, d.opcode == 0x0204 && label != [] && !labelOk d.alg label) :: check2 s n d k.2) with
    | some o => .refused eParam (checkDetail 2 o)
    | none =>
      match firstBad (check3 d) with
      | some o => .refused eAlign (checkDetail 3 o)
      | none =>
        if !check4 s n d k.2 then .refused (if s.chip.mode = .umbra then eUmbra else eMode) (checkDetail 4 255)
        else
          match firstBad (check5 s n d k.2) with
          | some o => .refused eQuota (checkDetail 5 o)
          | none =>
            match check6 s n d with
            | some e => .refused e.2 (checkDetail 6 e.1)
            | none =>
              match firstBad (check7 s n d k.2 l.2) with
              | some o => .refused ePolicy (checkDetail 7 o)
              | none => .admitted ([k.2, l.2].filterMap id)

/-- What a command takes with it from the instant of its admission (R51, R157, R370). -/
def admitSaved (s : State) (n : Nat) (d : Desc) : List (List Byte) :=
  match d.opcode with
  | 0x0205 => [leBytes 8 (match currentEpoch s n (hIndex d.keyHandle) with | some e => e + 1 | none => 0)]
  | 0x0710 => [leBytes 8 (now s)]
  | 0x0711 => [leBytes 8 (now s)]
  | 0x0901 => [[BitVec.ofNat 8 (b2n s.chip.drained)]]
  | 0x0112 => [[BitVec.ofNat 8 (b2n s.chip.drained)]]
  | 0x0113 => [[BitVec.ofNat 8 (b2n s.chip.drained)]]
  | _ => []

/-- The commands of the transitions of R52 do not clear the drained flag (R51). -/
def keepsDrained (d : Desc) : Bool :=
  d.opcode == 0x0112 || d.opcode == 0x0113 || (d.opcode == 0x0901 && (d.pb 40 == 6 || d.pb 40 == 7))

/-- The job of an admitted descriptor (R119, R164). It runs in LC2 in MAINTENANCE (R75). -/
def newJob (s : State) (n q : Nat) (d : Desc) (keys : List KeyRef) : Job :=
  let c := (getSlice s n).cfg
  { id := s.nextJob, slice := n, qp := q, desc := d, lc := if s.chip.mode = .maintenance then 2 else d.lc, pos := .waiting, region := 4,
    block := 16, unit := unitNone, replays := 0, checkFails := 0, keys, cfg := c, since := s.uptime, slack := 0, spared := 0, got := 0, second := none, twin := none, vals := none,
    dual := d.dual || (bit c.settings 1 && isEncaps d.opcode), res := none, released := none, relFlags := 0,
    reserved := if makesSlot d.opcode then slotChosen s d else if d.opcode = 0x0710 then freeEvent s else none, leaf := none, writes := 0,
    saved := admitSaved s n d, image := if isCustom d.opcode then imageOf s n else [], parked := false, avoid := none,
    waitFrom := s.uptime, waitedLong := false, jumped := false }

/-- A stateful key whose top tree is not built yet (R184). -/
def treeMissing (s : State) (op : Nat) (keys : List KeyRef) : Bool :=
  (op == 0x0401 || op == 0x0202) && keys.any (fun k =>
    famIn k.alg [.lms, .xmss] && k.kind == 0 &&
      (match k.src with
       | .slot i g => (match leafFor s i g with | some (rid, _) => !(getTree s rid).topReady | none => true)
       | _ => false))

/-- A descriptor that ends before a job of it begins. -/
def endDesc (s : State) (n q : Nat) (d : Desc) (c : Cpl) (fault : Bool) : State := writeCpl s n q d.tag c fault

/-- An admitted job takes its place: on a management core, on the chip KMAC unit, in a region, or at the dispatcher (R18, R136). -/
def startJob (s : State) (j : Job) : State :=
  let t := { s with nextJob := s.nextJob + 1,
                    chip := { s.chip with drained := s.chip.drained && keepsDrained j.desc } }
  match j.kind with
  | 0 => { t with jobs := t.jobs ++ [{ j with pos := .running unitMgmt, unit := unitMgmt }] }
  | 1 => { t with jobs := t.jobs ++ [{ j with pos := .running unitKmac, unit := unitKmac }] }
  | _ =>
    let u := raiseVtime t j.slice
    { u with jobs := u.jobs ++ [placeJob u j] }

/-- Admit one descriptor of queue pair `q` of slice `n`, whose doorbell arrived at `since` and whose fetch took `slack` ns beyond the host
latency of R541 (R17, R129). -/
def admitOne (s : State) (n q : Nat) (d : Desc) (label : List Byte) (since slack : Nat) (fault : Bool) : State :=
  match admission s n d label with
  | .refused st det => endDesc s n q d (Cpl.bare s st det unitNone) fault
  | .admitted keys =>
    let need := outNeeded s n d keys.head?
    if d.outCap < need then endDesc s n q d { Cpl.bare s eCapacity 0 unitNone with outLen := need } fault
    else if treeMissing s d.opcode keys then endDesc s n q d (Cpl.bare s eTreeBuilding 0 unitMgmt) fault
    else startJob s { newJob s n q d keys with since, slack }

/-! ### The fetch (R125, R541) -/

/-- The fields of 64 bytes (R128). -/
def Desc.ofBytes (b : List Byte) : Desc :=
  { opcode := fieldLe b 0 2, flags := fieldLe b 2 2, tag := BitVec.ofNat 32 (fieldLe b 4 4), keyHandle := BitVec.ofNat 64 (fieldLe b 8 8),
    inAddr := fieldLe b 16 8, inLen := fieldLe b 24 4, outCap := fieldLe b 28 4, outAddr := fieldLe b 32 8, params := sub (padTo 64 b) 40 24 }

/-- A descriptor with FENCE set has not completed: nothing later of its queue pair leaves the dispatcher (R132). -/
def fenced (s : State) (n q : Nat) : Bool := s.jobs.any (fun j => j.slice == n && j.qp == q && j.desc.fence)

/-- How many descriptors the next read takes: available, contiguous in the ring, at most 8, with a completion entry each, and room in the
device. -/
def fetchCount (s : State) (n q : Nat) : Nat :=
  let p := getQp s n q
  let avail := (p.sqTail + p.entries - p.sqHead) % p.entries
  min (min (min 8 avail) (p.entries - p.sqHead)) (min (p.entries - 1 - cqUsed s n q) (262144 - s.jobs.length))

/-- The queue pair fetches now. -/
def fetches (s : State) (n q : Nat) : Bool :=
  let p := getQp s n q
  serving s && !s.supply.resetWaiting && s.link.up && s.link.busMaster && !s.chip.d3hot && !ideHold s && slServes s n && p.enable &&
    !p.draining && !p.stopped && decide (p.sqTail < p.entries) && decide (0 < fetchCount s n q) && !fenced s n q

/-- The uptime at which the doorbell write of the next descriptor of a queue pair arrived (R32). -/
def bellTime (s : State) (n q : Nat) : Nat := match (getQp s n q).bells with | e :: _ => e.2 | [] => s.uptime

/-- The record of the doorbells without its first entry. -/
def dropBell : List (Nat × Nat) → List (Nat × Nat)
  | [] => []
  | (k, t) :: l => if k ≤ 1 then l else (k - 1, t) :: l

/-- Take one descriptor; behind one that fences, none. -/
def fetchOne (n q : Nat) (f : FetchIo) (s : State) (b : List Byte × List Byte) : State :=
  if fenced s n q ∨ (getQp s n q).stopped then s
  else
    admitOne (modQp s n q (fun p => { p with sqHead := (p.sqHead + 1) % p.entries, bells := dropBell p.bells })) n q (Desc.ofBytes b.1)
      b.2 (bellTime s n q) (f.latency - 400) f.cplFault

/-- The read of `k` entries goes out under the queue pair's PASID: through CXL.cache for a queue pair with COHERENT set, while CXL.cache and
ATS are enabled; by CXL.io otherwise (R81, R100, R111). -/
def ringRead (s : State) (n q k : Nat) : State :=
  let p := getQp s n q
  emit s (.ringRead n q (qpPasid s n q) (p.coherent && s.link.cxl && s.link.cacheEn && s.link.atsEn)
    (p.sqBase.toNat + 64 * p.sqHead) (64 * k))

/-- The dispatcher reads descriptors of one queue pair and admits them in ring order. -/
def execDescriptorFetch (sl qp : Nat) (f : FetchIo) (s : State) : Res :=
  known (decide (sl < 64) && decide (qp < 4))
    (let k := fetchCount s sl qp
     let bs := (List.range k).map (fun i => (padTo 64 (f.descs.getD i []), f.labels.getD i []))
     doIf s (fetches s sl qp) (if f.fault then stopQp (ringRead s sl qp k) sl qp 5 else bs.foldl (fetchOne sl qp f) (ringRead s sl qp k)))

end Sys2Proof.Machine
end

