-- ==== Sys2Proof/Machine/Boot.lean ====
section
/-! DEFINITION. Supplies and resets (R42, R343, R511, R512, R526), the end of BOOT (R44, R313, R440, R445, R455, R458, R538), the end of
ASSAY (R45, R46, R312, R340, R345, R372, R434, R459), and the heartbeat (R94). -/

namespace Sys2Proof.Machine

/-! ### Power-on reset (R511, R512, R343) -/

/-- Bank writes that tear as power falls: the bank being written fails its check (R343). -/
def tearWrites (w : WriteIo) (s : State) : State :=
  let t := (w.tornLedger.filter (fun k => decide (k < 2 ^ 20) && (mapGet WriteQ.none s.alm.writes k).started)).foldl
    (fun x k => writeBank x k .empty false) s
  let bad := w.tornSlots.filter (fun i => (mapGet WriteQ.none s.alm.writes (keySlotWrite i)).started)
  { t with alm := { t.alm with slotBad := bad.foldl (fun m i => mapSet false m i true) t.alm.slotBad } }

/-- The newest entry of a log tears. -/
def tearLast : List LogEnt → List LogEnt
  | [] => []
  | [e] => [{ e with torn := true }]
  | e :: es => e :: tearLast es

/-- What power loss leaves of the writes under way. No job is left to complete, and nothing is sent (R343). -/
def powerLoss (w : WriteIo) (s : State) : State :=
  let t := tearWrites w (finishBegun w { s with jobs := [] })
  { t with
    out := s.out,
    alm := { t.alm with log := if w.tornLog then tearLast t.alm.log else t.alm.log },
    root := { t.root with retOk := t.root.retOk && !w.sramLost } }

/-- Power-on reset is held: all volatile state is lost. -/
def holdReset (s : State) : State :=
  let t := bootState s 1
  { t with supply := { t.supply with por := true, railsGood := false, sysClk := true } }

/-- POWER_ON_RESET. -/
def execPowerOnReset (w : WriteIo) (s : State) : Res := .next (holdReset (powerLoss w s))

/-- Every rail has stayed in tolerance for 1 ms and a further 10 ms: BOOT begins, unless RESET# is low. -/
def execPorRelease (s : State) : Res :=
  doIf s s.supply.por { s with supply := { s.supply with por := false, railsGood := true, resetHeld := s.supply.resetLow } }

/-! ### RESET# (R343, R526) -/

/-- RESET# is asserted: it waits for the record writes in flight. During hold-up it has no further effect (R512). -/
def execResetAssert (s : State) : Res :=
  .next { s with supply := { s.supply with
    resetLow := true, resetWaiting := s.supply.resetWaiting || ungated s } }

/-- The writes in flight have ended: the device enters BOOT, and is held there while RESET# is low. The cause is RESET#, or the command
DEVICE_RESET that waited. -/
def execResetTakeEffect (s : State) : Res :=
  let t := bootState s (if s.supply.resetLow then 2 else 3)
  doIf s (ungated s && s.supply.resetWaiting && noneBegun s)
    { t with supply := { t.supply with resetHeld := s.supply.resetLow } }

/-- RESET# returns high. -/
def execResetRelease (s : State) : Res :=
  .next { s with supply := { s.supply with resetLow := false, resetHeld := false } }

/-! ### Supply warning and hold-up (R512) -/

/-- HIGH_WATER as the commit in flight of a leaf record leaves it. -/
def risingHighWater (s : State) (rid : Nat) : Nat :=
  let w := mapGet WriteQ.none s.alm.writes rid
  if w.started then
    w.reqs.foldl (fun a r => match r.op with | .leaf _ l => l.highWater | _ => a) (highWater s rid)
  else highWater s rid

/-- An unreleased job is abandoned: it leaves its engines and the writes not in flight, with no completion. -/
def abandonJob (s : State) (j : Job) : State := dropJob (freeEngines s j.id) j.id

/-- SUPPLY_WARNING: the engines are gated, no descriptor is fetched, unreleased jobs are abandoned, the progress page is written, and no
other write starts. -/
def execSupplyWarning (rail : Nat) (s : State) : Res :=
  known (decide (rail < 4))
    (let t := forJobs (fun j => !j.isReleased) abandonJob { s with supply := { s.supply with warnedAt := some s.uptime } }
     doIf s (ungated s) (writePageOf (risingHighWater t) t true))

/-- Every write in flight, as hold-up lets it finish. -/
def allBegun (s : State) : WriteIo :=
  let ks := (s.alm.writes.filter (fun e => e.2.started)).map (fun e => e.1)
  { ledger := ks.filter (fun k => decide (k < 2 ^ 20)),
    slots := (ks.filter (fun k => decide (2 ^ 20 ≤ k))).map (fun k => k - 2 ^ 20),
    tornLedger := [], tornSlots := [], sramLost := false, tornLog := false }

/-- 10 µs after the warning the device enters power-on reset. -/
def execSupplyWarningTimeout (s : State) : Res :=
  doIf s (alive s && (match s.supply.warnedAt with | some t => decide (t + 10000 ≤ s.uptime) | none => false))
    (holdReset (powerLoss (allBegun s) s))

/-- SYS_CLK is lost: every region PLL loses lock (R16, R511). -/
def execSysClkLost (s : State) : Res :=
  doIf s (alive s) ((List.range 4).foldl (fun t r => raiseFault t 0x22 (0x90 + r) 0) { s with supply := { s.supply with sysClk := false } })

/-- HEARTBEAT_TICK: CHIP_HEARTBEAT counts, frozen in HALT. -/
def execHeartbeatTick (s : State) : Res :=
  doIf s (alive s && s.chip.mode != .halt) { s with chip := { s.chip with heartbeat := s.chip.heartbeat + 1 } }

/-! ### The end of BOOT -/

/-- The retention check: an SRAM that has lost VBAT is zeroed whole (R440), the cause of the BOOT with it (R539). -/
def checkRetention (s : State) : State :=
  if s.root.retOk then s
  else
    { s with
      root := { record := [], keysLoaded := false, latch := 0, retOk := true, btime := 0, batLog := [], overflow := 0, lcHeld := 0 },
      chip := { s.chip with bootCause := 0 } }

/-- The event log goes on after the entry with the highest valid SEQ (R348). -/
def resumeLog (s : State) : State :=
  match (s.alm.log.filter (fun e => !e.torn)).getLast? with
  | some e => { s with alm := { s.alm with logSeq := e.seq + 1 } }
  | none => s

/-- The vote is taken; it is held for battery operation and gives the debug port its column (R442, R450, R463). Entry to RETURNED or
SCRAPPED clears the latch (R64). -/
def takeVote (s : State) : State :=
  let l := lcVote s
  let t := { s with chip := { s.chip with lc := l }, root := { s.root with lcHeld := l.code }, tap := { s.tap with voted := true } }
  if l = .returned ∨ l = .scrapped then clearLatch t else t

/-- The ROM's judgement of the root (R312, R313): in BLANK and SEALED there is none. -/
def judgeRoot (s : State) : State :=
  let t := if rootGood s ∧ s.chip.lc ≠ .blank ∧ s.chip.lc ≠ .sealed then { s with root := { s.root with keysLoaded := true } }
           else zeroizeRoot s
  if t.chip.lc = .owned ∧ rootPresent t = false then batLog (setLatch t) (batEntry t.root.btime 0x30 9 0 false 2) else t

/-- The recovery content of the ledger, as a BOOT takes it: an entry made while the timebase was unset lies outside the window now
(R477). -/
def loadRecov (s : State) : State :=
  let part := fun (n : Nat) => recovIn (payload s n)
  let r := part 4
  let es := r.ents ++ (part 5).ents ++ (part 6).ents ++ (part 7).ents
  let q := { r with ents := mapFilter (fun _ e => match e with | some (_, t) => t != 0 | none => false) es }
  -- A unit the ledger holds FAILED stays so (R476).
  q.failed.foldl (fun t e =>
    let u := modUnit t e.1 (fun x => { x with state := .failed })
    if e.1 < 148 then modDom u e.1 (fun x => { x with failed := true })
    else if 164 ≤ e.1 ∧ e.1 < 172 then modDom u (e.1 - 12) (fun x => { x with failed := true }) else u)
    { s with flt := { s.flt with recov := q } }

/-- Blocks and regions that the FAILED units leave without what they need go out of service (R467, sources 0x10 and 0x20). -/
def cascadeFailed (s : State) : State :=
  let t := (List.range 16).foldl (fun x b => if unitOnline x (128 + b) && !cellsUp x b then raiseFault x 0x10 (0x80 + b) 0 else x) s
  (List.range 4).foldl (fun x r => if regionOnline x r && !regionUp x r then raiseFault x 0x20 (0x90 + r) 0 else x) t

/-- The settings and recovery content in force (R366, R477). -/
def loadSettings (s : State) : State :=
  let t := loadRecov s
  { t with tb := { t.tb with delay := (settings t).ppsDelay } }

/-- Every random bit chain starts (R299). -/
def startRngs (s : State) : State :=
  (List.range 4).foldl (fun x r => modRng x r (fun g =>
    { g with src := 1, drbg := 0, blocks := [], cond := 0, startFails := 0, seedSrc := r })) s

/-- PRBS seeds of the enrolled loops, each non-zero (R434); drawn from a DRBG, so none while no expander is instantiated. -/
def drawSeeds (s : State) : State :=
  if (List.range 4).any (drbgReady s) then
    let on := (List.range 16).filter (fun n => enrolled s s.chip.lc.code n && enrolledPrbs s n)
    drew' { s with tamper := { s.tamper with
      seeds := on.foldl (fun m n => mapSet 0 m n (BitVec.ofNat 15 ((Config.freeWord 0 (s.freeCtr + n)).toNat % 32767 + 1))) [] } } 16
  else s

/-- An intent that does not fit the fuses is logged; the spec gives the entry no code (R455). -/
def logIntent (old s : State) : State :=
  match intentOf old with
  | some i => if intentOk old i then s else logEvent s 0xA0 (cerCode 3) 0 (leBytes 1 i.fromLc ++ leBytes 1 i.target)
  | none => s

/-- A fuse bit that the roll-forward could not program is a chip-level fault (R453). -/
def rollFault (old s : State) : State :=
  match intentOf old with
  | some i => if intentOk old i && carryMissed s i then raiseFault s 0x37 0xC5 0 else s
  | none => s

/-- The start-up of R538, when BOOT ends in UMBRA. -/
def startUmbra (io : AssayIo) (s : State) : State :=
  let t := (List.range 4).foldl (fun x r => if io.rngOk.getD r true then startupPass x r else healthFail x r 4) (startRngs s)
  setMode (startSlices (drawSeeds t)) .umbra 5 0 0

/-- The start of ASSAY. -/
def startAssay (s : State) : State := startRngs (startSlices (setMode s .assay 5 0 0))

/-- What the ROM does first: the SRAM's check, record 0 and the roll-forward, the vote, the root (R343, R440, R455). -/
def bootRom (dead : List Nat) (s : State) : State := judgeRoot (takeVote (rollForward dead s))

/-- The verified microprogram set is copied into every control store; a BNE whose store does not match after its reload is out of service until
the next BOOT (R257). -/
def loadStores (io : AssayIo) (s : State) : State :=
  let set := imageBne (runningImage s)
  (List.range 16).foldl (fun t b => modBlock t b (fun x => { x with bne := { x.bne with ctl := set, out := io.storeBad.contains b } })) s

/-- The rest of a start that runs an image: the battery log, what the roll-forward left to log, settings, and the first mode of R44. -/
def bootGoesOn (io : AssayIo) (old s : State) : State :=
  let x := rollFault old (logIntent old (startCopy (loadStores io s)))
  let y := (List.range 64).foldl dropVolBindings (loadSettings x)
  cascadeFailed (if y.chip.lc.armed && latchSet y then startUmbra io y else startAssay y)

/-- The end of BOOT (R44): `old` is the state after the retention check. -/
def bootEnds (io : AssayIo) (old s : State) : State :=
  if s.chip.lc == .scrapped || s.chip.runImage.isNone then enterHalt s 5 0 else bootGoesOn io old s

/-- The image in use from here on (R458). -/
def takeImage (s : State) : State := { s with chip := { s.chip with runImage := pickImage s s.chip.lc } }

/-- The state after BOOT. -/
def bootDone (io : AssayIo) (s : State) : State :=
  let a := resumeLog (checkRetention s)
  bootEnds io a (takeImage (bootRom io.deadFuses a))

/-- BOOT_END: retention check, record 0, vote, root, images, and the first mode of R44 that applies. -/
def execBootEnd (io : AssayIo) (s : State) : Res := doIf s (ungated s && s.chip.mode == .boot) (bootDone io s)

/-! ### The end of ASSAY -/

/-- Region `r` is FAILED by the ledger: ASSAY does not test it (R476). -/
def heldFailed (s : State) (r : Nat) : Bool := (getUnit s (144 + r)).state == .failed

/-- The random bit chain of region `r` after ASSAY: whether its startup passes, and the state (R299 to R301). -/
def endStartup (io : AssayIo) (s : State) (r : Nat) : State :=
  let x := rngOf s r
  if x.src ≠ 1 then s
  else if heldFailed s r then modRng s r (fun g => { g with src := 0 })
  else if io.rngOk.getD r true ∧ x.startFails < 3 then startupPass s r
  else settleRng (modRng s r (fun g => { g with src := 4, cause := 4 }))

/-- The tests of region `r` pass. -/
def regionPasses (io : AssayIo) (s : State) (r : Nat) : Bool :=
  !heldFailed s r && io.regionOk.getD r true && (rngOf s r).src == 2

/-- A region that fails its own tests is marked FAILED (R45); the spec names no fault source for it. -/
def endRegion (io : AssayIo) (s : State) (r : Nat) : State :=
  if heldFailed s r || regionPasses io s r then s else failUnit s (144 + r) ((Config.freeWord 7 (16 + r)).toNat % 64) 0

/-- A BNE in service that fails its known-answer test takes its block with it: the block is marked FAILED, and so is a region that this leaves
without what it needs (R257); the spec names no source for the block. -/
def endBnes (io : AssayIo) (s : State) : State :=
  let bad := fun (b : Nat) => io.bneBad.contains b && unitOnline s (128 + b) && bneServes s b
  let t := (List.range 16).foldl (fun x b => if bad b then failUnit x (128 + b) ((Config.freeWord 7 (32 + b)).toNat % 64) 0 else x) s
  (List.range 4).foldl (fun x r => if (List.range 4).any (fun i => bad (4 * r + i)) && regionOnline x r && !regionUp x r then
    raiseFault x 0x20 (0x90 + r) 0 else x) t

/-- A record of the slot table. -/
def slotTableRid (rid : Nat) : Bool := decide (1024 ≤ rid) && decide (rid < 17408)

/-- The root of FACTORY and RETURNED: the slot area and the slot table are erased first (R312). -/
def createRoot (s : State) : State :=
  let remapped := ((spareEnts s).filter (fun e => e.record.any slotTableRid)).map (fun e => 64512 + e.spare)
  let t := { s with alm := { s.alm with
    slots := [], slotBad := [], pairs := mapFilter (fun k _ => !slotTableRid k && !remapped.contains k) s.alm.pairs } }
  -- A draw with prediction resistance (R304): an expander reseeds with the block at hand, else with the next one, for which ASSAY waits.
  let u := match servingDrbg t 0 with
    | some r => callDrbg (reseeded (useBlock t (rngOf t r).seedSrc) r) r 1
    | none => t
  installRoot (drew' u 32) (drawBytes u 32) (now u)

/-- A root is generated where one is due. -/
def factoryRoot (s : State) : State :=
  if (s.chip.lc = .factory ∨ s.chip.lc = .returned) ∧ rootPresent s = false then createRoot s else s

/-- Records the Almanac holds something for. -/
def knownRids (s : State) : List Nat :=
  (s.alm.pairs.filterMap (fun e => if e.1 < 64432 then some e.1 else none) ++
    (spareEnts s).filterMap (fun e => e.record)).dedup

/-- Lost records are raised and acted on; stateful slots without a leaf record are withdrawn (R340). -/
def actOnLost (s : State) : State :=
  let t := if s.alm.lost = 0 then (knownRids s).foldl (fun x r => if recLost s r then lostRecord x r else x) s else s
  (orphanSlots t).foldl (fun x i => withdrawSlot x i none) t

/-- A durable event's entry that a start meets (R372, R375): what was pending is pending again, a fired activation restores its slot's
epoch, an outcome stays for its time. -/
def reloadEvent (s : State) (i : Nat) (e : EvEnt) : State :=
  let v := { EvRec.ofEnt e with state := if e.state = 1 then 0 else e.state, endedAt := s.uptime }
  let k := e.spec.slot
  let t := if e.spec.kind = 1 ∧ (e.state = 2 ∨ e.state = 3) then
      { s with eph := { s.eph with active := mapSet 0 s.eph.active k (max (mapGet 0 s.eph.active k) (e.spec.arg1 + 1)) } }
    else s
  { t with eph := { t.eph with events := mapSet none t.eph.events i (some v) } }

/-- Durable events are reloaded. -/
def reloadEvents (s : State) : State :=
  (knownRids s).foldl (fun t rid =>
    if 33792 ≤ rid ∧ rid < 50176 then
      (List.range 4).foldl (fun x k =>
        let i := (rid - 33792) * 4 + k
        match eventEnt x i, mapGet none x.eph.events i with
        | some e, none => reloadEvent x i e
        | _, _ => x) t
    else t) s

/-- KL_EPOCHn is restored from the activation records: the latest epoch of the bases bound for the port's slice (R372, R402). -/
def restoreEpochs (s : State) : State :=
  (List.range 8).foldl (fun t p =>
    match portSlice s p with
    | some n =>
      let es := (List.range 16).map (fun b =>
        match laneBase s n b with
        | some x => (match x.src with | .slot i _ => if x.kind = 0 then mapGet 0 s.eph.active i - 1 else 0 | _ => 0)
        | none => 0)
      let m := es.foldl max 0
      if (getPort t p).epochSent < m then modPort t p (fun y => { y with epochSent := m }) else t
    | none => t) s

/-- The floor is raised (R459); a bit that cannot be programmed is a chip-level fault (R453). -/
def endFloor (dead : List Nat) (s : State) : State :=
  let t := raiseFloor dead s
  if t.fuses ≠ s.fuses ∧ fuseMissed t 0x228 (leBytes 8 (2 ^ byteAt (runningImage s) 5 - 1)) then raiseFault t 0x37 0xC5 0 else t

/-- Removals that a power loss interrupted are completed (R117). -/
def endRemovals (s : State) : State :=
  (List.range 64).foldl (fun t n =>
    if n ≠ 0 ∧ (sliceRecOf t n).any (fun r => r.removal) ∧ (getSlice t n).state ≠ .absent then
      retireSlots (modSlice t n (fun x =>
        { x with state := .resetting, resetRec := some { prior := x.state, job := none, removal := true, hostSide := false } })) n
    else t) s

/-- What ASSAY does before the device serves. -/
def prepare (io : AssayIo) (s : State) : State :=
  let t := drawSeeds (factoryRoot s)
  let u := if t.flt.recov = Recovery.initial then loadSettings t else t
  let v := restoreEpochs (reloadEvents (startLeaves (actOnLost u)))
  endFloor io.deadFuses v

/-- ASSAY ends in HALT: its jobs complete with E_MODE (R45). -/
def assayHalt (s : State) : State := enterHalt (forJobs (fun _ => true) (fun x j => failJob x j eMode 0 false) s) 6 0

/-- ASSAY ends in the mode that serves, or in UMBRA where the custodian list is lost in OWNED (R340). -/
def assayServes (s : State) : State :=
  if s.chip.lc == .owned && recLost s 1 then startWrites 8 (setMode (dropCeremony (umbraClear (umbraWrites s))) .umbra 6 0 0)
  else endRemovals (setMode s (if s.chip.lc.armed then .service else .maintenance) 6 0 0)

/-- The state after ASSAY. -/
def assayDone (io : AssayIo) (s : State) : State :=
  let t := (List.range 4).foldl (endStartup io) s
  let u := endBnes io ((List.range 4).foldl (endRegion io) t)
  if !io.chipOk || !(List.range 4).any (fun r => regionPasses io t r && (getUnit u (144 + r)).state != .failed) then assayHalt u else assayServes (prepare io u)

/-- ASSAY_END. -/
def execAssayEnd (io : AssayIo) (s : State) : Res :=
  doIf s (ungated s && s.chip.mode == .assay && !s.flt.fatal) (assayDone io s)

end Sys2Proof.Machine
end

