-- ==== Sys2Proof/Machine/Interrupts.lean ====
section
/-! DEFINITION. The interrupt controller (R490 to R497). -/

namespace Sys2Proof.Machine

/-- A source that becomes eligible wakes the lowest target whose domain is not forced when none of its targets is awake (R496). -/
def icWake (s : State) (id : Nat) : State :=
  let x := getIc s id
  let ts := (List.range 22).filter (fun p => icEligible s x p)
  if ts.any (procAwake s) then s
  else
    match ts.find? (fun p => match procDom p with | some d => !(getDom s d).forced | none => true) with
    | some p => (match procDom p with | some d => wakeUnit false s d | none => s)
    | none => s

/-- After a change of source `id`. -/
def icSettle (s : State) (id : Nat) : State := icNotify (icWake s id)

/-- A source asserts (or a level source deasserts): edges coalesce, a re-assertion while ACTIVE makes it ACTIVE and PENDING
(R491, R493, R494). -/
def execIcSourceAssert (id : Nat) (on : Bool) (s : State) : Res :=
  known (decide (id < 1023))
    (let x := getIc s id
     let rise := match x.state with
       | .idle => .pending
       | .pending => .pending
       | .active => .activePending
       | .activePending => .activePending
     let t :=
       if icEdge id then (if on then modIc s id (fun y => { y with state := rise }) else s)
       else if on then modIc s id (fun y => { y with asserted := true, state := if x.asserted then x.state else rise })
       else modIc s id (fun y => { y with asserted := false })
     doIf s (alive s && icExists id) (icSettle t id))

/-- The eligible source of highest PRIORITY, the lowest id among equals. -/
def icBest (s : State) (p : Nat) : FMap IcSrc → Option (Nat × IcSrc)
  | [] => none
  | (id, x) :: m =>
    match icBest s p m with
    | none => if icEligible s x p then some (id, x) else none
    | some (id', x') => if icEligible s x p && decide (x'.priority ≤ x.priority) then some (id, x) else some (id', x')

/-- A read of IC_CLAIMp (R492). -/
def execIcClaim (proc : Nat) (s : State) : Res :=
  known (decide (proc < 22))
    (let r := match icBest s proc s.intc.src with
       | some (id, _) => id
       | none => if (getProc s proc).notified then 1023 else 0
     let t := match icBest s proc s.intc.src with
       | some (id, _) => modIc s id (fun x => { x with state := .active, proc := proc })
       | none => s
     doIf s (alive s) (emit (icNotify (modProc t proc (fun x => { x with notified := false }))) (.readData (leBytes 4 r))))

/-- A write of IC_COMPLETEp (R493, R497). -/
def execIcComplete (proc id : Nat) (s : State) : Res :=
  known (decide (proc < 22))
    (let x := getIc s id
     let owned := (x.state == .active || x.state == .activePending) && x.proc == proc
     let again := x.state == .activePending || (!icEdge id && x.asserted)
     let n := if !icEdge id && x.asserted then x.count + 1 else 0
     let storm := decide (1024 ≤ n)
     let t := modIc s id (fun y =>
       { y with state := if again then .pending else .idle, count := n, enable := y.enable && !storm, storm := y.storm || storm,
                polled := if storm then s.uptime else y.polled })
     let u := if storm then raiseFault t 0x3D 0xC4 id else t
     doIf s (alive s) (if owned then icSettle u id else modProc s proc (fun y => { y with badcomp := satInc 0xFFFF y.badcomp })))

/-- A write of IC_SRC_CFGn: ENABLE, PRIORITY and TARGETS; writing ENABLE clears the storm count, writing it to 1 clears STORM
(R497). -/
def execIcSrcEnable (id : Nat) (val : W32) (s : State) : Res :=
  known (decide (id < 1023))
    (let en := val.getLsbD 31
     let t := modIc s id (fun y =>
       { y with enable := en, priority := bits val.toNat 26 24, targets := val.truncate 22, count := 0,
                storm := y.storm && !en })
     doIf s (alive s && decide (1 ≤ id)) (icSettle t id))

/-- Every 1 ms the owning core polls a stormed source and re-enables it once it has deasserted (R497). -/
def execIntStormPoll (id : Nat) (s : State) : Res :=
  known (decide (id < 1023))
    (let x := getIc s id
     let t := modIc s id (fun y =>
       if y.asserted then { y with polled := s.uptime } else { y with enable := true, storm := false, count := 0, polled := s.uptime })
     doIf s (alive s && x.storm && decide (x.polled + 1000000 ≤ s.uptime)) (icSettle t id))

/-- IC_SRC_CFGn as it reads. -/
def icCfg (s : State) (id : Nat) : Nat :=
  let x := getIc s id
  let st := match x.state with | .idle => 0 | .pending => 1 | .active => 2 | .activePending => 3
  b2n x.enable * 2 ^ 31 + b2n (icExists id && !icEdge id) * 2 ^ 30 + b2n x.asserted * 2 ^ 29 + st * 2 ^ 27 + x.priority * 2 ^ 24 +
    b2n x.storm * 2 ^ 23 + x.targets.toNat

/-- IC_PROCp as it reads. -/
def icProcReg (s : State) (p : Nat) : Nat :=
  b2n (icLine s p) * 2 ^ 31 + b2n (getProc s p).notified * 2 ^ 30 + b2n (procAwake s p) * 2 ^ 29 + (getProc s p).badcomp

end Sys2Proof.Machine
end

