-- ==== Sys2Proof/Machine/LinkRows.lean ====
section
/-! DEFINITION. The attachment (chapter 03): link training, host-side resets, the HDM window, ATS, DOE and SPDM, IDE, the SMBus
sideband, and the temperature sensors (R527, R528). -/

namespace Sys2Proof.Machine

/-! ### Link and resets -/

/-- The widest of x8, x4, x2, x1 whose lanes all pass (R82). -/
def widest (lanes : Nat) : Nat := if 8 ≤ lanes then 8 else if 4 ≤ lanes then 4 else if 2 ≤ lanes then 2 else 1

/-- PCIe-only mode has no HDM window and no CXL.cachemem IDE (R111). -/
def pcieOnly (s : State) : State :=
  { s with hdm := { s.hdm with committed := false }, link := { s.link with ide := mapErase s.link.ide 2 } }

/-- The link trains; CXL mode at 8 GT/s and above where the host offers it (R82, R83). -/
def execLinkTraining (tr : TrainIo) (s : State) : Res :=
  let cxl := tr.offersCxl && decide (3 ≤ tr.rate)
  doIf s (alive s && decide (1 ≤ tr.lanes) && decide (1 ≤ tr.rate) && decide (tr.rate ≤ 5))
    (let t := { s with link := { s.link with up := true, cxl, speed := tr.rate, width := widest tr.lanes,
                                             cacheEn := tr.cache && cxl, busMaster := tr.busMaster, atsEn := tr.ats } }
     if cxl then t else pcieOnly t)

/-- The function registers and the MSI-X table go to their reset values (R104). -/
def resetFunction (s : State) : State :=
  { s with link := { s.link with busMaster := false, atsEn := false, cacheEn := false, msix := [], msixPend := [], ats := [], bars := [] },
           chip := { s.chip with d3hot := false } }

/-- SPDM sessions end and every stream is Insecure; with `keys` the IDE keys are discarded too. -/
def endSessions (s : State) (keys : Bool) : State :=
  { s with link := { s.link with
      spdm := false,
      ide := if keys then [] else mapAll IdeStream.none (fun _ x => { x with secure := false, keys := x.keys % 4 }) s.link.ide } }

/-- The HDM decoder is uncommitted, the window zeroed, every page in host bias (R104). In HALT the content and the bias stay (R108). -/
def dropHdm (s : State) : State :=
  if s.chip.mode = .halt then { s with hdm := { s.hdm with committed := false } }
  else { s with hdm := { s.hdm with committed := false, devBias := [], mem := [], poison := [] } }

/-- FLR. -/
def execFlr (s : State) : Res := doIf s (alive s) (hostResetAll (resetFunction (endSessions s false)))

/-- CXL Reset with memory clear. -/
def execCxlReset (s : State) : Res := doIf s (alive s) (hostResetAll (dropHdm (endSessions s false)))

/-- A hot reset, and a link that goes down (R104, R109): CHIP_HOSTERR is cleared, as its own field says (R94). -/
def hotResetState (s : State) : State :=
  let t := dropHdm (endSessions (resetFunction s) true)
  hostResetAll { t with link := { t.link with up := false, speed := 0, width := 0 }, chip := { t.chip with hostErr := 0 } }

/-- Hot reset. -/
def execHotReset (s : State) : Res := doIf s (alive s) (hotResetState s)

/-- PERST#: the PHY is held while it is asserted, then the link is retrained. -/
def execPerst (s : State) : Res := doIf s (alive s) (hotResetState s)

/-- Loss of the link without a reset is handled as a hot reset (R109). -/
def execLinkLoss (s : State) : Res := doIf s (alive s && s.link.up) (hotResetState s)

/-- D0 or D3hot: D3hot stops host-side traffic only (R81). -/
def execD3hot (on : Bool) (s : State) : Res := doIf s (alive s && s.link.up) { s with chip := { s.chip with d3hot := on } }

/-! ### The HDM window -/

/-- Host software programs and commits the decoder, or uncommits it (R95): a commit takes a range of whole units of 256 MiB, at a base of
such a unit, inside the window's size, and 1-way interleave; any other leaves the decoder uncommitted. -/
def execHdmDecoderCommit (r : DecoderSet) (s : State) : Res :=
  doIf s (alive s && s.link.up && s.link.cxl)
    (if !r.commit then { s with hdm := { s.hdm with committed := false } }
     else if !s.hdm.committed ∧ r.ways = 1 ∧ 0 < r.size ∧ r.size ≤ s.hdm.size ∧ r.base % 2 ^ 28 = 0 then
       { s with hdm := { s.hdm with committed := true, base := BitVec.ofNat 64 r.base, span := r.size } }
     else s)

/-- The slice whose aperture holds a window offset (R96). -/
def apertureOf (s : State) (off : Nat) : Option Nat :=
  firstFrom (fun n =>
    let x := getSlice s n
    decide (x.apOff * 2 ^ 30 ≤ off) && decide (off < (x.apOff + x.apSize) * 2 ^ 30)) 0 64

/-- Put the pages of a range into host bias. -/
def toHostBias (s : State) (page : Nat) : State := { s with hdm := { s.hdm with devBias := mapErase s.hdm.devBias page } }

/-- A read of a line whose tag fails, for the first time: HBM_UE (R15, R467). In HALT nothing more is done. -/
def badLine (s : State) (off : Nat) : State :=
  let r := off / 4096 % 4
  if s.chip.mode = .halt ∨ mapGet false (getRegion s r).retired (off / 4096) then s else raiseFault s 0x24 (0x90 + r) off

/-- A host access to a line of the window: a read, or a write of up to 64 bytes. A page in device bias goes back to host bias first; under
viral a read is poisoned and a write dropped (R96, R98, R110). -/
def execHdmAccess (addr : Nat) (wr : Option (List Byte)) (s : State) : Res :=
  let off := addr - s.hdm.base.toNat
  let inWin := decide (s.hdm.base.toNat ≤ addr) && decide (off < s.hdm.span * 2 ^ 28)
  let line := off / 64
  let t := toHostBias s (off / 2 ^ 21)
  let gone := fun n => !regionOnline s (off / 4096 % 4) || (getSlice s n).hbmKey.isNone
  let res :=
    if s.chip.viral then (if wr.isNone then emit t .poison else t)
    else
      match wr, apertureOf s off with
      | none, none => emit s (.readData (List.replicate 64 0))
      | some _, none => s
      | none, some n =>
        if gone n then emit t .poison
        else if mapGet false s.hdm.poison line then emit (badLine t off) .poison
        else emit t (.readData (bytesGet s.hdm.mem (64 * line) 64))
      | some bs, some n => if gone n then t else hdmWrite t off (bs.take (64 - off % 64))
  doIf s (alive s && s.link.up && s.link.cxl && s.hdm.committed && !s.chip.d3hot && inWin) res

/-! ### ATS and GPF -/

/-- The host invalidates a translation; the queue holds 32 (R81, R102). -/
def execAtsInvalidate (inv : AtsInv) (s : State) : Res :=
  doIf s (alive s && s.link.up && s.link.atsEn && decide (s.link.ats.length < 32))
    { s with link := { s.link with ats := s.link.ats ++ [inv] } }

/-- A host transfer of a job is in progress: the digest engine that runs it streams its input, or its cell has a transfer from stream 0
queued (R18, R216). -/
def dmaRuns (s : State) (j : Job) : Bool :=
  match j.pos with
  | .running u =>
    if u < 128 then (getCell s u).dma.any (fun d => d.kind == 0 && d.stream == 0) else decide (0x90 ≤ u) && decide (u < 0xA0) && j.res.isNone
  | _ => false

/-- A transfer in progress uses an invalidated translation: the job's input, or the list that names it, meets the range under its PASID. -/
def dmaUses (s : State) (v : AtsInv) (j : Job) : Bool :=
  dmaRuns s j && qpPasid s j.slice j.qp == v.pasid &&
    (j.desc.sgl || decide (j.desc.inAddr < v.addr + v.len) && decide (v.addr < j.desc.inAddr + j.desc.inLen))

/-- Every DMA that uses the translation has finished: the invalidation completes (R102). -/
def execAtsInvalidateComplete (tag : Nat) (s : State) : Res :=
  match s.link.ats.find? (fun v => v.tag == tag) with
  | none => .next s
  | some v =>
    doIf s (alive s && !s.jobs.any (dmaUses s v))
      (emit { s with link := { s.link with ats := s.link.ats.erase v } } (.ack 1 tag))

/-! ### DOE and SPDM -/

/-- The DOE mailbox serves: not in BOOT; in SCRAPPED Discovery only (R87). -/
def doeServes (s : State) (discovery : Bool) : Bool :=
  alive s && s.link.up && s.chip.mode != .boot && (discovery || s.chip.lc != .scrapped)

/-- A DOE request: protocol 0 Discovery, 1 CMA/SPDM, 2 Secured CMA/SPDM, 3 CDAT. In BOOT the mailbox is Busy. CDAT carries one
DSMAS entry and the DSLBIS figures. -/
def execDoeRequest (proto : Nat) (body : List Byte) (s : State) : Res :=
  doIf s (alive s && s.link.up)
    (if s.chip.mode = .boot then emit s (.spdm 0xFF [])
     else if proto ≠ 0 ∧ s.chip.lc = .scrapped then s
     else
       match proto with
       | 0 => emit s (.spdm 0x100 [BitVec.ofNat 8 (byteAt body 0)])
       | 3 => emit s (.spdm 0x103 (leBytes 8 s.hdm.base.toNat ++ leBytes 8 (s.hdm.size * 2 ^ 28) ++ leBytes 4 400 ++ leBytes 4 300 ++
           leBytes 4 25))
       | p => emit s (.spdm (0x100 + p) (stdBytes .spdm [body] 16)))

/-- The SPDM ERROR with its code. -/
def spdmError (s : State) (code : Nat) : State := emit s (.spdm 0x7F [BitVec.ofNat 8 code])

/-- The VERSION response's content: one reserved byte, two entries, versions 1.1 and 1.2 (R81). The byte layout is SPDM's own (log entry 45). -/
def spdmVersions : List Byte := [0, 2] ++ leBytes 2 0x1100 ++ leBytes 2 0x1200

/-- The capability flags advertised (R88): CERT, CHAL, MEAS with signature, ENCRYPT, MAC, KEY_EX, HBEAT, KEY_UPD; neither PSK nor mutual
authentication. The bits' places are SPDM's own (log entry 45). -/
def spdmFlags : Nat := 2 ^ 1 + 2 ^ 2 + 2 * 2 ^ 3 + 2 ^ 6 + 2 ^ 7 + 2 ^ 9 + 2 ^ 13 + 2 ^ 14

/-- An SPDM request. GET_VERSION (0x84) and GET_CAPABILITIES (0xE1) answer what the device supports. NEGOTIATE_ALGORITHMS (0xE3) carries in its first four bytes whether P-384 ECDSA, SHA-384, secp384r1 and
AES-256-GCM are offered; any other offer is InvalidRequest. KEY_EXCHANGE and FINISH (0xE4, 0xE5) open the session, END_SESSION
(0xEC) closes it; PSK requests (0xE6, 0xE7) are not supported (R88). -/
def execSpdmRequest (code : Nat) (body : List Byte) (s : State) : Res :=
  doIf s (doeServes s false)
    (match code with
     | 0x84 => emit s (.spdm 0x04 spdmVersions)
     | 0xE1 => emit s (.spdm 0x61 (leBytes 4 spdmFlags))
     | 0xE3 => if sub body 0 4 == [1, 1, 1, 1] then emit s (.spdm 0x63 [1, 1, 1, 1]) else spdmError s 1
     | 0xE6 => spdmError s 7
     | 0xE7 => spdmError s 7
     | 0xE5 =>
       if s.chip.lc = .blank then spdmError s 1
       else emit { s with link := { s.link with spdm := true } } (.spdm 0x65 [])
     | 0xEC => emit { s with link := { s.link with spdm := false } } (.spdm 0x6C [])
     | c => emit s (.spdm (c % 256) (stdBytes .spdm [[BitVec.ofNat 8 c], body] 16)))

/-- The chain of certificate slot 0: from Dexmerik's device CA to the key derived from SPDM_SECRET. -/
def certSlot0 (s : State) (n : Nat) : List Byte := stdBytes .rom [ascii "CERT", fuseSpdm s, fuseBytes s 0x010 8] n

/-- GET_CERTIFICATE: in BLANK both slots are empty; slot 1 in OWNED once installed (R89). -/
def execGetCertificate (slotId off len : Nat) (s : State) : Res :=
  doIf s (doeServes s false)
    (if s.chip.lc = .blank then spdmError s 1
     else if slotId = 0 then emit s (.spdm 0x02 ((certSlot0 s (off + len)).drop off))
     else if slotId = 1 ∧ s.chip.lc = .owned ∧ s.link.cert1 ≠ [] then
       emit s (.spdm 0x02 ((s.link.cert1.drop off).take len))
     else spdmError s 1)

/-- A measurement of R90: 48 bytes. DESIGN CHOICE (log entry 47): the byte strings hashed for indices 2, 4 and 5 are the code area of the
running image; the LC code, owner hash and BNE hash; and each registered slice byte with its image digest. -/
def measurement (s : State) (i : Nat) : List Byte :=
  match i with
  | 1 => stdBytes .rom [ascii "ROM"] 48
  | 2 => sha384 (sub (runningImage s) 0 (8192 + fieldLe (runningImage s) 12 4))
  | 3 => sha384 (imageBne (runningImage s))
  | 4 => sha384 ([BitVec.ofNat 8 s.chip.lc.code] ++ fuseOwner s ++ fuseBneHash s)
  | _ =>
    let ds := (s.micro.filterMap (fun e => e.2.map (fun m => [BitVec.ofNat 8 e.1] ++ m.digest))).flatten
    if ds = [] then List.replicate 48 0 else sha384 ds

/-- GET_MEASUREMENTS of one index. -/
def execGetMeasurements (index : Nat) (s : State) : Res :=
  doIf s (doeServes s false)
    (if 1 ≤ index ∧ index ≤ 5 then emit s (.spdm 0x60 (measurement s index)) else spdmError s 1)

/-! ### IDE (R91) -/

/-- Change IDE stream `n`. -/
def modIde (s : State) (n : Nat) (f : IdeStream → IdeStream) : State :=
  { s with link := { s.link with ide := mapMod IdeStream.none s.link.ide n f } }

/-- IDE_KM programs a key set for a stream and direction over the secured session. -/
def execIdeKm (stream dir : Nat) (s : State) : Res :=
  known (decide (stream < 3) && decide (dir < 2))
    (doIf s (doeServes s false && s.link.spdm && (stream != 2 || s.link.cxl))
      (emit (modIde s stream (fun x => { x with configured := true, keys := x.keys ||| 2 ^ dir })) (.ack 2 (2 * stream + dir))))

/-- K_SET_GO activates or refreshes a programmed key set. -/
def execKSetGo (stream dir : Nat) (s : State) : Res :=
  known (decide (stream < 3) && decide (dir < 2))
    (doIf s (doeServes s false && s.link.spdm && (mapGet IdeStream.none s.link.ide stream).keys.testBit dir)
      (emit (modIde s stream (fun x => { x with keys := x.keys ||| 2 ^ (2 + dir) })) (.ack 3 (2 * stream + dir))))

/-- A configured stream with both key sets active becomes Secure. -/
def execIdeStreamSecure (stream : Nat) (s : State) : Res :=
  known (decide (stream < 3))
    (let x := mapGet IdeStream.none s.link.ide stream
     doIf s (alive s && s.link.up && x.configured && x.keys == 15) (modIde s stream (fun y => { y with secure := true })))

/-! ### SMBus sideband (R112 to R114) -/

/-- The sideband is up: from 50 ms after VDD_AUX is good, in every mode and while a reset is held (R112). -/
def sideUp (s : State) : Bool :=
  s.supply.onAux && (match s.supply.auxAt with | some t => decide (t + 50000000 ≤ s.uptime) | none => true)

/-- The sideband answers: in SCRAPPED only GET_HEALTH_MODE. -/
def sideServes (s : State) : Bool := sideUp s && s.chip.lc != .scrapped

/-- Set Endpoint ID. -/
def execSetEndpointId (eid : Byte) (s : State) : Res :=
  doIf s (sideServes s) (emit { s with chip := { s.chip with eid := eid } } (.sideband [1, 0, eid]))

/-- Get Endpoint ID. -/
def execGetEndpointId (s : State) : Res := doIf s (sideServes s) (emit s (.sideband [2, 0, s.chip.eid]))

/-- Get MCTP Version Support: the answer's content is the MCTP standard's. -/
def execGetMctpVersionSupport (s : State) : Res := doIf s (sideServes s) (emit s (.sideband ([4, 0] ++ stdBytes .rom [ascii "MCTP"] 5)))

/-- Get Message Type Support: control messages and type 0x7E. -/
def execGetMessageTypeSupport (s : State) : Res := doIf s (sideServes s) (emit s (.sideband [5, 0, 1, 0x7E]))

/-- Get Vendor Defined Message Support: vendor ID 0x1F4D. -/
def execGetVendorDefinedMessageSupport (s : State) : Res := doIf s (sideServes s) (emit s (.sideband [6, 0, 0x1F, 0x4D]))

/-- A sensor's value in units of 0.125 degrees: a free value before it was first reported. -/
def sensorValue (s : State) (i : Nat) : Nat :=
  match mapGet none s.thermal.temp i with
  | some v => leNat (leInt 2 v)
  | none => (Config.freeTemp i).toNat

/-- GET_HEALTH_TEMP. -/
def execGetHealthTemp (s : State) : Res :=
  doIf s (sideServes s) (emit s (.sideband ([1] ++ ((List.range 9).map (fun i => leBytes 2 (sensorValue s i))).flatten)))

/-- GET_HEALTH_MODE. -/
def execGetHealthMode (s : State) : Res :=
  doIf s (sideUp s)
    (emit s (.sideband ([2] ++
      (if s.chip.lc = .scrapped then leBytes 4 (regChipId s) ++ [0, 0, 0, 0]
       else leBytes 4 (regChipMode s) ++ leBytes 4 (regChipCond s)))))

/-- GET_FAULT_SUMMARY: the chip first-error record and the latest SEQ; SMBALERT# deasserts (R114, R474). -/
def execGetFaultSummary (s : State) : Res :=
  let h := getHandler s 0
  let t := { s with pins := { s.pins with smbAlertN := false } }
  doIf s (sideServes s)
    (emit t (.sideband ([3] ++ (match h.first with | some r => r.bytes | none => List.replicate 32 0) ++ leBytes 4 h.count)))

/-- Any other health command: completion code 0x05. -/
def execSidebandUnsupported (cmd : Byte) (s : State) : Res :=
  doIf s (sideServes s && !(cmd == 1 || cmd == 2 || cmd == 3)) (emit s (.sideband [cmd, 5]))

/-! ### Temperature (R527, R528) -/

/-- Warning limit of a sensor in units of 0.125 degrees. -/
def warnLimit (i : Nat) : Int := if i < 5 then 880 else 840
/-- Critical limit. -/
def critLimit (i : Nat) : Int := if i < 5 then 960 else 896
/-- Hysteresis on the way down. -/
def hysteresis : Int := 24

/-- Report a sensor's value. -/
def report (s : State) (i : Nat) (v : Int) : State :=
  { s with thermal := { s.thermal with temp := mapSet none s.thermal.temp i (some v) } }

/-- DATA of a temperature entry: the sensor index, then the temperature. -/
def tempData (i : Nat) (v : Int) : List Byte := [BitVec.ofNat 8 i, 0] ++ leInt 2 v

/-- A sensor passes its warning limit. -/
def execTemperatureWarning (sensor : Nat) (temp : Int) (s : State) : Res :=
  known (decide (sensor < 9))
    (let t := report s sensor temp
     let u := { t with thermal := { t.thermal with warning := mapSet false t.thermal.warning sensor true } }
     doIf s (alive s && decide (warnLimit sensor < temp) && !mapGet false s.thermal.warning sensor)
       (logEvent (smbAlert u) 0xA0 0x0301 0 (tempData sensor temp)))

/-- A sensor passes its critical limit. -/
def execTemperatureCritical (sensor : Nat) (temp : Int) (s : State) : Res :=
  known (decide (sensor < 9))
    (let t := report s sensor temp
     let u := { t with thermal := { t.thermal with critical := mapSet false t.thermal.critical sensor true },
                       pins := { t.pins with alertN := true } }
     doIf s (alive s && decide (critLimit sensor < temp) && !mapGet false s.thermal.critical sensor)
       (logEvent u 0xA0 0x0302 0 (tempData sensor temp)))

/-- A sensor reports a value below its limits less the hysteresis; ALERT# deasserts when no sensor is left above. -/
def execTemperatureNormal (sensor : Nat) (temp : Int) (s : State) : Res :=
  known (decide (sensor < 9))
    (let t := report s sensor temp
     let w := if temp < warnLimit sensor - hysteresis then mapErase t.thermal.warning sensor else t.thermal.warning
     let c := mapErase t.thermal.critical sensor
     let h := if 5 ≤ sensor ∧ temp ≤ 680 then mapErase t.thermal.hot (sensor - 5) else t.thermal.hot
     doIf s (alive s && decide (temp < critLimit sensor - hysteresis))
       { t with thermal := { t.thermal with warning := w, critical := c, hot := h },
                pins := { t.pins with alertN := t.pins.alertN && !c.isEmpty } })

/-- An HBM stack passes 85 degrees: its refresh rate doubles. -/
def execHbmHot (rgn : Nat) (temp : Int) (s : State) : Res :=
  known (decide (rgn < 4))
    (let t := report s (5 + rgn) temp
     doIf s (alive s && decide (680 < temp))
       { t with thermal := { t.thermal with hot := mapSet false t.thermal.hot rgn true } })

end Sys2Proof.Machine
end

