-- ==== Sys2Proof/Machine/Dispatch.lean ====
section
/-! DEFINITION. One arm per command. -/

namespace Sys2Proof.Machine

open Sys2Proof

/-- The effect of a command on everything but the queue. -/
def exec (i : Instr) (s : State) : Host.Outcome State Fault Refusal :=
  match i with
  | .powerOnReset w => Sys2Proof.Machine.execPowerOnReset w s
  | .porRelease => Sys2Proof.Machine.execPorRelease s
  | .resetAssert => Sys2Proof.Machine.execResetAssert s
  | .resetTakeEffect => Sys2Proof.Machine.execResetTakeEffect s
  | .supplyWarning rail => Sys2Proof.Machine.execSupplyWarning rail s
  | .supplyWarningTimeout => Sys2Proof.Machine.execSupplyWarningTimeout s
  | .sysClkLost => Sys2Proof.Machine.execSysClkLost s
  | .rootSupplySwitch aux => Sys2Proof.Machine.execRootSupplySwitch aux s
  | .bootEnd io => Sys2Proof.Machine.execBootEnd io s
  | .assayEnd io => Sys2Proof.Machine.execAssayEnd io s
  | .heartbeatTick => Sys2Proof.Machine.execHeartbeatTick s
  | .linkTraining tr => Sys2Proof.Machine.execLinkTraining tr s
  | .perst => Sys2Proof.Machine.execPerst s
  | .flr => Sys2Proof.Machine.execFlr s
  | .cxlReset => Sys2Proof.Machine.execCxlReset s
  | .hotReset => Sys2Proof.Machine.execHotReset s
  | .linkLoss => Sys2Proof.Machine.execLinkLoss s
  | .gpfRequest => Sys2Proof.Machine.execGpfRequest s
  | .hdmDecoderCommit base => Sys2Proof.Machine.execHdmDecoderCommit base s
  | .hdmAccess addr wr => Sys2Proof.Machine.execHdmAccess addr wr s
  | .atsInvalidate inv => Sys2Proof.Machine.execAtsInvalidate inv s
  | .atsInvalidateComplete tag => Sys2Proof.Machine.execAtsInvalidateComplete tag s
  | .doeRequest proto body => Sys2Proof.Machine.execDoeRequest proto body s
  | .spdmRequest code body => Sys2Proof.Machine.execSpdmRequest code body s
  | .getCertificate slotId off len => Sys2Proof.Machine.execGetCertificate slotId off len s
  | .getMeasurements index => Sys2Proof.Machine.execGetMeasurements index s
  | .ideKm stream dir => Sys2Proof.Machine.execIdeKm stream dir s
  | .kSetGo stream dir => Sys2Proof.Machine.execKSetGo stream dir s
  | .ideStreamSecure stream => Sys2Proof.Machine.execIdeStreamSecure stream s
  | .setEndpointId eid => Sys2Proof.Machine.execSetEndpointId eid s
  | .getEndpointId => Sys2Proof.Machine.execGetEndpointId s
  | .getMctpVersionSupport => Sys2Proof.Machine.execGetMctpVersionSupport s
  | .getMessageTypeSupport => Sys2Proof.Machine.execGetMessageTypeSupport s
  | .getVendorDefinedMessageSupport => Sys2Proof.Machine.execGetVendorDefinedMessageSupport s
  | .getHealthTemp => Sys2Proof.Machine.execGetHealthTemp s
  | .getHealthMode => Sys2Proof.Machine.execGetHealthMode s
  | .getFaultSummary => Sys2Proof.Machine.execGetFaultSummary s
  | .sidebandUnsupported cmd => Sys2Proof.Machine.execSidebandUnsupported cmd s
  | .bar0BadAccess wr addr size => Sys2Proof.Machine.execBar0BadAccess wr addr size s
  | .bar0LowHalfRead addr => Sys2Proof.Machine.execBar0LowHalfRead addr s
  | .registerWrite addr size val => Sys2Proof.Machine.execRegisterWrite addr size val s
  | .sqDoorbell sl qp tail => Sys2Proof.Machine.execSqDoorbell sl qp tail s
  | .cqHeadWrite sl qp head => Sys2Proof.Machine.execCqHeadWrite sl qp head s
  | .qpEnable sl qp cfg => Sys2Proof.Machine.execQpEnable sl qp cfg s
  | .qpDisable sl qp => Sys2Proof.Machine.execQpDisable sl qp s
  | .qpDisableDone sl qp => Sys2Proof.Machine.execQpDisableDone sl qp s
  | .slNotifyClear sl mask => Sys2Proof.Machine.execSlNotifyClear sl mask s
  | .descriptorFetch sl qp f => Sys2Proof.Machine.execDescriptorFetch sl qp f s
  | .dispatchPick rgn lc => Sys2Proof.Machine.execDispatchPick rgn lc s
  | .blockAssign job => Sys2Proof.Machine.execBlockAssign job s
  | .cellJobStart cell => Sys2Proof.Machine.execCellJobStart cell s
  | .jobRelease job io => Sys2Proof.Machine.execJobRelease job io s
  | .verifyBeforeReleaseDone job ok io => Sys2Proof.Machine.execVerifyBeforeReleaseDone job ok io s
  | .dualCompare job ok io => Sys2Proof.Machine.execDualCompare job ok io s
  | .unassignedBoundExpire job io => Sys2Proof.Machine.execUnassignedBoundExpire job io s
  | .jobAbandonTimeout job io => Sys2Proof.Machine.execJobAbandonTimeout job io s
  | .drained => Sys2Proof.Machine.execDrained s
  | .quiesceComplete sl => Sys2Proof.Machine.execQuiesceComplete sl s
  | .sliceResetDone sl io => Sys2Proof.Machine.execSliceResetDone sl io s
  | .sliceRemoveDone sl io => Sys2Proof.Machine.execSliceRemoveDone sl io s
  | .keyScrubAfterJobs handle => Sys2Proof.Machine.execKeyScrubAfterJobs handle s
  | .deviceQuery job io => Sys2Proof.Machine.execDeviceQuery job io s
  | .sliceQuery job io => Sys2Proof.Machine.execSliceQuery job io s
  | .sliceCreate job io => Sys2Proof.Machine.execSliceCreate job io s
  | .sliceConfigure job io => Sys2Proof.Machine.execSliceConfigure job io s
  | .sliceActivate job io => Sys2Proof.Machine.execSliceActivate job io s
  | .sliceQuiesce job io => Sys2Proof.Machine.execSliceQuiesce job io s
  | .sliceReset job io => Sys2Proof.Machine.execSliceReset job io s
  | .sliceRemove job io => Sys2Proof.Machine.execSliceRemove job io s
  | .pasidBind job io => Sys2Proof.Machine.execPasidBind job io s
  | .pasidUnbind job io => Sys2Proof.Machine.execPasidUnbind job io s
  | .hdmWindowSet job io => Sys2Proof.Machine.execHdmWindowSet job io s
  | .hdmApertureSet job io => Sys2Proof.Machine.execHdmApertureSet job io s
  | .biasSet job io => Sys2Proof.Machine.execBiasSet job io s
  | .ideRequiredSet job io => Sys2Proof.Machine.execIdeRequiredSet job io s
  | .ownerCertInstall job io => Sys2Proof.Machine.execOwnerCertInstall job io s
  | .drainBegin job io => Sys2Proof.Machine.execDrainBegin job io s
  | .drainCancel job io => Sys2Proof.Machine.execDrainCancel job io s
  | .maintEnter job io => Sys2Proof.Machine.execMaintEnter job io s
  | .deviceReset job io => Sys2Proof.Machine.execDeviceReset job io s
  | .keyGenerate job io => Sys2Proof.Machine.execKeyGenerate job io s
  | .keyQuery job io => Sys2Proof.Machine.execKeyQuery job io s
  | .keyPublic job io => Sys2Proof.Machine.execKeyPublic job io s
  | .keyRetire job io => Sys2Proof.Machine.execKeyRetire job io s
  | .derive job io => Sys2Proof.Machine.execDerive job io s
  | .epochHandle job io => Sys2Proof.Machine.execEpochHandle job io s
  | .peerLoad job io => Sys2Proof.Machine.execPeerLoad job io s
  | .handleRelease job io => Sys2Proof.Machine.execHandleRelease job io s
  | .cacheControl job io => Sys2Proof.Machine.execCacheControl job io s
  | .transportEstablish job io => Sys2Proof.Machine.execTransportEstablish job io s
  | .transportAccept job io => Sys2Proof.Machine.execTransportAccept job io s
  | .keyExport job io => Sys2Proof.Machine.execKeyExport job io s
  | .keyImport job io => Sys2Proof.Machine.execKeyImport job io s
  | .kemKeygen job io => Sys2Proof.Machine.execKemKeygen job io s
  | .kemEncaps job io => Sys2Proof.Machine.execKemEncaps job io s
  | .kemDecaps job io => Sys2Proof.Machine.execKemDecaps job io s
  | .dhAgree job io => Sys2Proof.Machine.execDhAgree job io s
  | .hybridEncaps job io => Sys2Proof.Machine.execHybridEncaps job io s
  | .hybridDecaps job io => Sys2Proof.Machine.execHybridDecaps job io s
  | .sigKeygen job io => Sys2Proof.Machine.execSigKeygen job io s
  | .sign job io => Sys2Proof.Machine.execSign job io s
  | .verify job io => Sys2Proof.Machine.execVerify job io s
  | .statefulCreate job io => Sys2Proof.Machine.execStatefulCreate job io s
  | .statefulQuery job io => Sys2Proof.Machine.execStatefulQuery job io s
  | .treeBuildDone rid part => Sys2Proof.Machine.execTreeBuildDone rid part s
  | .digest job io => Sys2Proof.Machine.execDigest job io s
  | .macGenerate job io => Sys2Proof.Machine.execMacGenerate job io s
  | .macVerify job io => Sys2Proof.Machine.execMacVerify job io s
  | .kdf job io => Sys2Proof.Machine.execKdf job io s
  | .getRandom job io => Sys2Proof.Machine.execGetRandom job io s
  | .setNextSecond job io => Sys2Proof.Machine.execSetNextSecond job io s
  | .setNextSecondTimeout io => Sys2Proof.Machine.execSetNextSecondTimeout io s
  | .timeQuery job io => Sys2Proof.Machine.execTimeQuery job io s
  | .timeConfig job io => Sys2Proof.Machine.execTimeConfig job io s
  | .eventSchedule job io => Sys2Proof.Machine.execEventSchedule job io s
  | .eventCancel job io => Sys2Proof.Machine.execEventCancel job io s
  | .eventQuery job io => Sys2Proof.Machine.execEventQuery job io s
  | .lanePair job io => Sys2Proof.Machine.execLanePair job io s
  | .laneUnpair job io => Sys2Proof.Machine.execLaneUnpair job io s
  | .laneBind job io => Sys2Proof.Machine.execLaneBind job io s
  | .laneUnbind job io => Sys2Proof.Machine.execLaneUnbind job io s
  | .laneQuery job io => Sys2Proof.Machine.execLaneQuery job io s
  | .lanePrefill job io => Sys2Proof.Machine.execLanePrefill job io s
  | .laneLoopback job io => Sys2Proof.Machine.execLaneLoopback job io s
  | .cardQuery job io => Sys2Proof.Machine.execCardQuery job io s
  | .ceremonyBegin job io => Sys2Proof.Machine.execCeremonyBegin job io s
  | .ceremonyStep job io => Sys2Proof.Machine.execCeremonyStep job io s
  | .ceremonyAbort job io => Sys2Proof.Machine.execCeremonyAbort job io s
  | .ceremonyQuery job io => Sys2Proof.Machine.execCeremonyQuery job io s
  | .ceremonyTimeout io => Sys2Proof.Machine.execCeremonyTimeout io s
  | .microLoad job io => Sys2Proof.Machine.execMicroLoad job io s
  | .microUnload job io => Sys2Proof.Machine.execMicroUnload job io s
  | .microQuery job io => Sys2Proof.Machine.execMicroQuery job io s
  | .customerMacroOp job io => Sys2Proof.Machine.execCustomerMacroOp job io s
  | .wdogConfig job io => Sys2Proof.Machine.execWdogConfig job io s
  | .faultConfig job io => Sys2Proof.Machine.execFaultConfig job io s
  | .faultQuery job io => Sys2Proof.Machine.execFaultQuery job io s
  | .faultClear job io => Sys2Proof.Machine.execFaultClear job io s
  | .faultInject job io => Sys2Proof.Machine.execFaultInject job io s
  | .powerForce job io => Sys2Proof.Machine.execPowerForce job io s
  | .rngTest job io => Sys2Proof.Machine.execRngTest job io s
  | .almanacQuery job io => Sys2Proof.Machine.execAlmanacQuery job io s
  | .logRead job io => Sys2Proof.Machine.execLogRead job io s
  | .lcAdvance job io => Sys2Proof.Machine.execLcAdvance job io s
  | .fwUpdate job io => Sys2Proof.Machine.execFwUpdate job io s
  | .nop cell => Sys2Proof.Machine.execNop cell s
  | .add cell => Sys2Proof.Machine.execAdd cell s
  | .sub cell => Sys2Proof.Machine.execSub cell s
  | .addi cell => Sys2Proof.Machine.execAddi cell s
  | .andOp cell => Sys2Proof.Machine.execAndOp cell s
  | .orOp cell => Sys2Proof.Machine.execOrOp cell s
  | .xor cell => Sys2Proof.Machine.execXor cell s
  | .shl cell => Sys2Proof.Machine.execShl cell s
  | .shr cell => Sys2Proof.Machine.execShr cell s
  | .sar cell => Sys2Proof.Machine.execSar cell s
  | .mul cell => Sys2Proof.Machine.execMul cell s
  | .mulhu cell => Sys2Proof.Machine.execMulhu cell s
  | .lds cell => Sys2Proof.Machine.execLds cell s
  | .cmp cell => Sys2Proof.Machine.execCmp cell s
  | .ld cell => Sys2Proof.Machine.execLd cell s
  | .st cell => Sys2Proof.Machine.execSt cell s
  | .mfc cell => Sys2Proof.Machine.execMfc cell s
  | .mtc cell => Sys2Proof.Machine.execMtc cell s
  | .cellMsgRead cell => Sys2Proof.Machine.execCellMsgRead cell s
  | .call cell => Sys2Proof.Machine.execCall cell s
  | .ret cell => Sys2Proof.Machine.execRet cell s
  | .msg cell => Sys2Proof.Machine.execMsg cell s
  | .pwait cell core => Sys2Proof.Machine.execPwait cell core s
  | .dmain cell => Sys2Proof.Machine.execDmain cell s
  | .dmaout cell => Sys2Proof.Machine.execDmaout cell s
  | .loadkey cell => Sys2Proof.Machine.execLoadkey cell s
  | .bnereq cell => Sys2Proof.Machine.execBnereq cell s
  | .schk cell => Sys2Proof.Machine.execSchk cell s
  | .hinit cell => Sys2Proof.Machine.execHinit cell s
  | .habs cell => Sys2Proof.Machine.execHabs cell s
  | .hsqz cell => Sys2Proof.Machine.execHsqz cell s
  | .gadget cell => Sys2Proof.Machine.execGadget cell s
  | .unmask cell => Sys2Proof.Machine.execUnmask cell s
  | .ntt cell => Sys2Proof.Machine.execNtt cell s
  | .intt cell => Sys2Proof.Machine.execIntt cell s
  | .pmul cell => Sys2Proof.Machine.execPmul cell s
  | .pmac cell => Sys2Proof.Machine.execPmac cell s
  | .padd cell => Sys2Proof.Machine.execPadd cell s
  | .psub cell => Sys2Proof.Machine.execPsub cell s
  | .vld cell => Sys2Proof.Machine.execVld cell s
  | .vst cell => Sys2Proof.Machine.execVst cell s
  | .vbcast cell => Sys2Proof.Machine.execVbcast cell s
  | .vext cell => Sys2Proof.Machine.execVext cell s
  | .vadd cell => Sys2Proof.Machine.execVadd cell s
  | .vsub cell => Sys2Proof.Machine.execVsub cell s
  | .vaddm cell => Sys2Proof.Machine.execVaddm cell s
  | .vsubm cell => Sys2Proof.Machine.execVsubm cell s
  | .vadds cell => Sys2Proof.Machine.execVadds cell s
  | .vsubs cell => Sys2Proof.Machine.execVsubs cell s
  | .vmul cell => Sys2Proof.Machine.execVmul cell s
  | .vmulhr cell => Sys2Proof.Machine.execVmulhr cell s
  | .vrshr cell => Sys2Proof.Machine.execVrshr cell s
  | .vsh cell => Sys2Proof.Machine.execVsh cell s
  | .vand cell => Sys2Proof.Machine.execVand cell s
  | .vor cell => Sys2Proof.Machine.execVor cell s
  | .vxor cell => Sys2Proof.Machine.execVxor cell s
  | .vcmp cell => Sys2Proof.Machine.execVcmp cell s
  | .vcomp cell => Sys2Proof.Machine.execVcomp cell s
  | .vdecomp cell => Sys2Proof.Machine.execVdecomp cell s
  | .vperm cell => Sys2Proof.Machine.execVperm cell s
  | .vgath cell => Sys2Proof.Machine.execVgath cell s
  | .vscat cell => Sys2Proof.Machine.execVscat cell s
  | .dmaTransferDone cell io => Sys2Proof.Machine.execDmaTransferDone cell io s
  | .hashOpDone cell => Sys2Proof.Machine.execHashOpDone cell s
  | .schkDone cell ok => Sys2Proof.Machine.execSchkDone cell ok s
  | .waitConditionMet cell => Sys2Proof.Machine.execWaitConditionMet cell s
  | .waitTimeout cell => Sys2Proof.Machine.execWaitTimeout cell s
  | .cellTimerExpire cell => Sys2Proof.Machine.execCellTimerExpire cell s
  | .joblim cell => Sys2Proof.Machine.execJoblim cell s
  | .cellJobAbort cell => Sys2Proof.Machine.execCellJobAbort cell s
  | .maskReseed cell => Sys2Proof.Machine.execMaskReseed cell s
  | .getParams cell => Sys2Proof.Machine.execGetParams cell s
  | .setResult cell => Sys2Proof.Machine.execSetResult cell s
  | .putKey cell => Sys2Proof.Machine.execPutKey cell s
  | .random cell => Sys2Proof.Machine.execRandom cell s
  | .bneRequestStart blk => Sys2Proof.Machine.execBneRequestStart blk s
  | .bnePublic blk => Sys2Proof.Machine.execBnePublic blk s
  | .agree blk => Sys2Proof.Machine.execAgree blk s
  | .ephemeralAgree blk => Sys2Proof.Machine.execEphemeralAgree blk s
  | .ecdsaSign blk => Sys2Proof.Machine.execEcdsaSign blk s
  | .ecdsaVerify blk => Sys2Proof.Machine.execEcdsaVerify blk s
  | .eddsaSign blk => Sys2Proof.Machine.execEddsaSign blk s
  | .eddsaVerify blk => Sys2Proof.Machine.execEddsaVerify blk s
  | .rsaSign blk => Sys2Proof.Machine.execRsaSign blk s
  | .rsaVerify blk => Sys2Proof.Machine.execRsaVerify blk s
  | .rsaKeygen blk => Sys2Proof.Machine.execRsaKeygen blk s
  | .rsaRebuild blk => Sys2Proof.Machine.execRsaRebuild blk s
  | .validate blk => Sys2Proof.Machine.execValidate blk s
  | .scalarCheck blk => Sys2Proof.Machine.execScalarCheck blk s
  | .bneRequestDone blk io => Sys2Proof.Machine.execBneRequestDone blk io s
  | .bneSegmentEnd blk => Sys2Proof.Machine.execBneSegmentEnd blk s
  | .deContextGrant blk => Sys2Proof.Machine.execDeContextGrant blk s
  | .deBlockDone blk more => Sys2Proof.Machine.execDeBlockDone blk more s
  | .deStarvationExpire blk => Sys2Proof.Machine.execDeStarvationExpire blk s
  | .ledgerCommit rid rb io => Sys2Proof.Machine.execLedgerCommit rid rb io s
  | .slotWriteCommit job ok => Sys2Proof.Machine.execSlotWriteCommit job ok s
  | .slotZeroing idx ok => Sys2Proof.Machine.execSlotZeroing idx ok s
  | .progressPageWrite ok => Sys2Proof.Machine.execProgressPageWrite ok s
  | .almanacScrub pairs slots => Sys2Proof.Machine.execAlmanacScrub pairs slots s
  | .ppsEdge io => Sys2Proof.Machine.execPpsEdge io s
  | .ppsWindowClose => Sys2Proof.Machine.execPpsWindowClose s
  | .ppsRunEnd => Sys2Proof.Machine.execPpsRunEnd s
  | .slewEnd => Sys2Proof.Machine.execSlewEnd s
  | .holdoverExpired => Sys2Proof.Machine.execHoldoverExpired s
  | .trefQualified code => Sys2Proof.Machine.execTrefQualified code s
  | .trefLost => Sys2Proof.Machine.execTrefLost s
  | .tppsOutSecond => Sys2Proof.Machine.execTppsOutSecond s
  | .tppsOutFall => Sys2Proof.Machine.execTppsOutFall s
  | .eventPrepare ev => Sys2Proof.Machine.execEventPrepare ev s
  | .eventFire tests => Sys2Proof.Machine.execEventFire tests s
  | .eventCatchUp tests => Sys2Proof.Machine.execEventCatchUp tests s
  | .eventIndexFree ev => Sys2Proof.Machine.execEventIndexFree ev s
  | .keyCur port frame => Sys2Proof.Machine.execKeyCur port frame s
  | .keyNext port frame => Sys2Proof.Machine.execKeyNext port frame s
  | .keyPrev port frame => Sys2Proof.Machine.execKeyPrev port frame s
  | .ping port frame => Sys2Proof.Machine.execPing port frame s
  | .klMissDone port => Sys2Proof.Machine.execKlMissDone port s
  | .klResponseSend port => Sys2Proof.Machine.execKlResponseSend port s
  | .klRekey port => Sys2Proof.Machine.execKlRekey port s
  | .klRxLinkLoss port => Sys2Proof.Machine.execKlRxLinkLoss port s
  | .cardDetectRise cs => Sys2Proof.Machine.execCardDetectRise cs s
  | .cardDebouncedInsert cs wp => Sys2Proof.Machine.execCardDebouncedInsert cs wp s
  | .cardIdentify cs ans => Sys2Proof.Machine.execCardIdentify cs ans s
  | .cardResponse cs bytes wp => Sys2Proof.Machine.execCardResponse cs bytes wp s
  | .cardResponseTimeout cs => Sys2Proof.Machine.execCardResponseTimeout cs s
  | .cardStatusPoll cs status wp => Sys2Proof.Machine.execCardStatusPoll cs status wp s
  | .cardBusyTimeout cs => Sys2Proof.Machine.execCardBusyTimeout cs s
  | .clockMonitorTrip cell kind w => Sys2Proof.Machine.execClockMonitorTrip cell kind w s
  | .loopAlarm loop kind w => Sys2Proof.Machine.execLoopAlarm loop kind w s
  | .caseAlarm sw kind w => Sys2Proof.Machine.execCaseAlarm sw kind w s
  | .sensorRearm tsrc => Sys2Proof.Machine.execSensorRearm tsrc s
  | .batteryLoopPulse opens shorts => Sys2Proof.Machine.execBatteryLoopPulse opens shorts s
  | .btimeTick => Sys2Proof.Machine.execBtimeTick s
  | .batteryLogCopy => Sys2Proof.Machine.execBatteryLogCopy s
  | .healthTestFailure rgn kind => Sys2Proof.Machine.execHealthTestFailure rgn kind s
  | .rngStartupDone rgn ok => Sys2Proof.Machine.execRngStartupDone rgn ok s
  | .conditionerBlockReady rgn raw => Sys2Proof.Machine.execConditionerBlockReady rgn raw s
  | .drbgAutoReseed rgn => Sys2Proof.Machine.execDrbgAutoReseed rgn s
  | .rngFailureWindowExpire rgn => Sys2Proof.Machine.execRngFailureWindowExpire rgn s
  | .faultDetect src unit info => Sys2Proof.Machine.execFaultDetect src unit info s
  | .fenceActed fu => Sys2Proof.Machine.execFenceActed fu s
  | .quietPeriodEnd fu => Sys2Proof.Machine.execQuietPeriodEnd fu s
  | .recoveryTestDone fu ok => Sys2Proof.Machine.execRecoveryTestDone fu ok s
  | .mgmtTakeover => Sys2Proof.Machine.execMgmtTakeover s
  | .fatalHalt io => Sys2Proof.Machine.execFatalHalt io s
  | .icSourceAssert id on => Sys2Proof.Machine.execIcSourceAssert id on s
  | .icClaim proc => Sys2Proof.Machine.execIcClaim proc s
  | .icComplete proc id => Sys2Proof.Machine.execIcComplete proc id s
  | .icSrcEnable id val => Sys2Proof.Machine.execIcSrcEnable id val s
  | .intStormPoll id => Sys2Proof.Machine.execIntStormPoll id s
  | .coreWait dom target => Sys2Proof.Machine.execCoreWait dom target s
  | .pwrCtlEntry dom target => Sys2Proof.Machine.execPwrCtlEntry dom target s
  | .pwrStatAbortedClear dom => Sys2Proof.Machine.execPwrStatAbortedClear dom s
  | .domainWake dom early => Sys2Proof.Machine.execDomainWake dom early s
  | .wakeComplete dom => Sys2Proof.Machine.execWakeComplete dom s
  | .wakeFail dom => Sys2Proof.Machine.execWakeFail dom s
  | .retentionCheckDone dom bank ok => Sys2Proof.Machine.execRetentionCheckDone dom bank ok s
  | .temperatureWarning sensor temp => Sys2Proof.Machine.execTemperatureWarning sensor temp s
  | .temperatureCritical sensor temp => Sys2Proof.Machine.execTemperatureCritical sensor temp s
  | .temperatureNormal sensor temp => Sys2Proof.Machine.execTemperatureNormal sensor temp s
  | .hbmHot rgn temp => Sys2Proof.Machine.execHbmHot rgn temp s
  | .extest pins => Sys2Proof.Machine.execExtest pins s
  | .samplePreload pins => Sys2Proof.Machine.execSamplePreload pins s
  | .clamp => Sys2Proof.Machine.execClamp s
  | .highz => Sys2Proof.Machine.execHighz s
  | .dbgAccess req => Sys2Proof.Machine.execDbgAccess req s
  | .dbgFuse off bytes => Sys2Proof.Machine.execDbgFuse off bytes s
  | .bypass => Sys2Proof.Machine.execBypass s
  | .resetRelease => Sys2Proof.Machine.execResetRelease s
  | .klRxLinkUp port => Sys2Proof.Machine.execKlRxLinkUp port s
  | .invalidOpcodeRequest port frame => Sys2Proof.Machine.execInvalidOpcodeRequest port frame s
  | .reservedOp cell => Sys2Proof.Machine.execReservedOp cell s
  | .trstAssert => Sys2Proof.Machine.execTrstAssert s
  | .d3hot on => Sys2Proof.Machine.execD3hot on s

end Sys2Proof.Machine
end

