-- ==== Sys2Proof/Safety.lean ====
section
/-! DEFINITION. What counts as a safe step, and the conditions and changes the statements are written in: where a command stands
ready, and what the frame of its family does around its own effect. -/

namespace Sys2Proof

open Machine

/-- A step is safe when the machine goes on. -/
def Safe (s : State) : Prop := ∃ t, step s = .next t

/-! ### Microwords -/

/-- Cell `n` runs and stands at word `w`, outside the gates; both parity checks hold and COND fits the OP (R202, R203, R205). -/
def wordAt (s : State) (n : Nat) (w : MicroWord) : Bool :=
  decide (n < 128) && cellRuns s n && !gateEntry (getCell s n).pc && decide (mapGet 0 (getCell s n).store (getCell s n).pc = w) &&
    wParityOk w && condLegal w

/-- Cell `n` becomes `c` and takes the successor of its word (R204 to R206). -/
def cellGoes (s : State) (n : Nat) (w : MicroWord) (c : Cell) : State := takeNext (modCell s n (fun _ => c)) n w

/-- X[A] takes a result with its tag, and a public one sets Z and N (R213, R230). -/
def aluZN (c : Cell) (w : MicroWord) (r : W64) (t : Nat) : Cell :=
  { setX c (wA w) r t with z := if t = 0 then decide (r = 0) else c.z, n := if t = 0 then r.msb else c.n }

/-- As `aluZN`, and C. -/
def aluZNC (c : Cell) (w : MicroWord) (r : W64) (carry : Bool) (t : Nat) : Cell :=
  { aluZN c w r t with c := if t = 0 then carry else c.c }

/-- V[A] takes the elements computed from those of V[B] and V[C]. -/
def vecTakes (c : Cell) (w : MicroWord) (t : Nat) (f : Nat → Nat → Nat) : Cell :=
  setV c (wA w) (ofElems (elemW (wImm w)) (List.zipWith f (elems (elemW (wImm w)) (getV c (wB w)))
    (elems (elemW (wImm w)) (getV c (wC w))))) t

/-- V[A] takes the elements computed from those of V[B] alone. -/
def vecMaps (c : Cell) (w : MicroWord) (f : Nat → Nat) : Cell :=
  setV c (wA w) (ofElems (elemW (wImm w)) ((elems (elemW (wImm w)) (getV c (wB w))).map f)) (tagV c (wB w))

/-- What a masked polynomial word writes: the three shares, and the lane sums of its projections (R225, R226). -/
def polyShares (w : MicroWord) (c : Cell) (f : Nat → List Nat) : Cell :=
  project (polyQ c w) (polyN w) ((List.range 3).map f) (getX c (wA w)).toNat ((List.range 3).foldl (fun x i =>
    writePoly ((polyTag c ((getX c (wB w)).toNat + i * 0x4000) (polyN w)).getD 0) x ((getX c (wA w)).toNat + i * 0x4000) (f i)) c)

/-! ### Partas commands -/

/-- Job `job` is `j`, a command of opcode `op` that a management core or the chip KMAC unit may run now. -/
def mgmtAt (s : State) (job op : Nat) (j : Job) : Bool := decide (getJob s job = some j) && mgmtReady s j op

/-- Job `job` is `j`, of opcode `op` without a result, and the device serves commands. -/
def engineAt (s : State) (job op : Nat) (j : Job) : Bool :=
  decide (getJob s job = some j) && serving s && j.desc.opcode == op && j.res.isNone

/-- The same, on a cell. -/
def onCellAt (s : State) (job op : Nat) (j : Job) : Bool := engineAt s job op j && j.onCell

/-- The input of a job arrived whole and is `b`. -/
def inputIs (j : Job) (io : JobIo) (b : List Byte) : Bool := decide ((jobInput j io).status = stOk) && decide ((jobInput j io).bytes = b)

/-- The job holds the values of its keys (R164), or every key has a value and the chip KMAC unit, where one must be derived, takes the job
(R156). -/
def keysResolve (s : State) (j : Job) : Bool := j.vals.isSome || (kmacTurn s j && j.keys.all (fun k => (resolveKey s j k).isSome))

/-- The values of the job's keys. -/
def keyValues (s : State) (j : Job) : List (List Byte) :=
  match j.vals with | some vs => vs | none => j.keys.map (fun k => (resolveKey s j k).getD [])

/-- The state once the job's keys are in the caches of its block (R333). -/
def keysHeld (s : State) (j : Job) : State :=
  if j.vals.isNone ∧ j.assigned ∧ j.block < 16 then j.keys.foldl (fillKey j) s else s

/-- The expander that serves a job's region. -/
def jobDrbg (s : State) (j : Job) : Option Nat := servingDrbg s (if j.region < 4 then j.region else 0)

/-- The state once expander `r` has given `n` bytes. -/
def drawn (s : State) (r n : Nat) : State := drew' (callDrbg s r 1) n

/-- The bytes it gave. -/
def drawnBytes (s : State) (r n : Nat) : List Byte := drawBytes (callDrbg s r 1) n

/-- The job stands in its block, whose BNE has room. -/
def atBne (s : State) (j : Job) : Bool := j.atBlock && (bneFor s j.block).isSome && bneRoom s ((bneFor s j.block).getD 0)

/-- The job is on a cell whose block's BNE has room. -/
def cellAndBne (s : State) (j : Job) : Bool := j.onCell && (bneFor s j.block).isSome && bneRoom s ((bneFor s j.block).getD 0)

/-- A hybrid encapsulation finds its cell, the BNE of its block, and in the dual case a second cell and its BNE (R168). -/
def twoBnes (s : State) (j : Job) : Bool := j.onCell && bneReady s j.block && secondReady s j && (!j.dual || bneReady s j.twinBlock)

/-! ### Fuses -/

/-- Every bit of the image `f` is set in the fuse array. -/
def fusesHold (f : FMap Byte) (s : State) : Prop := ∀ a, mapGet 0 f a &&& mapGet 0 s.fuses a = mapGet 0 f a

end Sys2Proof
end

