-- ==== Sys2Proof/WellFormed.lean ====
section
/-! DEFINITION. A command is well formed when every unit it names exists (R2, the unit counts of chapters 01, 04, 15, 16,
19, 20). -/

namespace Sys2Proof

/-- A unit number of R468. -/
def unitNumber (u : Nat) : Bool :=
  decide (u < 0x94) || u == 0xA0 || u == 0xA1 || u == 0xB0 || (decide (0xC0 ≤ u) && decide (u ≤ 0xC5)) ||
    (decide (0xD0 ≤ u) && decide (u < 0xE8))

/-- Every unit number is in its range. -/
def Instr.wf : Instr → Bool
  | .powerOnReset _ => true
  | .porRelease => true
  | .resetAssert => true
  | .resetTakeEffect => true
  | .supplyWarning rail => decide (rail < 4)
  | .supplyWarningTimeout => true
  | .sysClkLost => true
  | .rootSupplySwitch _ => true
  | .bootEnd _ => true
  | .assayEnd _ => true
  | .heartbeatTick => true
  | .linkTraining _ => true
  | .perst => true
  | .flr => true
  | .cxlReset => true
  | .hotReset => true
  | .linkLoss => true
  | .gpfRequest => true
  | .hdmDecoderCommit _ => true
  | .hdmAccess _ _ => true
  | .atsInvalidate _ => true
  | .atsInvalidateComplete _ => true
  | .doeRequest _ _ => true
  | .spdmRequest _ _ => true
  | .getCertificate _ _ _ => true
  | .getMeasurements _ => true
  | .ideKm stream dir => decide (stream < 3) && decide (dir < 2)
  | .kSetGo stream dir => decide (stream < 3) && decide (dir < 2)
  | .ideStreamSecure stream => decide (stream < 3)
  | .setEndpointId _ => true
  | .getEndpointId => true
  | .getMctpVersionSupport => true
  | .getMessageTypeSupport => true
  | .getVendorDefinedMessageSupport => true
  | .getHealthTemp => true
  | .getHealthMode => true
  | .getFaultSummary => true
  | .sidebandUnsupported _ => true
  | .bar0BadAccess _ _ _ => true
  | .bar0LowHalfRead _ => true
  | .registerWrite _ _ _ => true
  | .sqDoorbell sl qp _ => decide (sl < 64) && decide (qp < 4)
  | .cqHeadWrite sl qp _ => decide (sl < 64) && decide (qp < 4)
  | .qpEnable sl qp _ => decide (sl < 64) && decide (qp < 4)
  | .qpDisable sl qp => decide (sl < 64) && decide (qp < 4)
  | .qpDisableDone sl qp => decide (sl < 64) && decide (qp < 4)
  | .slNotifyClear sl _ => decide (sl < 64)
  | .descriptorFetch sl qp _ => decide (sl < 64) && decide (qp < 4)
  | .dispatchPick rgn lc => decide (rgn < 4) && decide (lc < 3)
  | .blockAssign _ => true
  | .cellJobStart cell => decide (cell < 128)
  | .jobRelease _ _ => true
  | .verifyBeforeReleaseDone _ _ _ => true
  | .dualCompare _ _ _ => true
  | .unassignedBoundExpire _ _ => true
  | .jobAbandonTimeout _ _ => true
  | .drained => true
  | .quiesceComplete sl => decide (sl < 64)
  | .sliceResetDone sl _ => decide (sl < 64)
  | .sliceRemoveDone sl _ => decide (sl < 64)
  | .keyScrubAfterJobs _ => true
  | .deviceQuery _ _ => true
  | .sliceQuery _ _ => true
  | .sliceCreate _ _ => true
  | .sliceConfigure _ _ => true
  | .sliceActivate _ _ => true
  | .sliceQuiesce _ _ => true
  | .sliceReset _ _ => true
  | .sliceRemove _ _ => true
  | .pasidBind _ _ => true
  | .pasidUnbind _ _ => true
  | .hdmWindowSet _ _ => true
  | .hdmApertureSet _ _ => true
  | .biasSet _ _ => true
  | .ideRequiredSet _ _ => true
  | .ownerCertInstall _ _ => true
  | .drainBegin _ _ => true
  | .drainCancel _ _ => true
  | .maintEnter _ _ => true
  | .deviceReset _ _ => true
  | .keyGenerate _ _ => true
  | .keyQuery _ _ => true
  | .keyPublic _ _ => true
  | .keyRetire _ _ => true
  | .derive _ _ => true
  | .epochHandle _ _ => true
  | .peerLoad _ _ => true
  | .handleRelease _ _ => true
  | .cacheControl _ _ => true
  | .transportEstablish _ _ => true
  | .transportAccept _ _ => true
  | .keyExport _ _ => true
  | .keyImport _ _ => true
  | .kemKeygen _ _ => true
  | .kemEncaps _ _ => true
  | .kemDecaps _ _ => true
  | .dhAgree _ _ => true
  | .hybridEncaps _ _ => true
  | .hybridDecaps _ _ => true
  | .sigKeygen _ _ => true
  | .sign _ _ => true
  | .verify _ _ => true
  | .statefulCreate _ _ => true
  | .statefulQuery _ _ => true
  | .treeBuildDone _ _ => true
  | .digest _ _ => true
  | .macGenerate _ _ => true
  | .macVerify _ _ => true
  | .kdf _ _ => true
  | .getRandom _ _ => true
  | .setNextSecond _ _ => true
  | .setNextSecondTimeout _ => true
  | .timeQuery _ _ => true
  | .timeConfig _ _ => true
  | .eventSchedule _ _ => true
  | .eventCancel _ _ => true
  | .eventQuery _ _ => true
  | .lanePair _ _ => true
  | .laneUnpair _ _ => true
  | .laneBind _ _ => true
  | .laneUnbind _ _ => true
  | .laneQuery _ _ => true
  | .lanePrefill _ _ => true
  | .laneLoopback _ _ => true
  | .cardQuery _ _ => true
  | .ceremonyBegin _ _ => true
  | .ceremonyStep _ _ => true
  | .ceremonyAbort _ _ => true
  | .ceremonyQuery _ _ => true
  | .ceremonyTimeout _ => true
  | .microLoad _ _ => true
  | .microUnload _ _ => true
  | .microQuery _ _ => true
  | .customerMacroOp _ _ => true
  | .wdogConfig _ _ => true
  | .faultConfig _ _ => true
  | .faultQuery _ _ => true
  | .faultClear _ _ => true
  | .faultInject _ _ => true
  | .powerForce _ _ => true
  | .rngTest _ _ => true
  | .almanacQuery _ _ => true
  | .logRead _ _ => true
  | .lcAdvance _ _ => true
  | .fwUpdate _ _ => true
  | .nop cell => decide (cell < 128)
  | .add cell => decide (cell < 128)
  | .sub cell => decide (cell < 128)
  | .addi cell => decide (cell < 128)
  | .andOp cell => decide (cell < 128)
  | .orOp cell => decide (cell < 128)
  | .xor cell => decide (cell < 128)
  | .shl cell => decide (cell < 128)
  | .shr cell => decide (cell < 128)
  | .sar cell => decide (cell < 128)
  | .mul cell => decide (cell < 128)
  | .mulhu cell => decide (cell < 128)
  | .lds cell => decide (cell < 128)
  | .cmp cell => decide (cell < 128)
  | .ld cell => decide (cell < 128)
  | .st cell => decide (cell < 128)
  | .mfc cell => decide (cell < 128)
  | .mtc cell => decide (cell < 128)
  | .cellMsgRead cell => decide (cell < 128)
  | .call cell => decide (cell < 128)
  | .ret cell => decide (cell < 128)
  | .msg cell => decide (cell < 128)
  | .pwait cell _ => decide (cell < 128)
  | .dmain cell => decide (cell < 128)
  | .dmaout cell => decide (cell < 128)
  | .loadkey cell => decide (cell < 128)
  | .bnereq cell => decide (cell < 128)
  | .schk cell => decide (cell < 128)
  | .hinit cell => decide (cell < 128)
  | .habs cell => decide (cell < 128)
  | .hsqz cell => decide (cell < 128)
  | .gadget cell => decide (cell < 128)
  | .unmask cell => decide (cell < 128)
  | .ntt cell => decide (cell < 128)
  | .intt cell => decide (cell < 128)
  | .pmul cell => decide (cell < 128)
  | .pmac cell => decide (cell < 128)
  | .padd cell => decide (cell < 128)
  | .psub cell => decide (cell < 128)
  | .vld cell => decide (cell < 128)
  | .vst cell => decide (cell < 128)
  | .vbcast cell => decide (cell < 128)
  | .vext cell => decide (cell < 128)
  | .vadd cell => decide (cell < 128)
  | .vsub cell => decide (cell < 128)
  | .vaddm cell => decide (cell < 128)
  | .vsubm cell => decide (cell < 128)
  | .vadds cell => decide (cell < 128)
  | .vsubs cell => decide (cell < 128)
  | .vmul cell => decide (cell < 128)
  | .vmulhr cell => decide (cell < 128)
  | .vrshr cell => decide (cell < 128)
  | .vsh cell => decide (cell < 128)
  | .vand cell => decide (cell < 128)
  | .vor cell => decide (cell < 128)
  | .vxor cell => decide (cell < 128)
  | .vcmp cell => decide (cell < 128)
  | .vcomp cell => decide (cell < 128)
  | .vdecomp cell => decide (cell < 128)
  | .vperm cell => decide (cell < 128)
  | .vgath cell => decide (cell < 128)
  | .vscat cell => decide (cell < 128)
  | .dmaTransferDone cell _ => decide (cell < 128)
  | .hashOpDone cell => decide (cell < 128)
  | .schkDone cell _ => decide (cell < 128)
  | .waitConditionMet cell => decide (cell < 128)
  | .waitTimeout cell => decide (cell < 128)
  | .cellTimerExpire cell => decide (cell < 128)
  | .joblim cell => decide (cell < 128)
  | .cellJobAbort cell => decide (cell < 128)
  | .maskReseed cell => decide (cell < 128)
  | .getParams cell => decide (cell < 128)
  | .setResult cell => decide (cell < 128)
  | .putKey cell => decide (cell < 128)
  | .random cell => decide (cell < 128)
  | .bneRequestStart blk => decide (blk < 16)
  | .bnePublic blk => decide (blk < 16)
  | .agree blk => decide (blk < 16)
  | .ephemeralAgree blk => decide (blk < 16)
  | .ecdsaSign blk => decide (blk < 16)
  | .ecdsaVerify blk => decide (blk < 16)
  | .eddsaSign blk => decide (blk < 16)
  | .eddsaVerify blk => decide (blk < 16)
  | .rsaSign blk => decide (blk < 16)
  | .rsaVerify blk => decide (blk < 16)
  | .rsaKeygen blk => decide (blk < 16)
  | .rsaRebuild blk => decide (blk < 16)
  | .validate blk => decide (blk < 16)
  | .scalarCheck blk => decide (blk < 16)
  | .bneRequestDone blk _ => decide (blk < 16)
  | .bneSegmentEnd blk => decide (blk < 16)
  | .deContextGrant blk => decide (blk < 16)
  | .deBlockDone blk _ => decide (blk < 16)
  | .deStarvationExpire blk => decide (blk < 16)
  | .ledgerCommit _ _ _ => true
  | .slotWriteCommit _ _ => true
  | .slotZeroing idx _ => decide (idx < 262144)
  | .progressPageWrite _ => true
  | .almanacScrub _ _ => true
  | .ppsEdge _ => true
  | .ppsWindowClose => true
  | .ppsRunEnd => true
  | .slewEnd => true
  | .holdoverExpired => true
  | .trefQualified _ => true
  | .trefLost => true
  | .tppsOutSecond => true
  | .tppsOutFall => true
  | .eventPrepare ev => decide (ev < 65536)
  | .eventFire _ => true
  | .eventCatchUp _ => true
  | .eventIndexFree ev => decide (ev < 65536)
  | .keyCur port _ => decide (port < 8)
  | .keyNext port _ => decide (port < 8)
  | .keyPrev port _ => decide (port < 8)
  | .ping port _ => decide (port < 8)
  | .klMissDone port => decide (port < 8)
  | .klResponseSend port => decide (port < 8)
  | .klRekey port => decide (port < 8)
  | .klRxLinkLoss port => decide (port < 8)
  | .cardDetectRise cs => decide (cs < 4)
  | .cardDebouncedInsert cs _ => decide (cs < 4)
  | .cardIdentify cs _ => decide (cs < 4)
  | .cardResponse cs _ _ => decide (cs < 4)
  | .cardResponseTimeout cs => decide (cs < 4)
  | .cardStatusPoll cs _ _ => decide (cs < 4)
  | .cardBusyTimeout cs => decide (cs < 4)
  | .clockMonitorTrip cell _ _ => decide (cell < 128)
  | .loopAlarm loop _ _ => decide (loop < 16)
  | .caseAlarm sw _ _ => decide (sw < 2)
  | .sensorRearm tsrc => decide (tsrc < 160)
  | .batteryLoopPulse _ _ => true
  | .btimeTick => true
  | .batteryLogCopy => true
  | .healthTestFailure rgn _ => decide (rgn < 4)
  | .rngStartupDone rgn _ => decide (rgn < 4)
  | .conditionerBlockReady rgn _ => decide (rgn < 4)
  | .drbgAutoReseed rgn => decide (rgn < 4)
  | .rngFailureWindowExpire rgn => decide (rgn < 4)
  | .faultDetect _ unit _ => unitNumber unit
  | .fenceActed fu => decide (fu < 174)
  | .quietPeriodEnd fu => decide (fu < 174)
  | .recoveryTestDone fu _ => decide (fu < 174)
  | .mgmtTakeover => true
  | .fatalHalt _ => true
  | .icSourceAssert id _ => decide (id < 1023)
  | .icClaim proc => decide (proc < 22)
  | .icComplete proc _ => decide (proc < 22)
  | .icSrcEnable id _ => decide (id < 1023)
  | .intStormPoll id => decide (id < 1023)
  | .coreWait dom _ => decide (dom < 160)
  | .pwrCtlEntry dom _ => decide (dom < 160)
  | .pwrStatAbortedClear dom => decide (dom < 160)
  | .domainWake dom _ => decide (dom < 160)
  | .wakeComplete dom => decide (dom < 160)
  | .wakeFail dom => decide (dom < 160)
  | .retentionCheckDone dom _ _ => decide (dom < 160)
  | .temperatureWarning sensor _ => decide (sensor < 9)
  | .temperatureCritical sensor _ => decide (sensor < 9)
  | .temperatureNormal sensor _ => decide (sensor < 9)
  | .hbmHot rgn _ => decide (rgn < 4)
  | .extest _ => true
  | .samplePreload _ => true
  | .clamp => true
  | .highz => true
  | .dbgAccess _ => true
  | .dbgFuse _ _ => true
  | .bypass => true
  | .resetRelease => true
  | .klRxLinkUp port => decide (port < 8)
  | .invalidOpcodeRequest port _ => decide (port < 8)
  | .reservedOp cell => decide (cell < 128)
  | .trstAssert => true
  | .d3hot _ => true

end Sys2Proof
end

