-- ==== Sys2Proof/Certificates/Slice0/Obligations.lean ====
section
/-! DEFINITION. The statements for the provers, in the terms of Safety.lean. -/

open Sys2Proof Sys2Proof.Machine

/-- O1: A running cell at a legal ADD, SUB, ADDI, MUL, MULHU or CMP word completes it: X[A] takes the sum, difference or product
half with the tag of its sources, a public result sets Z and N, and ADD, SUB, ADDI and CMP set C to the carry or to
not-borrow; nothing else of the cell changes but its successor. (R212, R213, R230) -/
def Obligations.ScalarArithmetic : Prop :=
  ∀ (s : State) (n : Nat) (w : MicroWord), wordAt s n w = true →
    let c := getCell s n
    let a := getX c (wB w)
    let b := getX c (wC w)
    let pub := tagX c (wB w) = 0 ∧ tagX c (wC w) = 0
    (∀ t, wOp w = 0x01 → formRRR w = true → joinTag (tagX c (wB w)) (tagX c (wC w)) = some t →
      exec (.add n) s = .next (cellGoes s n w (aluZNC c w (a + b) (decide (2 ^ 64 ≤ a.toNat + b.toNat)) t))) ∧
    (∀ t, wOp w = 0x02 → formRRR w = true → joinTag (tagX c (wB w)) (tagX c (wC w)) = some t →
      exec (.sub n) s = .next (cellGoes s n w (aluZNC c w (a - b) (decide (b.toNat ≤ a.toNat)) t))) ∧
    (wOp w = 0x03 → reg (wA w) = true → reg (wB w) = true → wC w = 0 → tagX c (wB w) = 0 →
      exec (.addi n) s = .next (cellGoes s n w (aluZNC c w (a + immS w) (decide (2 ^ 64 ≤ a.toNat + (immS w).toNat)) 0))) ∧
    (wOp w = 0x0A → formRRR w = true → pub → exec (.mul n) s = .next (cellGoes s n w (aluZN c w (a * b) 0))) ∧
    (wOp w = 0x0B → formRRR w = true → pub →
      exec (.mulhu n) s = .next (cellGoes s n w (aluZN c w (BitVec.ofNat 64 (a.toNat * b.toNat / 2 ^ 64)) 0))) ∧
    (wOp w = 0x0D → wA w = 0 → reg (wB w) = true → reg (wC w) = true → wImm w = 0 → pub →
      exec (.cmp n) s = .next (cellGoes s n w { c with
        z := decide (a - b = 0), n := (a - b).msb, c := decide (b.toNat ≤ a.toNat) }))

/-- O2: A running cell at a legal AND, OR, XOR, SHL, SHR, SAR or LDS word completes it: X[A] takes the result with the tag the
sources give it, a public result sets Z and N, and C is kept. (R212, R213, R230) -/
def Obligations.ScalarLogicAndShifts : Prop :=
  ∀ (s : State) (n : Nat) (w : MicroWord), wordAt s n w = true →
    let c := getCell s n
    let a := getX c (wB w)
    let b := getX c (wC w)
    let k := shiftCount c w
    (∀ t, wOp w = 0x04 → formRRR w = true → oneTag (tagX c (wB w)) (tagX c (wC w)) = some t →
      exec (.andOp n) s = .next (cellGoes s n w (aluZN c w (a &&& b) t))) ∧
    (wOp w = 0x05 → formRRR w = true → tagX c (wB w) = 0 → tagX c (wC w) = 0 →
      exec (.orOp n) s = .next (cellGoes s n w (aluZN c w (a ||| b) 0))) ∧
    (∀ t, wOp w = 0x06 → formRRR w = true → joinTag (tagX c (wB w)) (tagX c (wC w)) = some t →
      exec (.xor n) s = .next (cellGoes s n w (aluZN c w (a ^^^ b) t))) ∧
    (∀ t, formShift w = true → oneTag (tagX c (wB w)) (shiftTag c w) = some t →
      (wOp w = 0x07 → exec (.shl n) s = .next (cellGoes s n w (aluZN c w (a <<< k) t))) ∧
      (wOp w = 0x08 → exec (.shr n) s = .next (cellGoes s n w (aluZN c w (a >>> k) t))) ∧
      (wOp w = 0x09 → exec (.sar n) s = .next (cellGoes s n w (aluZN c w (a.sshiftRight k) t)))) ∧
    (wOp w = 0x0C → reg (wA w) = true → wB w = 0 → wC w = 0 → tagX c (wA w) = 0 →
      exec (.lds n) s = .next (cellGoes s n w (aluZN c w ((getX c (wA w) <<< 9) ||| BitVec.ofNat 64 (wImm w)) 0)))

/-- O3: A running cell at a legal word: NOP changes nothing, MFC reads a cell register into X[A] as public, a read of CELL_MSG
takes the oldest message, MTC writes the low 32 bits of X[B], CALL pushes the return address and goes to NEXT, RET pops it or
takes the fault return, MSG sends the word in X[B] to the block control core, and a reserved OP is machine check 4. PWAIT
outside the customer window without a job, with a TARGET from 1 to 4 (of the control core, or else the one in CELL_PWR) that
leaves the region a cell awake, clears ABORTED, holds and begins the entry. (R203, R207, R212, R215, R224, R234, R499, R500) -/
def Obligations.CellControlWords : Prop :=
  ∀ (s : State) (n : Nat) (w : MicroWord), wordAt s n w = true →
    let c := getCell s n
    (wOp w = 0x00 → wA w = 0 → wB w = 0 → wC w = 0 → wImm w = 0 → exec (.nop n) s = .next (cellGoes s n w c)) ∧
    (wOp w = 0x10 → reg (wA w) = true → wB w = 0 → wC w = 0 →
      exec (.mfc n) s = .next (cellGoes s n w (cellRegSide (setX c (wA w) (cellRegRead n c (wImm w * 4)) 0) (wImm w * 4)))) ∧
    (wOp w = 0x10 → reg (wA w) = true → wB w = 0 → wC w = 0 → wImm w = 0x1C →
      exec (.cellMsgRead n) s = .next (cellGoes s n w { setX c (wA w) (c.msgs.headD 0) 0 with msgs := c.msgs.tail })) ∧
    (wOp w = 0x11 → wA w = 0 → reg (wB w) = true → wC w = 0 → tagX c (wB w) = 0 →
      (custPc c = false ∨ custWritable (wImm w * 4) = true) →
      exec (.mtc n) s = .next (cellGoes s n w (cellRegWrite c (wImm w * 4) ((getX c (wB w)).toNat % 2 ^ 32)))) ∧
    (wOp w = 0x12 → bits w.toNat 41 39 = 0 → wImm w = 0 → c.stack.length < 8 →
      (custPc c = false ∨ 0xC00 ≤ wNext w ∨ gateEntry (wNext w) = true) →
      exec (.call n) s = .next (enterPc (modCell s n (fun x => { x with stack := wRet w :: x.stack })) n (wNext w))) ∧
    (∀ pc st, wOp w = 0x13 → wA w = 0 → wB w = 0 → wC w = 0 → wNext w = 0 → wImm w = 0 → c.stack = pc :: st →
      transferOk c pc = true → exec (.ret n) s = .next (enterPc (modCell s n (fun x => { x with stack := st })) n pc)) ∧
    (wOp w = 0x13 → wA w = 0 → wB w = 0 → wC w = 0 → wNext w = 0 → wImm w = 1 → transferOk c c.fPc = true →
      exec (.ret n) s = .next (enterPc (modCell s n (fun x => { x with fValid := false })) n c.fPc)) ∧
    (wOp w = 0x14 → wA w = 0 → reg (wB w) = true → wC w = 0 → wImm w = 0 → tagX c (wB w) = 0 →
      exec (.msg n) s = .next (cellGoes s n w (coreReply { c with sent := c.sent ++ [getX c (wB w)] }))) ∧
    (wOp w = 0x26 ∨ wOp w = 0x27 ∨ wOp w = 0x3F →
      exec (.reservedOp n) s = .next (machineCheck (modCell s n (fun _ => c)) n 4 (wCond w) (custPc c))) ∧
    (∀ core, let target := (core : Option Nat).getD c.pwrTarget
      wOp w = 0x15 → wA w = 0 → wB w = 0 → wC w = 0 → wImm w = 0 → custPc c = false → c.job = none →
      1 ≤ target → target ≤ 4 → (target = 1 ∨ regionKeeps s n = true) → (getDom s n).forced = false →
      (getDom s n).failed = false →
      exec (.pwait n core) s = .next (modDom
        (modCell s n (fun x => { x with pwrTarget := target, pwrAborted := false, hold := true, stalled := false, wd := 0 })) n
        (fun d => Dom.latched { d with state := target, target := target, entry := some s.uptime, aborted := false } s n target)))

/-- O4: A running cell at a legal load or store word whose accesses meet no fault completes it: a load takes the little-endian
bytes and the tag of their lines, and a store writes the register at the effective address with its tag; VSCAT writes the
elements in order of index. (R214, R219, R222, R223, R230) -/
def Obligations.LoadsAndStores : Prop :=
  ∀ (s : State) (n : Nat) (w : MicroWord), wordAt s n w = true →
    let c := getCell s n
    let a := eaScalar c w
    let v := eaVector c w
    let wd := elemW (wImm w)
    (wOp w = 0x0E → reg (wA w) = true → reg (wB w) = true → wC w = 0 → tagX c (wB w) = 0 → accessKind c a 8 = 0 →
      exec (.ld n) s = .next (cellGoes s n w (setX c (wA w) (BitVec.ofNat 64 (leNat (cread c a 8))) (tagAt c a)))) ∧
    (wOp w = 0x0F → wA w = 0 → reg (wB w) = true → reg (wC w) = true → tagX c (wB w) = 0 →
      storeTagOk c a (tagX c (wC w)) = true → accessKind c a 8 = 0 →
      exec (.st n) s = .next (cellGoes s n w (storeTagged c a (leBytes 8 (getX c (wC w)).toNat) (tagX c (wC w))))) ∧
    (wOp w = 0x28 → reg (wA w) = true → reg (wB w) = true → wC w = 0 → tagX c (wB w) = 0 → accessKind c v 16 = 0 →
      exec (.vld n) s = .next (cellGoes s n w (setV c (wA w) (BitVec.ofNat 128 (leNat (cread c v 16))) (tagAt c v)))) ∧
    (wOp w = 0x29 → reg (wA w) = true → reg (wB w) = true → wC w = 0 → tagX c (wB w) = 0 →
      storeTagOk c v (tagV c (wA w)) = true → accessKind c v 16 = 0 →
      exec (.vst n) s = .next (cellGoes s n w (storeTagged c v (leBytes 16 (getV c (wA w)).toNat) (tagV c (wA w))))) ∧
    (formVVV w = true → tagX c (wB w) = 0 → tagV c (wC w) = 0 → (∀ x ∈ eaElems c w, accessKind c x (wd / 8) = 0) →
      (∀ t, wOp w = 0x3D → joinTags c (eaElems c w) = some t →
        exec (.vgath n) s = .next (cellGoes s n w
          (setV c (wA w) (ofElems wd ((eaElems c w).map (fun x => leNat (cread c x (wd / 8))))) t))) ∧
      (wOp w = 0x3E → (∀ x ∈ eaElems c w, storeTagOk c x (tagV c (wA w)) = true) →
        exec (.vscat n) s = .next (cellGoes s n w
          (scatterAll (wd / 8) (tagV c (wA w)) c ((eaElems c w).zip (elems wd (getV c (wA w))))))))

/-- O5: A running cell at a legal word whose port has room completes it: the transfer joins the DMA queue, LOADKEY sets X[C] to
the key length and takes the mask units of its sharing (the choice of the model, assumption 24), BNEREQ passes its request to
the BNE queue, SCHK starts the share check over the projections since the last one and draws the next vector, HINIT sets the
function of the hash unit, and HABS and HSQZ start it, with 300 mask units due for each permutation of masked Keccak. (R216,
R217, R226, R227, R259, R261) -/
def Obligations.CellPortsComplete : Prop :=
  ∀ (s : State) (n : Nat) (w : MicroWord), wordAt s n w = true →
    let c := getCell s n
    let k := cellCtx s n
    let xa := (getX c (wA w)).toNat
    let xb := (getX c (wB w)).toNat
    let xc := (getX c (wC w)).toNat
    let st := wImm w % 8
    (c.dma.length < 8 → (∀ x ∈ rangeProbe xa xc ++ windowProbe st xb xc, accessKind c x 1 = 0) → xb + xc ≤ streamExtent k st →
      (wOp w = 0x16 → dmaForm c w false = true → dmaTagsOk c ⟨0, st, xb, xa, xc⟩ (custPc c) = true →
        exec (.dmain n) s = .next (cellGoes s n w { c with dma := c.dma ++ [⟨0, st, xb, xa, xc⟩] })) ∧
      (wOp w = 0x17 → dmaForm c w true = true → dmaTagsOk c ⟨1, st, xb, xa, xc⟩ (custPc c) = true →
        exec (.dmaout n) s = .next (cellGoes s n w { c with dma := c.dma ++ [⟨1, st, xb, xa, xc⟩] }))) ∧
    (wOp w = 0x18 → reg (wA w) = true → reg (wB w) = true → reg (wC w) = true → wImm w = 0 → tagX c (wA w) = 0 →
      tagX c (wB w) = 0 → xb < 2 → xb < k.keyLens.length → xa + k.keyLens.getD xb 0 ≤ 0x4000 →
      (∀ p ∈ shareLines xa (k.keyLens.getD xb 0), storeTagOk c p.1 p.2 = true) → c.dma.length < 8 →
      shareMask (k.keyLens.getD xb 0) ≤ c.maskLevel →
      exec (.loadkey n) s = .next (cellGoes s n w { setX c (wC w) (BitVec.ofNat 64 (k.keyLens.getD xb 0)) 0 with
        dma := c.dma ++ [⟨2, xb, 0, xa, k.keyLens.getD xb 0⟩], maskLevel := c.maskLevel - shareMask (k.keyLens.getD xb 0) })) ∧
    (∀ j b, wOp w = 0x19 → wA w = 0 → reg (wB w) = true → wC w = 0 → wImm w = 0 → tagX c (wB w) = 0 →
      (∀ x ∈ rangeProbe (0x100000 + xb) 32, accessKind c x 1 = 0) → k.bneRoom = true → c.job.bind (getJob s) = some j →
      bneFor s (n / 8) = some b → bneRoom s b = true →
      let t := cellGoes s n w { c with bnePend := c.bnePend + 1 }
      (getCell t n).bnePend = c.bnePend + 1 →
      exec (.bnereq n) s = .next (drew' (modBne t b (fun x => { x with queue := x.queue ++ [rawReq s n j xb] }))
        (seedLen (fieldLe (bytesGet c.win xb 32) 2 2)))) ∧
    (wOp w = 0x1A → wA w = 0 → wB w = 0 → wC w = 0 → wImm w = 0 → Config.checkMask.val ≤ c.maskLevel →
      exec (.schk n) s = .next (cellGoes s n w { c with
        schk := true, unchecked := false, projs := [], schkOk := (!c.schk || c.schkOk) && c.projs.all LaneSums.zero,
        projVec := c.draws, draws := c.draws + 1024, maskLevel := c.maskLevel - Config.checkMask.val })) ∧
    (c.hash.busy = none →
      (wOp w = 0x1B → wA w = 0 → wC w = 0 → bits (wImm w) 7 4 = 0 → wImm w % 16 < 8 → wB w = 0 →
        (bit (wImm w) 8 = false ∨ 3 ≤ wImm w % 16) →
        exec (.hinit n) s = .next (cellGoes s n w { c with
          hash := ⟨wImm w % 16, bit (wImm w) 8, 0, [], 0, false, none, 0⟩ })) ∧
      (wOp w = 0x1B → wA w = 0 → wC w = 0 → bits (wImm w) 7 4 = 0 → wImm w % 16 = 8 → reg (wB w) = true → tagX c (wB w) = 0 →
        8 ≤ xb → xb ≤ 168 → xb % 8 = 0 →
        exec (.hinit n) s = .next (cellGoes s n w { c with hash := ⟨8, bit (wImm w) 8, xb, [], 0, false, none, 0⟩ })) ∧
      (wOp w = 0x1C → wA w = 0 → reg (wB w) = true → reg (wC w) = true → wImm w = 0 → tagX c (wB w) = 0 → tagX c (wC w) = 0 →
        (∀ x ∈ rangeProbe xb xc, accessKind c x 1 = 0) →
        ((∀ l ∈ linesOf xb (min xc 0x40001), tagAt c l = 0) ∨
          (c.hash.masked = true ∧ xb + xc ≤ 0x4000 ∧ ∀ p ∈ shareLines xb xc, tagAt c p.1 = p.2)) →
        exec (.habs n) s = .next (cellGoes s n w { c with hash := { c.hash with busy := some (false, xb, xc), due := hashDue c.hash false xc } })) ∧
      (wOp w = 0x1D → reg (wA w) = true → wB w = 0 → reg (wC w) = true → wImm w = 0 → tagX c (wA w) = 0 → tagX c (wC w) = 0 →
        (∀ x ∈ rangeProbe xa xc, accessKind c x 1 = 0) →
        (c.hash.masked = false ∨ (xa + xc ≤ 0x4000 ∧ ∀ p ∈ shareLines xa xc, storeTagOk c p.1 p.2 = true)) →
        exec (.hsqz n) s = .next (cellGoes s n w { c with hash := { c.hash with busy := some (true, xa, xc), due := hashDue c.hash true xc } })))

/-- O6: A running cell at a legal VADD, VSUB, VADDM, VSUBM, VADDS, VSUBS, VMUL, VMULHR, VAND, VOR, VXOR or VCMP word completes it:
each element of V[A] is the stated function of the elements of V[B] and V[C], with the tag the sources give; VCMP also sets VZ
when every element of the result is 0. (R218, R219, R220, R230) -/
def Obligations.VectorArithmetic : Prop :=
  ∀ (s : State) (n : Nat) (w : MicroWord), wordAt s n w = true → reg (wA w) = true → reg (wB w) = true → reg (wC w) = true →
    let c := getCell s n
    let wd := elemW (wImm w)
    let q := c.vmod.toNat
    let sg := bit (wImm w) 2
    let val := fun (x : Nat) => if sg then sElem wd x else (x : Int)
    (∀ t, wImm w / 4 = 0 → joinTag (tagV c (wB w)) (tagV c (wC w)) = some t →
      (wOp w = 0x2C → exec (.vadd n) s = .next (cellGoes s n w (vecTakes c w t (fun a b => (a + b) % 2 ^ wd)))) ∧
      (wOp w = 0x2D → exec (.vsub n) s = .next (cellGoes s n w (vecTakes c w t (fun a b => (a + (2 ^ wd - b)) % 2 ^ wd)))) ∧
      (wOp w = 0x2E → exec (.vaddm n) s = .next (cellGoes s n w
        (vecTakes c w t (fun a b => (if q ≤ a + b then a + b - q else a + b) % 2 ^ wd)))) ∧
      (wOp w = 0x2F → exec (.vsubm n) s = .next (cellGoes s n w
        (vecTakes c w t (fun a b => toElem wd (if (a : Int) - b < 0 then (a : Int) - b + q else (a : Int) - b))))) ∧
      (wOp w = 0x38 → exec (.vxor n) s = .next (cellGoes s n w (vecTakes c w t (fun a b => a ^^^ b))))) ∧
    (∀ t, wImm w / 4 = 0 → oneTag (tagV c (wB w)) (tagV c (wC w)) = some t →
      (wOp w = 0x32 → exec (.vmul n) s = .next (cellGoes s n w (vecTakes c w t (fun a b => a * b % 2 ^ wd)))) ∧
      (wOp w = 0x36 → exec (.vand n) s = .next (cellGoes s n w (vecTakes c w t (fun a b => a &&& b))))) ∧
    (tagV c (wB w) = 0 → tagV c (wC w) = 0 →
      (wOp w = 0x30 → wImm w / 8 = 0 → exec (.vadds n) s = .next (cellGoes s n w
        (vecTakes c w 0 (fun a b => clampElem sg wd (val a + val b))))) ∧
      (wOp w = 0x31 → wImm w / 8 = 0 → exec (.vsubs n) s = .next (cellGoes s n w
        (vecTakes c w 0 (fun a b => clampElem sg wd (val a - val b))))) ∧
      (wOp w = 0x33 → wImm w / 4 = 0 → (wImm w % 4 = 1 ∨ wImm w % 4 = 2) → exec (.vmulhr n) s = .next (cellGoes s n w
        (vecTakes c w 0 (fun a b => toElem wd ((sElem wd a * sElem wd b + 2 ^ (wd - 1)) / (2 ^ wd : Int)))))) ∧
      (wOp w = 0x37 → wImm w / 4 = 0 → exec (.vor n) s = .next (cellGoes s n w (vecTakes c w 0 (fun a b => a ||| b)))) ∧
      (wOp w = 0x39 → wImm w / 32 = 0 → bits (wImm w) 4 2 < 6 →
        let d := vecTakes c w 0 (fun a b => if cmpPred (bits (wImm w) 4 2) wd a b then 2 ^ wd - 1 else 0)
        exec (.vcmp n) s = .next (cellGoes s n w { d with vz := decide (getV d (wA w) = 0) })))

/-- O7: A running cell at a legal word of one of these OPs completes it: broadcast, extract, round-shift, shift, FIPS 203
compression and decompression, permutation, the masked gadgets (a fresh sharing of the stated value, or VZ, with the mask
units taken from the pool) and the recombination of a triple. With VMOD.Q = 0 a compression, a norm check and a modular
recombination give free values (the choice of the model, assumption 24). (R218, R219, R220, R221, R228, R229, R230, R231) -/
def Obligations.VectorMovesAndScaling : Prop :=
  ∀ (s : State) (n : Nat) (w : MicroWord), wordAt s n w = true →
    let c := getCell s n
    let wd := elemW (wImm w)
    let sh := bits (wImm w) 7 2
    let d := bits (wImm w) 5 2
    let q := c.vmod.toNat
    let b := tripleElems c wd (wB w)
    let f := bits (wImm w) 8 6
    let paid := { c with maskLevel := c.maskLevel - gadgetMask f }
    (reg (wA w) = true → reg (wB w) = true →
      (wOp w = 0x2A → wC w = 0 → wImm w / 4 = 0 → exec (.vbcast n) s = .next (cellGoes s n w
        (setV c (wA w) (ofElems wd (List.replicate (128 / wd) ((getX c (wB w)).toNat % 2 ^ wd))) (tagX c (wB w))))) ∧
      (wOp w = 0x2B → wC w = 0 → wImm w / 64 = 0 → exec (.vext n) s = .next (cellGoes s n w
        (setX c (wA w) (BitVec.ofNat 64 ((elems wd (getV c (wB w))).getD (d % (128 / wd)) 0)) (tagV c (wB w))))) ∧
      (wOp w = 0x34 → wC w = 0 → sh < wd → tagV c (wB w) = 0 → exec (.vrshr n) s = .next (cellGoes s n w
        (vecMaps c w (fun a => if sh = 0 then a else
          toElem wd (((if bit (wImm w) 8 then sElem wd a else (a : Int)) + 2 ^ (sh - 1)) / (2 ^ sh : Int)))))) ∧
      (wOp w = 0x35 → wC w = 0 → exec (.vsh n) s = .next (cellGoes s n w
        (vecMaps c w (fun a => if wd ≤ sh then 0 else if bit (wImm w) 8 then a / 2 ^ sh else a * 2 ^ sh % 2 ^ wd)))) ∧
      (formComp w = true → wC w = 0 → tagV c (wB w) = 0 →
        (wOp w = 0x3A → q ≠ 0 → exec (.vcomp n) s = .next (cellGoes s n w
          (vecMaps c w (fun x => (x * 2 ^ (d + 1) + q) / (2 * q) % 2 ^ d)))) ∧
        (wOp w = 0x3A → q = 0 → exec (.vcomp n) s = .next (cellGoes s n w
          (drew (setV c (wA w) (ofElems 16 ((List.range 8).map (freeElem c 16))) 0) 8))) ∧
        (wOp w = 0x3B → exec (.vdecomp n) s = .next (cellGoes s n w
          (vecMaps c w (fun x => (x % 2 ^ d * 2 * q + 2 ^ d) / 2 ^ (d + 1)))))) ∧
      (wOp w = 0x3C → reg (wC w) = true → wImm w / 4 = 0 → tagV c (wC w) = 0 → exec (.vperm n) s = .next (cellGoes s n w
        (setV c (wA w) (ofElems wd ((elems wd (getV c (wC w))).map
          (fun i => (elems wd (getV c (wB w))).getD (i % (128 / wd)) 0))) (tagV c (wB w)))))) ∧
    (wOp w = 0x1E → gadgetForm w = true → gadgetMask f ≤ c.maskLevel →
      (f = 0 → exec (.gadget n) s = .next (cellGoes s n w (writeTriple paid wd (wA w) false (b.map boolVal)))) ∧
      (f = 1 → exec (.gadget n) s = .next (cellGoes s n w (writeTriple paid wd (wA w) false
        (List.zipWith (fun x y => boolVal x &&& boolVal y) b (tripleElems c wd (wC w)))))) ∧
      (f = 2 → exec (.gadget n) s = .next (cellGoes s n w (writeTriple paid wd (wA w) false (b.map (arithVal (2 ^ wd)))))) ∧
      (f = 3 → exec (.gadget n) s = .next (cellGoes s n w (writeTriple paid wd (wA w) true (b.map boolVal)))) ∧
      (f = 4 → q ≠ 0 → exec (.gadget n) s = .next (cellGoes s n w (writeTriple paid wd (wA w) false
        (b.map (fun x => (arithVal q x * 2 ^ (d + 1) + q) / (2 * q) % 2 ^ d))))) ∧
      (f = 5 → exec (.gadget n) s = .next (cellGoes s n w (writeTriple paid wd (wA w) false
        (b.map (fun x => highBits (if d = 0 then 95232 else 261888) (arithVal 8380417 x)))))) ∧
      (f = 6 → q ≠ 0 → exec (.gadget n) s = .next (cellGoes s n w { paid with
        vz := b.all (fun x => decide (centredAbs q (arithVal q x) < c.vbound.toNat)) })) ∧
      (f = 7 → exec (.gadget n) s = .next (cellGoes s n w { paid with
        vz := (List.zipWith (fun x y => boolVal x == boolVal y) b (tripleElems c wd (wC w))).all id }))) ∧
    (wOp w = 0x1F → reg (wA w) = true → wB w ≤ 4 → wC w = 0 → wImm w / 8 = 0 → (custPc c = false ∨ c.customOut = true) →
      (bit (wImm w) 2 = true → q ≠ 0) → exec (.unmask n) s = .next (cellGoes s n w (setV c (wA w)
        (ofElems wd (if bit (wImm w) 2 then b.map (arithVal q) else b.map boolVal)) 0))) ∧
    (q = 0 →
      (wOp w = 0x1E → gadgetForm w = true → gadgetMask f ≤ c.maskLevel →
        (f = 4 → exec (.gadget n) s = .next (cellGoes s n w (writeTriple (drew paid b.length) wd (wA w) false
          ((List.range b.length).map (freeElem paid wd))))) ∧
        (f = 6 → exec (.gadget n) s = .next (cellGoes s n w { drew paid 1 with vz := (freeBits paid 0).getLsbD 0 }))) ∧
      (wOp w = 0x1F → reg (wA w) = true → wB w ≤ 4 → wC w = 0 → wImm w / 8 = 0 → (custPc c = false ∨ c.customOut = true) →
        bit (wImm w) 2 = true → exec (.unmask n) s = .next (cellGoes s n w
          (drew (setV c (wA w) (ofElems wd ((List.range b.length).map (freeElem c wd))) 0) b.length))))

/-- O8: A running cell at an unmasked polynomial word of a legal form, whose operands lie aligned in scratch and whose line tags
join, completes it: the coefficients at X[A] become the transform, product, multiply-accumulate, sum or difference modulo the
selected q of those at X[B] and X[C]. A masked word whose shares lie in banks 0 to 2 and whose public operand lies in bank 3
computes each share so and adds its lane sums to the projections that the next share check tests; PADD and PSUB join the
public operand to share 0 (the choice of the model, assumption 20). (R199, R225, R226) -/
def Obligations.PolynomialWords : Prop :=
  ∀ (s : State) (n : Nat) (w : MicroWord), wordAt s n w = true → reg (wA w) = true → reg (wB w) = true →
    let c := getCell s n
    let q := polyQ c w
    let k := polyN w
    let pa := (getX c (wA w)).toNat
    let pb := (getX c (wB w)).toNat
    let pd := (getX c (wC w)).toNat
    let fits := fun (p : Nat) => p % 4 = 0 ∧ p + 4 * k ≤ 0x10000
    let isPub := fun (p : Nat) => polyTag c p k = some 0
    let mul := bit (wImm w) 5
    let three := polyShares w c
    let sharesFit := inBank 0 pa k = true ∧ inBank 0 pb k = true ∧ ∀ i, i < 3 →
      ∃ t, polyTag c (pb + i * 0x4000) k = some t ∧ polyStoreOk c (pa + i * 0x4000) k t = true
    tagX c (wA w) = 0 → tagX c (wB w) = 0 → fits pa → fits pb →
    (wC w = 0 → polyForm c w true false = true →
      (bit (wImm w) 4 = false → ∀ t, polyTag c pb k = some t → polyStoreOk c pa k t = true →
        (wOp w = 0x20 → exec (.ntt n) s = .next (cellGoes s n w (writePoly t c pa (nttFwd q (readPoly c pb k))))) ∧
        (wOp w = 0x21 → exec (.intt n) s = .next (cellGoes s n w (writePoly t c pa (nttInv q (readPoly c pb k)))))) ∧
      (bit (wImm w) 4 = true → sharesFit →
        (wOp w = 0x20 → exec (.ntt n) s = .next (cellGoes s n w (three (fun i => nttFwd q (readPoly c (pb + i * 0x4000) k))))) ∧
        (wOp w = 0x21 → exec (.intt n) s = .next (cellGoes s n w (three (fun i => nttInv q (readPoly c (pb + i * 0x4000) k))))))) ∧
    (reg (wC w) = true → tagX c (wC w) = 0 → fits pd →
      (bit (wImm w) 4 = false → ∀ tb td t, polyTag c pb k = some tb → polyTag c pd k = some td → joinTag tb td = some t →
        (polyStoreOk c pa k t = true →
        (wOp w = 0x22 → polyForm c w false true = true → exec (.pmul n) s = .next (cellGoes s n w
          (writePoly t c pa (polyMul q mul (readPoly c pb k) (readPoly c pd k))))) ∧
        (wOp w = 0x24 → polyForm c w false false = true → exec (.padd n) s = .next (cellGoes s n w
          (writePoly t c pa (polyAdd q (readPoly c pb k) (readPoly c pd k))))) ∧
        (wOp w = 0x25 → polyForm c w false false = true → exec (.psub n) s = .next (cellGoes s n w
          (writePoly t c pa (polySub q (readPoly c pb k) (readPoly c pd k)))))) ∧
        (∀ ta u, polyTag c pa k = some ta → joinTag t ta = some u → polyStoreOk c pa k u = true → wOp w = 0x23 →
          polyForm c w false true = true → exec (.pmac n) s = .next (cellGoes s n w
            (writePoly u c pa (polyAdd q (readPoly c pa k) (polyMul q mul (readPoly c pb k) (readPoly c pd k))))))) ∧
      (bit (wImm w) 4 = true → sharesFit → inBank 3 pd k = true → isPub pd →
        (wOp w = 0x22 → polyForm c w false true = true → exec (.pmul n) s = .next (cellGoes s n w
          (three (fun i => polyMul q mul (readPoly c (pb + i * 0x4000) k) (readPoly c pd k))))) ∧
        (wOp w = 0x23 → polyForm c w false true = true → exec (.pmac n) s = .next (cellGoes s n w
          (three (fun i => polyAdd q (readPoly c (pa + i * 0x4000) k)
            (polyMul q mul (readPoly c (pb + i * 0x4000) k) (readPoly c pd k)))))) ∧
        (wOp w = 0x24 → polyForm c w false false = true → exec (.padd n) s = .next (cellGoes s n w
          (three (fun i => if i = 0 then polyAdd q (readPoly c pb k) (readPoly c pd k)
            else (readPoly c (pb + i * 0x4000) k).map (· % q))))) ∧
        (wOp w = 0x25 → polyForm c w false false = true → exec (.psub n) s = .next (cellGoes s n w
          (three (fun i => if i = 0 then polySub q (readPoly c pb k) (readPoly c pd k)
            else (readPoly c (pb + i * 0x4000) k).map (· % q)))))))

/-- O9: DEVICE_QUERY, SLICE_QUERY, KEY_QUERY, STATEFUL_QUERY, TIME_QUERY, EVENT_QUERY, LANE_QUERY, CARD_QUERY, CEREMONY_QUERY,
MICRO_QUERY, FAULT_QUERY, ALMANAC_QUERY and LOG_READ, ready on a management core and with an object to report, complete OK
with the record of their row; the only other effect is the count of free values that BUILD and the ALG bytes of LANE_QUERY
take (the choice of the model). (R122, R150, R191, R244, R349, R367, R373, R391, R422, R478) -/
def Obligations.QueriesAnswerAndChangeNothing : Prop :=
  ∀ (s : State) (job : Nat) (io : JobIo) (j : Job),
    let p := j.desc.pb 40
    let ans := fun (t : State) (out : List Byte) (r : Nat) => Host.Outcome.next (answer t j io (JobRes.done out r))
    (mgmtAt s job 0x0100 j = true → ∃ out : List Byte, exec (.deviceQuery job io) s = ans s out 0 ∧
      out.take 12 = leBytes 4 (regChipMode s) ++ leBytes 4 (regChipCond s) ++ leBytes 4 (regChipLink s)) ∧
    (mgmtAt s job 0x0101 j = true → ∃ out : List Byte, exec (.sliceQuery job io) s = ans s out 0 ∧
      ((getSlice s p).state ≠ .absent → ∃ rest, out = (getSlice s p).cfg.bytes ++ leBytes 1 (getSlice s p).state.code ++ rest)) ∧
    (mgmtAt s job 0x0201 j = true → (∀ i g, j.key0.src = .slot i g → j.key0.kind = 0 → slotHeaderOk s i = true) →
      exec (.keyQuery job io) s = ans s (keyRecord s j.key0) 0) ∧
    (mgmtAt s job 0x0404 j = true → ∀ i g rid l, j.key0.src = .slot i g → leafFor s i g = some (rid, l) →
      ∃ out : List Byte, exec (.statefulQuery job io) s = ans (drew' s 1) out 0 ∧
        ∃ mid, out = leBytes 8 j.key0.handle.toNat ++ leBytes 2 l.alg ++ leBytes 1 l.levels ++ mid ++ leBytes 8 l.total ++
          leBytes 8 (getTree s rid).next ++ leBytes 8 l.highWater ++ leBytes 8 (getTree s rid).burned) ∧
    (mgmtAt s job 0x0701 j = true → exec (.timeQuery job io) s = ans s (timeRecord s) 0) ∧
    (mgmtAt s job 0x0712 j = true → ∀ v, findEvent s j.slice (j.desc.pn 40 4) = some v →
      exec (.eventQuery job io) s = ans s (eventRecord s v) 0) ∧
    (mgmtAt s job 0x0804 j = true → ∃ out : List Byte, exec (.laneQuery job io) s = ans (drew' s 14) out 0 ∧
      ∃ rest, out = leBytes 4 (regKlStat s p) ++ leBytes 4 (regKlGen s p) ++ leBytes 4 (regKlNonce s p) ++
        leBytes 4 (regKlNak s p) ++ rest) ∧
    (mgmtAt s job 0x0900 j = true → otherCeremonyJob s j = false → ∃ rest : List Byte,
      exec (.cardQuery job io) s = ans s (padTo 64 (leBytes 4 (regCardSlot s p) ++ leBytes 4 (regCardLife s p) ++ rest)) 0) ∧
    (mgmtAt s job 0x0904 j = true → otherCeremonyJob s j = false →
      (s.cer = none → exec (.ceremonyQuery job io) s = ans s (padTo 32 []) 0) ∧
      (∀ c, s.cer = some c → ∃ rest : List Byte, exec (.ceremonyQuery job io) s = ans s (padTo 32 (leBytes 1 c.kind ++ rest)) 0)) ∧
    (mgmtAt s job 0x0A02 j = true → exec (.microQuery job io) s = ans s (microRecord (mapGet none s.micro p)) 0) ∧
    (mgmtAt s job 0x0B21 j = true → ∀ k, unitBit (j.desc.pn 44 2) = some k → ∃ rest : List Byte,
      exec (.faultQuery job io) s = ans s (leBytes 1 (getUnit s k).state.code ++ rest) 0) ∧
    (mgmtAt s job 0x0B50 j = true → ∃ rest : List Byte, exec (.almanacQuery job io) s =
      ans s (padTo 64 (leBytes 2 (sparesUsed s) ++ leBytes 2 (1024 - sparesUsed s) ++ leBytes 4 s.alm.lost ++ rest)) 0) ∧
    (mgmtAt s job 0x0B51 j = true →
      let l := ((goodLog s).filter (fun e => decide (j.desc.pn 40 8 ≤ e.seq))).take (j.desc.pn 48 4)
      exec (.logRead job io) s = ans s ((l.map LogEnt.bytes).flatten) l.length)

/-- O10: Ready on a management core and in a state their row admits: SLICE_CREATE and SLICE_CONFIGURE commit the block of their
input, SLICE_ACTIVATE and SLICE_QUIESCE the next state of the slice, SLICE_RESET begins a reset (and records the state that
the reset gives a QUIESCING slice) and SLICE_REMOVE a removal with its intent, PASID_BIND and PASID_UNBIND change one index; a
slice in another state gives E_MODE. A record of S00 in BLANK and SEALED takes effect without a commit. (R115, R116, R117,
R118, R119, R121, R138, R139) -/
def Obligations.SliceCommandsComplete : Prop :=
  ∀ (s : State) (job : Nat) (io : JobIo) (j : Job),
    let n := j.desc.pb 40
    let x := getSlice s n
    let take := fun (r : SliceRec) => if uncommitted s n then answerOk (applySliceRec s n r) j io
      else stageCommit s j (JobRes.done [] 0) [.slice n r]
    (mgmtAt s job 0x0102 j = true → x.state = .absent → s.chip.lc ≠ .blank → s.chip.lc ≠ .sealed → ∀ b, inputIs j io b = true →
      cfgOk b = true → quotaOk s n (SliceCfg.ofBytes b) = true →
      exec (.sliceCreate job io) s = .next (withRead s j (take { state := .configured, cfg := SliceCfg.ofBytes b, removal := false }))) ∧
    (mgmtAt s job 0x0103 j = true → x.state ≠ .absent → ∀ b, inputIs j io b = true → cfgOk b = true →
      (x.state = .configured ∨ n = 0 ∨ (SliceCfg.ofBytes b).fixed = x.cfg.fixed) → quotaOk s n (SliceCfg.ofBytes b) = true →
      exec (.sliceConfigure job io) s = .next (withRead s j (take { state := recState x, cfg := SliceCfg.ofBytes b, removal := false }))) ∧
    (mgmtAt s job 0x0104 j = true →
      (x.state = .configured → exec (.sliceActivate job io) s = .next (take { state := .active, cfg := x.cfg, removal := false })) ∧
      (x.state ≠ .configured → exec (.sliceActivate job io) s = .next (refuse s j io eMode))) ∧
    (mgmtAt s job 0x0105 j = true →
      (x.state = .active → exec (.sliceQuiesce job io) s = .next (take { state := .quiescing, cfg := x.cfg, removal := false })) ∧
      (x.state ≠ .active → exec (.sliceQuiesce job io) s = .next (refuse s j io eMode))) ∧
    (mgmtAt s job 0x0106 j = true → j.parked = false → isResetJob s j = false → x.state ≠ .absent → x.state ≠ .resetting →
      (n ≠ 0 ∨ s.chip.mode ≠ .ceremony) → exec (.sliceReset job io) s = .next (let t := beginReset (park s j) n (some j.id) false
        if x.state = .quiescing then saveSlice t n else t)) ∧
    (mgmtAt s job 0x0107 j = true → j.parked = false → isResetJob s j = false → x.state ≠ .absent → x.state ≠ .resetting →
      exec (.sliceRemove job io) s = .next (askWrite (beginReset (park s j) n (some j.id) true) j (2 + j.lc)
        (.slice n { state := recState x, cfg := x.cfg, removal := true }))) ∧
    (mgmtAt s job 0x0108 j = true → pasidTarget x = true → pasidTaken s n (BitVec.ofNat 20 (j.desc.pn 44 4)) = false →
      exec (.pasidBind job io) s = .next (answerOk (modSlice s n (fun y => { y with
        pasids := mapSet .unbound y.pasids (j.desc.pb 41) (.pasid (BitVec.ofNat 20 (j.desc.pn 44 4))) })) j io)) ∧
    (mgmtAt s job 0x0109 j = true → pasidTarget x = true → pasidUsed s n (j.desc.pb 41) = false →
      exec (.pasidUnbind job io) s = .next (answerOk (modSlice s n (fun y => { y with
        pasids := mapSet .unbound y.pasids (j.desc.pb 41) .unbound })) j io))

/-- O11: Ready on a management core and admitted by their row: HDM_WINDOW_SET sets the window size, HDM_APERTURE_SET the aperture
of a slice, BIAS_SET flips pages (to device bias while CXL.cache is enabled), IDE_REQUIRED_SET sets its control,
OWNER_CERT_INSTALL the certificate of SPDM slot 1, DRAIN_BEGIN and DRAIN_CANCEL move between SERVICE and DRAIN, MAINT_ENTER
enters MAINTENANCE from a drained DRAIN in OWNED, and DEVICE_RESET completes and enters BOOT; a change of mode that a later
event has overtaken is not made (R76). (R51, R52, R53, R60, R89, R91, R95, R96, R98) -/
def Obligations.DeviceCommandsComplete : Prop :=
  ∀ (s : State) (job : Nat) (io : JobIo) (j : Job),
    let n := j.desc.pb 40
    let x := getSlice s n
    let a := j.desc.pn 44 4
    let z := j.desc.pn 48 4
    (mgmtAt s job 0x010A j = true → (s.hdm.committed = false ∨ a = s.hdm.size) →
      exec (.hdmWindowSet job io) s = .next (answerOk { s with hdm := { s.hdm with size := a } } j io)) ∧
    (mgmtAt s job 0x010B j = true → x.state ≠ .absent →
      (z = 0 ∨ (4 * (a + z) ≤ s.hdm.size ∧ ∀ e ∈ s.slices, e.1 ≠ n → 0 < e.2.apSize → rangesMeet a z e.2.apOff e.2.apSize = false)) →
      hbmUse s n - x.apSize * 1024 + z * 1024 ≤ x.cfg.hbmGib * 1024 →
      exec (.hdmApertureSet job io) s = .next (answerOk (setAperture s n a z) j io)) ∧
    (mgmtAt s job 0x010C j = true → a + z ≤ x.apSize * 512 →
      (j.desc.pb 41 = 0 → exec (.biasSet job io) s = .next (answerOk { s with hdm := { s.hdm with
        devBias := mapFilter (fun p _ => !(decide (x.apOff * 512 + a ≤ p) && decide (p < x.apOff * 512 + a + z))) s.hdm.devBias } } j io)) ∧
      (j.desc.pb 41 ≠ 0 → s.link.cacheEn = true → exec (.biasSet job io) s = .next (answerOk (((List.range z).map (fun k => x.apOff * 512 + a + k)).foldl
        (fun y p => emit { y with hdm := { y.hdm with devBias := mapSet false y.hdm.devBias p true } } (.ack 3 p)) s) j io))) ∧
    (mgmtAt s job 0x010D j = true → exec (.ideRequiredSet job io) s =
      .next (settle { s with link := { s.link with ideReq := j.desc.pb 41 == 1 } } j io (JobRes.done [] 0))) ∧
    (mgmtAt s job 0x010E j = true → ∀ b, inputIs j io b = true →
      exec (.ownerCertInstall job io) s = .next (withRead s j (answerOk { s with link := { s.link with cert1 := b } } j io))) ∧
    (mgmtAt s job 0x0110 j = true →
      (s.chip.mode = .service → ¬ overtaken s → exec (.drainBegin job io) s = .next (answerOk (setMode s .drain 7 0x0110 0) j io)) ∧
      (s.chip.mode ≠ .service → exec (.drainBegin job io) s = .next (refuse s j io eMode))) ∧
    (mgmtAt s job 0x0111 j = true →
      (s.chip.mode = .drain → ¬ overtaken s → exec (.drainCancel job io) s = .next (answerOk (setMode s .service 7 0x0111 0) j io)) ∧
      (s.chip.mode ≠ .drain → exec (.drainCancel job io) s = .next (refuse s j io eMode))) ∧
    (mgmtAt s job 0x0112 j = true → s.chip.mode = .drain → s.chip.lc = .owned → j.sawDrained = true → ¬ overtaken s →
      exec (.maintEnter job io) s = .next (answerOk (setMode s .maintenance 7 0x0112 0) j io)) ∧
    (mgmtAt s job 0x0113 j = true → (s.chip.mode = .maintenance ∨ (s.chip.mode = .drain ∧ j.sawDrained = true)) → ¬ overtaken s →
      exec (.deviceReset job io) s = .next (deviceReset (answerOk s j io)))

/-- O12: Ready on a management core or the chip KMAC unit: KEY_RETIRE commits the retirement of a LIVE or WITHDRAWN slot, DERIVE
and EPOCH_HANDLE fill a derived index once the chain resolves (a label that fails R154 ends DERIVE with E_PARAM and UNIT
0xFFFF), HANDLE_RELEASE ends the key and its descendants, and CACHE_CONTROL prefetches into the regions it names, pins, unpins
or evicts, with the regions that hold the key as RESULT. (R142, R152, R154, R156, R157, R160) -/
def Obligations.KeyManagementCommandsComplete : Prop :=
  ∀ (s : State) (job : Nat) (io : JobIo) (j : Job),
    let i := hIndex j.desc.keyHandle
    let h := j.desc.keyHandle
    let cur := leNat (j.saved.headD [])
    let e := if j.desc.pn 40 8 = 2 ^ 64 - 1 then cur - 1 else j.desc.pn 40 8
    (mgmtAt s job 0x0203 j = true → ((slotEnt s i).state = 1 ∨ (slotEnt s i).state = 3) →
      exec (.keyRetire job io) s = .next (stageCommit s j (JobRes.done [] 0) (retireOps s i))) ∧
    (mgmtAt s job 0x0204 j = true → ∀ l, inputIs j io l = true → labelOk j.desc.alg l = true → keysResolve s j = true →
      exec (.derive job io) s = .next (withRead s j (answer (keysHeld s j) j io { JobRes.done [] 0 with
        fills := [derivedFill j (j.desc.pn 44 4) j.desc.alg (j.desc.pn 42 2) l] }))) ∧
    (mgmtAt s job 0x0204 j = true → ∀ l, inputIs j io l = true → labelOk j.desc.alg l = false →
      exec (.derive job io) s = .next (withRead s j (endJob s j (Cpl.bare s eParam 0x02FF unitNone) 0 io.cplFault))) ∧
    (mgmtAt s job 0x0205 j = true → cur ≠ 0 → cur ≤ e + 2 → e ≤ cur → epochExists j.cfg e = true → keysResolve s j = true →
      exec (.epochHandle job io) s = .next (answer (keysHeld s j) j io { JobRes.done (leBytes 8 e) 0 with
        fills := [derivedFill j (j.desc.pn 48 4) 0x0C02
          (j.key0.policy - polEpoch - (if hasPol j.key0.policy polDerive then polDerive else 0)) (epochLabel e j.cfg.epochLength)] })) ∧
    (mgmtAt s job 0x0207 j = true → exec (.handleRelease job io) s = .next (answerOk (endKey s h) j io)) ∧
    (mgmtAt s job 0x0208 j = true →
      let res := fun (t : State) => Host.Outcome.next (answer t j io (JobRes.done [] (expandedMask t h)))
      (j.desc.pb 40 = 0 → keysResolve s j = true → exec (.cacheControl job io) s = res ((List.range 4).foldl (fun t r =>
        if regionOnline s r ∧ (j.desc.pb 41 = 0 ∨ (j.desc.pb 41).testBit r) then
          expand t j.slice r h j.alg ((keyValues s j).headD []) (expandedSize j.alg (j.key0.kind != 2)) else t) (keysHeld s j))) ∧
      (j.desc.pb 40 = 1 → exec (.cacheControl job io) s = res (pinEntries s h true)) ∧
      (j.desc.pb 40 = 2 → exec (.cacheControl job io) s = res (pinEntries s h false)) ∧
      (3 ≤ j.desc.pb 40 → keyInUse s h j.id = false →
        exec (.cacheControl job io) s = res (filterExpanded s (fun x => x.handle != h))) ∧
      (3 ≤ j.desc.pb 40 → keyInUse s h j.id = true →
        exec (.cacheControl job io) s = res { s with scrubs := s.scrubs ++ [{ handle := h, before := s.nextJob, expOnly := true }] }))

/-- O13: KEY_GENERATE, KEY_PUBLIC, PEER_LOAD, TRANSPORT_ESTABLISH, TRANSPORT_ACCEPT, KEY_EXPORT and KEY_IMPORT, on the unit their
family needs with input, keys and randomness at hand: the cell stages the result of the row, and the families of the BNE (a
request with the drawn scalar, the stored seed or the peer key) wait there. A peer key is answered by a management core. The
hybrid forms of KEY_GENERATE and KEY_PUBLIC ask the BNE for the classical half, KEY_IMPORT asks it to check a P-curve scalar.
A command that reads its slot record runs the checks of R325 on it, and one with input ends at its first fault (withRead).
(R148, R149, R151, R158, R161, R162, R163, R259, R270) -/
def Obligations.KeyEngineCommandsComplete : Prop :=
  ∀ (s : State) (job : Nat) (io : JobIo) (j : Job),
    let a := j.desc.alg
    let v := (keyValues s j).headD []
    let t := keysHeld s j
    (∀ r, jobDrbg s j = some r →
      (onCellAt s job 0x0200 j = true → bneFam j.alg = false → famOf a ≠ some .hybrid →
        exec (.keyGenerate job io) s = .next (keepGenerated (drawn s r (seedLen a)) j (newSeed a (drawnBytes s r (seedLen a))))) ∧
      (onCellAt s job 0x0200 j = true → bneFam j.alg = false → famOf a = some .hybrid → cellAndBne s j = true →
        exec (.keyGenerate job io) s = .next (
          let seed := newSeed a (drawnBytes s r (seedLen a))
          askWith (drawn s r (seedLen a)) j [seed] (jobReq j 1 (hybridScalar a seed).1 (hybridScalar a seed).2 [] []))) ∧
      (engineAt s job 0x0200 j = true → atBne s j = true → bneFam j.alg = true →
        exec (.keyGenerate job io) s = .next (
          let d := drawnBytes s r (seedLen a)
          if famOf a = some .rsa then askWith (drawn s r (seedLen a)) j [] (jobReq j 0x0A a [] [] d)
          else askWith (drawn s r (seedLen a)) j [newSeed a d] (jobReq j 1 a (newSeed a d) [] [])))) ∧
    (mgmtAt s job 0x0202 j = true → j.key0.kind = 2 → keysResolve s j = true →
      exec (.keyPublic job io) s = .next (answer t j io (JobRes.done v 0))) ∧
    (keysResolve s j = true → j.key0.kind ≠ 2 →
      (onCellAt s job 0x0202 j = true → bneFam j.alg = false → famOf j.alg ≠ some .hybrid →
        pubDigestOk t j.key0 (pubOfKey t j.key0 v) = true →
        exec (.keyPublic job io) s = .next (slotRead t j
          (stage t j { JobRes.done (pubOfKey t j.key0 v) 0 with guarantee := maskedFlag t j j.alg } false))) ∧
      (onCellAt s job 0x0202 j = true → bneFam j.alg = false → famOf j.alg = some .hybrid →
        exec (.keyPublic job io) s = .next (
          askWith t j [v] (jobReq j 1 (hybridScalar j.alg v).1 (hybridScalar j.alg v).2 [] []))) ∧
      (engineAt s job 0x0202 j = true → atBne s j = true → bneFam j.alg = true →
        (famOf j.alg ≠ some .rsa → exec (.keyPublic job io) s = .next (askWith t j [v] (jobReq j 1 j.alg v [] []))) ∧
        (famOf j.alg = some .rsa → pubDigestOk t j.key0 (pubOfKey t j.key0 v) = true →
          exec (.keyPublic job io) s = .next (slotRead t j
            (stage t j { JobRes.done (pubOfKey t j.key0 v) 0 with guarantee := maskedFlag t j j.alg } false))))) ∧
    (∀ b, inputIs j io b = true →
      (onCellAt s job 0x0206 j = true → bneFam j.alg = false → pubStatus a b = stOk →
        exec (.peerLoad job io) s = .next (withRead s j (keepPeer s j b))) ∧
      (engineAt s job 0x0206 j = true → atBne s j = true → bneFam j.alg = true →
        exec (.peerLoad job io) s = .next (withRead s j (askWith s j [b] (jobReq j 0x0C a [] b [])))) ∧
      (∀ r, jobDrbg s j = some r → onCellAt s job 0x0209 j = true → j.keys = [] → pubStatus 0x0103 b = stOk →
        exec (.transportEstablish job io) s = .next (
          let e := encaps 0x0103 b (drawnBytes s r 32)
          withRead s j (stage (drawn s r 32) j
            { JobRes.done e.1 0 with fills := [transportFill j (transportKey e.2 e.1)] } j.dual))) ∧
      (onCellAt s job 0x020A j = true → keysResolve s j = true →
        exec (.transportAccept job io) s = .next (withRead s j (stage t j { JobRes.done [] 0 with
          guarantee := maskedFlag s j 0x0103 + formHit t (formUse j true v), forms := formUse j true v,
          fills := [transportFill j (transportKey (decaps 0x0103 v b) b)] } false))) ∧
      (onCellAt s job 0x020C j = true → keysResolve s j = true → blobHeaderOk b = true →
        ∀ seed, kwpUnwrap (blobKey v (b.take 24)) (b.drop 24) = some seed → seed.length = seedLen (fieldLe b 6 2) →
        let ba := fieldLe b 6 2
        let pol := fieldLe b 8 2 &&& j.desc.pn 42 2
        importStatus j ba pol = stOk →
        (famOf ba ≠ some .nist → ba ≠ 0x0D02 →
          exec (.keyImport job io) s = .next (withRead s j (keepImported t j ba pol seed))) ∧
        (famOf ba = some .nist → exec (.keyImport job io) s = .next (withRead s j
          (askWith t j [seed, leBytes 2 ba, leBytes 2 pol] (jobReq j 0x0D ba [] seed [])))) ∧
        (ba = 0x0D02 → exec (.keyImport job io) s = .next (withRead s j
          (askWith t j [seed, leBytes 2 ba, leBytes 2 pol] (jobReq j 0x0D 0x0402 [] (seed.take 48) [])))))) ∧
    (∀ r, jobDrbg t j = some r → onCellAt s job 0x0209 j = true → j.keys ≠ [] → keysResolve s j = true →
      let e := encaps 0x0103 v (drawnBytes t r 32)
      exec (.transportEstablish job io) s = .next (stage (drawn t r 32) j { JobRes.done e.1 0 with
        guarantee := formHit t (formUse j false v), forms := formUse j false v,
        fills := [transportFill j (transportKey e.2 e.1)] } j.dual)) ∧
    (onCellAt s job 0x020B j = true → keysResolve s j = true →
      let hd := blobHeader j.key0.alg j.key0.policy (createdOf s j.key0) v.length
      exec (.keyExport job io) s = .next (slotRead s j (stage t j
        (JobRes.done (hd ++ kwpWrap (blobKey ((keyValues s j).getD 1 []) hd) v) 0) false)))

/-- O14: KEM_KEYGEN, KEM_ENCAPS, KEM_DECAPS, DH_AGREE, HYBRID_ENCAPS and HYBRID_DECAPS, on the unit they need with input, keys and
randomness at hand, stage the ciphertext and secret of the row (where SS_OUT puts them) or wait for the BNE with the request
of the row; in the dual case HYBRID_ENCAPS asks the BNEs of both blocks. (R26, R148, R165, R166, R168, R169, R270) -/
def Obligations.KemCommandsComplete : Prop :=
  ∀ (s : State) (job : Nat) (io : JobIo) (j : Job),
    let a := j.desc.alg
    let v := (keyValues s j).headD []
    let t := keysHeld s j
    (∀ r, jobDrbg s j = some r →
      (onCellAt s job 0x0300 j = true → bneFam j.alg = false → famOf a ≠ some .hybrid →
        exec (.kemKeygen job io) s = .next (keepKem (drawn s r (seedLen a)) j (newSeed a (drawnBytes s r (seedLen a))))) ∧
      (engineAt s job 0x0300 j = true → atBne s j = true → bneFam j.alg = true → famOf a ≠ some .rsa →
        exec (.kemKeygen job io) s = .next (
          let seed := newSeed a (drawnBytes s r (seedLen a))
          askWith (drawn s r (seedLen a)) j [seed] (jobReq j 1 a seed [] []))) ∧
      (∀ pk, inputIs j io pk = true → j.keys = [] → pubStatus a pk = stOk →
        (onCellAt s job 0x0301 j = true →
          exec (.kemEncaps job io) s = .next (
            let e := encaps j.alg pk (drawnBytes s r (encapsRnd j.alg))
            withRead s j (stage (drawn s r (encapsRnd j.alg)) j { secretResult j e.1 e.2 0 with forms := [] } j.dual))) ∧
        (engineAt s job 0x0304 j = true → twoBnes s j = true →
          let p := hybridParts j.alg
          exec (.hybridEncaps job io) s = .next (
            let d := drawnBytes s r (32 + seedLen p.2)
            let e := encaps p.1 (pk.take (pubLen p.1)) (d.take 32)
            let q := jobReq j 3 p.2 [] (pk.drop (pubLen p.1)) (d.drop 32)
            withRead s j (askTwin (askWith (drawn s r (32 + seedLen p.2)) j [e.1, e.2, leBytes 1 0] q) j q))))) ∧
    (∀ r, jobDrbg t j = some r → j.keys ≠ [] → keysResolve s j = true →
      let fs := formUse j false v
      (onCellAt s job 0x0301 j = true →
        exec (.kemEncaps job io) s = .next (
          let e := encaps j.alg v (drawnBytes t r (encapsRnd j.alg))
          stage (drawn t r (encapsRnd j.alg)) j { secretResult j e.1 e.2 (formHit t fs) with forms := fs } j.dual)) ∧
      (engineAt s job 0x0304 j = true → twoBnes s j = true →
        let p := hybridParts j.alg
        exec (.hybridEncaps job io) s = .next (
          let d := drawnBytes t r (32 + seedLen p.2)
          let e := encaps p.1 (v.take (pubLen p.1)) (d.take 32)
          let q := jobReq j 3 p.2 [] (v.drop (pubLen p.1)) (d.drop 32)
          askTwin (askWith (drawn t r (32 + seedLen p.2)) j [e.1, e.2, leBytes 1 (formHit t fs)] q) j q))) ∧
    (∀ b, inputIs j io b = true → keysResolve s j = true →
      (onCellAt s job 0x0302 j = true →
        exec (.kemDecaps job io) s = .next (withRead s j (stage t j { secretResult j [] (decaps j.alg v b)
          (maskedFlag s j j.alg + formHit t (formUse j true v)) with forms := formUse j true v } false))) ∧
      (engineAt s job 0x0303 j = true → atBne s j = true →
        exec (.dhAgree job io) s = .next (withRead s j (askWith t j [] (jobReq j 2 j.alg v b [])))) ∧
      (engineAt s job 0x0305 j = true → cellAndBne s j = true →
        let p := hybridParts j.alg
        let n := seedLen p.2
        exec (.hybridDecaps job io) s = .next (withRead s j (
          askWith t j [decaps p.1 (v.drop n) (b.take (ctLen p.1)), b.take (ctLen p.1), b.drop (ctLen p.1)]
            (jobReq j 2 p.2 (v.take n) (b.drop (ctLen p.1)) [])))))

/-- O15: SIG_KEYGEN, SIGN, VERIFY, STATEFUL_CREATE and TREE_BUILD_DONE, with input, keys and randomness at hand: the cell stages
the signature (a stateful one uses the next leaf, which counts as handed out), the verdict as RESULT and DETAIL, or the new
key; the families of the BNE pass their request on (RSA signing with the cached private form, or after a rebuild); a finished
tree part is noted and charged to its slice. (R171, R174, R180, R181, R183, R185, R186, R187) -/
def Obligations.SignatureCommandsComplete : Prop :=
  ∀ (s : State) (job : Nat) (io : JobIo) (j : Job),
    let a := j.desc.alg
    let v := (keyValues s j).headD []
    let t := keysHeld s j
    (∀ r, jobDrbg s j = some r →
      (onCellAt s job 0x0400 j = true → bneFam j.alg = false → famOf a ≠ some .hybrid →
        exec (.sigKeygen job io) s = .next (keepKem (drawn s r (seedLen a)) j (newSeed a (drawnBytes s r (seedLen a))))) ∧
      (engineAt s job 0x0400 j = true → atBne s j = true → bneFam j.alg = true → famOf a ≠ some .rsa →
        exec (.sigKeygen job io) s = .next (
          let seed := newSeed a (drawnBytes s r (seedLen a))
          askWith (drawn s r (seedLen a)) j [seed] (jobReq j 1 a seed [] []))) ∧
      (onCellAt s job 0x0403 j = true →
        let lv := j.desc.pb 48
        let lo := j.desc.pb 49
        let seed := drawnBytes s r (seedLen a)
        exec (.statefulCreate job io) s = .next (stage (drawn s r (seedLen a)) j (slotResult (drawn s r (seedLen a)) j a
          (j.desc.pn 42 2) 2 seed (publicOf a lv lo seed) [] (some (lv, lo, 2 ^ totalHeight a lv lo))) false))) ∧
    (∀ m, inputIs j io m = true → keysResolve s j = true →
      (∀ r, jobDrbg t j = some r →
        let d := drawnBytes t r (signRnd j.alg j.desc)
        let u := drawn t r (signRnd j.alg j.desc)
        let ctx := m.take j.desc.sCtx
        let msg := m.drop j.desc.sCtx
        let fs := formUse j true v
        (onCellAt s job 0x0401 j = true → bneFam j.alg = false → famIn j.alg [.lms, .xmss] = false →
          exec (.sign job io) s = .next (withRead s j (stage u j { JobRes.done (signature j.alg 0 0 j.desc.sMode j.desc.sHash 0 v
              ctx msg (signNonce j.alg j.desc v d) 0) 0 with
            guarantee := maskedFlag s j j.alg + formHit u fs, forms := fs, spoilt := readsDiffer j io } true))) ∧
        (engineAt s job 0x0401 j = true → atBne s j = true → bneFam j.alg = true →
          (famOf j.alg = some .rsa → expandedIn u j.region j.key0.handle = false →
            exec (.sign job io) s = .next (withRead s j (
              askWith u j [v, ctx, msg, d] (jobReq j 0x0B j.alg v [] [])))) ∧
          (famOf j.alg ≠ some .rsa → exec (.sign job io) s = .next (withRead s j (askWith u j [leBytes 1 (formHit u fs), v]
            { sigReq j (bneSignFunc j.alg) v [] ctx msg [] d with spoilt := readsDiffer j io }))) ∧
          (famOf j.alg = some .rsa → expandedIn u j.region j.key0.handle = true →
            exec (.sign job io) s = .next (withRead s j (askWith u j [leBytes 1 (formHit u fs), v]
              { sigReq j (bneSignFunc j.alg) (rsaForm u j.region j.key0 v) [] ctx msg [] d with
                spoilt := readsDiffer j io }))))) ∧
      (∀ i g rid l, onCellAt s job 0x0401 j = true → bneFam j.alg = false → famIn j.alg [.lms, .xmss] = true →
        j.key0.src = .slot i g → leafFor s i g = some (rid, l) → (getTree s rid).topReady = true → (getTree s rid).next < l.total →
        lowerOk s rid l = true → (getTree s rid).startCommit = false → (getTree s rid).next < l.highWater →
        exec (.sign job io) s = .next (withRead s j (stage (takeLeaf t rid l) { j with leaf := some (getTree s rid).next }
          (JobRes.done (signature j.alg l.levels l.lower j.desc.sMode 0 0 v [] m [] (getTree s rid).next)
            ((getTree s rid).next % 2 ^ 32)) true))) ∧
      (onCellAt s job 0x0402 j = true → bneFam j.alg = false → j.keys ≠ [] →
        pubDigestOk t j.key0 (pubOfKey t j.key0 v) = true →
        let x := verifyParts j m
        let fs := formUse j (j.key0.kind != 2) v
        let vd := verdict j.alg j.desc.sMode j.desc.sHash j.desc.sSalt (pubOfKey t j.key0 v) x.2.2.1 x.2.2.2 x.2.1
        vd.1 = stOk → exec (.verify job io) s = .next (withRead s j (stage t j { JobRes.done [] (if vd.2 = 0 then 1 else 0) with
          detail := vd.2, guarantee := formHit t fs, forms := fs } false))) ∧
      (engineAt s job 0x0402 j = true → atBne s j = true → bneFam j.alg = true → j.keys ≠ [] →
        pubDigestOk t j.key0 (pubOfKey t j.key0 v) = true →
        let x := verifyParts j m
        exec (.verify job io) s = .next (withRead s j (
          askWith t j [] (sigReq j (bneVerifyFunc j.alg) [] (pubOfKey t j.key0 v) x.2.2.1 x.2.2.2 x.2.1 []))))) ∧
    (∀ m, inputIs j io m = true → j.keys = [] →
      let x := verifyParts j m
      let vd := verdict j.alg j.desc.sMode j.desc.sHash j.desc.sSalt x.1 x.2.2.1 x.2.2.2 x.2.1
      (onCellAt s job 0x0402 j = true → bneFam j.alg = false → pubStatus j.alg x.1 = stOk → vd.1 = stOk →
        exec (.verify job io) s = .next (withRead s j
          (stage s j { JobRes.done [] (if vd.2 = 0 then 1 else 0) with detail := vd.2 } false))) ∧
      (engineAt s job 0x0402 j = true → atBne s j = true → bneFam j.alg = true →
        exec (.verify job io) s = .next (withRead s j
          (askWith s j [x.1, x.2.1, x.2.2.1, x.2.2.2] (jobReq j 0x0C j.alg [] x.1 []))))) ∧
    (∀ rid l, leafOf s rid = some l → serving s = true → noRegion s = false →
      let u := fun (part : Nat) => chargeSlice s l.slice (getSlice s l.slice).cfg.weight (buildCycles l part)
      ((getTree s rid).topReady = false →
        exec (.treeBuildDone rid 0) s = .next (modTree (u 0) rid (fun y => { y with topReady := true, percent := 100 }))) ∧
      ((getTree s rid).topReady = true → l.single = false → (getTree s rid).lowerReady = false →
        exec (.treeBuildDone rid 1) s = .next (modTree (u 1) rid (fun y => { y with lowerReady := true }))) ∧
      ((getTree s rid).lowerReady = true → l.single = false → (getTree s rid).nextReady = false →
        2 ^ l.bottom ≤ 2 * ((getTree s rid).next % 2 ^ l.bottom) →
        exec (.treeBuildDone rid 2) s = .next (modTree (u 2) rid (fun y => { y with nextReady := true }))))

/-- O16: With a context on the digest engine that waits for its input, and its input and keys at hand, DIGEST, MAC_GENERATE,
MAC_VERIFY or KDF loads the blocks of its message, with the keyed state of the cache where it holds one, and the digest, tag,
match bit or key of its row as the result that stands when the last block has ended; GET_RANDOM answers LENGTH fresh bytes
(free values of the model) from the expander that serves, after a reseed when PR asks for one; RNG_TEST answers what its test
found (a conditioner that fails gives a free block). (R170, R192, R193, R194, R195, R196, R197, R304, R308) -/
def Obligations.DigestAndRandomCommandsComplete : Prop :=
  ∀ (s : State) (job : Nat) (io : JobIo) (j : Job),
    let d := j.desc
    let v := (keyValues s j).headD []
    let t := keysHeld s j
    (∀ m, inputIs j io m = true →
      (engineAt s job 0x0500 j = true → deHolds s j = true →
        let p := m.take (d.pb 46)
        let q := (m.drop (d.pb 46)).take (d.pb 47)
        let r := m.drop (d.pb 46 + d.pb 47)
        exec (.digest job io) s = .next (withRead s j (deResult s j [digestPlan (d.pb 40) (d.pn 42 4) p q r] none
          (JobRes.done (digestOf (d.pb 40) (d.pn 42 4) p q r) 0)))) ∧
      (keysResolve s j = true → deHolds s j = true →
        let c := m.take (d.pb 47)
        let r := m.drop (d.pb 47)
        let n := d.pn 42 2
        (engineAt s job 0x0501 j = true →
          exec (.macGenerate job io) s = .next (withRead s j (deKeyed t j (d.pb 40) c (macPlan (d.pb 40) v c r n)
            (JobRes.done (macOf (d.pb 40) n v c r) 0)))) ∧
        (engineAt s job 0x0502 j = true →
          exec (.macVerify job io) s = .next (withRead s j (deKeyed t j (d.pb 40) c (macPlan (d.pb 40) v c (r.drop n) n)
            (JobRes.done [] (b2n (macOf (d.pb 40) n v c (r.drop n) == r.take n)))))) ∧
        (engineAt s job 0x0503 j = true →
          let p := m.take (d.pb 56)
          let q := m.drop (d.pb 56)
          let load := fun (k : Nat) (x : JobRes) => withRead s j (
            if d.pb 40 = 0 then deKeyed t j 0x19 p (kmacPlan 136 v p q k) x
            else deResult t j (hkdfPlans (d.pb 41) v p q k) none x)
          (d.pb 50 ≠ 0 → exec (.kdf job io) s = .next (load (d.pn 52 4) (JobRes.done (kdfOf d (d.pn 52 4) v m) 0))) ∧
          (d.pb 50 = 0 → ∀ k ks, j.keys = k :: ks →
            exec (.kdf job io) s = .next (load 32 { JobRes.done [] 0 with
              fills := [ephFill (d.pn 44 4) (d.pn 48 2) (d.pn 42 2) (kdfOf d 32 v m) (rootedParent k)] }))))) ∧
    (mgmtAt s job 0x0600 j = true → ∀ r, servingDrbg s 0 = some r →
      let n := d.pn 44 4
      let give := fun (x : State) => Host.Outcome.next (answer (drew' x n) j io (JobRes.done (drawBytes x n) 0))
      (d.pb 40 % 2 = 0 → exec (.getRandom job io) s = give (callDrbg s r ((n + 4095) / 4096))) ∧
      (d.pb 40 % 2 = 1 → hasBlock s (rngOf s r).seedSrc = true →
        exec (.getRandom job io) s = give (callDrbg (reseeded (useBlock s (rngOf s r).seedSrc) r) r ((n + 4095) / 4096)))) ∧
    (mgmtAt s job 0x0B40 j = true →
      (d.pb 41 = 0 → exec (.rngTest job io) s =
        .next (answer (knownAnswer s (d.pb 40) io.tests).2 j io (JobRes.done
          (if io.tests.getD 0 true then katBlock else freeByteList 0 s.freeCtr 48) (knownAnswer s (d.pb 40) io.tests).1))) ∧
      (d.pb 41 ≠ 0 → exec (.rngTest job io) s =
        .next (answer (restartSource s (d.pb 40) io.tests).2 j io
          (JobRes.done (List.replicate 48 0) (restartSource s (d.pb 40) io.tests).1))))

/-- O17: SET_NEXT_SECOND waits for the next edge, and its time-out ends each declaration older than 2 s with E_TIME and RESULT 1;
TIME_CONFIG commits the settings; EVENT_SCHEDULE takes the lowest free index, at once or with the commit of a durable record;
EVENT_CANCEL ends an open event that is still 1 ms away. (R359, R366, R370, R371, R373) -/
def Obligations.TimeAndEventCommandsComplete : Prop :=
  ∀ (s : State) (job : Nat) (io : JobIo) (j : Job),
    (mgmtAt s job 0x0700 j = true → j.parked = false →
      exec (.setNextSecond job io) s = .next (putJob s { j with parked := true })) ∧
    (serving s = true → exec (.setNextSecondTimeout io) s = .next (forJobs
      (fun k => declWaits k && decide (k.waitFrom + 2000000000 ≤ s.uptime)) (fun t k => settle t k io (JobRes.status0 eTime 1)) s)) ∧
    (mgmtAt s job 0x0702 j = true → exec (.timeConfig job io) s = .next (stageCommit s j (JobRes.done [] 0)
      [.timeCfg (j.desc.pn 40 4) (sextNat 32 (j.desc.pn 44 4)) (bit (j.desc.pb 48) 0)])) ∧
    (mgmtAt s job 0x0710 j = true → ∀ b, inputIs j io b = true →
      let t := modJob s j.id (fun x => { x with reserved := none })
      let e := EvSpec.ofBytes b
      scheduleStatus t j.slice (leNat (j.saved.headD [])) b = (stOk, 0) → ∀ i, freeEvent t = some i →
      (e.durable = true → exec (.eventSchedule job io) s = .next (withRead s j (stageCommit t { j with reserved := some i }
        (JobRes.done [] (eventIdAt t i)) [.event i (some { id := eventIdAt t i, slice := j.slice, state := 0, spec := e })]))) ∧
      (e.durable = false → exec (.eventSchedule job io) s = .next (withRead s j (answer { t with eph := { t.eph with
        events := mapSet none t.eph.events i (some (EvRec.fresh (eventIdAt t i) j.slice e)) } } j io (JobRes.done [] (eventIdAt t i)))))) ∧
    (mgmtAt s job 0x0711 j = true → ∀ v, findEvent s j.slice (j.desc.pn 40 4) = some v → v.isOpen = true →
      (v.state = 5 ∨ leNat (j.saved.headD []) + 1000000 ≤ v.spec.instant) →
      (v.spec.durable = true → exec (.eventCancel job io) s = .next (stageCommit s j (JobRes.done [] 0)
        [.event (j.desc.pn 40 4 % 2 ^ 16) (some { id := v.id, slice := v.slice, state := 6, spec := v.spec })])) ∧
      (v.spec.durable = false → exec (.eventCancel job io) s =
        .next (answerOk (endEvent s (j.desc.pn 40 4 % 2 ^ 16) (fun x => { x with state := 6 })) j io)))

/-- O18: LANE_PAIR clears and wakes the port and commits its entry with the next seal generation, LANE_UNPAIR commits an empty
entry, LANE_BIND and LANE_UNBIND commit a binding, LANE_PREFILL seals responses of a live base key, and LANE_LOOPBACK reports
the frames that failed. (R388, R390, R391, R392) -/
def Obligations.LaneCommandsComplete : Prop :=
  ∀ (s : State) (job : Nat) (io : JobIo) (j : Job),
    let p := j.desc.pb 40
    (mgmtAt s job 0x0800 j = true → (slotSeed s (hIndex j.desc.keyHandle)).isSome = true →
      let i := hIndex j.desc.keyHandle
      let g := ((portNow s p).g + 1) % 2 ^ 32
      exec (.lanePair job io) s = .next (stageCommit (modPort (wakeOne false s (152 + p)) p (fun x => { disablePort x with
          cache := [], nakTimes := [], nakCrc := 0, nakCounter := 0, nakCredit := 0, rekey := true, epochFrame := none })) j
        (JobRes.done [] 0) [.port p { slot := i, slotGen := hGen j.desc.keyHandle, g, paired := true, quarantined := false }])) ∧
    (mgmtAt s job 0x0801 j = true → exec (.laneUnpair job io) s = .next (stageCommit
      (modPort s p (fun x => { disablePort x with cache := [], epochFrame := none })) j (JobRes.done [] 0)
      [.port p { PortEnt.none with g := (portNow s p).g }])) ∧
    (mgmtAt s job 0x0802 j = true → bindingOf s j.slice p = 0 →
      exec (.laneBind job io) s = .next (stageCommit s j (JobRes.done [] 0) [.binding j.slice p j.desc.keyHandle])) ∧
    (mgmtAt s job 0x0803 j = true → bindingOf s j.slice p ≠ 0 →
      exec (.laneUnbind job io) s = .next (stageCommit s j (JobRes.done [] 0) [.binding j.slice p 0])) ∧
    (mgmtAt s job 0x0805 j = true → ∀ b, laneBase s j.slice p = some b → (keyValue s b.src).isSome = true →
      exec (.lanePrefill job io) s = .next (answer (prefill s j.slice p (j.desc.pn 44 4) (j.desc.pn 48 4)).1 j io
        (JobRes.done [] (prefill s j.slice p (j.desc.pn 44 4) (j.desc.pn 48 4)).2))) ∧
    (mgmtAt s job 0x0806 j = true → exec (.laneLoopback job io) s = .next (answer s j io
      (JobRes.done [] (((io.tests.take (j.desc.pn 44 4)).filter (fun b => !b)).length))))

/-- O19: CEREMONY_BEGIN in a mode and life-cycle state of its kind enters CEREMONY (TAKE_OWNERSHIP after drawing the root),
CEREMONY_STEP begins the card part of a step with a card that may serve or concludes a cardless step, CEREMONY_ABORT ends the
ceremony and answers, and the time-out ends the running step with E_ABORTED and the ceremony as an abort. (R47, R48, R50, R79,
R312, R422, R423, R424, R425) -/
def Obligations.CeremonyCommandsComplete : Prop :=
  ∀ (s : State) (job : Nat) (io : JobIo) (j : Job),
    let kind := j.desc.pb 40
    (mgmtAt s job 0x0901 j = true → otherCeremonyJob s j = false → ¬ overtaken s → s.cer = none → kindLcOk kind s.chip.lc = true →
      kindModeOk kind s.chip.mode (byteAt (j.saved.headD []) 0 == 1) = true → ∀ b, inputIs j io b = true →
      (s.chip.mode = .umbra → tokenStatus s kind b = stOk) → limitsOk s kind (j.desc.pb 41) (j.desc.pb 42) (j.desc.pb 43) = true →
      (kind ≠ 1 → exec (.ceremonyBegin job io) s = .next (withRead s j (startCeremony s j io b))) ∧
      (kind = 1 → exec (.ceremonyBegin job io) s = .next (withRead s j (withFreshRoot s j io
        (fun t => startCeremony { t with tamper := { t.tamper with staged := some (survey io.tests) } } j io b))))) ∧
    (∀ c, mgmtAt s job 0x0902 j = true → j.parked = false → s.cer = some c → otherCeremonyJob s j = false →
      (exclusive s = false ∨ c.stepsDone ≠ 0 ∨ ∀ k ∈ s.jobs, c.firstJob ≤ k.id) →
      ((c.kind = 5 ∨ c.kind = 7) → c.m = 0 → kind = 0xFF →
        exec (.ceremonyStep job io) s = .next (concludeStep (modCer (putJob s { j with parked := true })
          (fun d => { d with stepJob := some j.id })) { c with stepJob := some j.id } false [] 0)) ∧
      (¬ ((c.kind = 5 ∨ c.kind = 7) ∧ c.m = 0) → kind ≠ 0xFF → (getCard s kind).state = 4 →
        refuseReason s c (getCard s kind) (nextIsWrite c) = 0 → (nextIsWrite c = false ∨ io.wp = false) →
        exec (.ceremonyStep job io) s = .next (beginCardStep (if cardHere (getCard s kind) then
            modCard s kind (fun x => { x with life := lifeState s x.mfgTime, wp := io.wp }) else s) j io c kind (nextIsWrite c)))) ∧
    (mgmtAt s job 0x0903 j = true → s.cer ≠ none → otherCeremonyJob s j = false → ¬ overtaken s →
      exec (.ceremonyAbort job io) s = .next (answerOk (abortCeremony s 0x0903) j io)) ∧
    (∀ c, s.cer = some c → alive s = true → s.chip.mode = .ceremony → c.waitFrom + c.timeout * 10 ^ 9 ≤ s.uptime → ¬ overtaken s →
      (∀ p, c.step = some p → p.pos < 31) →
      (∀ k, c.stepJob = some k → ∀ x, getJob s k = some x → x.isReleased = false) →
      let t := match c.stepJob with | some k => retractWrite (retractWrite s 1 k) 0 k | none => s
      (c.stepJob.bind (getJob t) = none → exec (.ceremonyTimeout io) s = .next (abortCeremony t 0)) ∧
      (∀ x, c.stepJob.bind (getJob t) = some x → exec (.ceremonyTimeout io) s = .next (abortCeremony
        (settle (modCer t (fun d => { d with stepJob := none, step := none })) x io (JobRes.status0 eAborted 0)) 0)))

/-- O20: MICRO_LOAD of an image that passes every check commits its record, MICRO_UNLOAD forgets the image and clears the windows
no job uses, a customer macro-op starts at its ENTRY with its run limit, WDOG_CONFIG and FAULT_CONFIG commit their settings,
FAULT_CLEAR clears a handler or returns a FAILED unit, FAULT_INJECT raises its source after its completion, POWER_FORCE
releases or forces a domain, LC_ADVANCE commits an intent, and FW_UPDATE writes a good newer image to the area that is not
running, or reports the store that failed. (R211, R241, R243, R245, R456, R460, R475, R478, R506) -/
def Obligations.ServiceCommandsComplete : Prop :=
  ∀ (s : State) (job : Nat) (io : JobIo) (j : Job),
    let n := j.desc.pb 40
    (mgmtAt s job 0x0A00 j = true → ∀ b, inputIs j io b = true → imgCheck s n b = none →
      exec (.microLoad job io) s = .next (withRead s j (stageCommit s j (JobRes.done [] 0) [.image n (imgSeq b) (sha384 b) b]))) ∧
    (mgmtAt s job 0x0A01 j = true →
      let t := { s with micro := mapErase s.micro n }
      exec (.microUnload job io) s = .next (answerOk { t with
        cells := mapAll Cell.reset (fun _ c => if staleWindow t j.id c then c.clearWindow else c) t.cells } j io)) ∧
    (∀ m, m < 64 → engineAt s job (0x0AC0 + m) j = true → j.onCell = true → (getCell s j.unit).job = some j.id →
      (getCell s j.unit).macroOp < 0xC0 → (getCell s j.unit).halted = false → cellServes s j.unit = true →
      exec (.customerMacroOp job io) s = .next (modCell s j.unit (fun x => { x with
        macroOp := 0xC0 + m, customOut := bit (imgEntry j.image m).keys 2 && j.keys.all (fun k => hasPol k.policy polCustom),
        jobLim := jobLimOf s j, jobSub := 0, pc := (imgEntry j.image m).entry, hold := false, stalled := false, wd := 0 }))) ∧
    (mgmtAt s job 0x0B10 j = true →
      exec (.wdogConfig job io) s = .next (stageCommit s j (JobRes.done [] (settings s).wdogExp) [.wdog n])) ∧
    (mgmtAt s job 0x0B20 j = true →
      (n = 0 → exec (.faultConfig job io) s = .next (stageCommit s j (JobRes.done [] 0)
        [.faultSev (j.desc.pb 41) (if j.desc.pb 42 = 0xFF then 0 else j.desc.pb 42 + 1)])) ∧
      (n = 1 → exec (.faultConfig job io) s = .next (stageCommit s j (JobRes.done [] 0) [.faultQuiet (j.desc.pn 44 4)])) ∧
      (2 ≤ n → exec (.faultConfig job io) s = .next (stageCommit s j (JobRes.done [] 0)
        [.faultLimit (j.desc.pb 41) (j.desc.pn 44 2)]))) ∧
    (mgmtAt s job 0x0B22 j = true →
      (n = 0 → exec (.faultClear job io) s = .next (answerOk (clearChecks (noteFirst s
        (modHandler s (handlerOf (j.desc.pn 44 2)) (fun h => { h with first := none, hist := [] }))) (handlerOf (j.desc.pn 44 2))) j io)) ∧
      (∀ k, n ≠ 0 → unitBit (j.desc.pn 44 2) = some k → (getUnit s k).state = .failed →
        exec (.faultClear job io) s = .next (stageCommit s j (JobRes.done [] 0) [.faultClear k (j.desc.pn 44 2)]))) ∧
    (mgmtAt s job 0x0B23 j = true →
      exec (.faultInject job io) s = .next (raiseFault (answerOk s j io) (j.desc.pb 41) (j.desc.pn 44 2) 0)) ∧
    (mgmtAt s job 0x0B30 j = true →
      let dom := j.desc.pn 44 2
      let st := j.desc.pb 41
      let u := modDom s dom (fun y => Dom.latched { y with forced := true, state := st, target := st, entry := none, waking := none } s dom st)
      (n = 1 → exec (.powerForce job io) s = .next (answerOk (modDom s dom (fun y => { y with forced := false })) j io)) ∧
      (n ≠ 1 → dom < 128 → st < (getDom s dom).state →
        exec (.powerForce job io) s = .next (answerOk (modCell u dom (cellExit (getDom s dom).state)) j io)) ∧
      (n ≠ 1 → (128 ≤ dom ∨ (getDom s dom).state ≤ st) → (domKind dom ≠ 2 ∨ st < 3) →
        exec (.powerForce job io) s = .next (answerOk u j io)) ∧
      (n ≠ 1 → 128 ≤ dom → domKind dom = 2 → 3 ≤ st → exec (.powerForce job io) s = .next (answerOk
        (modRng u (dom - 144) (fun r => { r with src := 0, drbg := 0, blocks := [] })) j io))) ∧
    (mgmtAt s job 0x0B60 j = true → intentOf s = none → lcAdvanceOk s.chip.lc.code n = true →
      (n ≠ 2 ∨ fusesIncomplete s = false) →
      exec (.lcAdvance job io) s = .next (stageCommit s j (JobRes.done [] 0) [.intent (newIntent s n [] 0)])) ∧
    (mgmtAt s job 0x0B61 j = true → (∀ k ∈ s.jobs, k.id < j.id → k.desc.opcode ≠ 0x0B61) → ∀ b, inputIs j io b = true →
      j.desc.inLen = 8192 + fieldLe b 12 4 → imageReason s s.chip.lc b = 0 → imageSeq (runningImage s) < imageSeq b →
      (io.storeOk = true →
        exec (.fwUpdate job io) s = .next (withRead s j (answer (storeImage s b) j io (JobRes.done [] (imageSeq b))))) ∧
      (io.storeOk = false → exec (.fwUpdate job io) s = .next (withRead s j (answer
        (storeImage s ((List.range b.length).map (fun i => freeAlm i s.alm.logSeq))) j io (JobRes.status0 eFirmware (8 * 2 ^ 12))))))

/-- O21: In a block whose BNE serves: BNE_REQUEST_START takes the request that is next, once the blinding buffer holds what it
needs, into half H0, or a long operation into H1, and asks the digest engine where it hashes; the row of its function computes
the result of R259 for the request that runs; BNE_REQUEST_DONE ends it with its input check and its check before release, and
BNE_SEGMENT_END pauses a long operation. (R259, R260, R261, R262, R270, R277) -/
def Obligations.BigNumberRequestsComplete : Prop :=
  ∀ (s : State) (b : Nat), b < 16 → serving s = true → bneServes s b = true →
    let e := (getBlock s b).bne
    let mem := fun (r : Option BneReq) (h : Option (List Byte)) =>
      wordsOf (match r with | some y => y.operands ++ h.getD [] ++ (bneCompute y).out | none => [])
    (∀ r, blockAwake s b = true → e.run = none → bneSlack e = true →
      bneNext (fun x => if e.long.isSome then !x.long && decide (x.lc ≤ 1) else true) e.queue = some r → blindNeed r ≤ e.blind →
      let q := { r with blind := drawBytes s (blindNeed r) }
      let u := modBne (drew' s (blindNeed r)) b (fun x => bneUnhold (if r.long then bneEnterLong x r q else bneEnter x r q s.uptime))
      ((r.hashes = false ∨ r.refused = true) → exec (.bneRequestStart b) s = .next u) ∧
      (r.hashes = true → r.refused = false →
        let h := if r.alg = 0x0503 then 3 else if r.alg = 0x0504 then 8 else r.hash
        exec (.bneRequestStart b) s = .next (modDe u b (fun d => { d with
          waiting := d.waiting ++ [{ job := r.job, bne := true, slice := r.slice, lc := r.lc, hash := h, priv := true, since := s.uptime }] })))) ∧
    (∀ r, blockAwake s b = true → e.run = some r → e.res = none → (r.hashes = false ∨ e.hashed.isSome = true ∨ r.refused = true) →
      e.till0 ≤ s.uptime →
      let t := Host.Outcome.next (modBne s b (fun x => { x with res := x.run.map bneCompute, h0Mem := mem x.run x.hashed }))
      (r.func = 1 → exec (.bnePublic b) s = t) ∧
      (r.func = 2 → exec (.agree b) s = t) ∧
      (r.func = 3 → exec (.ephemeralAgree b) s = t) ∧
      (r.func = 4 → exec (.ecdsaSign b) s = t) ∧
      (r.func = 5 → exec (.ecdsaVerify b) s = t) ∧
      (r.func = 6 → exec (.eddsaSign b) s = t) ∧
      (r.func = 7 → exec (.eddsaVerify b) s = t) ∧
      (r.func = 8 → exec (.rsaSign b) s = t) ∧
      (r.func = 9 → exec (.rsaVerify b) s = t) ∧
      (r.func = 10 → exec (.rsaKeygen b) s = t) ∧
      (r.func = 11 → exec (.rsaRebuild b) s = t) ∧
      (r.func = 12 → exec (.validate b) s = t) ∧
      (r.func = 13 → exec (.scalarCheck b) s = t)) ∧
    (∀ r, blockAwake s b = true → e.run = none → e.long = some r → e.longRes = none → e.paused = false →
      (r.hashes = false ∨ e.longHashed.isSome = true ∨ r.refused = true) → e.till1 ≤ s.uptime →
      let t := Host.Outcome.next (modBne s b (fun x => { x with longRes := x.long.map bneCompute, h1Mem := mem x.long x.longHashed }))
      (r.func = 8 → exec (.rsaSign b) s = t) ∧ (r.func = 10 → exec (.rsaKeygen b) s = t) ∧
      (r.func = 11 → exec (.rsaRebuild b) s = t)) ∧
    (∀ io r x,
      let pass := !r.inputBad && (!r.signs || (io.tests.getD 0 true && !r.spoilt))
      (e.run = some r → e.res = some x → exec (.bneRequestDone b io) s =
        .next (endRequest (leaveH0 s b r pass) b io r x (pass || x.status != stOk))) ∧
      (e.run = none → e.long = some r → e.longRes = some x → e.paused = false → exec (.bneRequestDone b io) s =
        .next (endRequest (leaveH1 s b) b io r x (pass || x.status != stOk)))) ∧
    (∀ r, e.run = none → e.long = some r → e.longRes = none → e.paused = false →
      (∀ j, getJob s r.job = some j → squashDue s j = false) →
      exec (.bneSegmentEnd b) s = .next (modBne s b (fun x => { x with paused := true, spent := 0 })))

/-- O22: In a block in service: DE_CONTEXT_GRANT gives the next waiting requester the context its class may take, DE_BLOCK_DONE
copies the results that stand ready, runs one block of the context, which after its last one leaves its result ready to be
copied or hands its hash to the BNE, publishes in DE_RESULT what is public, has no input ready while its next block of input
has not arrived, and chooses what runs next; DE_STARVATION_EXPIRE marks the starved context, which the next block boundary
prefers. (R281, R282, R283, R291, R292) -/
def Obligations.DigestEngineRowsComplete : Prop :=
  ∀ (s : State) (b : Nat), b < 16 → blockServes s b = true → blockAwake s b = true → ungated s = true →
    let d := (getBlock s b).de
    (∀ r n, serving s = true → deNext (d.waiting.filter (deWaits s b)) = some r → deFree d r.lc = some n →
      (r.bne = true → exec (.deContextGrant b) s = .next (deGrant s b n r)) ∧
      (∀ j, r.bne = false → getJob s r.job = some j → keysResolve s j = true →
        exec (.deContextGrant b) s = .next (putJob (deGrant (keysHeld s j) b n r) { j with
          pos := .running (0x90 + b), unit := 0x90 + b, vals := some (keyValues s j) }))) ∧
    (let t := modDe (deCopyAll s b) b (fun d => deArrive d s.uptime)
     let e := (getBlock t b).de
     (∀ more, e.running = none → exec (.deBlockDone b more) s = .next (modDe t b (fun d => deSwitch d 4 (deChoose d 4) t.uptime))) ∧
     (∀ n c j more, e.running = some n → deCtx e n = some c → getJob t c.req.job = some j → squashDue t j = false → c.plans ≠ [] →
      let s1 := modDe t b (fun d => { d with blocks := d.blocks + 1, hold64 := d.hold64 && decide (d.blocks + 1 < 64) })
      let goesOn := fun (u : State) => Host.Outcome.next (modDe u b (fun d => deSwitch d n (deChoose d n) t.uptime))
      let x := c.step.await more
      let ran := fun (f : De → De) => modDe (deKeep s1 b c) b (fun d => f { d with ctx := mapSet none d.ctx n (some x) })
      (c.req.bne = true → x.plans ≠ [] → exec (.deBlockDone b more) s = goesOn (ran id)) ∧
      (c.req.bne = true → x.plans = [] → exec (.deBlockDone b more) s = goesOn
        (modBne (modDe (ran id) b (fun d => { d with ctx := mapErase d.ctx n })) b (fun y =>
          if y.run.any (fun r => r.job == c.req.job && r.hashes) then { y with hashed := some c.value }
          else { y with longHashed := some c.value }))) ∧
      (∀ r, c.req.bne = false → j.res = some r →
        let u := ran (fun d => dePublish d n x j.desc.opcode r)
        (x.plans ≠ [] → exec (.deBlockDone b more) s = goesOn u) ∧
        (x.plans = [] → exec (.deBlockDone b more) s =
          goesOn (modDe u b (fun d => { d with ctx := mapSet none d.ctx n (some { x with done := true }) })))))) ∧
    (∀ n c, deBest d (fun n x => some n != d.running && decide (x.waitFrom + 655360 ≤ s.uptime)) = some n → deCtx d n = some c →
      exec (.deStarvationExpire b) s = .next (modDe s b (fun d => { d with ctx := mapSet none d.ctx n (some { c with starved := true }) })))

/-- O23: For a cell that is not halted while no supply warning gates the device: the oldest transfer ends, and so do the hash
operation, once it has drawn its mask units, and the share check, which finds SHARE where a sum is not 0; a wait whose
condition holds takes its successor; a word that held or stalled, or a gate that ran, for 2^EXP cycles is machine check 2; the
timer reaches 0; a customer job whose limit is used up is machine check 7; an aborted job ends with E_ABORTED at its abort
check; a used-up mask generator reseeds from an expander. (R139, R204, R209, R210, R216, R226, R227, R228, R232, R234) -/
def Obligations.CellEventsComplete : Prop :=
  ∀ (s : State) (n : Nat), n < 128 → ungated s = true →
    let c := getCell s n
    let w := mapGet 0 c.store c.pc
    (c.halted = false →
      (∀ op rest io, c.dma = op :: rest → (op.kind ≠ 0 ∨ op.stream ≠ 0) →
        exec (.dmaTransferDone n io) s = .next (transfer (modCell s n (fun x => { x with dma := rest })) n op [])) ∧
      (∀ op rest io j, c.dma = op :: rest → op.kind = 0 → op.stream = 0 → cellJob s n = some j →
        let upto := op.offset + op.len
        let i := jobInputTo j io upto
        i.status = stOk → exec (.dmaTransferDone n io) s = .next (withReadAt s j op.offset op.len
          (transfer (putJob (modCell s n (fun x => { x with dma := rest })) { j with got := max j.got upto }) n op i.bytes))) ∧
      (∀ sq a k, c.hash.busy = some (sq, a, k) →
        let h := c.hash
        (c.maskLevel < h.due → exec (.hashOpDone n) s = .next (modCell s n (fun _ => { c with
          hash := { h with due := h.due - c.maskLevel }, maskLevel := 0 }))) ∧
        (h.due ≤ c.maskLevel → sq = false →
          let shares := xorBytes (xorBytes (cread c a k) (cread c (a + 0x4000) k)) (cread c (a + 0x8000) k)
          let bs := if h.masked ∧ (linesOf a k).any (fun l => tagAt c l != 0) then shares else cread c a k
          exec (.hashOpDone n) s = .next (modCell s n (fun _ => { c with
            maskLevel := c.maskLevel - h.due
            hash := { h with busy := none, due := 0, input := h.input ++ bs, odd := h.odd || decide (0 < h.squeezed) } }))) ∧
        (h.due ≤ c.maskLevel → sq = true →
          let out := (hashOut h c.draws (h.squeezed + k)).drop h.squeezed
          let d := drew c (h.squeezed + k)
          exec (.hashOpDone n) s = .next (modCell s n (fun _ => { (if h.masked then writeShares d a out else cwrite d a out) with
            maskLevel := c.maskLevel - h.due
            hash := { h with busy := none, due := 0, squeezed := h.squeezed + k } })))) ∧
      (c.schk = true →
        let t := modCell s n (fun x => { x with schk := false })
        (c.schkOk = true → c.ending = false → exec (.schkDone n true) s = .next t) ∧
        (c.schkOk = true → c.ending = true → exec (.schkDone n true) s = .next (endMacro t n)) ∧
        (∀ ok, (ok = false ∨ c.schkOk = false) → exec (.schkDone n ok) s = .next (machineCheck t n 3 (wCond w) (custPc c)))) ∧
      (c.hold = true → c.ending = false → 8 ≤ wCond w → condHolds c (wCond w) = true → transferOk c (wNext w) = true →
        exec (.waitConditionMet n) s = .next (enterPc (modCell s n (fun x => { x with hold := false, wd := 0 })) n (wNext w))) ∧
      (2 ^ c.wdogExp ≤ c.wd → (c.stalled = true ∨ (c.job.isSome = true ∧ gateEntry c.pc = true ∧ c.hold = false) ∨
          (c.hold = true ∧ 8 ≤ wCond w ∧ condHolds c (wCond w) = false)) →
        exec (.waitTimeout n) s = .next (machineCheck s n 2 (if c.hold then wCond w else 0) (custPc c))) ∧
      (c.timer ≤ 2 → (c.hold = false ∨ wCond w ≠ 12) →
        exec (.cellTimerExpire n) s = .next (modCell s n (fun x => { x with timer := 0 }))) ∧
      (c.job ≠ none → custPc c = true → c.jobLim = 0 → exec (.joblim n) s = .next (machineCheck s n 7 0 true))) ∧
    (∀ j, cellJob s n = some j → squashDue s j = true →
      exec (.cellJobAbort n) s = .next (failJob s { j with unit := n } eAborted 0 false)) ∧
    (∀ r, 2 ^ 20 ≤ c.maskOut → servingDrbg s (n / 32) = some r →
      exec (.maskReseed n) s = .next (modCell (drew' (callDrbg s r 1) 32) n (fun x => { x with maskOut := 0, maskStopped := false })))

/-- O24: A customer job at the entry of a gate with a return address: GET_PARAMS loads X1 to X4, SET_RESULT keeps the output
length and RESULT, PUT_KEY keeps a key whose shares, index, ALG and policy are admitted, and RANDOM writes X2 fresh bytes
(free values of the model) at X1. (R249, R250, R251) -/
def Obligations.ServiceGatesComplete : Prop :=
  ∀ (s : State) (n pc : Nat) (st : List Nat), n < 128 → (getCell s n).stack = pc :: st →
    let c := getCell s n
    let back := fun (f : Cell → Cell) (t : State) => Host.Outcome.next (enterPc (modCell (modCell t n f) n (fun x => { x with stack := st })) n pc)
    let k := cellCtx s n
    let a := (getX c 1).toNat
    let len := (getX c 2).toNat
    (atGate s n 4 = true → exec (.getParams n) s = back (fun x => setX (setX (setX (setX x
        1 (BitVec.ofNat 64 (fieldLe k.params 8 8)) 0) 2 (BitVec.ofNat 64 (fieldLe k.params 16 8)) 0)
        3 (BitVec.ofNat 64 k.inLen) 0) 4 (BitVec.ofNat 64 k.outCap) 0) s) ∧
    (atGate s n 8 = true → exec (.setResult n) s =
      back (fun x => { x with outLen := some (getX x 1).toNat, result := (getX x 2).truncate 32 }) s) ∧
    (∀ j p, atGate s n 0x0C = true → len % 64 = 0 → len < 0x4000 → sharesTagged c len = true → c.putKey = none →
      bits a 31 0 ≤ 65535 → (bits a 63 48 = 0x0C01 ∨ bits a 63 48 = 0x0C02) → c.job.bind (getJob s) = some j → j.keys.head? = some p →
      childPolOk p.policy (bits a 47 32) = true → polOk (bits a 63 48) (bits a 47 32) = true →
      exec (.putKey n) s = back (fun x => { x with putKey := some ⟨bits a 31 0, bits a 47 32, bits a 63 48,
        xorBytes (xorBytes (cread c len 32) (cread c (len + 0x4000) 32)) (cread c (len + 0x8000) 32)⟩ }) s) ∧
    (∀ r, atGate s n 0x10 = true → 1 ≤ len → len ≤ 4096 → (∀ x ∈ rangeProbe a len, accessKind c x 1 = 0) →
      servingDrbg s (n / 32) = some r →
      exec (.random n) s = .next (
        let t := callDrbg s r 1
        let u := drew' (modCell t n (fun y => cwrite y a (drawBytes t len))) len
        enterPc (modCell u n (fun x => { x with stack := st })) n pc))

/-- O25: While BAR0 can be reached, an access of a bad size or alignment is ignored or reads 0 and counts in CHIP_HOSTERR, a
4-byte read answers a 32-bit register, or the low half of a 64-bit one with its high half latched for the next read of it, an
8-byte read answers both halves, a register write writes the register or registers it spans, and a W1C write of SL_NOTIFY
clears the written bits; configuration space is read and written the same way. (R7, R92, R93) -/
def Obligations.RegisterAccessesComplete : Prop :=
  ∀ (s : State), bar0Up s = true →
    (∀ wr addr size, ((size ≠ 4 ∧ size ≠ 8) ∨ addr % size ≠ 0) →
      let t := { s with chip := { s.chip with hostErr := BitVec.ofNat 16 (satInc 0xFFFF s.chip.hostErr.toNat) } }
      exec (.bar0BadAccess wr addr size) s = .next (if wr then t else emit t (.readData (List.replicate size 0)))) ∧
    (∀ addr, addr % 4 = 0 →
      (∀ v, readReg s addr = some (64, v) →
        exec (.bar0LowHalfRead ⟨⟨false, addr⟩, 4⟩) s = .next (emit { s with chip := { s.chip with
          lowLatch := mapSet none s.chip.lowLatch addr (some (BitVec.ofNat 32 (v / 2 ^ 32))) } } (.readData (leBytes 4 (v % 2 ^ 32))))) ∧
      (∀ k v, readReg s addr = some (k, v) → k ≠ 64 →
        exec (.bar0LowHalfRead ⟨⟨false, addr⟩, 4⟩) s = .next (emit { s with chip := { s.chip with
          lowLatch := if 4 ≤ addr then mapErase s.chip.lowLatch (addr - 4) else s.chip.lowLatch } } (.readData (leBytes 4 (v % 2 ^ 32))))) ∧
      (∀ v h, 4 ≤ addr → readReg s addr = none → readReg s (addr - 4) = some (64, v) → mapGet none s.chip.lowLatch (addr - 4) = some h →
        exec (.bar0LowHalfRead ⟨⟨false, addr⟩, 4⟩) s = .next (emit { s with chip := { s.chip with
          lowLatch := mapErase s.chip.lowLatch (addr - 4) } } (.readData (leBytes 4 h.toNat))))) ∧
    (∀ addr v, addr % 8 = 0 → readReg s addr = some (64, v) →
      exec (.bar0LowHalfRead ⟨⟨false, addr⟩, 8⟩) s = .next (emit s (.readData (leBytes 8 v)))) ∧
    (∀ addr val, addr % 4 = 0 → exec (.registerWrite ⟨false, addr⟩ 4 val) s = .next (writeReg s addr (val % 2 ^ 32))) ∧
    (∀ addr val, addr % 8 = 0 → exec (.registerWrite ⟨false, addr⟩ 8 val) s =
      .next (writeReg (writeReg s addr (val % 2 ^ 32)) (addr + 4) (val / 2 ^ 32 % 2 ^ 32))) ∧
    (∀ addr val, cfgUp s = true → addr % 4 = 0 →
      exec (.bar0LowHalfRead ⟨⟨true, addr⟩, 4⟩) s = .next (emit s (.readData (leBytes 4 (cfgWord s addr)))) ∧
      exec (.registerWrite ⟨true, addr⟩ 4 val) s = .next (writeCfgWord s addr (val % 2 ^ 32))) ∧
    (∀ sl mask, sl < 64 → exec (.slNotifyClear sl mask) s =
      .next (modSlice s sl (fun x => { x with notify := x.notify &&& ~~~mask })))

/-- O26: While BAR0 can be reached: a doorbell inside the ring of a serving slice moves SQ_TAIL and notes when it came, and one
outside stops the queue pair with cause 1; a CQ_HEAD inside the span of unconsumed completions moves CQ_HEAD and one outside
stops with cause 2; a legal QPq_CFG enables the queue pair with its indexes at 0 and PHASE 1, an illegal one stops it with
cause 4; clearing ENABLE disables it at once or after its last admitted job. (R124, R125, R126, R127) -/
def Obligations.QueuePairRegistersComplete : Prop :=
  ∀ (s : State) (n q : Nat), n < 64 → q < 4 → bar0Up s = true →
    let p := getQp s n q
    (∀ tail, tail < 4096 → slServes s n = true → (p.enable = false ∨ tail < p.entries) →
      exec (.sqDoorbell n q tail) s = .next (modQp s n q (fun x => { x with
        sqTail := tail, bells := bellsAfter x.bells ((tail + x.entries - x.sqHead) % x.entries) s.uptime }))) ∧
    (∀ tail, tail < 4096 → slServes s n = true → p.enable = true → p.entries ≤ tail → p.stopped = false →
      exec (.sqDoorbell n q tail) s = .next (stopQp s n q 1)) ∧
    (∀ head, head < 4096 → (p.enable = false ∨ (head < p.entries ∧
        (head + p.entries - p.cqHead) % p.entries ≤ (p.cqTail + p.entries - p.cqHead) % p.entries)) →
      exec (.cqHeadWrite n q head) s = .next (modQp s n q (fun x => { x with cqHead := head }))) ∧
    (∀ head, head < 4096 → p.enable = true → p.stopped = false → (p.entries ≤ head ∨
        (p.cqTail + p.entries - p.cqHead) % p.entries < (head + p.entries - p.cqHead) % p.entries) →
      exec (.cqHeadWrite n q head) s = .next (stopQp s n q 2)) ∧
    (∀ cfg, p.enable = false → cfg.testBit 0 = true →
      (((getSlice s n).state = .configured ∨ (getSlice s n).state = .active) ∧ 6 ≤ bits cfg 4 1 ∧ bits cfg 4 1 ≤ 12 ∧
          mapGet PasidBind.unbound (getSlice s n).pasids (bits cfg 7 5) ≠ .unbound →
        exec (.qpEnable n q cfg) s = .next (modQp s n q (fun y => { cfgFields y cfg with
          enable := true, draining := false, sqTail := 0, sqHead := 0, cqHead := 0, cqTail := 0, phase := true, stopped := false,
          bells := [] }))) ∧
      (((getSlice s n).state ≠ .configured ∧ (getSlice s n).state ≠ .active) ∨ bits cfg 4 1 < 6 ∨ 12 < bits cfg 4 1 ∨
          mapGet PasidBind.unbound (getSlice s n).pasids (bits cfg 7 5) = .unbound →
        exec (.qpEnable n q cfg) s = .next (modQp s n q (fun y => { cfgFields y cfg with cause := 4, stopped := true })))) ∧
    (p.enable = true → exec (.qpDisable n q) s = .next (modQp s n q (fun y =>
      if qpBusy s n q then { y with draining := true } else { y with enable := false, draining := false }))) ∧
    (p.draining = true → qpBusy s n q = false →
      exec (.qpDisableDone n q) s = .next (modQp s n q (fun y => { y with enable := false, draining := false })))

/-- O27: While the device serves: DISPATCH_PICK gives the job that is first in order to the region R18 chooses, BLOCK_ASSIGN gives
a region job to the block with the fewest jobs of its class and wakes it (a digest job asks its engine for a context), and
CELL_JOB_START wakes a sleeping cell, or starts on a free one the job that is next, with its keys resolved, or the second
execution of one. When a queue pair fetches, DESCRIPTOR_FETCH reads and takes the contiguous descriptors that fetchCount
allows, each padded to 64 bytes, and admits them one after another; a host error on the read stops the queue pair with cause
5. (R17, R18, R19, R124, R125, R127, R128, R135, R235, R541) -/
def Obligations.FetchDispatchAndStartComplete : Prop :=
  (∀ (s : State), serving s = true →
    (∀ r lc j, r < 4 → lc < 3 → pickUpTo s r lc = some j → regionRoom s r lc = true →
      exec (.dispatchPick r lc) s = .next (putJob (jumpOthers s j) (placeJob (jumpOthers s j) { j with
        waitedLong := j.waitedLong || decide (j.waitFrom + 100000 < s.uptime) }))) ∧
    (∀ job r j b, r < 4 → regionOnline s r = true → getJob s job = some j → j.pos = .region r → chooseBlock s j r = some b →
      let t := putJob (wakeUnit false (wakeUnit false s (148 + r)) (128 + b)) { j with pos := .block b, block := b }
      (j.kind ≠ 2 → exec (.blockAssign job) s = .next t) ∧
      (j.kind = 2 → exec (.blockAssign job) s = .next (askDe t j b))) ∧
    (∀ c j, c < 128 → cellFree s c = true → nextFor s c = some j →
      (domAwake s c = true → blockAwake s (c / 8) = true →
        (secondOn s j c = true → exec (.cellJobStart c) s = .next (takeSecond s j c)) ∧
        (secondOn s j c = false → keysResolve s j = true →
          exec (.cellJobStart c) s = .next (cellTakes (keysHeld s j) { j with vals := some (keyValues s j) } c))) ∧
      ((domAwake s c = false ∨ blockAwake s (c / 8) = false) → exec (.cellJobStart c) s = .next (wakeUnit false s c)))) ∧
  (∀ (s : State) (n q : Nat) (f : FetchIo), n < 64 → q < 4 → fetches s n q = true →
    let k := fetchCount s n q
    (f.fault = true → exec (.descriptorFetch n q f) s = .next (stopQp (ringRead s n q k) n q 5)) ∧
    (f.fault = false → exec (.descriptorFetch n q f) s = .next
      (((List.range k).map (fun i => (padTo 64 (f.descs.getD i []), f.labels.getD i []))).foldl (fetchOne n q f) (ringRead s n q k))))

/-- O28: While the device serves: a check before release on a second cell that passes sets its GUARANTEE flag (1 for a verified
signature, 2 for a dual execution) and frees the engines, and one that fails, or whose classical parts differ, replays the
job; JOB_RELEASE of a staged result whose release nothing holds releases it, and ends one whose slice is being reset with
E_ABORTED. (R20, R21, R25, R27, R28, R91, R505) -/
def Obligations.ReleaseRowsComplete : Prop :=
  ∀ (s : State) (job : Nat) (j : Job) (r : JobRes) (io : JobIo), serving s = true → getJob s job = some j → j.id = job → j.res = some r →
    (j.pos = .staged true → j.second.isSome = true →
      let passed := fun (flag : Nat) => putJob (freeEngines s job) { j with
        pos := .staged false, second := none, twin := none, res := some { r with guarantee := r.guarantee + flag } }
      (j.dual = false →
        (r.spoilt = false → exec (.verifyBeforeReleaseDone job true io) s = .next (passed 1)) ∧
        (∀ ok, (ok = false ∨ r.spoilt = true) → exec (.verifyBeforeReleaseDone job ok io) s = .next (failCheck s j false))) ∧
      (j.dual = true → j.desc.opcode ≠ 0x0304 → r.spoilt = false →
        exec (.dualCompare job true io) s = .next (passed 2) ∧
        exec (.dualCompare job false io) s = .next (failCheck s j true)) ∧
      (∀ y, j.dual = true → j.desc.opcode = 0x0304 → r.spoilt = false → j.twin = some y →
        (y = j.saved.getD 3 [] → exec (.dualCompare job true io) s = .next (passed 2)) ∧
        (y ≠ j.saved.getD 3 [] → exec (.dualCompare job true io) s = .next (failCheck s j true)) ∧
        exec (.dualCompare job false io) s = .next (failCheck s j true))) ∧
    (j.pos = .staged false → (squashDue s j = false ∨ isResetJob s j = true) → ideHold s = false → banksChecked s j = true →
      (j.ofEvent = true ∨ s.link.up = true) → exec (.jobRelease job io) s = .next (releaseJob s j r io)) ∧
    (j.pos = .staged false → squashDue s j = true → isResetJob s j = false →
      exec (.jobRelease job io) s = .next (failJob s j eAborted 0 io.cplFault))

/-- O29: A job that still waits for a region when its bound passes while no region serves completes with E_RETRY_EXHAUSTED; an
unreleased job 8 s past its bound is abandoned with E_RETRY_EXHAUSTED; a scrub whose jobs have ended erases the key from every
store, or only its expanded entry. (R72, R160, R334, R482) -/
def Obligations.JobLimitsComplete : Prop :=
  ∀ (s : State),
    (∀ job j io, getJob s job = some j → serving s = true → noRegion s = true → j.isReleased = false → lateJob s j = true →
      (j.pos = .waiting ∨ (j.onChip = true ∧ j.res = none ∧ j.needsRegion = true)) →
      exec (.unassignedBoundExpire job io) s = .next (failJob s j eRetryExhausted 0 io.cplFault)) ∧
    (∀ job j io, getJob s job = some j → ungated s = true → j.isReleased = false → writeBegun s j = false →
      j.since + jobBound j + 8000000000 ≤ s.uptime →
      exec (.jobAbandonTimeout job io) s = .next (dropStepOf (failJob s j eRetryExhausted 0 io.cplFault) j.id)) ∧
    (∀ h, alive s = true →
      let due := s.scrubs.filter (fun w => w.handle == h && scrubDue s w)
      let t := { s with scrubs := s.scrubs.filter (fun w => !(w.handle == h && scrubDue s w)) }
      due ≠ [] →
      (due.any (fun w => !w.expOnly) = true →
        exec (.keyScrubAfterJobs h) s = .next (scrubKey (scrubLane t (hSlice h) (· == h)) h)) ∧
      (due.any (fun w => !w.expOnly) = false →
        exec (.keyScrubAfterJobs h) s = .next (filterExpanded t (fun e => e.handle != h))))

/-- O30: While slices run: an empty device in DRAIN sets DRAINED; a quiescing slice without outstanding jobs goes to CONFIGURED; a
slice reset whose jobs have ended scrubs the slice and returns it to its prior state (CONFIGURED where that was QUIESCING)
with its notification; a removal whose record is committed retires the slots of the slice and then leaves the slice ABSENT.
(R51, R115, R117, R139) -/
def Obligations.SliceEventsComplete : Prop :=
  ∀ (s : State), slicesRun s = true →
    (s.chip.mode = .drain → s.jobs = [] → noWrites s = true →
      exec .drained s = .next { s with chip := { s.chip with drained := true } }) ∧
    (∀ n, n < 64 → (getSlice s n).state = .quiescing → outstanding s n = 0 → recIdle s n = true →
      exec (.quiesceComplete n) s =
        .next (saveSlice (notifyState (modSlice s n (fun x => { x with state := .configured })) n) n)) ∧
    (∀ n r io, n < 64 → (getSlice s n).state = .resetting → (getSlice s n).resetRec = some r → slicesJobsDone s n = true →
        recIdle s n = true →
      let st := if r.prior = .quiescing then SliceState.configured else r.prior
      let t := resetQps (modSlice (scrubSlice s n) n (fun y => { y with state := st, resetRec := none })) n false
      let v := notifyReset (notifyState (if r.prior = .quiescing then saveSlice t n else t) n) n
      (r.removal = false → r.job.bind (getJob v) = none →
        exec (.sliceResetDone n io) s = .next (nextRemoval v n (getSlice s n).removeWaits)) ∧
      (∀ j, r.removal = false → r.job.bind (getJob v) = some j →
        exec (.sliceResetDone n io) s = .next (nextRemoval (answerOk v j io) n (getSlice s n).removeWaits)) ∧
      (r.removal = true → (sliceRecOf s n).any (fun e => e.removal) = true →
        let w := retireSlots (scrubSlice s n) n
        let u := notifyState (removeSlice w n) n
        (ownSlots s n ≠ [] → exec (.sliceRemoveDone n io) s = .next w) ∧
        (ownSlots s n = [] → r.job.bind (getJob u) = none → exec (.sliceRemoveDone n io) s = .next u) ∧
        (∀ j, ownSlots s n = [] → r.job.bind (getJob u) = some j → exec (.sliceRemoveDone n io) s = .next (answerOk u j io))))

/-- O31: While the device is alive: training brings the link up at the widest width whose lanes pass, and into PCIe-only mode
without the HDM window and its IDE stream; FLR, CXL Reset, hot reset and PERST# reset the function as R104 says and then every
slice by a host-side reset; a lost link is handled as a hot reset; D3hot is entered and left. (R81, R82, R83, R104, R105,
R109, R111) -/
def Obligations.LinkAndHostResetsComplete : Prop :=
  ∀ (s : State), alive s = true →
    (∀ tr, 1 ≤ tr.lanes → 1 ≤ tr.rate → tr.rate ≤ 5 →
      let cxl := tr.offersCxl && decide (3 ≤ tr.rate)
      let t := { s with link := { s.link with
        up := true, cxl, speed := tr.rate, width := widest tr.lanes, cacheEn := tr.cache && cxl, busMaster := tr.busMaster,
        atsEn := tr.ats } }
      (cxl = true → exec (.linkTraining tr) s = .next t) ∧
      (cxl = false → exec (.linkTraining tr) s = .next { t with
        hdm := { t.hdm with committed := false }, link := { t.link with ide := mapErase t.link.ide 2 } })) ∧
    exec .flr s = .next (hostResetAll (resetFunction (endSessions s false))) ∧
    exec .cxlReset s = .next (hostResetAll (dropHdm (endSessions s false))) ∧
    exec .hotReset s = .next (hotResetState s) ∧
    exec .perst s = .next (hotResetState s) ∧
    (s.link.up = true →
      exec .linkLoss s = .next (hotResetState s) ∧
      ∀ on, exec (.d3hot on) s = .next { s with chip := { s.chip with d3hot := on } })

/-- O32: With the link in CXL mode: a decoder commit with 1-way interleave and a size within the window places it, an uncommit
ends it; an access puts its page into host bias and reads or writes the line of an aperture whose slice holds its key in an
ONLINE region, a read of a bad line raises HBM_UE and answers poison, as does one under Viral or with the line gone, a write
to such a line is dropped, and a line of no aperture reads as zeros; an invalidation waits with at most 32, and completes once
no DMA uses its translation. (R95, R96, R98, R102, R110) -/
def Obligations.HdmAndTranslationRowsComplete : Prop :=
  ∀ (s : State), alive s = true →
    (∀ base size, s.link.up = true → s.link.cxl = true →
      (s.hdm.committed = false → 0 < size → size ≤ s.hdm.size → base % 2 ^ 28 = 0 →
        exec (.hdmDecoderCommit ⟨true, base, size, 1⟩) s =
          .next { s with hdm := { s.hdm with committed := true, base := BitVec.ofNat 64 base, span := size } }) ∧
      ∀ ways, exec (.hdmDecoderCommit ⟨false, base, size, ways⟩) s = .next { s with hdm := { s.hdm with committed := false } }) ∧
    (∀ addr, s.link.up = true → s.link.cxl = true → s.hdm.committed = true → s.chip.d3hot = false → s.hdm.base.toNat ≤ addr →
        addr - s.hdm.base.toNat < s.hdm.span * 2 ^ 28 →
      let off := addr - s.hdm.base.toNat
      let t := toHostBias s (off / 2 ^ 21)
      (s.chip.viral = true → exec (.hdmAccess addr none) s = .next (emit t .poison) ∧
        ∀ bs, exec (.hdmAccess addr (some bs)) s = .next t) ∧
      (s.chip.viral = false → apertureOf s off = none →
        exec (.hdmAccess addr none) s = .next (emit s (.readData (List.replicate 64 0))) ∧
        ∀ bs, exec (.hdmAccess addr (some bs)) s = .next s) ∧
      (∀ n, s.chip.viral = false → apertureOf s off = some n →
          (regionOnline s (off / 4096 % 4) = false ∨ (getSlice s n).hbmKey.isSome = false) →
        exec (.hdmAccess addr none) s = .next (emit t .poison) ∧ ∀ bs, exec (.hdmAccess addr (some bs)) s = .next t) ∧
      (∀ n, s.chip.viral = false → apertureOf s off = some n → regionOnline s (off / 4096 % 4) = true →
          (getSlice s n).hbmKey.isSome = true →
        (mapGet false s.hdm.poison (off / 64) = true → exec (.hdmAccess addr none) s = .next (emit (badLine t off) .poison)) ∧
        (mapGet false s.hdm.poison (off / 64) = false →
          exec (.hdmAccess addr none) s = .next (emit t (.readData (bytesGet s.hdm.mem (64 * (off / 64)) 64)))) ∧
        (∀ bs, exec (.hdmAccess addr (some bs)) s = .next (hdmWrite t off (bs.take (64 - off % 64)))))) ∧
    (∀ inv, s.link.up = true → s.link.atsEn = true → s.link.ats.length < 32 →
      exec (.atsInvalidate inv) s = .next { s with link := { s.link with ats := s.link.ats ++ [inv] } }) ∧
    (∀ tag v, s.link.ats.find? (fun x => x.tag == tag) = some v → (∀ j ∈ s.jobs, dmaUses s v j = false) →
      exec (.atsInvalidateComplete tag) s = .next (emit { s with link := { s.link with ats := s.link.ats.erase v } } (.ack 1 tag)))

/-- O33: With the link up, the DOE mailbox is Busy in BOOT and otherwise answers Discovery, CDAT and the SPDM protocols; the
session opens at FINISH outside BLANK and closes at END_SESSION, versions 1.2 and 1.1 and the capabilities are answered, PSK
requests are refused and only the one algorithm set is agreed; certificates and measurements answer, IDE_KM, K_SET_GO and a
stream that becomes Secure take effect, and GPF commits every write and the progress page. (R86, R87, R88, R89, R90, R91) -/
def Obligations.AttestationAndIdeRowsComplete : Prop :=
  ∀ (s : State), alive s = true → s.link.up = true →
    (∀ body, (s.chip.mode = .boot → ∀ p, exec (.doeRequest p body) s = .next (emit s (.spdm 0xFF []))) ∧
      (s.chip.mode ≠ .boot → exec (.doeRequest 0 body) s = .next (emit s (.spdm 0x100 [BitVec.ofNat 8 (byteAt body 0)]))) ∧
      (s.chip.mode ≠ .boot → s.chip.lc ≠ .scrapped →
        exec (.doeRequest 3 body) s = .next (emit s (.spdm 0x103 (leBytes 8 s.hdm.base.toNat ++ leBytes 8 (s.hdm.size * 2 ^ 28) ++
          leBytes 4 400 ++ leBytes 4 300 ++ leBytes 4 25))) ∧
        ∀ p, p ≠ 0 → p ≠ 3 → exec (.doeRequest p body) s = .next (emit s (.spdm (0x100 + p) (stdBytes .spdm [body] 16))))) ∧
    (s.chip.mode ≠ .boot → s.chip.lc ≠ .scrapped →
      (∀ body,
        exec (.spdmRequest 0x84 body) s = .next (emit s (.spdm 0x04 spdmVersions)) ∧
        exec (.spdmRequest 0xE1 body) s = .next (emit s (.spdm 0x61 (leBytes 4 spdmFlags))) ∧
        (sub body 0 4 = [1, 1, 1, 1] → exec (.spdmRequest 0xE3 body) s = .next (emit s (.spdm 0x63 [1, 1, 1, 1]))) ∧
        (sub body 0 4 ≠ [1, 1, 1, 1] → exec (.spdmRequest 0xE3 body) s = .next (spdmError s 1)) ∧
        exec (.spdmRequest 0xE6 body) s = .next (spdmError s 7) ∧ exec (.spdmRequest 0xE7 body) s = .next (spdmError s 7) ∧
        (s.chip.lc = .blank → exec (.spdmRequest 0xE5 body) s = .next (spdmError s 1)) ∧
        (s.chip.lc ≠ .blank → exec (.spdmRequest 0xE5 body) s =
          .next (emit { s with link := { s.link with spdm := true } } (.spdm 0x65 []))) ∧
        exec (.spdmRequest 0xEC body) s = .next (emit { s with link := { s.link with spdm := false } } (.spdm 0x6C []))) ∧
      (∀ off len, (s.chip.lc = .blank → ∀ k, exec (.getCertificate k off len) s = .next (spdmError s 1)) ∧
        (s.chip.lc ≠ .blank → exec (.getCertificate 0 off len) s =
          .next (emit s (.spdm 0x02 ((certSlot0 s (off + len)).drop off)))) ∧
        (s.chip.lc = .owned → s.link.cert1 ≠ [] → exec (.getCertificate 1 off len) s =
          .next (emit s (.spdm 0x02 ((s.link.cert1.drop off).take len))))) ∧
      (∀ i, (1 ≤ i → i ≤ 5 → exec (.getMeasurements i) s = .next (emit s (.spdm 0x60 (measurement s i)))) ∧
        (i = 0 ∨ 5 < i → exec (.getMeasurements i) s = .next (spdmError s 1))) ∧
      (∀ n d, n < 3 → d < 2 → s.link.spdm = true →
        ((n ≠ 2 ∨ s.link.cxl = true) → exec (.ideKm n d) s =
          .next (emit (modIde s n (fun x => { x with configured := true, keys := x.keys ||| 2 ^ d })) (.ack 2 (2 * n + d)))) ∧
        ((mapGet IdeStream.none s.link.ide n).keys.testBit d = true →
          exec (.kSetGo n d) s = .next (emit (modIde s n (fun x => { x with keys := x.keys ||| 2 ^ (2 + d) })) (.ack 3 (2 * n + d)))))) ∧
    (∀ n, n < 3 → (mapGet IdeStream.none s.link.ide n).configured = true → (mapGet IdeStream.none s.link.ide n).keys = 15 →
      exec (.ideStreamSecure n) s = .next (modIde s n (fun y => { y with secure := true }))) ∧
    exec .gpfRequest s = .next (emit (writePage
      ((List.range (8 + 4 * s.alm.writes.length)).foldl (fun x _ => commitNext x) s) true) (.ack 0 0))

/-- O34: Once VDD_AUX is good and outside SCRAPPED every sideband request answers as R112 to R114 say: endpoint IDs, message
types, the vendor ID, the temperatures, the mode and the fault summary, whose reading deasserts SMBALERT#; other health
commands answer completion code 0x05; in SCRAPPED GET_HEALTH_MODE answers CHIP_ID. A sensor above its warning limit sends the
SMBus alert with a log entry, one above its critical limit asserts ALERT# with a log entry, an HBM stack above 85 degrees
refreshes faster, and one that falls below its limits less 3 degrees lets go of them, a stack at or below 85 degrees of its
faster refresh. (R112, R113, R114, R474, R527, R528) -/
def Obligations.SidebandAndTemperatureComplete : Prop :=
  (∀ (s : State), sideUp s = true →
    (s.chip.lc ≠ .scrapped →
      (∀ eid, exec (.setEndpointId eid) s = .next (emit { s with chip := { s.chip with eid := eid } } (.sideband [1, 0, eid]))) ∧
      exec .getEndpointId s = .next (emit s (.sideband [2, 0, s.chip.eid])) ∧
      exec .getMctpVersionSupport s = .next (emit s (.sideband ([4, 0] ++ stdBytes .rom [ascii "MCTP"] 5))) ∧
      exec .getMessageTypeSupport s = .next (emit s (.sideband [5, 0, 1, 0x7E])) ∧
      exec .getVendorDefinedMessageSupport s = .next (emit s (.sideband [6, 0, 0x1F, 0x4D])) ∧
      exec .getHealthTemp s =
        .next (emit s (.sideband ([1] ++ ((List.range 9).map (fun i => leBytes 2 (sensorValue s i))).flatten))) ∧
      exec .getHealthMode s = .next (emit s (.sideband ([2] ++ leBytes 4 (regChipMode s) ++ leBytes 4 (regChipCond s)))) ∧
      (∀ r, (getHandler s 0).first = some r → exec .getFaultSummary s =
        .next (emit { s with pins := { s.pins with smbAlertN := false } } (.sideband ([3] ++ r.bytes ++ leBytes 4 (getHandler s 0).count)))) ∧
      ((getHandler s 0).first = none → exec .getFaultSummary s =
        .next (emit { s with pins := { s.pins with smbAlertN := false } }
          (.sideband ([3] ++ List.replicate 32 0 ++ leBytes 4 (getHandler s 0).count)))) ∧
      (∀ cmd, cmd ≠ 1 → cmd ≠ 2 → cmd ≠ 3 → exec (.sidebandUnsupported cmd) s = .next (emit s (.sideband [cmd, 5])))) ∧
    (s.chip.lc = .scrapped → exec .getHealthMode s = .next (emit s (.sideband ([2] ++ leBytes 4 (regChipId s) ++ [0, 0, 0, 0]))))) ∧
  (∀ (s : State), alive s = true →
    (∀ k v, k < 9 → warnLimit k < v → mapGet false s.thermal.warning k = false →
      let t := report s k v
      exec (.temperatureWarning k v) s = .next (logEvent (smbAlert { t with thermal := { t.thermal with
        warning := mapSet false t.thermal.warning k true } }) 0xA0 0x0301 0 (tempData k v))) ∧
    (∀ k v, k < 9 → critLimit k < v → mapGet false s.thermal.critical k = false →
      let t := report s k v
      exec (.temperatureCritical k v) s = .next (logEvent { t with
        thermal := { t.thermal with critical := mapSet false t.thermal.critical k true },
        pins := { t.pins with alertN := true } } 0xA0 0x0302 0 (tempData k v))) ∧
    (∀ k v, k < 9 → v < critLimit k - hysteresis →
      ∃ t, exec (.temperatureNormal k v) s = .next t ∧ mapGet none t.thermal.temp k = some v ∧
        mapGet false t.thermal.critical k = mapGet false (mapErase s.thermal.critical k) k ∧
        (v < warnLimit k - hysteresis → t.thermal.warning = mapErase s.thermal.warning k) ∧
        (warnLimit k - hysteresis ≤ v → t.thermal.warning = s.thermal.warning) ∧
        (mapErase s.thermal.critical k = [] → t.pins.alertN = false) ∧
        (mapErase s.thermal.critical k ≠ [] → t.pins.alertN = s.pins.alertN) ∧
        (5 ≤ k → v ≤ 680 → t.thermal.hot = mapErase s.thermal.hot (k - 5)) ∧ ((k < 5 ∨ 680 < v) → t.thermal.hot = s.thermal.hot) ∧
        t = { s with thermal := t.thermal, pins := { s.pins with alertN := t.pins.alertN } }) ∧
    (∀ r v, r < 4 → 680 < v →
      let t := report s (5 + r) v
      exec (.hbmHot r v) s = .next { t with thermal := { t.thermal with hot := mapSet false t.thermal.hot r true } }))

/-- O35: A power-on reset holds the device until POR_RELEASE; RESET# waits for the writes begun, takes effect into BOOT and holds
the device until it rises; a supply warning abandons the unreleased jobs and writes the progress page, and 10 us later the
power is gone; a lost system clock fails the four expanders; BOOT and ASSAY end in the mode their rules choose; the heartbeat
counts. (R44, R45, R94, R343, R511, R512, R526) -/
def Obligations.ResetAndSupplyRowsComplete : Prop :=
  ∀ (s : State),
    (∀ w, exec (.powerOnReset w) s = .next (holdReset (powerLoss w s))) ∧
    (s.supply.por = true → exec .porRelease s =
      .next { s with supply := { s.supply with por := false, railsGood := true, resetHeld := s.supply.resetLow } }) ∧
    exec .resetAssert s = .next { s with supply := { s.supply with
      resetLow := true, resetWaiting := s.supply.resetWaiting || ungated s } } ∧
    exec .resetRelease s = .next { s with supply := { s.supply with resetLow := false, resetHeld := false } } ∧
    (ungated s = true → s.supply.resetWaiting = true → noneBegun s = true →
      let t := bootState s (if s.supply.resetLow then 2 else 3)
      exec .resetTakeEffect s = .next { t with supply := { t.supply with resetHeld := s.supply.resetLow } }) ∧
    (∀ rail, rail < 4 → ungated s = true →
      let t := forJobs (fun j => !j.isReleased) abandonJob { s with supply := { s.supply with warnedAt := some s.uptime } }
      exec (.supplyWarning rail) s = .next (writePageOf (risingHighWater t) t true)) ∧
    (∀ t0, alive s = true → s.supply.warnedAt = some t0 → t0 + 10000 ≤ s.uptime →
      exec .supplyWarningTimeout s = .next (holdReset (powerLoss (allBegun s) s))) ∧
    (alive s = true → exec .sysClkLost s = .next
      (raiseFault (raiseFault (raiseFault (raiseFault { s with supply := { s.supply with sysClk := false } }
        0x22 0x90 0) 0x22 0x91 0) 0x22 0x92 0) 0x22 0x93 0)) ∧
    (∀ io, ungated s = true → s.chip.mode = .boot → exec (.bootEnd io) s = .next (bootDone io s)) ∧
    (∀ io, ungated s = true → s.chip.mode = .assay → s.flt.fatal = false → exec (.assayEnd io) s = .next (assayDone io s)) ∧
    (alive s = true → s.chip.mode ≠ .halt →
      exec .heartbeatTick s = .next { s with chip := { s.chip with heartbeat := s.chip.heartbeat + 1 } })

/-- O36: A clock trip halts its cell, is an alarm unless the source tripped in the last second, and fences the cell; an enrolled
mesh loop or case switch alarms with its kind; a source re-arms 1 s after its last trip; on the battery, pulses of enrolled
loops are recorded; the battery clock counts, and the log copies the oldest battery entry. (R430, R434, R435, R441, R442,
R443, R445, R513) -/
def Obligations.TamperRowsComplete : Prop :=
  ∀ (s : State),
    (∀ aux, exec (.rootSupplySwitch aux) s = .next { s with supply := { s.supply with
      onAux := aux, auxAt := if aux && !s.supply.onAux then some s.uptime else s.supply.auxAt } }) ∧
    (∀ c k w, c < 128 → alive s = true → s.chip.lc ≠ .scrapped → 6 ≤ k → k ≤ 8 → ((getDom s c).state = 0 ∨ k = 8) →
      let t := modCell s c (fun c => { c with halted := true })
      let x := mapGet TmpSrc.armed s.tamper.src (32 + c)
      let r := clockResponse s.chip.lc.code
      let fenced := fun (u : State) => if unitOnline u c then fence u c 0 else u
      (x.tripped = true → s.uptime < x.lastAt + 1000000000 →
        exec (.clockMonitorTrip c k w) s = .next (fenced (alarm t (32 + c) 0x20 k c r w))) ∧
      ((x.tripped = false ∨ x.lastAt + 1000000000 ≤ s.uptime) →
        exec (.clockMonitorTrip c k w) s = .next (fenced (alarm
          { t with tamper := { t.tamper with src := mapErase t.tamper.src (32 + c) } } (32 + c) 0x20 k c r w)))) ∧
    (∀ l k w, l < 16 → alive s = true → enrolled s s.chip.lc.code l = true → 1 ≤ k → k ≤ 4 →
      (k ≠ 3 ∨ mapGet 0 s.tamper.seeds l ≠ 0) →
      exec (.loopAlarm l k w) s = .next (alarm s l l k 0 (loopResponse s.chip.lc.code) w)) ∧
    (∀ sw k w, sw < 2 → alive s = true → enrolled s s.chip.lc.code (16 + sw) = true → (k = 4 ∨ k = 5) →
      exec (.caseAlarm sw k w) s = .next (alarm s (16 + sw) (0x10 + sw) k 0 (loopResponse s.chip.lc.code) w)) ∧
    (∀ n, n < 160 → (mapGet TmpSrc.armed s.tamper.src n).tripped = true →
      (mapGet TmpSrc.armed s.tamper.src n).lastAt + 1000000000 ≤ s.uptime →
      exec (.sensorRearm n) s = .next { s with tamper := { s.tamper with src := mapErase s.tamper.src n } }) ∧
    (∀ n, n < 16 → s.supply.onAux = false → s.supply.vbat = true → enrolled s s.root.lcHeld n = true →
      exec (.batteryLoopPulse [n] []) s = .next (batAlarm s n n 1) ∧
      exec (.batteryLoopPulse [] [n]) s = .next (batAlarm s n n 2)) ∧
    (∀ n, n < 2 → s.supply.onAux = false → s.supply.vbat = true → enrolled s s.root.lcHeld (16 + n) = true →
      exec (.batteryLoopPulse [16 + n] []) s = .next (batAlarm s (16 + n) (0x10 + n) 5)) ∧
    (s.supply.onAux = true → s.tb.set = true →
      exec .btimeTick s = .next { s with root := { s.root with btime := s.tb.time / 1000000000 } }) ∧
    (s.supply.onAux = true → s.tb.set = false → exec .btimeTick s = .next s) ∧
    (s.supply.onAux = false → exec .btimeTick s =
      .next { s with root := { s.root with btime := if s.root.btime = 0 then 0 else s.root.btime + 1 } }) ∧
    (alive s = true → s.chip.mode ≠ .boot → s.chip.mode ≠ .halt → exec .batteryLogCopy s = .next (copyOldest s))

/-- O37: While the device is alive: a domain that may enter a state begins its entry; the ABORTED bit clears; a wake wakes the
parents first; a wake in time returns the domain to ACTIVE with its banks to check; one past its limit fails the domain, moves
its jobs and raises fault 0x08; a bank that fails its check, or reads back with another check word, raises fault 0x07, whose
action loses its content and replays the jobs that used it. (R499, R500, R501, R503, R504, R505, R506) -/
def Obligations.PowerDomainRowsComplete : Prop :=
  ∀ (s : State) (d : Nat), d < 160 → alive s = true →
    (∀ target, mayEnter s d target = true → domKind d = 2 → exec (.coreWait d target) s = .next (beginEntry s d target)) ∧
    (∀ target, mayEnter s d target = true → domKind d = 1 →
      (let b := getBlock s (d - 128)
       b.bne.queue = [] ∧ b.bne.held = [] ∧ b.bne.run = none ∧ b.bne.long = none ∧ b.de.ctx = []) →
      exec (.coreWait d target) s = .next (beginEntry s d target)) ∧
    (∀ target, mayEnter s d target = true → (domKind d = 3 ∨ (domKind d = 4 ∧ (portEnt s (d - 152)).paired = false)) →
      exec (.pwrCtlEntry d target) s = .next (beginEntry s d target)) ∧
    (let t := modDom s d (fun x => { x with aborted := false })
     (d < 128 → exec (.pwrStatAbortedClear d) s = .next (modCell t d (fun c => { c with pwrAborted := false }))) ∧
     (128 ≤ d → exec (.pwrStatAbortedClear d) s = .next t)) ∧
    (∀ early, exec (.domainWake d early) s = .next (wakeOne early ((domParents d).foldl (wakeOne early) s) d)) ∧
    (∀ t0, (getDom s d).waking = some t0 →
      let x := getDom s d
      let t := modDom s d (fun y =>
        { y with state := 0, waking := none, checks := if x.state = 2 ∨ x.state = 3 then retBanks d else [],
                 differ := if x.state = 2 ∨ x.state = 3 then differing s d else [] })
      (∀ l, wakeLimit d x.state = some l → s.uptime < t0 + l →
        (d < 128 → exec (.wakeComplete d) s = .next (modCell t d (cellExit x.state))) ∧
        (128 ≤ d → domKind d = 2 → 3 ≤ x.state →
          exec (.wakeComplete d) s = .next (modRng t (d - 144) (fun r => { r with src := 3 }))) ∧
        (128 ≤ d → (domKind d ≠ 2 ∨ x.state < 3) → exec (.wakeComplete d) s = .next t)) ∧
      (∀ l, wakeLimit d x.state = some l → t0 + l ≤ s.uptime →
        let u := modDom s d (fun y => { y with waking := none, failed := true })
        exec (.wakeFail d) s = .next (raiseFault (forJobs (fun j => jobOn s (domBit d) j && !j.isReleased)
          (fun y j => putJob y (placeJob y { j with avoid := some j.unit })) u) 0x08 (domUnit d) 0))) ∧
    (∀ bank ok, (getDom s d).checks.contains bank = true →
      let t := modDom s d (fun y => { y with checks := y.checks.erase bank })
      (ok = true → (getDom s d).differ.contains bank = false → exec (.retentionCheckDone d bank ok) s = .next t) ∧
      (ok = false ∨ (getDom s d).differ.contains bank = true →
        exec (.retentionCheckDone d bank ok) s = .next (raiseFault t 0x07 (domUnit d) bank))) ∧
    (∀ k bank, k < 148 →
      let t := modDom s k (fun y => { y with retLost := satInc 0xFF y.retLost })
      let lost := fun (m : Nat) (v : State) => forJobs (fun j => jobOn t m j && !j.isReleased) (fun y j => replayJob y j false) v
      (k < 128 → bank = 3 → srcAction s 0x07 k bank = lost k (modCell t k (fun c => c.clearWindow))) ∧
      (k < 128 → bank ≠ 3 → srcAction s 0x07 k bank = lost k (modCell t k (fun c => c.reloadMaker (fun b => b == bank)))) ∧
      (128 ≤ k → k < 144 → bank = 32 → srcAction s 0x07 (unitNo k) bank =
        lost (148 + (k - 128)) (modBne t (k - 128) (fun b => { b with dirty := true, h0 := none, h0Mem := [], owner := none }))) ∧
      (128 ≤ k → k < 144 → 32 < bank → srcAction s 0x07 (unitNo k) bank =
        lost (148 + (k - 128)) (modBne t (k - 128) (fun b => { b with dirty := true, h1Mem := [] }))) ∧
      (128 ≤ k → k < 144 → bank < 32 → srcAction s 0x07 (unitNo k) bank =
        lost k (modBlock t (k - 128) (fun b => { b with cache := [] }))) ∧
      (144 ≤ k → srcAction s 0x07 (unitNo k) bank = lost k (modRegion t (k - 144) (fun r => { r with cache := [] }))))

/-- O38: While the device is alive: a ledger write that has begun commits with its readback, after a ceremony whose time-out
instant has passed has ended, unless it would release a job while an IDE stream is not Secure; so, too, the slot record of a
job is programmed, with its table entry and tree records asked for where the readback agrees and a replay where it does not; a
deleted slot is zeroed and its entry freed or, on a failure, spared; a progress page is written; the patrol scrub rewrites the
pairs it corrected and reports them as fault 0x36. (R322, R324, R341, R342, R344) -/
def Obligations.AlmanacRowsComplete : Prop :=
  ∀ (s : State), alive s = true →
    (∀ rid rb io, rid < 2 ^ 20 → (mapGet WriteQ.none s.alm.writes rid).started = true →
        holdsRelease s (reqJobs (mapGet WriteQ.none s.alm.writes rid).reqs) = false →
      (timeoutDue s = false → exec (.ledgerCommit rid rb io) s = .next (cerCommitted s (commitWrite s rid rb io) rid io.tests)) ∧
      (timeoutDue s = true →
        let t := ceremonyTimesOut io s
        ((mapGet WriteQ.none t.alm.writes rid).started = true →
          exec (.ledgerCommit rid rb io) s = .next (cerCommitted t (commitWrite t rid rb io) rid io.tests)) ∧
        ((mapGet WriteQ.none t.alm.writes rid).started = false → exec (.ledgerCommit rid rb io) s = .next t))) ∧
    (∀ job k op, slotWriteOf s job = some (k, op) → holdsRelease s [job] = false →
      (getJob (endWrite (opEffect s op) k) job = none → exec (.slotWriteCommit job true) s = .next (endWrite (opEffect s op) k)) ∧
      (∀ j r n, getJob (endWrite s k) job = some j → j.res = some r → r.slot = some n →
        exec (.slotWriteCommit job false) s = .next (replayJob (endWrite s k) j false)) ∧
      (∀ j r n, getJob (endWrite (opEffect s op) k) job = some j → j.res = some r → r.slot = some n →
        exec (.slotWriteCommit job true) s = .next (slotWritten (endWrite (opEffect s op) k) j n))) ∧
    (∀ n, n < 262144 → (slotEnt s n).state = 2 → s.chip.mode ≠ .umbra → s.chip.mode ≠ .boot → s.chip.mode ≠ .halt →
      slotEntPending s n = false → (∀ w ∈ s.scrubs, w.handle ≠ slotHandle s n) →
      exec (.slotZeroing n true) s = .next (requestWrite (opEffect s (.slotZero n)) 5
        { job := none, op := .slotEnt n { SlotEnt.free with gen := (slotEnt s n).gen, state := 0 } }) ∧
      exec (.slotZeroing n false) s = .next (requestWrite s 5
        { job := none, op := .slotEnt n { SlotEnt.free with gen := (slotEnt s n).gen, state := 4 } })) ∧
    (∀ ok, pageKeys s ≠ [] → exec (.progressPageWrite ok) s = .next (writePage s ok)) ∧
    (rootPresent s = true → s.chip.mode ≠ .boot → s.chip.mode ≠ .halt →
      exec (.almanacScrub [] []) s = .next s ∧
      (∀ a, exec (.almanacScrub [] [a]) s = .next (raiseFault s 0x36 0xC0 1)) ∧
      ∀ rid, rid < 64432 → viewRec s rid ≠ .empty → viewRec s rid ≠ .lost →
        mapGet WriteQ.none s.alm.writes rid = WriteQ.none →
        exec (.almanacScrub [rid] []) s = .next (raiseFault (requestWrite s 5 { job := none, op := .copy rid }) 0x36 0xC0 1))

/-- O39: While the device is alive and out of BOOT: a PPS edge is judged and one that is accepted or extends a run applies the
waiting declarations; a window closes with its edge or its miss and the condition follows; a run and a slew end; an expired
holdover is logged once; TREF qualifies and is lost; TPPS_OUT rises on the second and falls 100 ms later. (R352, R354, R355,
R356, R358, R360, R362, R363, R364) -/
def Obligations.TimebaseRowsComplete : Prop :=
  ∀ (s : State), alive s = true →
    (∀ io, s.chip.mode ≠ .boot →
      let t := runEdgeStep (judgeEdge s)
      ((edgeAccepted s = true ∨ extendsRun s = true) → exec (.ppsEdge io) s = .next (tryReturn (applyDecls t io))) ∧
      (edgeAccepted s = false → extendsRun s = false → exec (.ppsEdge io) s = .next (tryReturn t))) ∧
    (s.chip.mode ≠ .boot → s.tb.set = true → (s.tb.win : Int) * 1000000000 + 50000 ≤ winPhase s →
      ∃ t, exec .ppsWindowClose s = .next t ∧ t.tb.win = s.tb.win + 1 ∧ t.tb.winEdge = false ∧ t.tb.winAccepted = false ∧
        t.tb.ppsOk = s.tb.winAccepted ∧ t.tb.missing = (if s.tb.winAccepted then s.tb.missing else s.tb.missing + 1) ∧
        t.tb.missRun = (if s.tb.winAccepted then 0 else s.tb.missRun + 1)) ∧
    (∀ t0, s.tb.runEdge = some t0 → t0 + 1000050000 < s.uptime → exec .ppsRunEnd s = .next (endRun s)) ∧
    (s.tb.slew = some 0 →
      let t := modTb s (fun b => { b with slew := none, slewPhase := false })
      (s.tb.tref ≠ 0 → s.tb.slewMiss < 2 → exec .slewEnd s = .next (setCond t .referenced 5)) ∧
      ((s.tb.tref = 0 ∨ 2 ≤ s.tb.slewMiss) → exec .slewEnd s = .next (endRun t))) ∧
    (s.tb.cond = .holdover → s.tb.expired = false → (settings s).budget * secNs ≤ s.tb.hold →
      exec .holdoverExpired s = .next (vecTime (modTb (logEvent s 0xA0 0x0003 0 (leBytes 4 (settings s).budget))
        (fun x => { x with expired := true })))) ∧
    (∀ code, s.chip.mode ≠ .boot → s.tb.tref = 0 → (code = 1 ∨ code = 2) →
      exec (.trefQualified code) s = .next (modTb s (fun b => { b with tref := code }))) ∧
    (s.tb.tref ≠ 0 →
      let t := modTb s (fun b => { b with tref := 0, missLost := 0 })
      (s.tb.cond = .referenced → exec .trefLost s = .next (setCond t .holdover 3)) ∧
      (s.tb.cond = .holdover → 2 ≤ s.tb.missRun → exec .trefLost s = .next (setCond t .untimed 3)) ∧
      (s.tb.cond = .holdover → s.tb.missRun < 2 → exec .trefLost s = .next t) ∧
      (s.tb.cond = .untimed → exec .trefLost s = .next t)) ∧
    (tppsOn s = true → s.tb.time % secNs = 0 →
      exec .tppsOutSecond s = .next { s with pins := { s.pins with tppsOut := true } }) ∧
    (s.pins.tppsOut = true → 100000000 ≤ s.tb.time % secNs →
      exec .tppsOutFall s = .next { s with pins := { s.pins with tppsOut := false } })

/-- O40: An activation is prepared from 1 ms before its instant; at an instant every event due fires in the order of R368, or is
suspended where it may not run; overdue events fire late or are missed as they say; an ended event frees its index after 60 s.
(R372, R374, R378, R379, R380) -/
def Obligations.EphemerisRowsComplete : Prop :=
  ∀ (s : State), alive s = true →
    (∀ ev v, ev < 65536 → mapGet none s.eph.events ev = some v →
      (eventsFire s = true → s.tb.set = true → v.state = 0 → v.spec.kind = 1 → v.corrupt = false →
        v.spec.instant ≤ s.tb.time + 1000000 → exec (.eventPrepare ev) s = .next (prepareEvent s ev v)) ∧
      (v.isOpen = false → v.endedAt + 60 * secNs ≤ s.uptime → heldActivation s v = false →
        exec (.eventIndexFree ev) s = .next (freeEventIdx s ev))) ∧
    (∀ tests, s.chip.mode ≠ .boot → s.tb.set = true →
      let due := evSort ((eventList s).filter (fun e => (e.2.state == 0 || e.2.state == 1) && e.2.spec.instant == s.tb.time))
      due ≠ [] →
      exec (.eventFire tests) s = .next (sendEpochs due (due.foldl (fun t e =>
        if eventAble s e.2 then fireEvent false tests t e.1 else modEvent t e.1 (fun v => { v with state := 5 })) s))) ∧
    (∀ tests, overdue s ≠ [] →
      exec (.eventCatchUp tests) s = .next (sendEpochs (overdue s) ((overdue s).foldl (fun t e =>
        if e.2.spec.miss || superseded (overdue s) e.2 then endEvent t e.1 (fun v => { v with state := 4 })
        else fireEvent true tests t e.1) s)))

/-- O41: While the device is alive: a request frame holds the link up and, on a port that serves, is judged whatever its OPCODE;
the oldest miss of the ports that hold a generation is served; a response is sent and returns its credit; a port near its last
nonce rekeys; a receive link goes down and comes up. (R383, R388, R394, R395, R397, R398) -/
def Obligations.KeyLaneRowsComplete : Prop :=
  ∀ (s : State) (p : Nat), p < 8 → alive s = true →
    (∀ f, let up := modPort s p (fun x => { x with linkUp := true })
      let r := Host.Outcome.next (if portOn s p then judgeRequest up p f else up)
      (rqOp f = 1 → exec (.keyCur p f) s = r) ∧ (rqOp f = 2 → exec (.keyNext p f) s = r) ∧
      (rqOp f = 3 → exec (.keyPrev p f) s = r) ∧ (rqOp f = 4 → exec (.ping p f) s = r) ∧
      ((rqOp f = 0 ∨ 4 < rqOp f) → exec (.invalidOpcodeRequest p f) s = r)) ∧
    (∀ q qs, portOn s p = true → (getPort s p).pendingMiss = q :: qs → (getPort s p).seals.isSome = true →
      (getPort s p).nonce + 1 < 2 ^ 28 →
      (∀ k qk qt, k < 8 → portOn s k = true → (getPort s k).pendingMiss = qk :: qt → (getPort s k).seals.isSome = true →
        (getPort s k).nonce + 1 < 2 ^ 28 → q.arrived ≤ qk.arrived) →
      exec (.klMissDone p) s = .next (missDone (modPort s p (fun x => { x with pendingMiss := qs })) p q)) ∧
    (∀ b c fs, portOn s p = true → (getPort s p).tx = .sealed b c :: fs →
      exec (.klResponseSend p) s = .next (modPort (drew' (emit s (.frame p b)) 1) p (fun y => { y with
        tx := fs, credits := if c then min 16 (y.credits + 1) else y.credits }))) ∧
    (∀ g r c fs, portOn s p = true → (getPort s p).tx = .nak g r c :: fs →
      exec (.klResponseSend p) s = .next (modPort (drew' (emit s (.frame p (nakFrame g r (nakExpected s (getPort s p))))) 1) p
        (fun y => { y with tx := fs, credits := if c then min 16 (y.credits + 1) else y.credits }))) ∧
    (portOn s p = true → (getPort s p).seals.isSome = true → (getPort s p).rekey = false →
      2 ^ 28 - 2 ^ 16 ≤ (getPort s p).nonce → meridianAhead s ((portSlice s p).getD 0) = false →
      exec (.klRekey p) s = .next (raiseGen s p 2 none)) ∧
    exec (.klRxLinkLoss p) s = .next (modPort s p (fun x => { x with linkUp := false })) ∧
    exec (.klRxLinkUp p) s = .next (modPort s p (fun x => { x with linkUp := true }))

/-- O42: A card taken out of its slot drops the step on it and empties the slot; where cards are served, an inserted card is
powered, identified after 10 ms, answers a command, times out after 128 clock periods, is polled while busy and refuses the
step after 10 ms of busy. (R404, R405, R408, R411) -/
def Obligations.CardSlotRowsComplete : Prop :=
  ∀ (s : State) (n : Nat), n < 4 →
    let c := getCard s n
    (alive s = true → (c.det = true ∨ c.state ≠ 0) →
      let t := modCard (dropStep s n) n (fun _ => CardSlot.empty)
      (cardsServed s = true → exec (.cardDetectRise n) s = .next (vecCard t)) ∧
      (cardsServed s = false → exec (.cardDetectRise n) s = .next t)) ∧
    (cardsServed s = true →
      (∀ wp, c.state ≤ 1 → exec (.cardDebouncedInsert n wp) s = .next (vecCard (modCard s n (fun _ => { CardSlot.empty with
        state := 2, det := true, wp, pwren := true, since := s.uptime })))) ∧
      (∀ ans, c.state = 2 → c.since + 10000000 ≤ s.uptime →
        exec (.cardIdentify n ans) s = .next (identify n { s := modCard s n (fun c => { c with state := 3 }), ans })) ∧
      (∀ b wp, c.cmd.isSome = true → c.busy = false → 3 ≤ c.state →
        exec (.cardResponse n b wp) s = .next (cardAnswer (modCard s n (fun x => { x with wp })) n (some b))) ∧
      (c.cmd.isSome = true → c.busy = false → 3 ≤ c.state → 128 * cardPeriod c ≤ 10 * (s.uptime - c.since) →
        exec (.cardResponseTimeout n) s = .next (cardAnswer s n none)) ∧
      (∀ st wp, c.busy = true → c.since + 20000 ≤ s.uptime → exec (.cardStatusPoll n st wp) s =
        .next (pollStep (emit (modCard s n (fun x => { x with wp })) (.card n 0x02 (cardFrame 0x02 0))) n st)) ∧
      (c.busy = true → c.since + 10000000 < s.uptime →
        (stepOn s n = none → exec (.cardBusyTimeout n) s = .next (idleCards s)) ∧
        (∀ x, stepOn s n = some x → exec (.cardBusyTimeout n) s = .next (refuseStep s eCardIo 0))))

/-- O43: While the device is alive: a failed RCT or APT counts and, in service, stops the source; a start-up test that passes puts
the source in service and one that fails counts or fails the source; a healthy block is conditioned and given to the next
expander that waits; an expander reseeds after 2^20 calls or 1 s; failures older than an hour are forgotten. (R297, R301,
R302, R305, R306) -/
def Obligations.RandomBitRowsComplete : Prop :=
  ∀ (s : State) (r : Nat), r < 4 → alive s = true →
    (∀ k, s.chip.mode ≠ .boot → (k = 1 ∨ k = 2) →
      let t := modRng s r (fun x =>
        { x with rct := if k = 1 then satInc 0xFFFF x.rct else x.rct, apt := if k = 2 then satInc 0xFFFF x.apt else x.apt })
      ((rngOf s r).src = 2 → exec (.healthTestFailure r k) s = .next (healthFail t r k)) ∧
      (((rngOf s r).src = 1 ∨ (rngOf s r).src = 3) → exec (.healthTestFailure r k) s = .next t)) ∧
    (s.chip.mode ≠ .boot → ((rngOf s r).src = 1 ∨ (rngOf s r).src = 3) →
      exec (.rngStartupDone r true) s = .next (startupPass s r) ∧
      let failed := modRng s r (fun x => { x with startFails := x.startFails + 1, cond := 0, blocks := [], cause := 4 })
      ((rngOf s r).src = 1 → exec (.rngStartupDone r false) s = .next failed) ∧
      ((rngOf s r).src = 3 → exec (.rngStartupDone r false) s = .next (healthFail failed r 4))) ∧
    (∀ raw, (rngOf s r).src = 2 → healthy raw = true →
      let b := condBlock (rngOf s r).cond (rawSample raw)
      let t := modRng s r (fun x => { x with cond := b.1, blocks := if x.blocks.length < 4 then x.blocks ++ [b.2] else x.blocks })
      let next := ((List.range 4).map (fun i => ((rngOf s r).turn + 1 + i) % 4)).find? (waitsFor t r)
      (next = none → exec (.conditionerBlockReady r raw) s = .next t) ∧
      (∀ m, next = some m → exec (.conditionerBlockReady r raw) s = .next (modRng (feed t m) r (fun y => { y with turn := m })))) ∧
    ((rngOf s r).drbg = 1 → (2 ^ 20 ≤ (rngOf s r).calls ∨ (rngOf s r).seededAt + 10 ^ 9 ≤ s.uptime) →
      exec (.drbgAutoReseed r) s = .next (feed (modRng s r (fun y => { y with drbg := 2 })) r)) ∧
    exec (.rngFailureWindowExpire r) s = .next (modRng s r (fun x => { x with failTimes := recentFails s x.failTimes }))

/-- O44: While the device is alive: a detected fault is raised for its unit; a fence that acts fails the unit at its recovery
limit and otherwise starts the quiet period, after which the unit recovers, returns or is fenced again; the standby core takes
over for a fenced one; a fatal fault lets the writes begun finish, ends every job with E_INTERNAL and halts. (R465, R469,
R475, R476, R479, R489) -/
def Obligations.FaultRowsComplete : Prop :=
  ∀ (s : State), alive s = true →
    (∀ src u info, unitKnown u = true → srcUnitOk src u = true → s.chip.mode ≠ .halt → exec (.faultDetect src u info) s = .next (raiseFault s src u info)) ∧
    (∀ k, k < 174 → (getUnit s k).state = .fenced → (getUnit s k).acting = true →
      let t := actedIn s (fencerOf k) k
      (s.flt.recov.limit ≤ recoveries s (unitNo k) → 144 ≤ k → k < 148 →
        exec (.fenceActed k) s = .next (failRegion t (k - 144) (getUnit s k).src 0)) ∧
      (s.flt.recov.limit ≤ recoveries s (unitNo k) → (k < 144 ∨ 148 ≤ k) →
        exec (.fenceActed k) s = .next (failUnit t k (getUnit s k).src 0)) ∧
      (recoveries s (unitNo k) < s.flt.recov.limit →
        exec (.fenceActed k) s = .next (modUnit t k (fun x => { x with acting := false, quietFrom := some s.uptime })))) ∧
    (∀ k, k < 174 → s.chip.mode ≠ .boot → s.chip.mode ≠ .halt →
      ((getUnit s k).state = .fenced → (getUnit s k).acting = false → quietOver s (getUnit s k) = true →
        exec (.quietPeriodEnd k) s = .next (noteRecovery (modUnit (setUnit s k .recovering) k (fun x => { x with quietFrom := none }))
          (unitNo k))) ∧
      ((getUnit s k).state = .recovering →
        exec (.recoveryTestDone k true) s = .next (placeCopies (recovered (setUnit s k .online) k)) ∧
        let r := newRec s (getUnit s k).src 2 (unitNo k) 0 []
        let t := if handlerOf (unitNo k) = fencerOf k then s else record s (handlerOf (unitNo k)) r []
        exec (.recoveryTestDone k false) s = .next (modUnit (setUnit (record t (fencerOf k) r [k]) k .fenced) k (fun x => { x with
          acting := true, quietFrom := none })))) ∧
    (let a := s.chip.activeMgmt
     unitOnline s (172 + a) = false → unitOnline s (172 + (1 - a)) = true →
      exec .mgmtTakeover s = .next (releaseProc (forJobs (fun j => j.onChip && !j.isReleased) (fun x j => replayJob x j false)
        { s with chip := { s.chip with activeMgmt := 1 - a } }) (20 + a))) ∧
    (∀ io, s.flt.fatal = true → s.chip.mode ≠ .halt →
      exec (.fatalHalt io) s = .next (enterHalt (discardWrites (forJobs (fun _ => true) (fun x j =>
        endJob x j { Cpl.bare x eInternal 0 (if j.onChip then unitMgmt else j.unit) with replays := j.replays } 0 io.cplFault) (finishWrites s)))
        10 (lastLogSeq s)))

/-- O45: While the device is alive: an edge of a source moves its state and a level sets or clears its line; a claim answers the
best source of the processor, or 0 or 1023; completion by the owner returns the source or makes it pending again, storms after
1024, and by another counts as bad; writing IC_SRC sets it; a stormed source is polled after 1 ms. (R491, R492, R493, R497) -/
def Obligations.InterruptControllerRowsComplete : Prop :=
  ∀ (s : State), alive s = true →
    (∀ id, id < 1023 → icExists id = true →
      let rise := match (getIc s id).state with
        | .idle | .pending => IcState.pending
        | .active | .activePending => IcState.activePending
      (icEdge id = true → exec (.icSourceAssert id true) s = .next (icSettle (modIc s id (fun y => { y with state := rise })) id) ∧
        exec (.icSourceAssert id false) s = .next (icSettle s id)) ∧
      (icEdge id = false →
        ((getIc s id).asserted = false → exec (.icSourceAssert id true) s =
          .next (icSettle (modIc s id (fun y => { y with asserted := true, state := rise })) id)) ∧
        exec (.icSourceAssert id false) s = .next (icSettle (modIc s id (fun y => { y with asserted := false })) id))) ∧
    (∀ p, p < 22 →
      (∀ id pr, icBest s p s.intc.src = some (id, pr) →
        exec (.icClaim p) s = .next (emit (icNotify (modProc (modIc s id (fun x => { x with state := .active, proc := p })) p
          (fun x => { x with notified := false }))) (.readData (leBytes 4 id)))) ∧
      (icBest s p s.intc.src = none →
        exec (.icClaim p) s = .next (emit (icNotify (modProc s p (fun x => { x with notified := false })))
          (.readData (leBytes 4 (if (getProc s p).notified then 1023 else 0)))))) ∧
    (∀ p id, p < 22 →
      let x := getIc s id
      (((x.state ≠ .active ∧ x.state ≠ .activePending) ∨ x.proc ≠ p) →
        exec (.icComplete p id) s = .next (modProc s p (fun y => { y with badcomp := satInc 0xFFFF y.badcomp }))) ∧
      (x.proc = p → (icEdge id = true ∨ x.asserted = false) →
        (x.state = .active → exec (.icComplete p id) s = .next (icSettle (modIc s id (fun y => { y with
          state := .idle, count := 0 })) id)) ∧
        (x.state = .activePending → exec (.icComplete p id) s = .next (icSettle (modIc s id (fun y => { y with
          state := .pending, count := 0 })) id))) ∧
      (x.proc = p → (x.state = .active ∨ x.state = .activePending) → icEdge id = false → x.asserted = true →
        (x.count < 1023 → exec (.icComplete p id) s = .next (icSettle (modIc s id (fun y => { y with
          state := .pending, count := x.count + 1 })) id)) ∧
        (1023 ≤ x.count → exec (.icComplete p id) s = .next (icSettle (raiseFault (modIc s id (fun y => { y with
          state := .pending, count := x.count + 1, enable := false, storm := true, polled := s.uptime })) 0x3D 0xC4 id) id)))) ∧
    (∀ id (v : W32), 1 ≤ id → id < 1023 → exec (.icSrcEnable id v) s = .next (icSettle (modIc s id (fun y => { y with
      enable := v.getLsbD 31, priority := bits v.toNat 26 24, targets := v.truncate 22, count := 0,
      storm := y.storm && !v.getLsbD 31 })) id)) ∧
    (∀ id, id < 1023 → (getIc s id).storm = true → (getIc s id).polled + 1000000 ≤ s.uptime →
      exec (.intStormPoll id) s = .next (icSettle (modIc s id (fun y =>
        if y.asserted then { y with polled := s.uptime } else { y with enable := true, storm := false, count := 0, polled := s.uptime })) id))

/-- O46: An instruction that the life-cycle column allows acts on the boundary register or reads and writes the memories and fuses
as R34 and R526 say; TRST# puts the bypass instruction in place. (R462, R463, R464) -/
def Obligations.TestPortRowsComplete : Prop :=
  ∀ (s : State),
    exec .trstAssert s = .next { s with tap := { s.tap with instr := 0xFF } } ∧
    (alive s = true →
      let c := tapColumn s
      let sel := fun i => { s with tap := { s.tap with instr := i } }
      exec .bypass s = .next (sel 0xFF) ∧
      (∀ p, (tapOk c 0x00 = true → exec (.extest p) s = .next (emit { sel 0x00 with tap := { s.tap with instr := 0x00, boundary := p } } (.tap 0 p))) ∧
        (tapOk c 0x00 = false → exec (.extest p) s = .next (sel 0xFF)) ∧
        (tapOk c 0x01 = true → exec (.samplePreload p) s = .next { s with tap := { s.tap with instr := 0x01, boundary := p } }) ∧
        (tapOk c 0x01 = false → exec (.samplePreload p) s = .next (sel 0xFF))) ∧
      (tapOk c 0x02 = true → exec .clamp s = .next (emit (sel 0x02) (.tap 2 s.tap.boundary))) ∧
      (tapOk c 0x02 = false → exec .clamp s = .next (sel 0xFF)) ∧
      (tapOk c 0x03 = true → exec .highz s = .next (emit (sel 0x03) (.tap 3 []))) ∧
      (tapOk c 0x03 = false → exec .highz s = .next (sel 0xFF)) ∧
      (tapOk c 0x40 = false → ∀ r, exec (.dbgAccess r) s = .next (sel 0xFF)) ∧
      (tapOk c 0x40 = true →
        let t := sel 0x40
        (∀ a n, exec (.dbgAccess (.almRead a n)) s = .next (emit t (.tap 0x40 (almBytes t a n)))) ∧
        (∀ a b, exec (.dbgAccess (.imageWrite true a b)) s =
            .next { t with alm := { t.alm with imageB := patch t.alm.imageB a b (12 * 2 ^ 20) } } ∧
          exec (.dbgAccess (.imageWrite false a b)) s =
            .next { t with alm := { t.alm with imageA := patch t.alm.imageA a b (12 * 2 ^ 20) } }) ∧
        (∀ a n, (a + n ≤ 0x240 ∨ 0x260 ≤ a) →
          exec (.dbgAccess (.fuseRead a n)) s = .next (emit t (.tap 0x40 ((List.range n).map (fun i => byteGet t.fuses (a + i)))))) ∧
        (∀ a n, 0x240 ≤ a → a + n ≤ 0x260 →
          exec (.dbgAccess (.fuseRead a n)) s = .next (emit t (.tap 0x40 (List.replicate n 0)))) ∧
        (∀ k a n, exec (.dbgAccess (.scratchRead k a n)) s = .next (emit t (.tap 0x40 (bytesGet (getCell t k).scratch a n)))) ∧
        (∀ k a b, exec (.dbgAccess (.scratchWrite k a b)) s =
          .next (modCell t k (fun x => { x with scratch := bytesSet x.scratch a b }))) ∧
        (∀ k a w, exec (.dbgAccess (.microWrite k a w)) s =
          .next (modCell t k (fun x => { x with store := mapSet 0 x.store (a % 4096) w }))) ∧
        (∀ a n, exec (.dbgAccess (.hdmRead a n)) s = .next (emit t (.tap 0x40 (bytesGet t.hdm.mem a n)))) ∧
        (∀ a b, exec (.dbgAccess (.hdmWrite a b)) s = .next (hdmWrite t a b))) ∧
      (tapOk c 0x41 = false → ∀ a b, exec (.dbgFuse a b) s = .next (sel 0xFF)) ∧
      (tapOk c 0x41 = true → ∀ a b,
        (a = 0x240 → exec (.dbgFuse a b) s = .next (fuseProg [] (drew' (sel 0x41) 32) 0x240 (drawBytes (sel 0x41) 32))) ∧
        (a ≠ 0x240 → dbgFields.any (fun f => decide (f.1 ≤ a) && decide (a + b.length ≤ f.1 + f.2)) = true →
          exec (.dbgFuse a b) s = .next (fuseProg [] (sel 0x41) a b)) ∧
        (a ≠ 0x240 → dbgFields.any (fun f => decide (f.1 ≤ a) && decide (a + b.length ≤ f.1 + f.2)) = false →
          exec (.dbgFuse a b) s = .next (sel 0x41))))

/-- O47: For every command c, every queue rest and every state s, a step of s with c in front of rest is exec of c on s with the
queue rest. (95_what_each_step_holds.md) -/
def Obligations.StepRunsTheFrontCommand : Prop :=
  ∀ (s : State) (c : Instr) (rest : List Instr),
    step { s with pending := c :: rest } = exec c { s with pending := rest }

/-- O48: With no command waiting, a step answers the state in which one nanosecond has passed (clockTick): the model's own choice,
log entry 2. The time since power-on counts one, but where the steering of the timebase owes it a nanosecond: that step counts
the timebase alone. The queue stays empty. (R3) -/
def Obligations.EmptyQueueLetsTimePass : Prop :=
  ∀ (s : State), s.pending = [] →
    step s = .next (clockTick s) ∧ (clockTick s).pending = [] ∧
    ((alive s = false ∨ tickDue s.tb = false) → (clockTick s).uptime = s.uptime + 1) ∧
    (alive s = true → tickDue s.tb = true →
      clockTick s = { s with tb := tickOnce { s.tb with steerAcc := s.tb.steerAcc - 1000000000 } })

/-- O49: Right after a power-on reset the device is in BOOT with the drained flag clear, no slice exists and every queue pair is
disabled with its indexes at 0, the timebase is unset and UNTIMED, no lane is paired and no card present, no fault or ceremony
stands, BYPASS is selected, the memories and the queue of commands list nothing, and CHIP_ID reads 0x4128B1 in its upper 24
bits. The Almanac and the fuses at their first power-on are the model's choice (log entry 3). (R42, R94, R533, R124, R353,
R448, R463) -/
def Obligations.ResetLeavesBoot : Prop :=
  let s := State.reset
  s.pending = [] ∧ s.chip.mode = .boot ∧ s.chip.drained = false ∧ s.chip.viral = false ∧ s.chip.d3hot = false ∧
    s.link.up = false ∧ s.hdm.committed = false ∧ s.hdm.size = 0 ∧ s.jobs = [] ∧ s.cer = none ∧ s.flt.fatal = false ∧
    s.pins.alertN = false ∧ s.pins.smbAlertN = false ∧ s.tb.set = false ∧ s.tb.cond = .untimed ∧ s.tap.instr = 0xFF ∧
    s.tap.voted = false ∧
    (∀ n, (getSlice s n).state = .absent) ∧ (∀ n q, (getQp s n q).enable = false ∧ (getQp s n q).sqTail = 0 ∧
      (getQp s n q).sqHead = 0 ∧ (getQp s n q).cqHead = 0 ∧ (getQp s n q).cqTail = 0 ∧ (getQp s n q).stopped = false) ∧
    (∀ n, (getUnit s n).state = .online) ∧ (∀ n, (getDom s n).state = 0) ∧ (∀ n, (getCard s n).state = 0) ∧
    (∀ n k, getX (getCell s n) k = 0 ∧ getV (getCell s n) k = 0 ∧ tagX (getCell s n) k = 0) ∧
    (∀ a, mapGet 0 s.fuses a = 0) ∧ ∃ v, readReg s 0 = some (32, v) ∧ v / 2 ^ 8 = 0x4128B1

/-- O50: At reset the stores of the fuse array and of the HDM window are in canonical form: addresses strictly rising, no entry
equal to what an unlisted address reads as. (R95, R448) -/
def Obligations.MemoriesAreCanonicalAtReset : Prop :=
  mapWf 0 State.reset.fuses = true ∧ mapWf 0 State.reset.hdm.mem = true

/-- O51: If the stores of the fuse array and of the HDM window are in canonical form, with addresses strictly rising and no entry
equal to what an unlisted address reads as, they are so after every step, so that equal memories are equal data. (R95, R96,
R448) -/
def Obligations.MemoriesStayCanonical : Prop :=
  ∀ (s t : State), mapWf 0 s.fuses = true → mapWf 0 s.hdm.mem = true → step s = .next t →
    mapWf 0 t.fuses = true ∧ mapWf 0 t.hdm.mem = true

/-- O52: Every fuse bit that reads 1 before a step reads 1 after it: no command of any family, no reset, no life-cycle change and
no debug access returns a programmed bit to 0. (R448, R453) -/
def Obligations.FuseBitsStaySet : Prop :=
  ∀ (f : FMap Byte) (s t : State), fusesHold f s → step s = .next t → fusesHold f t

/-- O53: Whatever a command does, the commands that wait behind it stay as they are, and time passes only on an empty queue.
(95_what_each_step_holds.md) -/
def Obligations.CommandsLeaveTheQueue : Prop :=
  ∀ (c : Instr) (s t : State), exec c s = .next t → t.pending = s.pending ∧ t.uptime = s.uptime

/-- O54: Ordinary data never ends a run: a command whose operands name existing units is answered with a next state in every state
of the machine, and only a command that names a unit that does not exist stops, with the fault noSuchUnit.
(95_what_each_step_holds.md) -/
def Obligations.WellFormedCommandsAreAnswered : Prop :=
  ∀ (c : Instr) (s : State),
    (c.wf = true → ∃ t, exec c s = .next t) ∧ (∀ r, exec c s ≠ .refused r) ∧ (∀ f, exec c s = .fault f → f = .noSuchUnit)

/-- O55: A microword is correct when the XOR of bits 47:24 and P1 is 0 and the XOR of bits 23:0 is 0, that is, when P1 is the XOR
of bits 47:24 and P0 the XOR of bits 23:1. On every fetch both are checked: the row of a word of any OP that fails either
check does not execute it, and the cell takes the parity machine check. (R202) -/
def Obligations.BadWordsAreMachineChecks : Prop :=
  ∀ (s : State) (n : Nat), n < 128 → cellRuns s n = true → gateEntry (getCell s n).pc = false →
    let w := mapGet 0 (getCell s n).store (getCell s n).pc
    let xorOf := fun (l k : Nat) => (List.range k).foldl (fun b i => Bool.xor b (w.getLsbD (l + i))) false
    (wParityOk w = true ↔ (w.getLsbD 1 = xorOf 24 24 ∧ w.getLsbD 0 = xorOf 1 23)) ∧
    (wParityOk w = true ↔ (Bool.xor (xorOf 24 24) (w.getLsbD 1) = false ∧ xorOf 0 24 = false)) ∧
    (wParityOk w = false → ∀ r ∈ [
       (0x00, Instr.nop n), (0x01, Instr.add n), (0x02, Instr.sub n), (0x03, Instr.addi n), (0x04, Instr.andOp n), (0x05, Instr.orOp n),
       (0x06, Instr.xor n), (0x07, Instr.shl n), (0x08, Instr.shr n), (0x09, Instr.sar n), (0x0A, Instr.mul n), (0x0B, Instr.mulhu n),
       (0x0C, Instr.lds n), (0x0D, Instr.cmp n), (0x0E, Instr.ld n), (0x0F, Instr.st n), (0x10, Instr.mfc n), (0x11, Instr.mtc n),
       (0x12, Instr.call n), (0x13, Instr.ret n), (0x14, Instr.msg n), (0x16, Instr.dmain n), (0x17, Instr.dmaout n), (0x18, Instr.loadkey n),
       (0x1A, Instr.schk n), (0x1B, Instr.hinit n), (0x1C, Instr.habs n), (0x1D, Instr.hsqz n), (0x1E, Instr.gadget n), (0x1F, Instr.unmask n),
       (0x20, Instr.ntt n), (0x21, Instr.intt n), (0x22, Instr.pmul n), (0x23, Instr.pmac n), (0x24, Instr.padd n), (0x25, Instr.psub n),
       (0x28, Instr.vld n), (0x29, Instr.vst n), (0x2A, Instr.vbcast n), (0x2B, Instr.vext n), (0x2C, Instr.vadd n), (0x2D, Instr.vsub n),
       (0x2E, Instr.vaddm n), (0x2F, Instr.vsubm n), (0x30, Instr.vadds n), (0x31, Instr.vsubs n), (0x32, Instr.vmul n), (0x33, Instr.vmulhr n),
       (0x34, Instr.vrshr n), (0x35, Instr.vsh n), (0x36, Instr.vand n), (0x37, Instr.vor n), (0x38, Instr.vxor n), (0x39, Instr.vcmp n),
       (0x3A, Instr.vcomp n), (0x3B, Instr.vdecomp n), (0x3C, Instr.vperm n), (0x3D, Instr.vgath n), (0x3E, Instr.vscat n)],
      wOp w = r.1 → exec r.2 s = .next (machineCheck s n 1 (wCond w) (custPc (getCell s n))))

/-- O56: When a level source deasserts after its claim, its ASSERTED reads 0 while it stays ACTIVE; its handler completes it, it
becomes IDLE, and no processor is offered it again: one claim and one completion, and no fault. (R494) -/
def Obligations.DeassertedSourceCostsOneClaim : Prop :=
  ∀ (s : State) (id p : Nat), id < 1023 → p < 22 → alive s = true → icExists id = true → icEdge id = false →
    (getIc s id).state = .active → (getIc s id).proc = p →
    ∃ t u, exec (.icSourceAssert id false) s = .next t ∧ (getIc t id).asserted = false ∧ (getIc t id).state = .active ∧
      exec (.icComplete p id) t = .next u ∧ (getIc u id).state = .idle ∧ (getIc u id).asserted = false ∧
      (getProc u p).badcomp = (getProc s p).badcomp ∧ u.flt = s.flt ∧
      (∀ q pr, icBest u q u.intc.src ≠ some (id, pr))

/-- O57: A legal scalar word with COND 0 whose NEXT is an ordinary address of the same window changes, of the whole machine, only
its own cell; there it changes only X[A] with its tag, Z, N and C, and the sequencing of the word. CMP changes no register;
the logic, shift, multiply and LDS words keep C; every other scalar and vector register, VZ, the scratch memory, its tags, the
block window, the control registers, the stack and the microstore stay as they are. (R205, R212, R213) -/
def Obligations.ScalarWordsChangeTheirDestinationOnly : Prop :=
  ∀ (s : State) (n : Nat) (w : MicroWord), wordAt s n w = true → wCond w = 0 → wNext w ≠ 1 →
    (custPc (getCell s n) = false ∨ 0xC00 ≤ wNext w) →
    let c := getCell s n
    let frame := fun (i : Instr) (dest keepsC : Bool) => ∃ t, exec i s = .next t ∧ t = { s with cells := t.cells } ∧
      (∀ m, m ≠ n → getCell t m = getCell s m) ∧
      (∀ k, (dest = false ∨ k ≠ wA w) → getX (getCell t n) k = getX c k ∧ tagX (getCell t n) k = tagX c k) ∧
      (keepsC = true → (getCell t n).c = c.c) ∧
      ∃ d, getCell t n = d ∧ d.pc = wNext w ∧ d = { c with
        x := d.x, xt := d.xt, z := d.z, n := d.n, c := d.c, pc := d.pc, hold := false, stalled := false, wd := 0 }
    (wOp w = 0x01 → formRRR w = true → (joinTag (tagX c (wB w)) (tagX c (wC w))).isSome = true → frame (.add n) true false) ∧
    (wOp w = 0x02 → formRRR w = true → (joinTag (tagX c (wB w)) (tagX c (wC w))).isSome = true → frame (.sub n) true false) ∧
    (wOp w = 0x03 → reg (wA w) = true → reg (wB w) = true → wC w = 0 → tagX c (wB w) = 0 → frame (.addi n) true false) ∧
    (wOp w = 0x04 → formRRR w = true → (oneTag (tagX c (wB w)) (tagX c (wC w))).isSome = true → frame (.andOp n) true true) ∧
    (wOp w = 0x05 → formRRR w = true → tagX c (wB w) = 0 → tagX c (wC w) = 0 → frame (.orOp n) true true) ∧
    (wOp w = 0x06 → formRRR w = true → (joinTag (tagX c (wB w)) (tagX c (wC w))).isSome = true → frame (.xor n) true true) ∧
    (formShift w = true → (oneTag (tagX c (wB w)) (shiftTag c w)).isSome = true →
      (wOp w = 0x07 → frame (.shl n) true true) ∧ (wOp w = 0x08 → frame (.shr n) true true) ∧
      (wOp w = 0x09 → frame (.sar n) true true)) ∧
    (wOp w = 0x0A → formRRR w = true → tagX c (wB w) = 0 → tagX c (wC w) = 0 → frame (.mul n) true true) ∧
    (wOp w = 0x0B → formRRR w = true → tagX c (wB w) = 0 → tagX c (wC w) = 0 → frame (.mulhu n) true true) ∧
    (wOp w = 0x0C → reg (wA w) = true → wB w = 0 → wC w = 0 → tagX c (wA w) = 0 → frame (.lds n) true true) ∧
    (wOp w = 0x0D → wA w = 0 → reg (wB w) = true → reg (wC w) = true → wImm w = 0 → tagX c (wB w) = 0 → tagX c (wC w) = 0 →
      frame (.cmp n) false false)

/-- O58: A legal ST or VST word with COND 0 whose NEXT is an ordinary address of the same window changes, of the whole machine,
only its own cell; there every byte of the data space outside the 8 or 16 bytes at the effective address reads as before,
every line but the one stored to keeps its tag, and registers, flags, stack and microstore stay as they are. (R205, R214,
R219, R230) -/
def Obligations.CellStoresChangeTheirBytesOnly : Prop :=
  ∀ (s : State) (n : Nat) (w : MicroWord), wordAt s n w = true → wCond w = 0 → wNext w ≠ 1 →
    (custPc (getCell s n) = false ∨ 0xC00 ≤ wNext w) →
    let c := getCell s n
    let frame := fun (i : Instr) (a len : Nat) => ∃ t, exec i s = .next t ∧ t = { s with cells := t.cells } ∧
      (∀ m, m ≠ n → getCell t m = getCell s m) ∧
      (∀ x, (x < a ∨ a + len ≤ x) → cread (getCell t n) x 1 = cread c x 1) ∧
      (∀ x, x / 64 ≠ a / 64 → tagAt (getCell t n) x = tagAt c x) ∧
      ∃ d, getCell t n = d ∧ d.pc = wNext w ∧ d = { c with
        scratch := d.scratch, win := d.win, lt := d.lt, pc := d.pc, hold := false, stalled := false, wd := 0 }
    (wOp w = 0x0F → wA w = 0 → reg (wB w) = true → reg (wC w) = true → tagX c (wB w) = 0 →
      storeTagOk c (eaScalar c w) (tagX c (wC w)) = true → accessKind c (eaScalar c w) 8 = 0 →
      frame (.st n) (eaScalar c w) 8) ∧
    (wOp w = 0x29 → reg (wA w) = true → reg (wB w) = true → wC w = 0 → tagX c (wB w) = 0 →
      storeTagOk c (eaVector c w) (tagV c (wA w)) = true → accessKind c (eaVector c w) 16 = 0 →
      frame (.vst n) (eaVector c w) 16)

/-- O59: A host write to the window changes, of the whole machine, only the window; every byte outside the bytes it writes, which
stay within one line, reads as before, and every other line keeps its poison. (R95, R96, R98) -/
def Obligations.HdmWritesChangeTheirBytesOnly : Prop :=
  ∀ (s : State) (addr : Nat) (b : List Byte), ∃ t, exec (.hdmAccess addr (some b)) s = .next t ∧
    t = { s with hdm := t.hdm } ∧
    (∀ a, (a < addr - s.hdm.base.toNat ∨ addr - s.hdm.base.toNat + b.length ≤ a ∨
        a / 64 ≠ (addr - s.hdm.base.toNat) / 64) → byteGet t.hdm.mem a = byteGet s.hdm.mem a) ∧
    (∀ l, l ≠ (addr - s.hdm.base.toNat) / 64 → mapGet false t.hdm.poison l = mapGet false s.hdm.poison l) ∧
    (∀ p, p ≠ (addr - s.hdm.base.toNat) / 2 ^ 21 → mapGet false t.hdm.devBias p = mapGet false s.hdm.devBias p) ∧
    t.hdm.size = s.hdm.size ∧ t.hdm.committed = s.hdm.committed ∧ t.hdm.base = s.hdm.base ∧ t.hdm.span = s.hdm.span

/-- O60: While the chip mode is UMBRA, a descriptor that fails admission check 4 completes with E_UMBRA instead of E_MODE, and in
every other mode with E_MODE; a refusal at any other check never carries either code, whatever the mode. (R57) -/
def Obligations.UmbraNamesItsRefusal : Prop :=
  ∀ (s : State) (n : Nat) (d : Desc) (label : List Byte),
    (∀ st det, admission s n d label = .refused st det → (st = eMode ∨ st = eUmbra) →
      det = checkDetail 4 255 ∧ st = if s.chip.mode = .umbra then eUmbra else eMode) ∧
    (opDefined s n d = true →
      firstBad ((40, usesKey2 s n d && d.opcode == 0x020B && (key2 s n d).2.any (fun r => r.alg != 0x0C01)) ::
        (255, d.opcode == 0x0204 && label != [] && !labelOk d.alg label) :: check2 s n d (key1 s n d).2) = none → firstBad (check3 d) = none → check4 s n d (key1 s n d).2 = false →
      (s.chip.mode = .umbra → admission s n d label = .refused eUmbra (checkDetail 4 255)) ∧
      (s.chip.mode ≠ .umbra → admission s n d label = .refused eMode (checkDetail 4 255)))
end

