-- ==== Sys2Proof/Laws/Cells.lean ====
section
/-! SUPPORT. What running a word can do: one lemma for each way an operation ends, and the store of the words it is read from. -/

namespace Sys2Proof.Laws

open Sys2Proof Machine

/-- What becomes of the cell when its operation ends so. -/
def afterWord (s : State) (n : Nat) (w : MicroWord) : WordEnd → State
  | .done c => cellGoes s n w c
  | .goto c pc => enterPc (modCell s n (fun _ => c)) n pc
  | .stall => modCell s n (fun x => if x.stalled then x else { x with stalled := true, wd := 0 })
  | .check c cause => machineCheck (modCell s n (fun _ => c)) n cause (wCond w) (custPc (getCell s n))
  | .restart elem addr =>
    if (getCell s n).fValid then machineCheck s n 6 (wCond w) (custPc (getCell s n))
    else enterPc (modCell s n (fun x => recordFault x true 1 elem addr)) n 2

/-- The parts of `wordAt`. -/
theorem wordAt_iff (s : State) (n : Nat) (w : MicroWord) : wordAt s n w = true ↔
    n < 128 ∧ cellRuns s n = true ∧ gateEntry (getCell s n).pc = false ∧
      mapGet 0 (getCell s n).store (getCell s n).pc = w ∧ wParityOk w = true ∧ condLegal w = true := by
  simp [wordAt, Bool.and_eq_true, and_assoc]

/-- A legal word runs its operation. -/
theorem runWord_of_wordAt {s : State} {n : Nat} {w : MicroWord} (h : wordAt s n w = true)
    (f : CellCtx → MicroWord → Cell → WordEnd) : runWord f s n = afterWord s n w (f (cellCtx s n) w (getCell s n)) := by
  obtain ⟨_, _, _, hw, hp, hc⟩ := (wordAt_iff s n w).1 h
  subst hw
  unfold runWord
  simp only [hp, hc, Bool.not_true, Bool.false_eq_true, if_false]
  cases f (cellCtx s n) (mapGet 0 (getCell s n).store (getCell s n).pc) (getCell s n) <;> rfl

/-- A row of the microword table at a legal word with its OP answers what the operation does. -/
theorem runRow_of_wordAt {s : State} {n : Nat} {w : MicroWord} (h : wordAt s n w = true) {op : Nat} (ho : wOp w = op)
    (f : CellCtx → MicroWord → Cell → WordEnd) :
    runRow op f n s = .next (afterWord s n w (f (cellCtx s n) w (getCell s n))) := by
  obtain ⟨hn, hr, hg, hw, -, -⟩ := (wordAt_iff s n w).1 h
  subst hw
  unfold runRow known doIf
  simp only [hn, hr, hg, ho, runWord_of_wordAt h f, decide_true, Bool.not_false, Bool.and_self, beq_self_eq_true, if_true]

/-- An access list without faults lets the operation go on. -/
theorem guardAccess_ok {c : Cell} {k : Nat} {as : List Nat} (h : ∀ a ∈ as, accessKind c a k = 0) (e : WordEnd) :
    guardAccess c k as e = e := by
  have none_of : ∀ (p : Nat → Bool) (i : Nat) (l : List Nat), p 0 = false → (∀ a ∈ l, accessKind c a k = 0) →
      firstFault c k p i l = none := by
    intro p i l hp
    induction l generalizing i with
    | nil => intro _; rfl
    | cons a l ih =>
      intro hl
      have ha : accessKind c a k = 0 := hl a (by simp)
      simp only [firstFault, ha, hp, Bool.false_eq_true, if_false]
      exact ih (i + 1) (fun b hb => hl b (by simp [hb]))
  unfold guardAccess guardForbidden
  rw [none_of (fun k => decide (2 ≤ k)) 0 as rfl h, none_of (fun k => k == 1) 0 as rfl h]

/-- An access list in which nothing is forbidden lets the operation go on. -/
theorem guardForbidden_ok {c : Cell} {k : Nat} {as : List Nat} (h : ∀ a ∈ as, accessKind c a k = 0) (e : WordEnd) :
    guardForbidden c k as e = e := by
  have none_of : ∀ (i : Nat) (l : List Nat), (∀ a ∈ l, accessKind c a k = 0) →
      firstFault c k (fun x => decide (2 ≤ x)) i l = none := by
    intro i l
    induction l generalizing i with
    | nil => intro _; rfl
    | cons a l ih =>
      intro hl
      simp only [firstFault, hl a (by simp), Nat.reduceLeDiff, decide_false, Bool.false_eq_true, if_false]
      exact ih (i + 1) (fun b hb => hl b (by simp [hb]))
  unfold guardForbidden
  rw [none_of 0 as h]

/-- Operands that lie aligned in scratch let the polynomial unit go on. -/
theorem polyGuard_ok {c : Cell} {l : List (Nat × Nat)} (h : ∀ p ∈ l, p.1 % 4 = 0 ∧ p.1 + 4 * p.2 ≤ 0x10000) (e : WordEnd) :
    polyGuard c l e = e := by
  have : l.find? (fun p => p.1 % 4 != 0 || decide (0x10000 < p.1 + 4 * p.2)) = none := by
    rw [List.find?_eq_none]
    intro p hp
    obtain ⟨h1, h2⟩ := h p hp
    simp [h1]; omega
  unfold polyGuard; rw [this]

/-- A public tag joins any. -/
theorem joinTag_zero (t : Nat) : joinTag t 0 = some t := by unfold joinTag; simp; intro h; exact h.symm

/-- An unmasked polynomial word of one operand. -/
theorem runPoly_one {c : Cell} {w : MicroWord} {tf mul : Bool} {f : Nat → List Nat → List Nat → List Nat → List Nat} {t : Nat}
    (hf : polyForm c w tf mul = true) (ra : reg (wA w) = true) (rb : reg (wB w) = true) (hc : wC w = 0)
    (ta : tagX c (wA w) = 0) (tb : tagX c (wB w) = 0) (hm : bit (wImm w) 4 = false)
    (fa : (getX c (wA w)).toNat % 4 = 0 ∧ (getX c (wA w)).toNat + 4 * polyN w ≤ 0x10000)
    (fb : (getX c (wB w)).toNat % 4 = 0 ∧ (getX c (wB w)).toNat + 4 * polyN w ≤ 0x10000)
    (hb : polyTag c (getX c (wB w)).toNat (polyN w) = some t) (hs : polyStoreOk c (getX c (wA w)).toNat (polyN w) t = true) :
    runPoly w c tf mul false false f =
      .done (writePoly t c (getX c (wA w)).toNat (f 0 [] (readPoly c (getX c (wB w)).toNat (polyN w)) [])) := by
  unfold runPoly
  simp only [hf, ra, rb, hc, ta, tb, hm, hb, Bool.false_eq_true, if_false, beq_self_eq_true, Bool.and_self, Bool.not_false,
    Bool.true_or, if_true, joinTag_zero]
  rw [polyGuard_ok (by intro p hp; simp at hp; rcases hp with rfl | rfl <;> assumption)]
  simp [legalIf, hs]

/-- An unmasked polynomial word of two operands, and of three. -/
theorem runPoly_two {c : Cell} {w : MicroWord} {tf mul : Bool} {f : Nat → List Nat → List Nat → List Nat → List Nat} {t d u : Nat}
    (hf : polyForm c w tf mul = true) (ra : reg (wA w) = true) (rb : reg (wB w) = true) (rc : reg (wC w) = true)
    (ta : tagX c (wA w) = 0) (tb : tagX c (wB w) = 0) (tc : tagX c (wC w) = 0) (hm : bit (wImm w) 4 = false)
    (fa : (getX c (wA w)).toNat % 4 = 0 ∧ (getX c (wA w)).toNat + 4 * polyN w ≤ 0x10000)
    (fb : (getX c (wB w)).toNat % 4 = 0 ∧ (getX c (wB w)).toNat + 4 * polyN w ≤ 0x10000)
    (fc : (getX c (wC w)).toNat % 4 = 0 ∧ (getX c (wC w)).toNat + 4 * polyN w ≤ 0x10000)
    (hb : polyTag c (getX c (wB w)).toNat (polyN w) = some t) (hd : polyTag c (getX c (wC w)).toNat (polyN w) = some d)
    (hj : joinTag t d = some u) :
    (polyStoreOk c (getX c (wA w)).toNat (polyN w) u = true → runPoly w c tf mul false true f =
      .done (writePoly u c (getX c (wA w)).toNat
        (f 0 [] (readPoly c (getX c (wB w)).toNat (polyN w)) (readPoly c (getX c (wC w)).toNat (polyN w))))) ∧
    (∀ a v, polyTag c (getX c (wA w)).toNat (polyN w) = some a → joinTag u a = some v →
      polyStoreOk c (getX c (wA w)).toNat (polyN w) v = true → runPoly w c tf mul true true f =
      .done (writePoly v c (getX c (wA w)).toNat
        (f 0 (readPoly c (getX c (wA w)).toNat (polyN w)) (readPoly c (getX c (wB w)).toNat (polyN w))
          (readPoly c (getX c (wC w)).toNat (polyN w))))) := by
  refine ⟨fun hs => ?_, fun a v ha hv hs => ?_⟩
  all_goals
    unfold runPoly
    simp only [*, Bool.false_eq_true, if_false, beq_self_eq_true, Bool.and_self, Bool.not_true,
      Bool.false_or, if_true, joinTag_zero]
    rw [polyGuard_ok (by intro p hp; simp at hp; rcases hp with rfl | rfl | rfl <;> assumption)]
    simp [legalIf, *]

/-- Each share has one tag and may be stored where it goes. -/
theorem shares_fit {c : Cell} {a b n : Nat}
    (hs : ∀ i, i < 3 → ∃ t, polyTag c (b + i * 0x4000) n = some t ∧ polyStoreOk c (a + i * 0x4000) n t = true) :
    (List.range 3).all (fun i =>
      match polyTag c (b + i * 0x4000) n with
      | some t => polyStoreOk c (a + i * 0x4000) n t
      | none => false) = true := by
  rw [List.all_eq_true]
  intro i hi
  obtain ⟨t, h1, h2⟩ := hs i (by simpa using hi)
  simp [h1, h2]

/-- A masked polynomial word. -/
theorem runPoly_masked {c : Cell} {w : MicroWord} {tf mul needA useC : Bool}
    {f : Nat → List Nat → List Nat → List Nat → List Nat}
    (hf : polyForm c w tf mul = true) (ra : reg (wA w) = true) (rb : reg (wB w) = true)
    (hc : if useC then reg (wC w) = true ∧ tagX c (wC w) = 0 ∧ ((getX c (wC w)).toNat % 4 = 0 ∧ (getX c (wC w)).toNat + 4 * polyN w ≤ 0x10000)
        ∧ inBank 3 (getX c (wC w)).toNat (polyN w) = true ∧ polyTag c (getX c (wC w)).toNat (polyN w) = some 0 else wC w = 0)
    (ta : tagX c (wA w) = 0) (tb : tagX c (wB w) = 0) (hm : bit (wImm w) 4 = true)
    (fa : (getX c (wA w)).toNat % 4 = 0 ∧ (getX c (wA w)).toNat + 4 * polyN w ≤ 0x10000)
    (fb : (getX c (wB w)).toNat % 4 = 0 ∧ (getX c (wB w)).toNat + 4 * polyN w ≤ 0x10000)
    (ia : inBank 0 (getX c (wA w)).toNat (polyN w) = true) (ib : inBank 0 (getX c (wB w)).toNat (polyN w) = true)
    (hs : ∀ i, i < 3 → ∃ t, polyTag c ((getX c (wB w)).toNat + i * 0x4000) (polyN w) = some t ∧
      polyStoreOk c ((getX c (wA w)).toNat + i * 0x4000) (polyN w) t = true) :
    runPoly w c tf mul needA useC f = .done (polyShares w c (fun i =>
      f i (if needA then readPoly c ((getX c (wA w)).toNat + i * 0x4000) (polyN w) else [])
        (readPoly c ((getX c (wB w)).toNat + i * 0x4000) (polyN w))
        (if useC then readPoly c (getX c (wC w)).toNat (polyN w) else []))) := by
  have hall := shares_fit hs
  unfold runPoly polyShares
  cases useC with
  | false =>
    simp only [hf, ra, rb, hc, ta, tb, hm, ia, ib, Bool.false_eq_true, if_false, beq_self_eq_true, Bool.and_self, Bool.not_false,
    Bool.true_or, if_true] at hc ⊢
    rw [polyGuard_ok (by intro p hp; simp at hp; rcases hp with rfl | rfl <;> assumption)]
    simp only [hc, legalIf, beq_self_eq_true, Bool.and_self, if_true, Bool.true_and]
    exact if_pos hall
  | true =>
    simp only [if_true] at hc
    obtain ⟨rc, tc, fc, ic, pc⟩ := hc
    simp only [hf, ra, rb, rc, tc, ic, pc, ta, tb, hm, ia, ib, Bool.false_eq_true, if_false, beq_self_eq_true, Bool.and_self, Bool.not_true,
    Bool.false_or, if_true]
    rw [polyGuard_ok (by intro p hp; simp at hp; rcases hp with rfl | rfl | rfl <;> assumption)]
    simp only [legalIf, Bool.and_self, if_true, Bool.true_and]
    exact if_pos hall

end Sys2Proof.Laws
end

