-- ==== Sys2Proof/Laws/Commands.lean ====
section
/-! SUPPORT. What the frames of the Partas commands answer where they may run: one lemma for each. -/

namespace Sys2Proof.Laws

open Sys2Proof Machine

/-- A management command that may run answers what it makes of the state. -/
theorem runMgmt_of_mgmtAt {s : State} {job op : Nat} {j : Job} (h : mgmtAt s job op j = true) (f : Job → State) :
    runMgmt s job op f = .next (f j) := by
  simp only [mgmtAt, Bool.and_eq_true, decide_eq_true_eq] at h
  simp [runMgmt, h.1, h.2, doIf]

/-- An engine command that stands on the unit it needs does the same. -/
theorem runEngine_of_engineAt {s : State} {job op : Nat} {j : Job} (h : engineAt s job op j = true) {p : Job → Bool}
    (hp : p j = true) (f : Job → State) : runEngine s job op p f = .next (f j) := by
  simp only [engineAt, Bool.and_eq_true, decide_eq_true_eq] at h
  obtain ⟨⟨⟨h1, h2⟩, h3⟩, h4⟩ := h
  simp [runEngine, h1, h2, h3, h4, hp, doIf]

/-- A command on a cell. -/
theorem runCell_of_onCellAt {s : State} {job op : Nat} {j : Job} (h : onCellAt s job op j = true) (f : Job → State) :
    runCell s job op f = .next (f j) := by
  simp only [onCellAt, Bool.and_eq_true] at h
  exact runEngine_of_engineAt h.1 h.2 f

/-- A command that a cell serves for the family of its key. -/
theorem runCellBne_cell {s : State} {job op : Nat} {j : Job} (h : onCellAt s job op j = true) (hf : bneFam j.alg = false)
    (f g : Job → State) : runCellBne s job op f g = .next (f j) := by
  simp only [onCellAt, Bool.and_eq_true] at h
  unfold runCellBne
  rw [runEngine_of_engineAt h.1 (by simp [hf, h.2])]
  simp [hf]

/-- A command that a BNE serves for the family of its key. -/
theorem runCellBne_bne {s : State} {job op : Nat} {j : Job} (h : engineAt s job op j = true) (hb : atBne s j = true)
    (hf : bneFam j.alg = true) (f g : Job → State) : runCellBne s job op f g = .next (g j) := by
  unfold runCellBne
  rw [runEngine_of_engineAt h (by simpa [hf, atBne] using hb)]
  simp [hf]

/-- Input that arrived whole is passed on. -/
theorem withInput_of {s : State} {j : Job} {io : JobIo} {b : List Byte} (h : inputIs j io b = true) (f : List Byte → State) :
    withInput s j io f = withRead s j (f b) := by
  simp only [inputIs, Bool.and_eq_true, decide_eq_true_eq] at h
  simp [withInput, h.1, h.2]

/-- The same for an engine. -/
theorem engineInput_of {s : State} {j : Job} {io : JobIo} {b : List Byte} (h : inputIs j io b = true) (f : List Byte → State) :
    engineInput s j io f = withRead s j (f b) := by
  simp only [inputIs, Bool.and_eq_true, decide_eq_true_eq] at h
  simp [engineInput, h.1, h.2]

/-- Keys that resolve are passed on. -/
theorem withKeys_of {s : State} {j : Job} (h : keysResolve s j = true) (f : State → List (List Byte) → State) :
    withKeys s j f = f (keysHeld s j) (keyValues s j) := by
  cases hv : j.vals with
  | some vs => simp [withKeys, keysHeld, keyValues, hv]
  | none =>
    rw [keysResolve, hv] at h
    have h : kmacTurn s j = true ∧ j.keys.all (fun k => (resolveKey s j k).isSome) = true := by simpa using h
    have hn : j.keys.find? (fun k => (resolveKey s j k).isNone) = none := by
      rw [List.find?_eq_none]
      intro k hk
      have := List.all_eq_true.1 h.2 k hk
      simp [Option.isSome_iff_ne_none.1 this]
    simp only [withKeys, keysHeld, keyValues, hv, hn, h.1]
    simp

/-- An expander that serves gives its bytes. -/
theorem withDraw_of {s : State} {j : Job} {r : Nat} (h : jobDrbg s j = some r) (io : JobIo) (n : Nat)
    (f : State → List Byte → State) : withDraw s j io n f = f (drawn s r n) (drawnBytes s r n) := by
  unfold jobDrbg at h
  simp only [withDraw, withRng, h]
  rfl

end Sys2Proof.Laws
end

