-- ==== Sys2Proof/Laws/Maps.lean ====
section
/-! SUPPORT. The laws of the sparse stores: what a read gives after a write, and that every operation keeps the canonical form. -/

namespace Sys2Proof.Laws

open Sys2Proof Machine

variable {α : Type}

/-! ### Reads after writes -/

@[simp] theorem mapGet_nil (d : α) (k : Nat) : mapGet d [] k = d := rfl

theorem mapGet_erase_same (d : α) (m : FMap α) (k : Nat) : mapGet d (mapErase m k) k = d := by
  induction m with
  | nil => rfl
  | cons e m ih =>
    obtain ⟨k', v⟩ := e
    by_cases h : k' = k <;> simp [mapErase, mapGet, h, ih]

theorem mapGet_erase_other (d : α) (m : FMap α) {k j : Nat} (h : j ≠ k) : mapGet d (mapErase m k) j = mapGet d m j := by
  induction m with
  | nil => rfl
  | cons e m ih =>
    obtain ⟨k', v⟩ := e
    by_cases hk : k' = k
    · subst hk; simp [mapErase, mapGet, ih, Ne.symm h]
    · simp [mapErase, mapGet, hk, ih]

theorem mapGet_insert_other (d : α) (m : FMap α) {k j : Nat} (v : α) (h : j ≠ k) :
    mapGet d (mapInsert m k v) j = mapGet d m j := by
  induction m with
  | nil => simp [mapInsert, mapGet, Ne.symm h]
  | cons e m ih =>
    obtain ⟨k', v'⟩ := e
    by_cases hk : k < k'
    · simp [mapInsert, mapGet, hk, Ne.symm h]
    · simp [mapInsert, mapGet, hk, ih]

/-- No entry of the store has key `k`. -/
def Fresh (m : FMap α) (k : Nat) : Prop := ∀ e ∈ m, e.1 ≠ k

theorem fresh_erase (m : FMap α) (k : Nat) : Fresh (mapErase m k) k := by
  induction m with
  | nil => intro e he; cases he
  | cons e m ih =>
    obtain ⟨k', v⟩ := e
    by_cases h : k' = k
    · simpa [mapErase, h] using ih
    · intro x hx
      simp only [mapErase, h, if_false, List.mem_cons] at hx
      rcases hx with rfl | hx
      · exact h
      · exact ih x hx

theorem erase_of_fresh {m : FMap α} {k : Nat} (h : Fresh m k) : mapErase m k = m := by
  induction m with
  | nil => rfl
  | cons e m ih =>
    obtain ⟨k', v⟩ := e
    have h1 : k' ≠ k := h (k', v) (by simp)
    simp [mapErase, h1, ih (fun x hx => h x (by simp [hx]))]

theorem get_insert_of_fresh (d : α) {m : FMap α} {k : Nat} (v : α) (h : Fresh m k) : mapGet d (mapInsert m k v) k = v := by
  induction m with
  | nil => simp [mapInsert, mapGet]
  | cons e m ih =>
    obtain ⟨k', v'⟩ := e
    have h1 : k' ≠ k := h (k', v') (by simp)
    by_cases hk : k < k'
    · simp [mapInsert, mapGet, hk]
    · simp [mapInsert, mapGet, hk, h1, ih (fun x hx => h x (by simp [hx]))]

theorem erase_insert_of_fresh {m : FMap α} {k : Nat} (v : α) (h : Fresh m k) : mapErase (mapInsert m k v) k = m := by
  induction m with
  | nil => simp [mapInsert, mapErase]
  | cons e m ih =>
    obtain ⟨k', v'⟩ := e
    have h1 : k' ≠ k := h (k', v') (by simp)
    have ht : Fresh m k := fun x hx => h x (by simp [hx])
    by_cases hk : k < k'
    · simp [mapInsert, mapErase, hk, h1, erase_of_fresh ht]
    · simp [mapInsert, mapErase, hk, h1, ih ht]

section Sets

variable [DecidableEq α]

/-- A read gives what was written last. -/
@[simp] theorem mapGet_set_same (d : α) (m : FMap α) (k : Nat) (v : α) : mapGet d (mapSet d m k v) k = v := by
  unfold mapSet
  split
  · rename_i h; rw [mapGet_erase_same, h]
  · exact get_insert_of_fresh d v (fresh_erase m k)

/-- A write changes no other key. -/
theorem mapGet_set_other (d : α) (m : FMap α) {k j : Nat} (v : α) (h : j ≠ k) : mapGet d (mapSet d m k v) j = mapGet d m j := by
  unfold mapSet
  split
  · exact mapGet_erase_other d m h
  · rw [mapGet_insert_other d _ v h, mapGet_erase_other d m h]

/-- The last write of a key counts. -/
@[simp] theorem mapSet_set (d : α) (m : FMap α) (k : Nat) (v u : α) : mapSet d (mapSet d m k v) k u = mapSet d m k u := by
  have he : mapErase (mapSet d m k v) k = mapErase m k := by
    unfold mapSet
    split
    · exact erase_of_fresh (fresh_erase m k)
    · exact erase_insert_of_fresh v (fresh_erase m k)
  simp only [mapSet] at he ⊢
  rw [he]

@[simp] theorem mapGet_mod_same (d : α) (m : FMap α) (k : Nat) (f : α → α) : mapGet d (mapMod d m k f) k = f (mapGet d m k) :=
  mapGet_set_same d m k _

theorem mapGet_mod_other (d : α) (m : FMap α) {k j : Nat} (f : α → α) (h : j ≠ k) : mapGet d (mapMod d m k f) j = mapGet d m j :=
  mapGet_set_other d m _ h

@[simp] theorem mapMod_mod (d : α) (m : FMap α) (k : Nat) (f g : α → α) :
    mapMod d (mapMod d m k f) k g = mapMod d m k (fun x => g (f x)) := by
  simp [mapMod]

/-- Changing each listed value keeps what the keys read, given that it keeps the default. -/
theorem mapGet_all (d : α) (f : Nat → α → α) (hd : ∀ k, f k d = d) (m : FMap α)
    (hk : List.Pairwise (fun a b => a.1 ≠ b.1) m) (k : Nat) : mapGet d (mapAll d f m) k = f k (mapGet d m k) := by
  induction m with
  | nil => simp [mapAll, hd]
  | cons e m ih =>
    obtain ⟨k', v⟩ := e
    have ih' := ih (List.pairwise_cons.1 hk).2
    by_cases hv : f k' v = d
    · by_cases h : k' = k
      · subst h
        have hn : mapGet d m k' = d := by
          have := (List.pairwise_cons.1 hk).1
          clear ih ih' hk
          induction m with
          | nil => rfl
          | cons x m jh =>
            obtain ⟨j, u⟩ := x
            have hj : j ≠ k' := fun hc => this (j, u) (by simp) hc.symm
            simp [mapGet, hj]
            exact jh (fun y hy => this y (by simp [hy]))
        simp [mapAll, hv, mapGet, ih', hn, hd]
      · simp [mapAll, hv, mapGet, h, ih']
    · by_cases h : k' = k
      · subst h; simp [mapAll, hv, mapGet]
      · simp [mapAll, hv, mapGet, h, ih']

/-! ### The canonical form -/

/-- Keys above a bound, rising, and no default listed. -/
theorem wfFrom_cons (d : α) (b : Option Nat) (k : Nat) (v : α) (m : FMap α) :
    mapWfFrom d b ((k, v) :: m) = true ↔ (∀ x, b = some x → x < k) ∧ v ≠ d ∧ mapWfFrom d (some k) m = true := by
  cases b <;> simp [mapWfFrom, and_assoc]

/-- The keys of a store in canonical form lie above its bound. -/
theorem wfFrom_above (d : α) {b : Nat} {m : FMap α} (h : mapWfFrom d (some b) m = true) : ∀ e ∈ m, b < e.1 := by
  induction m generalizing b with
  | nil => intro e he; cases he
  | cons e m ih =>
    obtain ⟨k, v⟩ := e
    obtain ⟨h1, -, h3⟩ := (wfFrom_cons d _ k v m).1 h
    intro x hx
    rcases List.mem_cons.1 hx with rfl | hx
    · exact h1 b rfl
    · exact Nat.lt_trans (h1 b rfl) (ih h3 x hx)

/-- A weaker bound. -/
theorem wfFrom_weaken (d : α) {b : Option Nat} {c : Nat} {m : FMap α} (hb : ∀ x, b = some x → x ≤ c)
    (h : mapWfFrom d (some c) m = true) : mapWfFrom d b m = true := by
  cases m with
  | nil => cases b <;> rfl
  | cons e m =>
    obtain ⟨k, v⟩ := e
    obtain ⟨h1, h2, h3⟩ := (wfFrom_cons d _ k v m).1 h
    exact (wfFrom_cons d _ k v m).2 ⟨fun x hx => Nat.lt_of_le_of_lt (hb x hx) (h1 c rfl), h2, h3⟩

theorem wfFrom_erase (d : α) (b : Option Nat) (m : FMap α) (k : Nat) (h : mapWfFrom d b m = true) :
    mapWfFrom d b (mapErase m k) = true := by
  induction m generalizing b with
  | nil => exact h
  | cons e m ih =>
    obtain ⟨k', v⟩ := e
    obtain ⟨h1, h2, h3⟩ := (wfFrom_cons d _ k' v m).1 h
    by_cases hk : k' = k
    · simp only [mapErase, hk, if_true]
      exact ih b (wfFrom_weaken d (fun x hx => Nat.le_of_lt (hk ▸ h1 x hx)) (hk ▸ h3))
    · simp only [mapErase, hk, if_false]
      exact (wfFrom_cons d _ k' v _).2 ⟨h1, h2, ih _ h3⟩

theorem wfFrom_insert (d : α) (b : Option Nat) (m : FMap α) (k : Nat) (v : α) (hv : v ≠ d) (hb : ∀ x, b = some x → x < k)
    (hf : Fresh m k) (h : mapWfFrom d b m = true) : mapWfFrom d b (mapInsert m k v) = true := by
  induction m generalizing b with
  | nil => exact (wfFrom_cons d _ k v []).2 ⟨hb, hv, rfl⟩
  | cons e m ih =>
    obtain ⟨k', v'⟩ := e
    obtain ⟨h1, h2, h3⟩ := (wfFrom_cons d _ k' v' m).1 h
    have hne : k' ≠ k := hf (k', v') (by simp)
    by_cases hk : k < k'
    · simp only [mapInsert, hk, if_true]
      exact (wfFrom_cons d _ k v _).2 ⟨hb, hv, (wfFrom_cons d _ k' v' m).2 ⟨fun x hx => by cases hx; exact hk, h2, h3⟩⟩
    · simp only [mapInsert, hk, if_false]
      exact (wfFrom_cons d _ k' v' _).2 ⟨h1, h2, ih (some k') (fun x hx => by cases hx; omega)
        (fun y hy => hf y (by simp [hy])) h3⟩

/-- A write keeps the canonical form. -/
theorem mapWf_set (d : α) (m : FMap α) (k : Nat) (v : α) (h : mapWf d m = true) : mapWf d (mapSet d m k v) = true := by
  unfold mapSet
  split
  · exact wfFrom_erase d none m k h
  · rename_i hv
    exact wfFrom_insert d none _ k v hv (fun x hx => by cases hx) (fresh_erase m k) (wfFrom_erase d none m k h)

/-- So does a change. -/
theorem mapWf_mod (d : α) (m : FMap α) (k : Nat) (f : α → α) (h : mapWf d m = true) : mapWf d (mapMod d m k f) = true :=
  mapWf_set d m k _ h

/-- So does taking a key out. -/
theorem mapWf_erase (d : α) (m : FMap α) (k : Nat) (h : mapWf d m = true) : mapWf d (mapErase m k) = true :=
  wfFrom_erase d none m k h

/-- So does keeping some entries. -/
theorem mapWf_filter (d : α) (p : Nat → α → Bool) (m : FMap α) (h : mapWf d m = true) : mapWf d (mapFilter p m) = true := by
  have go : ∀ (b : Option Nat) (m : FMap α), mapWfFrom d b m = true → mapWfFrom d b (mapFilter p m) = true := by
    intro b m
    induction m generalizing b with
    | nil => exact id
    | cons e m ih =>
      obtain ⟨k, v⟩ := e
      intro h
      obtain ⟨h1, h2, h3⟩ := (wfFrom_cons d _ k v m).1 h
      by_cases hp : p k v
      · simp only [mapFilter, hp, if_true]
        exact (wfFrom_cons d _ k v _).2 ⟨h1, h2, ih _ h3⟩
      · simp only [mapFilter, hp]
        exact ih b (wfFrom_weaken d (fun x hx => Nat.le_of_lt (h1 x hx)) h3)
  exact go none m h

/-- So does changing every listed value. -/
theorem mapWf_all (d : α) (f : Nat → α → α) (m : FMap α) (h : mapWf d m = true) : mapWf d (mapAll d f m) = true := by
  have go : ∀ (b : Option Nat) (m : FMap α), mapWfFrom d b m = true → mapWfFrom d b (mapAll d f m) = true := by
    intro b m
    induction m generalizing b with
    | nil => exact id
    | cons e m ih =>
      obtain ⟨k, v⟩ := e
      intro h
      obtain ⟨h1, h2, h3⟩ := (wfFrom_cons d _ k v m).1 h
      by_cases hv : f k v = d
      · simp only [mapAll, hv, if_true]
        exact ih b (wfFrom_weaken d (fun x hx => Nat.le_of_lt (h1 x hx)) h3)
      · simp only [mapAll, hv, if_false]
        exact (wfFrom_cons d _ k _ _).2 ⟨h1, hv, ih _ h3⟩
  exact go none m h

end Sets

/-- Bytes stored keep the canonical form of a byte store. -/
theorem mapWf_bytesSet (m : List Host.Cell) (a : Nat) (bs : List Byte) (h : mapWf 0 m = true) :
    mapWf 0 (bytesSet m a bs) = true := by
  induction bs generalizing m a with
  | nil => exact h
  | cons b bs ih => exact ih _ _ (mapWf_set 0 m a b h)

/-- A byte outside the stored range reads as before. -/
theorem byteGet_bytesSet_other (m : List Host.Cell) (a x : Nat) (bs : List Byte) (h : x < a ∨ a + bs.length ≤ x) :
    byteGet (bytesSet m a bs) x = byteGet m x := by
  induction bs generalizing m a with
  | nil => rfl
  | cons b bs ih =>
    have hx : x ≠ a := by simp only [List.length_cons] at h; omega
    rw [bytesSet, ih _ _ (by simp only [List.length_cons] at h; omega)]
    exact mapGet_set_other 0 m b hx

end Sys2Proof.Laws
end

