-- ==== Sys2Proof/Laws/Keeps.lean ====
section
/-! SUPPORT. What no command changes: the queue and the time since power-on; and what every command keeps: a fuse bit that is
set, and the canonical form of the fuse array and of the HDM window. One relation for all of it, so that each operation
of the model has one lemma, stated backwards: from a state that is kept, the operation leads to one that is. -/

namespace Sys2Proof.Laws

open Sys2Proof Machine

/-- What every command keeps, from `r` to `s`. -/
structure Keeps (r s : State) : Prop where
  pending : s.pending = r.pending
  uptime : s.uptime = r.uptime
  fuses : ∀ f, fusesHold f r → fusesHold f s
  fuseWf : mapWf 0 r.fuses = true → mapWf 0 s.fuses = true
  memWf : mapWf 0 r.hdm.mem = true → mapWf 0 s.hdm.mem = true

/-- The same of an outcome: of its next state, if it has one. -/
def KeepsR (r : State) (o : Res) : Prop := ∀ t, o = .next t → Keeps r t

theorem Keeps.refl (r : State) : Keeps r r := ⟨rfl, rfl, fun _ h => h, fun h => h, fun h => h⟩

theorem Keeps.trans {r s t : State} (h : Keeps r s) (k : Keeps s t) : Keeps r t :=
  ⟨k.pending.trans h.pending, k.uptime.trans h.uptime, fun f x => k.fuses f (h.fuses f x), fun x => k.fuseWf (h.fuseWf x),
    fun x => k.memWf (h.memWf x)⟩

/-- An update that leaves the four fields as they are. -/
theorem Keeps.upd {r s t : State} (h : Keeps r s) (h1 : t.pending = s.pending) (h2 : t.uptime = s.uptime)
    (h3 : t.fuses = s.fuses) (h4 : t.hdm.mem = s.hdm.mem) : Keeps r t :=
  ⟨h1.trans h.pending, h2.trans h.uptime, fun f x => by have := h.fuses f x; unfold fusesHold at *; rwa [h3],
    fun x => by rw [h3]; exact h.fuseWf x, fun x => by rw [h4]; exact h.memWf x⟩

/-- An update of the HDM window that keeps its canonical form. -/
theorem Keeps.updMem {r s t : State} (h : Keeps r s) (h1 : t.pending = s.pending) (h2 : t.uptime = s.uptime)
    (h3 : t.fuses = s.fuses) (h4 : mapWf 0 s.hdm.mem = true → mapWf 0 t.hdm.mem = true) : Keeps r t :=
  ⟨h1.trans h.pending, h2.trans h.uptime, fun f x => by have := h.fuses f x; unfold fusesHold at *; rwa [h3],
    fun x => by rw [h3]; exact h.fuseWf x, fun x => h4 (h.memWf x)⟩

theorem keeps_foldl {α : Type} {r s : State} {f : State → α → State} (hs : Keeps r s) (hf : ∀ a x, Keeps r a → Keeps r (f a x))
    (l : List α) : Keeps r (l.foldl f s) := by
  induction l generalizing s with
  | nil => exact hs
  | cons x l ih => exact ih (hf s x hs)

theorem keeps_foldl1 {α β : Type} {r : State} {a : State × β} {f : State × β → α → State × β} (ha : Keeps r a.1)
    (hf : ∀ a x, Keeps r a.1 → Keeps r (f a x).1) (l : List α) : Keeps r (l.foldl f a).1 := by
  induction l generalizing a with
  | nil => exact ha
  | cons x l ih => exact ih (hf a x ha)

theorem maskOf_succ (p : Nat → Bool) (n : Nat) : maskOf p (n + 1) = if p n then maskOf p n + 2 ^ n else maskOf p n := by
  simp [maskOf, List.range_succ]

theorem maskOf_lt (p : Nat → Bool) (n : Nat) : maskOf p n < 2 ^ n := by
  induction n with
  | zero => simp [maskOf]
  | succ n ih => rw [maskOf_succ, Nat.pow_succ]; split <;> omega

theorem testBit_maskOf (p : Nat → Bool) (n i : Nat) : (maskOf p n).testBit i = (decide (i < n) && p i) := by
  induction n with
  | zero => simp [maskOf]
  | succ n ih =>
    have lt := maskOf_lt p n
    rw [maskOf_succ]
    by_cases e : i = n
    · subst e
      split
      · rw [Nat.add_comm, Nat.testBit_two_pow_add_eq, Nat.testBit_lt_two_pow lt]; simp [*]
      · rw [Nat.testBit_lt_two_pow lt]; simp [*]
    · have e1 : decide (i < n + 1) = decide (i < n) := by simp; omega
      split
      · rw [e1, ← ih, Nat.add_comm]
        by_cases l : i < n
        · exact Nat.testBit_two_pow_add_gt l _
        · rw [Nat.testBit_lt_two_pow (Nat.lt_of_lt_of_le (by omega : 2 ^ n + maskOf p n < 2 ^ (n + 1)) (Nat.pow_le_pow_right (by omega) (by omega))),
            Nat.testBit_lt_two_pow (Nat.lt_of_lt_of_le lt (Nat.pow_le_pow_right (by omega) (by omega)))]
      · rw [e1, ih]

theorem keepsR_next {r t : State} (h : Keeps r t) : KeepsR r (.next t) := fun u e => by cases e; exact h

theorem keepsR_fault {r : State} (f : Fault) : KeepsR r (.fault f) := fun u e => by cases e

theorem keepsR_known {r : State} {o : Res} (h : KeepsR r o) (p : Bool) : KeepsR r (known p o) := by
  unfold known; split
  · exact h
  · exact keepsR_fault _

theorem keepsR_doIf {r s t : State} (hs : Keeps r s) (ht : Keeps r t) (b : Bool) : KeepsR r (doIf s b t) := by
  unfold doIf; split
  · exact keepsR_next ht
  · exact keepsR_next hs

theorem keeps_mk {r s : State} {a_pending} {a_uptime} {a_freeCtr} {a_nextJob} {a_out} {a_supply} {a_pins} {a_chip}
    {a_link} {a_hdm} {a_slices} {a_qps} {a_jobs} {a_vols} {a_copies} {a_scrubs} {a_micro} {a_trees} {a_regions} {a_blocks} {a_cells}
    {a_alm} {a_root} {a_fuses} {a_tamper} {a_tb} {a_eph} {a_ports} {a_laneKeys} {a_cards} {a_cer} {a_flt} {a_intc} {a_power}
    {a_thermal} {a_tap} (h : Keeps r s) (h1 : a_pending = s.pending)
    (h2 : a_uptime = s.uptime) (h3 : a_fuses = s.fuses) (h4 : Hdm.mem a_hdm = s.hdm.mem) :
    Keeps r (State.mk a_pending a_uptime a_freeCtr a_nextJob a_out a_supply a_pins a_chip a_link a_hdm a_slices a_qps
    a_jobs a_vols a_copies a_scrubs a_micro a_trees a_regions a_blocks a_cells a_alm a_root a_fuses a_tamper a_tb a_eph a_ports
    a_laneKeys a_cards a_cer a_flt a_intc a_power a_thermal a_tap) := h.upd h1 h2 h3 h4

end Sys2Proof.Laws
end

