-- ==== Sys2Proof/Laws/KeepsOps.lean ====
section
/-! SUPPORT. What every command keeps (Laws/Keeps.lean), operation by operation: the shared operations. Each lemma reads backwards: where
the state an operation starts from is kept, the one it answers is. -/

namespace Sys2Proof.Laws

open Sys2Proof Machine

set_option linter.unusedTactic false
set_option linter.unreachableTactic false
set_option linter.unusedVariables false

/-! ### Ops.lean -/

theorem keeps_modSlice {r0 s : State} (n : Nat) (f : Slice → Slice) (h_s : Keeps r0 s) :
    Keeps r0 (modSlice s n f) := by
  unfold modSlice
  repeat' first
    | with_reducible first
        | assumption
    | split | intro _ | with_reducible refine keeps_mk ?_ rfl rfl rfl rfl

theorem keeps_modQp {r0 s : State} (n q : Nat) (f : Qp → Qp) (h_s : Keeps r0 s) :
    Keeps r0 (modQp s n q f) := by
  unfold modQp
  repeat' first
    | with_reducible first
        | assumption
    | split | intro _ | with_reducible refine keeps_mk ?_ rfl rfl rfl rfl

theorem keeps_modCell {r0 s : State} (n : Nat) (f : Cell → Cell) (h_s : Keeps r0 s) :
    Keeps r0 (modCell s n f) := by
  unfold modCell
  repeat' first
    | with_reducible first
        | assumption
    | split | intro _ | with_reducible refine keeps_mk ?_ rfl rfl rfl rfl

theorem keeps_modBlock {r0 s : State} (n : Nat) (f : Block → Block) (h_s : Keeps r0 s) :
    Keeps r0 (modBlock s n f) := by
  unfold modBlock
  repeat' first
    | with_reducible first
        | assumption
    | split | intro _ | with_reducible refine keeps_mk ?_ rfl rfl rfl rfl

theorem keeps_modBne {r0 s : State} (n : Nat) (f : Bne → Bne) (h_s : Keeps r0 s) :
    Keeps r0 (modBne s n f) := by
  unfold modBne
  try dsimp only
  repeat' first
    | with_reducible first
        | assumption | apply keeps_modBlock
    | split | intro _ | with_reducible refine keeps_mk ?_ rfl rfl rfl rfl

theorem keeps_modDe {r0 s : State} (n : Nat) (f : De → De) (h_s : Keeps r0 s) :
    Keeps r0 (modDe s n f) := by
  unfold modDe
  try dsimp only
  repeat' first
    | with_reducible first
        | assumption | apply keeps_modBlock
    | split | intro _ | with_reducible refine keeps_mk ?_ rfl rfl rfl rfl

theorem keeps_modRegion {r0 s : State} (n : Nat) (f : Region → Region) (h_s : Keeps r0 s) :
    Keeps r0 (modRegion s n f) := by
  unfold modRegion
  repeat' first
    | with_reducible first
        | assumption
    | split | intro _ | with_reducible refine keeps_mk ?_ rfl rfl rfl rfl

theorem keeps_modRng {r0 s : State} (n : Nat) (f : Rng → Rng) (h_s : Keeps r0 s) :
    Keeps r0 (modRng s n f) := by
  unfold modRng
  try dsimp only
  repeat' first
    | with_reducible first
        | assumption | apply keeps_modRegion
    | split | intro _ | with_reducible refine keeps_mk ?_ rfl rfl rfl rfl

theorem keeps_modPort {r0 s : State} (n : Nat) (f : Port → Port) (h_s : Keeps r0 s) :
    Keeps r0 (modPort s n f) := by
  unfold modPort
  repeat' first
    | with_reducible first
        | assumption
    | split | intro _ | with_reducible refine keeps_mk ?_ rfl rfl rfl rfl

theorem keeps_modCard {r0 s : State} (n : Nat) (f : CardSlot → CardSlot) (h_s : Keeps r0 s) :
    Keeps r0 (modCard s n f) := by
  unfold modCard
  repeat' first
    | with_reducible first
        | assumption
    | split | intro _ | with_reducible refine keeps_mk ?_ rfl rfl rfl rfl

theorem keeps_modDom {r0 s : State} (n : Nat) (f : Dom → Dom) (h_s : Keeps r0 s) :
    Keeps r0 (modDom s n f) := by
  unfold modDom
  repeat' first
    | with_reducible first
        | assumption
    | split | intro _ | with_reducible refine keeps_mk ?_ rfl rfl rfl rfl

theorem keeps_modUnit {r0 s : State} (n : Nat) (f : FltUnit → FltUnit) (h_s : Keeps r0 s) :
    Keeps r0 (modUnit s n f) := by
  unfold modUnit
  repeat' first
    | with_reducible first
        | assumption
    | split | intro _ | with_reducible refine keeps_mk ?_ rfl rfl rfl rfl

theorem keeps_modHandler {r0 s : State} (n : Nat) (f : Handler → Handler) (h_s : Keeps r0 s) :
    Keeps r0 (modHandler s n f) := by
  unfold modHandler
  repeat' first
    | with_reducible first
        | assumption
    | split | intro _ | with_reducible refine keeps_mk ?_ rfl rfl rfl rfl

theorem keeps_modVol {r0 s : State} (k : Nat) (f : VolEnt → VolEnt) (h_s : Keeps r0 s) :
    Keeps r0 (modVol s k f) := by
  unfold modVol
  repeat' first
    | with_reducible first
        | assumption
    | split | intro _ | with_reducible refine keeps_mk ?_ rfl rfl rfl rfl

theorem keeps_modTree {r0 s : State} (rid : Nat) (f : Tree → Tree) (h_s : Keeps r0 s) :
    Keeps r0 (modTree s rid f) := by
  unfold modTree
  repeat' first
    | with_reducible first
        | assumption
    | split | intro _ | with_reducible refine keeps_mk ?_ rfl rfl rfl rfl

theorem keeps_modJob {r0 s : State} (k : Nat) (f : Job → Job) (h_s : Keeps r0 s) :
    Keeps r0 (modJob s k f) := by
  unfold modJob
  try dsimp only
  repeat' first
    | with_reducible first
        | assumption
    | split | intro _ | with_reducible refine keeps_mk ?_ rfl rfl rfl rfl

theorem keeps_drew' {r0 s : State} (n : Nat) (h_s : Keeps r0 s) :
    Keeps r0 (drew' s n) := by
  unfold drew'
  repeat' first
    | with_reducible first
        | assumption
    | split | intro _ | with_reducible refine keeps_mk ?_ rfl rfl rfl rfl

theorem keeps_emit {r0 s : State} (o : Out) (h_s : Keeps r0 s) :
    Keeps r0 (emit s o) := by
  unfold emit
  repeat' first
    | with_reducible first
        | assumption
    | split | intro _ | with_reducible refine keeps_mk ?_ rfl rfl rfl rfl

theorem keeps_signalVector {r0 s : State} (v : Nat) (h_s : Keeps r0 s) :
    Keeps r0 (signalVector s v) := by
  unfold signalVector
  repeat' first
    | with_reducible first
        | assumption | apply keeps_emit
    | split | intro _ | with_reducible refine keeps_mk ?_ rfl rfl rfl rfl

theorem keeps_notifySlice {r0 s : State} (n : Nat) (m : Byte) (h_s : Keeps r0 s) :
    Keeps r0 (notifySlice s n m) := by
  unfold notifySlice
  try dsimp only
  repeat' first
    | with_reducible first
        | assumption | apply keeps_modSlice | apply keeps_signalVector
    | split | intro _ | with_reducible refine keeps_mk ?_ rfl rfl rfl rfl

theorem keeps_notifyState {r0 s : State} (n : Nat) (h_s : Keeps r0 s) :
    Keeps r0 (notifyState s n) := by
  unfold notifyState
  repeat' first
    | with_reducible first
        | assumption | apply keeps_notifySlice
    | split | intro _

theorem keeps_notifyReset {r0 s : State} (n : Nat) (h_s : Keeps r0 s) :
    Keeps r0 (notifyReset s n) := by
  unfold notifyReset
  repeat' first
    | with_reducible first
        | assumption | apply keeps_notifySlice
    | split | intro _

theorem keeps_notifyEvent {r0 s : State} (n : Nat) (h_s : Keeps r0 s) :
    Keeps r0 (notifyEvent s n) := by
  unfold notifyEvent
  repeat' first
    | with_reducible first
        | assumption | apply keeps_notifySlice
    | split | intro _

theorem keeps_smbAlert {r0 s : State} (h_s : Keeps r0 s) :
    Keeps r0 (smbAlert s) := by
  unfold smbAlert
  repeat' first
    | with_reducible first
        | assumption
    | split | intro _ | with_reducible refine keeps_mk ?_ rfl rfl rfl rfl

theorem keeps_logEventAt {r0 s : State} (time source code severity : Nat) (data : List Byte) (h_s : Keeps r0 s) :
    Keeps r0 (logEventAt s time source code severity data) := by
  unfold logEventAt
  try dsimp only
  repeat' first
    | with_reducible first
        | assumption
    | split | intro _ | with_reducible refine keeps_mk ?_ rfl rfl rfl rfl

theorem keeps_logEvent {r0 s : State} (source code severity : Nat) (data : List Byte) (h_s : Keeps r0 s) :
    Keeps r0 (logEvent s source code severity data) := by
  unfold logEvent
  repeat' first
    | with_reducible first
        | assumption | apply keeps_logEventAt
    | split | intro _

theorem keeps_vecFault {r0 s : State} (h_s : Keeps r0 s) :
    Keeps r0 (vecFault s) := by
  unfold vecFault
  repeat' first
    | with_reducible first
        | assumption | apply keeps_signalVector
    | split | intro _

theorem keeps_vecMode {r0 s : State} (h_s : Keeps r0 s) :
    Keeps r0 (vecMode s) := by
  unfold vecMode
  repeat' first
    | with_reducible first
        | assumption | apply keeps_signalVector
    | split | intro _

theorem keeps_vecTime {r0 s : State} (h_s : Keeps r0 s) :
    Keeps r0 (vecTime s) := by
  unfold vecTime
  repeat' first
    | with_reducible first
        | assumption | apply keeps_signalVector
    | split | intro _

theorem keeps_vecQuarantine {r0 s : State} (h_s : Keeps r0 s) :
    Keeps r0 (vecQuarantine s) := by
  unfold vecQuarantine
  repeat' first
    | with_reducible first
        | assumption | apply keeps_signalVector
    | split | intro _

theorem keeps_vecCard {r0 s : State} (h_s : Keeps r0 s) :
    Keeps r0 (vecCard s) := by
  unfold vecCard
  repeat' first
    | with_reducible first
        | assumption | apply keeps_signalVector
    | split | intro _

theorem keeps_vecRegion {r0 s : State} (h_s : Keeps r0 s) :
    Keeps r0 (vecRegion s) := by
  unfold vecRegion
  repeat' first
    | with_reducible first
        | assumption | apply keeps_signalVector
    | split | intro _

/-! ### Ledger.lean -/

theorem keeps_zeroizeRoot {r0 s : State} (h_s : Keeps r0 s) :
    Keeps r0 (zeroizeRoot s) := by
  unfold zeroizeRoot
  repeat' first
    | with_reducible first
        | assumption
    | split | intro _ | with_reducible refine keeps_mk ?_ rfl rfl rfl rfl

theorem keeps_installRoot {r0 s : State} (r : List Byte) (t : Nat) (h_s : Keeps r0 s) :
    Keeps r0 (installRoot s r t) := by
  unfold installRoot
  repeat' first
    | with_reducible first
        | assumption
    | split | intro _ | with_reducible refine keeps_mk ?_ rfl rfl rfl rfl

theorem keeps_setBank {r0 s : State} (pn : Nat) (inA : Bool) (b : Bank) (h_s : Keeps r0 s) :
    Keeps r0 (setBank s pn inA b) := by
  unfold setBank
  try dsimp only
  repeat' first
    | with_reducible first
        | assumption
    | split | intro _ | with_reducible refine keeps_mk ?_ rfl rfl rfl rfl

theorem keeps_writeBank {r0 s : State} (rid : Nat) (p : Payload) (ok : Bool) (h_s : Keeps r0 s) :
    Keeps r0 (writeBank s rid p ok) := by
  unfold writeBank
  try dsimp only
  repeat' first
    | with_reducible first
        | assumption | apply keeps_setBank
    | split | intro _

theorem keeps_commitSpare {r0 s : State} (e : SpareEnt) (rb : List Bool) (h : Keeps r0 s) : Keeps r0 (commitSpare s e rb).1 := by
  unfold commitSpare
  dsimp only
  split
  · exact h
  · exact keeps_writeBank _ _ _ h

theorem keeps_commitSpare_eq {r0 s u : State} {e : SpareEnt} {rb : List Bool} {ok : Bool} {rb' : List Bool} (h : Keeps r0 s)
    (hu : commitSpare s e rb = (u, ok, rb')) : Keeps r0 u := by
  have := keeps_commitSpare e rb h
  rw [hu] at this
  exact this

theorem keeps_trySpares {r0 : State} (rid : Nat) (p : Payload) (n : Nat) :
    ∀ {s : State} (rb : List Bool), Keeps r0 s → Keeps r0 (trySpares rid p n s rb).1 := by
  induction n with
  | zero => intro s rb h; exact h
  | succ n ih =>
    intro s rb h
    unfold trySpares
    split
    · exact h
    · dsimp only
      split
      · exact keeps_commitSpare _ _ (keeps_setBank _ _ _ h)
      · split
        · next hu => exact ih _ (keeps_commitSpare_eq (keeps_setBank _ _ _ h) hu)
        · next hu => exact keeps_commitSpare_eq (keeps_setBank _ _ _ h) hu

theorem keeps_commitRec {r0 s : State} (rid : Nat) (p : Payload) (rb : List Bool) (h : Keeps r0 s) :
    Keeps r0 (commitRec s rid p rb).1 := by
  unfold commitRec
  split
  · exact keeps_trySpares _ _ _ _ h
  · dsimp only
    split
    · exact keeps_writeBank _ _ _ h
    · split
      · exact keeps_writeBank _ _ _ h
      · exact keeps_trySpares _ _ _ _ (keeps_writeBank _ _ _ h)

theorem keeps_modWrite {r0 s : State} (k : Nat) (f : WriteQ → WriteQ) (h_s : Keeps r0 s) :
    Keeps r0 (modWrite s k f) := by
  unfold modWrite
  repeat' first
    | with_reducible first
        | assumption
    | split | intro _ | with_reducible refine keeps_mk ?_ rfl rfl rfl rfl

theorem keeps_startWrites {r0 : State} (n : Nat) : ∀ {s : State}, Keeps r0 s → Keeps r0 (startWrites n s) := by
  induction n with
  | zero => intro s h; exact h
  | succ n ih =>
    intro s h
    unfold startWrites
    split
    · exact h
    · split
      · exact h
      · exact ih (keeps_modWrite _ _ h)

theorem keeps_requestWrite {r0 s : State} (prio : Nat) (r : AlmReq) (h_s : Keeps r0 s) :
    Keeps r0 (requestWrite s prio r) := by
  unfold requestWrite
  try dsimp only
  repeat' first
    | with_reducible first
        | assumption | apply keeps_modWrite | apply keeps_startWrites
    | split | intro _ | with_reducible refine keeps_mk ?_ rfl rfl rfl rfl

theorem keeps_endWrite {r0 s : State} (k : Nat) (h_s : Keeps r0 s) :
    Keeps r0 (endWrite s k) := by
  unfold endWrite
  try dsimp only
  repeat' first
    | with_reducible first
        | assumption | apply keeps_startWrites
    | split | intro _ | with_reducible refine keeps_mk ?_ rfl rfl rfl rfl

theorem keeps_dropWrites {r0 s : State} (job : Nat) (h_s : Keeps r0 s) :
    Keeps r0 (dropWrites s job) := by
  unfold dropWrites
  try dsimp only
  repeat' first
    | with_reducible first
        | assumption
    | split | intro _ | with_reducible refine keeps_mk ?_ rfl rfl rfl rfl

theorem keeps_noteCommit {r0 s : State} (h_s : Keeps r0 s) :
    Keeps r0 (noteCommit s) := by
  unfold noteCommit
  try dsimp only
  repeat' first
    | with_reducible first
        | assumption
    | split | intro _ | with_reducible refine keeps_mk ?_ rfl rfl rfl rfl

theorem keeps_scrubLane {r0 s : State} (n : Nat) (q : W64 → Bool) (h_s : Keeps r0 s) :
    Keeps r0 (scrubLane s n q) := by
  unfold scrubLane
  try dsimp only
  repeat' first
    | with_reducible first
        | assumption
    | split | intro _ | with_reducible refine keeps_mk ?_ rfl rfl rfl rfl

theorem keeps_dropVolBindings {r0 s : State} (n : Nat) (h_s : Keeps r0 s) :
    Keeps r0 (dropVolBindings s n) := by
  unfold dropVolBindings
  try dsimp only
  repeat' first
    | with_reducible first
        | assumption | apply keeps_requestWrite | apply keeps_foldl
    | split | intro _ | with_reducible refine keeps_mk ?_ rfl rfl rfl rfl

/-! ### JobOps.lean -/

theorem keeps_stopQp {r0 s : State} (n q cause : Nat) (h_s : Keeps r0 s) :
    Keeps r0 (stopQp s n q cause) := by
  unfold stopQp
  try dsimp only
  repeat' first
    | with_reducible first
        | assumption | apply keeps_modQp | apply keeps_notifySlice
    | split | intro _ | with_reducible refine keeps_mk ?_ rfl rfl rfl rfl

theorem keeps_writeCpl {r0 s : State} (n q : Nat) (tag : W32) (c : Cpl) (fault : Bool) (h_s : Keeps r0 s) :
    Keeps r0 (writeCpl s n q tag c fault) := by
  unfold writeCpl
  try dsimp only
  repeat' first
    | with_reducible first
        | assumption | apply keeps_modQp | apply keeps_emit | apply keeps_signalVector | apply keeps_stopQp
    | split | intro _ | with_reducible refine keeps_mk ?_ rfl rfl rfl rfl

theorem keeps_putJob {r0 s : State} (j : Job) (h_s : Keeps r0 s) :
    Keeps r0 (putJob s j) := by
  unfold putJob
  try dsimp only
  repeat' first
    | with_reducible first
        | assumption | apply keeps_modJob
    | split | intro _

theorem keeps_dropJob {r0 s : State} (k : Nat) (h_s : Keeps r0 s) :
    Keeps r0 (dropJob s k) := by
  unfold dropJob
  try dsimp only
  repeat' first
    | with_reducible first
        | assumption
    | split | intro _ | with_reducible refine keeps_mk ?_ rfl rfl rfl rfl

theorem keeps_burnLeaf {r0 s : State} (j : Job) (h_s : Keeps r0 s) :
    Keeps r0 (burnLeaf s j) := by
  unfold burnLeaf
  try dsimp only
  repeat' first
    | with_reducible first
        | assumption | apply keeps_modTree
    | split | intro _ | with_reducible refine keeps_mk ?_ rfl rfl rfl rfl

theorem keeps_chargeSlice {r0 s : State} (n weight cycles : Nat) (h_s : Keeps r0 s) :
    Keeps r0 (chargeSlice s n weight cycles) := by
  unfold chargeSlice
  try dsimp only
  repeat' first
    | with_reducible first
        | assumption | apply keeps_modSlice
    | split | intro _ | with_reducible refine keeps_mk ?_ rfl rfl rfl rfl

theorem keeps_charge {r0 s : State} (j : Job) (cycles : Nat) (h_s : Keeps r0 s) :
    Keeps r0 (charge s j cycles) := by
  unfold charge
  repeat' first
    | with_reducible first
        | assumption | apply keeps_chargeSlice
    | split | intro _

theorem keeps_freeCellsBut {r0 s : State} (k : Nat) (but : Option Nat) (h_s : Keeps r0 s) :
    Keeps r0 (freeCellsBut s k but) := by
  unfold freeCellsBut
  try dsimp only
  repeat' first
    | with_reducible first
        | assumption
    | split | intro _ | with_reducible refine keeps_mk ?_ rfl rfl rfl rfl

theorem keeps_freeCells {r0 s : State} (k : Nat) (h_s : Keeps r0 s) :
    Keeps r0 (freeCells s k) := by
  unfold freeCells
  repeat' first
    | with_reducible first
        | assumption | apply keeps_freeCellsBut
    | split | intro _

theorem keeps_freeBnesIf {r0 s : State} (k : Nat) (p : BneReq → Bool) (h_s : Keeps r0 s) :
    Keeps r0 (freeBnesIf s k p) := by
  unfold freeBnesIf
  try dsimp only
  repeat' first
    | with_reducible first
        | assumption
    | split | intro _ | with_reducible refine keeps_mk ?_ rfl rfl rfl rfl

theorem keeps_freeBnes {r0 s : State} (k : Nat) (h_s : Keeps r0 s) :
    Keeps r0 (freeBnes s k) := by
  unfold freeBnes
  try dsimp only
  repeat' first
    | with_reducible first
        | assumption | apply keeps_freeBnesIf
    | split | intro _

theorem keeps_freeEngines {r0 s : State} (k : Nat) (h_s : Keeps r0 s) :
    Keeps r0 (freeEngines s k) := by
  unfold freeEngines
  repeat' first
    | with_reducible first
        | assumption | apply keeps_dropWrites | apply keeps_freeCells | apply keeps_freeBnes
    | split | intro _

theorem keeps_poolDone {r0 s : State} (j : Job) (gen : Nat) (h_s : Keeps r0 s) :
    Keeps r0 (poolDone s j gen) := by
  unfold poolDone
  try dsimp only
  repeat' first
    | with_reducible first
        | assumption
    | split | intro _ | with_reducible refine keeps_mk ?_ rfl rfl rfl rfl

theorem keeps_endJob {r0 s : State} (j : Job) (c : Cpl) (cycles : Nat) (fault : Bool) (h_s : Keeps r0 s) :
    Keeps r0 (endJob s j c cycles fault) := by
  unfold endJob
  try dsimp only
  repeat' first
    | with_reducible first
        | assumption | apply keeps_writeCpl | apply keeps_dropJob | apply keeps_burnLeaf | apply keeps_charge
        | apply keeps_freeEngines | apply keeps_poolDone
    | split | intro _ | with_reducible refine keeps_mk ?_ rfl rfl rfl rfl

theorem keeps_failJob {r0 s : State} (j : Job) (status detail : Nat) (fault : Bool) (h_s : Keeps r0 s) :
    Keeps r0 (failJob s j status detail fault) := by
  unfold failJob
  repeat' first
    | with_reducible first
        | assumption | apply keeps_endJob
    | split | intro _ | with_reducible refine keeps_mk ?_ rfl rfl rfl rfl

theorem keeps_replayJob {r0 s : State} (j : Job) (checkFail : Bool) (h_s : Keeps r0 s) :
    Keeps r0 (replayJob s j checkFail) := by
  unfold replayJob
  try dsimp only
  repeat' first
    | with_reducible first
        | assumption | apply keeps_putJob | apply keeps_burnLeaf | apply keeps_freeEngines | apply keeps_failJob
    | split | intro _ | with_reducible refine keeps_mk ?_ rfl rfl rfl rfl

theorem keeps_requeueJob {r0 s : State} (j : Job) (h_s : Keeps r0 s) :
    Keeps r0 (requeueJob s j) := by
  unfold requeueJob
  repeat' first
    | with_reducible first
        | assumption | apply keeps_putJob
    | split | intro _ | with_reducible refine keeps_mk ?_ rfl rfl rfl rfl

theorem keeps_forJobs {r0 s : State} (p : Job → Bool) (f : State → Job → State)
    (hf : ∀ a j, Keeps r0 a → Keeps r0 (f a j)) (h : Keeps r0 s) : Keeps r0 (forJobs p f s) := by
  unfold forJobs
  refine keeps_foldl h ?_ _
  intro a j ha
  try dsimp only
  split
  · exact hf _ _ ha
  · exact ha

theorem keeps_endKey {r0 s : State} (h : W64) (h_s : Keeps r0 s) :
    Keeps r0 (endKey s h) := by
  unfold endKey
  try dsimp only
  repeat' first
    | with_reducible first
        | assumption | apply keeps_requestWrite | apply keeps_scrubLane | apply keeps_foldl
    | split | intro _ | with_reducible refine keeps_mk ?_ rfl rfl rfl rfl

theorem keeps_replaceKey {r0 s : State} (n : Nat) (f : VolFill) (h_s : Keeps r0 s) :
    Keeps r0 (replaceKey n s f) := by
  unfold replaceKey
  repeat' first
    | with_reducible first
        | assumption | apply keeps_endKey
    | split | intro _

theorem keeps_fillVol {r0 s : State} (n : Nat) (f : VolFill) (h_s : Keeps r0 s) :
    Keeps r0 (fillVol n s f) := by
  unfold fillVol
  try dsimp only
  repeat' first
    | with_reducible first
        | assumption | apply keeps_modSlice | apply keeps_modVol
    | split | intro _ | with_reducible refine keeps_mk ?_ rfl rfl rfl rfl

theorem keeps_hdmWrite {r0 s : State} (a : Nat) (bs : List Byte) (h : Keeps r0 s) : Keeps r0 (hdmWrite s a bs) :=
  h.updMem rfl rfl rfl (fun w => mapWf_bytesSet _ a bs w)

theorem keeps_putOutput {r0 s : State} (j : Job) (bs : List Byte) (h_s : Keeps r0 s) :
    Keeps r0 (putOutput s j bs) := by
  unfold putOutput
  repeat' first
    | with_reducible first
        | assumption | apply keeps_emit | apply keeps_hdmWrite
    | split | intro _

theorem keeps_expand {r0 s : State} (n r : Nat) (h : W64) (alg : Nat) (key : List Byte) (size : Nat) (h_s : Keeps r0 s) :
    Keeps r0 (expand s n r h alg key size) := by
  unfold expand
  try dsimp only
  repeat' first
    | with_reducible first
        | assumption | apply keeps_modRegion
    | split | intro _ | with_reducible refine keeps_mk ?_ rfl rfl rfl rfl

theorem keeps_keepForm {r0 s : State} (n : Nat) (fills : List VolFill) (f : FormUse) (h_s : Keeps r0 s) :
    Keeps r0 (keepForm n fills s f) := by
  unfold keepForm
  try dsimp only
  repeat' first
    | with_reducible first
        | assumption | apply keeps_expand
    | split | intro _

theorem keeps_finishJob {r0 s : State} (j : Job) (r : JobRes) (io : JobIo) (h_s : Keeps r0 s) :
    Keeps r0 (finishJob s j r io) := by
  unfold finishJob
  try dsimp only
  repeat' first
    | with_reducible first
        | assumption | apply keeps_endJob | apply keeps_replaceKey | apply keeps_fillVol | apply keeps_putOutput
        | apply keeps_keepForm | apply keeps_foldl
    | split | intro _ | with_reducible refine keeps_mk ?_ rfl rfl rfl rfl

/-! ### IntcOps.lean -/

theorem keeps_modIc {r0 s : State} (id : Nat) (f : IcSrc → IcSrc) (h_s : Keeps r0 s) :
    Keeps r0 (modIc s id f) := by
  unfold modIc
  repeat' first
    | with_reducible first
        | assumption
    | split | intro _ | with_reducible refine keeps_mk ?_ rfl rfl rfl rfl

theorem keeps_modProc {r0 s : State} (p : Nat) (f : IcProc → IcProc) (h_s : Keeps r0 s) :
    Keeps r0 (modProc s p f) := by
  unfold modProc
  repeat' first
    | with_reducible first
        | assumption
    | split | intro _ | with_reducible refine keeps_mk ?_ rfl rfl rfl rfl

theorem keeps_icNotify {r0 s : State} (h_s : Keeps r0 s) :
    Keeps r0 (icNotify s) := by
  unfold icNotify
  try dsimp only
  repeat' first
    | with_reducible first
        | assumption | apply keeps_modProc | apply keeps_foldl
    | split | intro _ | with_reducible refine keeps_mk ?_ rfl rfl rfl rfl

theorem keeps_wakeOne {r0 s : State} (early : Bool) (d : Nat) (h_s : Keeps r0 s) :
    Keeps r0 (wakeOne early s d) := by
  unfold wakeOne
  try dsimp only
  repeat' first
    | with_reducible first
        | assumption | apply keeps_modCell | apply keeps_modDom
    | split | intro _ | with_reducible refine keeps_mk ?_ rfl rfl rfl rfl

theorem keeps_wakeUnit {r0 s : State} (early : Bool) (d : Nat) (h_s : Keeps r0 s) :
    Keeps r0 (wakeUnit early s d) := by
  unfold wakeUnit
  repeat' first
    | with_reducible first
        | assumption | apply keeps_wakeOne | apply keeps_foldl
    | split | intro _

/-! ### FaultOps.lean -/

theorem keeps_logFault {r0 s : State} (r : FaultRec) (h_s : Keeps r0 s) :
    Keeps r0 (logFault s r) := by
  unfold logFault
  try dsimp only
  repeat' first
    | with_reducible first
        | assumption | apply keeps_logEvent
    | split | intro _ | with_reducible refine keeps_mk ?_ rfl rfl rfl rfl

theorem keeps_noteFirst {r0 : State} {s t : State} (h_s : Keeps r0 s) (h_t : Keeps r0 t) :
    Keeps r0 (noteFirst s t) := by
  unfold noteFirst
  repeat' first
    | with_reducible first
        | assumption | apply keeps_smbAlert
    | split | intro _

theorem keeps_record {r0 s : State} (h : Nat) (r : FaultRec) (todo : List Nat) (h_s : Keeps r0 s) :
    Keeps r0 (record s h r todo) := by
  unfold record
  try dsimp only
  repeat' first
    | with_reducible first
        | assumption | apply keeps_modHandler | apply keeps_vecFault | apply keeps_logFault | apply keeps_noteFirst
    | split | intro _ | with_reducible refine keeps_mk ?_ rfl rfl rfl rfl

theorem keeps_actedIn {r0 s : State} (h k : Nat) (h_s : Keeps r0 s) :
    Keeps r0 (actedIn s h k) := by
  unfold actedIn
  try dsimp only
  repeat' first
    | with_reducible first
        | assumption | apply keeps_modHandler | apply keeps_noteFirst
    | split | intro _ | with_reducible refine keeps_mk ?_ rfl rfl rfl rfl

theorem keeps_saveRecov {r0 s : State} (n : Nat) (h_s : Keeps r0 s) :
    Keeps r0 (saveRecov s n) := by
  unfold saveRecov
  repeat' first
    | with_reducible first
        | assumption | apply keeps_requestWrite
    | split | intro _ | with_reducible refine keeps_mk ?_ rfl rfl rfl rfl

theorem keeps_noteRecovery {r0 s : State} (u : Nat) (h_s : Keeps r0 s) :
    Keeps r0 (noteRecovery s u) := by
  unfold noteRecovery
  try dsimp only
  repeat' first
    | with_reducible first
        | assumption | apply keeps_saveRecov
    | split | intro _ | with_reducible refine keeps_mk ?_ rfl rfl rfl rfl

theorem keeps_domOff {r0 s : State} (d : Nat) (h_s : Keeps r0 s) :
    Keeps r0 (domOff s d) := by
  unfold domOff
  try dsimp only
  repeat' first
    | with_reducible first
        | assumption | apply keeps_modDom
    | split | intro _ | with_reducible refine keeps_mk ?_ rfl rfl rfl rfl

theorem keeps_scrubBlock {r0 s : State} (b : Nat) (h_s : Keeps r0 s) :
    Keeps r0 (scrubBlock s b) := by
  unfold scrubBlock
  try dsimp only
  repeat' first
    | with_reducible first
        | assumption | apply keeps_modBlock
    | split | intro _ | with_reducible refine keeps_mk ?_ rfl rfl rfl rfl

theorem keeps_loseHbm {r0 s : State} (h_s : Keeps r0 s) :
    Keeps r0 (loseHbm s) := by
  unfold loseHbm
  try dsimp only
  repeat' first
    | with_reducible first
        | assumption
    | split | intro _ | with_reducible refine keeps_mk ?_ rfl rfl rfl rfl

theorem keeps_placeCopies {r0 s : State} (h_s : Keeps r0 s) :
    Keeps r0 (placeCopies s) := by
  unfold placeCopies
  try dsimp only
  repeat' first
    | with_reducible first
        | assumption | apply keeps_loseHbm
    | split | intro _ | with_reducible refine keeps_mk ?_ rfl rfl rfl rfl

theorem keeps_scrubRegion {r0 s : State} (r : Nat) (h : Keeps r0 s) : Keeps r0 (scrubRegion s r) :=
  let k : Keeps r0 (placeCopies (modRegion s r (fun x => { x with cache := [], expanded := [] }))) :=
    keeps_placeCopies (keeps_modRegion _ _ h)
  k.updMem rfl rfl rfl (fun w => mapWf_filter 0 _ _ w)

theorem keeps_scrubUnit {r0 s : State} (k : Nat) (h_s : Keeps r0 s) :
    Keeps r0 (scrubUnit s k) := by
  unfold scrubUnit
  try dsimp only
  repeat' first
    | with_reducible first
        | assumption | apply keeps_modCell | apply keeps_modBne | apply keeps_modPort | apply keeps_domOff
        | apply keeps_scrubBlock | apply keeps_scrubRegion | apply keeps_foldl
    | split | intro _ | with_reducible refine keeps_mk ?_ rfl rfl rfl rfl

theorem keeps_releaseProc {r0 s : State} (p : Nat) (h_s : Keeps r0 s) :
    Keeps r0 (releaseProc s p) := by
  unfold releaseProc
  try dsimp only
  repeat' first
    | with_reducible first
        | assumption | apply keeps_icNotify
    | split | intro _ | with_reducible refine keeps_mk ?_ rfl rfl rfl rfl

theorem keeps_unitProc {r0 s : State} (k : Nat) (h_s : Keeps r0 s) :
    Keeps r0 (unitProc s k) := by
  unfold unitProc
  repeat' first
    | with_reducible first
        | assumption | apply keeps_releaseProc
    | split | intro _

theorem keeps_setUnit {r0 s : State} (k : Nat) (st : UnitState) (h_s : Keeps r0 s) :
    Keeps r0 (setUnit s k st) := by
  unfold setUnit
  try dsimp only
  repeat' first
    | with_reducible first
        | assumption | apply keeps_modUnit | apply keeps_vecRegion
    | split | intro _ | with_reducible refine keeps_mk ?_ rfl rfl rfl rfl

theorem keeps_fence {r0 s : State} (k src : Nat) (h_s : Keeps r0 s) :
    Keeps r0 (fence s k src) := by
  unfold fence
  try dsimp only
  repeat' first
    | with_reducible first
        | assumption | apply keeps_modUnit | apply keeps_replayJob | apply keeps_requeueJob | apply keeps_forJobs
        | apply keeps_scrubUnit | apply keeps_unitProc | apply keeps_setUnit
    | split | intro _ | with_reducible refine keeps_mk ?_ rfl rfl rfl rfl

theorem keeps_failUnit {r0 s : State} (k src info : Nat) (h_s : Keeps r0 s) :
    Keeps r0 (failUnit s k src info) := by
  unfold failUnit
  try dsimp only
  repeat' first
    | with_reducible first
        | assumption | apply keeps_modUnit | apply keeps_record | apply keeps_saveRecov | apply keeps_setUnit
    | split | intro _ | with_reducible refine keeps_mk ?_ rfl rfl rfl rfl

theorem keeps_goFatal {r0 s : State} (h_s : Keeps r0 s) :
    Keeps r0 (goFatal s) := by
  unfold goFatal
  repeat' first
    | with_reducible first
        | assumption | apply keeps_emit
    | split | intro _ | with_reducible refine keeps_mk ?_ rfl rfl rfl rfl

theorem keeps_loseLine {r0 s : State} (r addr : Nat) (h_s : Keeps r0 s) :
    Keeps r0 (loseLine s r addr) := by
  unfold loseLine
  try dsimp only
  repeat' first
    | with_reducible first
        | assumption | apply keeps_modRegion | apply keeps_replayJob | apply keeps_forJobs
    | split | intro _ | with_reducible refine keeps_mk ?_ rfl rfl rfl rfl

theorem keeps_dropRunning {r0 s : State} (b : Nat) (h_s : Keeps r0 s) :
    Keeps r0 (dropRunning s b) := by
  unfold dropRunning
  try dsimp only
  repeat' first
    | with_reducible first
        | assumption | apply keeps_replayJob
    | split | intro _ | with_reducible refine keeps_mk ?_ rfl rfl rfl rfl

theorem keeps_dropContext {r0 s : State} (b n : Nat) (h_s : Keeps r0 s) :
    Keeps r0 (dropContext s b n) := by
  unfold dropContext
  try dsimp only
  repeat' first
    | with_reducible first
        | assumption | apply keeps_modBne | apply keeps_replayJob
    | split | intro _ | with_reducible refine keeps_mk ?_ rfl rfl rfl rfl

theorem keeps_loseBank {r0 s : State} (k bank : Nat) (h_s : Keeps r0 s) :
    Keeps r0 (loseBank s k bank) := by
  unfold loseBank
  try dsimp only
  repeat' first
    | with_reducible first
        | assumption | apply keeps_modCell | apply keeps_modBlock | apply keeps_modBne | apply keeps_modRegion
        | apply keeps_modDom | apply keeps_replayJob | apply keeps_forJobs
    | split | intro _ | with_reducible refine keeps_mk ?_ rfl rfl rfl rfl

theorem keeps_srcAction {r0 s : State} (src u info : Nat) (h_s : Keeps r0 s) :
    Keeps r0 (srcAction s src u info) := by
  unfold srcAction
  try dsimp only
  repeat' first
    | with_reducible first
        | assumption | apply keeps_modBlock | apply keeps_modBne | apply keeps_modRegion | apply keeps_replayJob
        | apply keeps_forJobs | apply keeps_loseLine | apply keeps_dropRunning | apply keeps_dropContext
        | apply keeps_loseBank
    | split | intro _ | with_reducible refine keeps_mk ?_ rfl rfl rfl rfl

theorem keeps_countUp {r0 s : State} (h : Keeps r0 s) (src u sev : Nat) : Keeps r0 (countUp s src u sev).1 := by
  unfold countUp
  try dsimp only
  split
  · repeat' first
      | with_reducible first
          | assumption | apply keeps_foldl
      | split | intro _ | with_reducible refine keeps_mk ?_ rfl rfl rfl rfl
  · repeat' first
      | with_reducible first
          | assumption | apply keeps_modBne | apply keeps_foldl
      | split | intro _ | with_reducible refine keeps_mk ?_ rfl rfl rfl rfl
  · exact h

theorem keeps_requiet {r0 s : State} (u : Nat) (h_s : Keeps r0 s) :
    Keeps r0 (requiet s u) := by
  unfold requiet
  try dsimp only
  repeat' first
    | with_reducible first
        | assumption | apply keeps_modUnit
    | split | intro _ | with_reducible refine keeps_mk ?_ rfl rfl rfl rfl

theorem keeps_raiseN {r0 : State} (n : Nat) : ∀ {s : State} (hit : List Job) (src u info : Nat),
    Keeps r0 s → Keeps r0 (raiseN n s hit src u info) := by
  induction n with
  | zero => intro s hit src u info h; exact h
  | succ n ih =>
    intro s hit src u info h
    unfold raiseN
    extract_lets c sev js target r0' r fatalNow todo own s1
    have h1 : Keeps r0 s1 := by
      show Keeps r0 (record _ _ _ _)
      exact keeps_record _ _ _ (keeps_srcAction _ _ _ (keeps_countUp (keeps_requiet _ h) _ _ _))
    clear_value s1 todo fatalNow target own r r0'
    split
    · split <;> apply keeps_goFatal
      · exact h1
      · exact keeps_record _ _ _ h1
    · split
      · exact h1
      · rename_i k
        split
        · exact h1
        · extract_lets s2 s3
          have h2 : Keeps r0 s2 := by
            show Keeps r0 (if _ then _ else _)
            split
            · exact h1
            · exact keeps_record _ _ _ h1
          have h3 : Keeps r0 s3 := by
            show Keeps r0 (if _ then _ else _)
            split
            · exact keeps_actedIn _ _ (keeps_failUnit _ _ _ (keeps_fence _ _ h2))
            · exact keeps_fence _ _ h2
          clear_value s2 s3
          repeat' (first | with_reducible assumption | with_reducible apply ih | split)

theorem keeps_raiseFault {r0 s : State} (src u info : Nat) (h : Keeps r0 s) : Keeps r0 (raiseFault s src u info) :=
  keeps_raiseN 6 [] src u info h

theorem keeps_raiseFor {r0 s : State} (j : Job) (src u info : Nat) (h : Keeps r0 s) : Keeps r0 (raiseFor s j src u info) :=
  keeps_raiseN 6 [j] src u info h

theorem keeps_failRegion {r0 s : State} (r src info : Nat) (h_s : Keeps r0 s) :
    Keeps r0 (failRegion s r src info) := by
  unfold failRegion
  try dsimp only
  repeat' first
    | with_reducible first
        | assumption | apply keeps_failUnit | apply keeps_raiseFault
    | split | intro _

/-! ### KeyOps.lean -/

theorem keeps_filterCaches {r0 s : State} (p : CacheEnt → Bool) (h_s : Keeps r0 s) :
    Keeps r0 (filterCaches s p) := by
  unfold filterCaches
  try dsimp only
  repeat' first
    | with_reducible first
        | assumption
    | split | intro _ | with_reducible refine keeps_mk ?_ rfl rfl rfl rfl

theorem keeps_filterKsc {r0 s : State} (p : Ksc → Bool) (h_s : Keeps r0 s) :
    Keeps r0 (filterKsc s p) := by
  unfold filterKsc
  try dsimp only
  repeat' first
    | with_reducible first
        | assumption
    | split | intro _ | with_reducible refine keeps_mk ?_ rfl rfl rfl rfl

theorem keeps_filterExpanded {r0 s : State} (p : ExpEnt → Bool) (h_s : Keeps r0 s) :
    Keeps r0 (filterExpanded s p) := by
  unfold filterExpanded
  try dsimp only
  repeat' first
    | with_reducible first
        | assumption
    | split | intro _ | with_reducible refine keeps_mk ?_ rfl rfl rfl rfl

theorem keeps_scrubKey {r0 s : State} (h : W64) (h_s : Keeps r0 s) :
    Keeps r0 (scrubKey s h) := by
  unfold scrubKey
  try dsimp only
  repeat' first
    | with_reducible first
        | assumption | apply keeps_filterCaches | apply keeps_filterKsc | apply keeps_filterExpanded
    | split | intro _

theorem keeps_scrubSliceKeys {r0 s : State} (n : Nat) (h_s : Keeps r0 s) :
    Keeps r0 (scrubSliceKeys s n) := by
  unfold scrubSliceKeys
  try dsimp only
  repeat' first
    | with_reducible first
        | assumption | apply keeps_filterCaches | apply keeps_filterKsc | apply keeps_filterExpanded
    | split | intro _

theorem keeps_withdrawSlot {r0 s : State} (i : Nat) (job : Option Nat) (h_s : Keeps r0 s) :
    Keeps r0 (withdrawSlot s i job) := by
  unfold withdrawSlot
  try dsimp only
  repeat' first
    | with_reducible first
        | assumption | apply keeps_requestWrite | apply keeps_scrubLane | apply keeps_scrubKey
    | split | intro _ | with_reducible refine keeps_mk ?_ rfl rfl rfl rfl

/-! ### LaneOps.lean -/

theorem keeps_sealFrame {r0 s t : State} {b : List Byte} (h : Keeps r0 s) {p kind elo sel e : Nat} {payload : List Byte}
    (ht : sealFrame s p kind elo sel e payload = some (t, b)) : Keeps r0 t := by
  unfold sealFrame at ht
  rcases hy : (getPort s p).seals with _ | ⟨sek, smk⟩
  · simp [hy] at ht
  · by_cases k5 : kind = 5
    · simp [hy, k5] at ht
      rw [← ht.1]; exact h
    · simp [hy, k5] at ht
      rw [← ht.2.1]; exact keeps_modPort _ _ h

theorem keeps_holdParent {r0 s : State} (n : Nat) (b : LaneBase) (e : Nat) (v : List Byte) (h_s : Keeps r0 s) :
    Keeps r0 (holdParent s n b e v) := by
  unfold holdParent
  try dsimp only
  repeat' first
    | with_reducible first
        | assumption
    | split | intro _ | with_reducible refine keeps_mk ?_ rfl rfl rfl rfl

theorem keeps_sealKeyFrame {r0 s t : State} {f : List Byte} (h : Keeps r0 s) {p : Nat} {b : LaneBase} {bind chan e : Nat}
    {parent : List Byte} {keep isNext : Bool} (ht : sealKeyFrame s p b bind chan e parent keep isNext = some (t, f)) : Keeps r0 t := by
  unfold sealKeyFrame at ht
  split at ht
  · cases ht
  · next hs =>
    dsimp only at ht
    injection ht with ht
    injection ht with h1 h2
    rw [← h1]
    have k := keeps_sealFrame h hs
    split
    · exact keeps_modPort _ _ k
    · exact k

theorem keeps_sealStore {r0 s : State} (n p bind chan e : Nat) (isNext : Bool) (h : Keeps r0 s) :
    Keeps r0 (sealStore s n p bind chan e isNext).1 := by
  unfold sealStore
  split
  · exact h
  · split
    · exact h
    · split
      · next hs => exact keeps_sealKeyFrame (keeps_holdParent _ _ _ _ h) hs
      · exact h

theorem keeps_sealEpoch {r0 s : State} (p e bmask : Nat) (h : Keeps r0 s) : Keeps r0 (sealEpoch s p e bmask) := by
  unfold sealEpoch
  split
  · next hs => exact keeps_modPort _ _ (keeps_sealFrame h hs)
  · exact h

theorem keeps_portCommitted {r0 s : State} (p : Nat) (e : PortEnt) (h : Keeps r0 s) : Keeps r0 (portCommitted s p e) := by
  unfold portCommitted
  try dsimp only
  split
  · repeat' first
      | with_reducible first
          | assumption | apply keeps_modPort | apply keeps_foldl
      | split | intro _ | with_reducible refine keeps_mk ?_ rfl rfl rfl rfl
  · split
    · repeat' first
        | with_reducible first
            | assumption | apply keeps_modPort | apply keeps_withdrawSlot | apply keeps_foldl
        | split | intro _ | with_reducible refine keeps_mk ?_ rfl rfl rfl rfl
    · split
      · repeat' first
          | with_reducible first
              | assumption | apply keeps_modPort | apply keeps_foldl
          | split | intro _ | with_reducible refine keeps_mk ?_ rfl rfl rfl rfl
      · next hs =>
        have k := keeps_sealFrame (keeps_modPort _ _ h) hs
        repeat' first
          | with_reducible first
              | assumption | apply keeps_modPort | apply keeps_sealEpoch | apply keeps_sealStore | apply keeps_foldl
          | split | intro _ | with_reducible refine keeps_mk ?_ rfl rfl rfl rfl

theorem keeps_raiseGen {r0 s : State} (p prio : Nat) (job : Option Nat) (h_s : Keeps r0 s) :
    Keeps r0 (raiseGen s p prio job) := by
  unfold raiseGen
  try dsimp only
  repeat' first
    | with_reducible first
        | assumption | apply keeps_modPort | apply keeps_requestWrite
    | split | intro _ | with_reducible refine keeps_mk ?_ rfl rfl rfl rfl

theorem keeps_portsMode {r0 : State} {s t : State} (h_s : Keeps r0 s) (h_t : Keeps r0 t) :
    Keeps r0 (portsMode s t) := by
  unfold portsMode
  try dsimp only
  repeat' first
    | with_reducible first
        | assumption | apply keeps_modPort | apply keeps_raiseGen | apply keeps_foldl
    | split | intro _ | with_reducible refine keeps_mk ?_ rfl rfl rfl rfl

/-! ### CommitOps.lean -/

theorem keeps_keepChanged {r0 s : State} (n : Nat) (changed : Bool) (h_s : Keeps r0 s) :
    Keeps r0 (keepChanged s n changed) := by
  unfold keepChanged
  try dsimp only
  repeat' first
    | with_reducible first
        | assumption
    | split | intro _ | with_reducible refine keeps_mk ?_ rfl rfl rfl rfl

theorem keeps_applySliceRec {r0 s : State} (n : Nat) (r : SliceRec) (h : Keeps r0 s) : Keeps r0 (applySliceRec s n r) := by
  have step : ∀ (k : State) (st : SliceState) (f : Slice → Slice) (b d : Prop) [Decidable b] [Decidable d], Keeps r0 k →
      Keeps r0 (if d then (if b then drew' (modSlice k n f) 1 else modSlice k n f)
        else notifyState (if b then drew' (modSlice k n f) 1 else modSlice k n f) n) := by
    intro k st f b d _ _ hk
    have h1 := keeps_modSlice n f hk
    have h2 : Keeps r0 (if b then drew' (modSlice k n f) 1 else modSlice k n f) := by
      split
      · exact keeps_drew' 1 h1
      · exact h1
    split
    · exact h2
    · exact keeps_notifyState n h2
  exact step _ r.state _ _ _ (keeps_keepChanged n _ h)

theorem keeps_modRecov {r0 s : State} (f : Recovery → Recovery) (h_s : Keeps r0 s) :
    Keeps r0 (modRecov s f) := by
  unfold modRecov
  repeat' first
    | with_reducible first
        | assumption
    | split | intro _ | with_reducible refine keeps_mk ?_ rfl rfl rfl rfl

theorem keeps_clearFailed {r0 s : State} (k u : Nat) (h_s : Keeps r0 s) :
    Keeps r0 (clearFailed s k u) := by
  unfold clearFailed
  try dsimp only
  repeat' first
    | with_reducible first
        | assumption | apply keeps_modDom | apply keeps_saveRecov | apply keeps_setUnit | apply keeps_modRecov
        | apply keeps_foldl
    | split | intro _ | with_reducible refine keeps_mk ?_ rfl rfl rfl rfl

theorem keeps_bindCommitted {r0 s : State} (n b : Nat) (x3 : W64) (h_s : Keeps r0 s) :
    Keeps r0 (bindCommitted s n b x3) := by
  unfold bindCommitted
  try dsimp only
  repeat' first
    | with_reducible first
        | assumption
    | split | intro _ | with_reducible refine keeps_mk ?_ rfl rfl rfl rfl

theorem keeps_eventCommitted {r0 s : State} (i : Nat) (e : Option EvEnt) (h_s : Keeps r0 s) :
    Keeps r0 (eventCommitted s i e) := by
  unfold eventCommitted
  try dsimp only
  repeat' first
    | with_reducible first
        | assumption | apply keeps_notifyEvent
    | split | intro _ | with_reducible refine keeps_mk ?_ rfl rfl rfl rfl

theorem keeps_freeEventIdx {r0 s : State} (i : Nat) (h_s : Keeps r0 s) :
    Keeps r0 (freeEventIdx s i) := by
  unfold freeEventIdx
  try dsimp only
  repeat' first
    | with_reducible first
        | assumption | apply keeps_requestWrite
    | split | intro _ | with_reducible refine keeps_mk ?_ rfl rfl rfl rfl

theorem keeps_dropEvents {r0 s : State} (n : Nat) (h_s : Keeps r0 s) :
    Keeps r0 (dropEvents s n) := by
  unfold dropEvents
  try dsimp only
  repeat' first
    | with_reducible first
        | assumption | apply keeps_freeEventIdx | apply keeps_foldl
    | split | intro _

theorem keeps_opEffect {r0 s : State} (o : AlmOp) (h_s : Keeps r0 s) :
    Keeps r0 (opEffect s o) := by
  unfold opEffect
  try dsimp only
  repeat' first
    | with_reducible first
        | assumption | apply keeps_modTree | apply keeps_endKey | apply keeps_record | apply keeps_portCommitted
        | apply keeps_applySliceRec | apply keeps_modRecov | apply keeps_clearFailed | apply keeps_bindCommitted
        | apply keeps_eventCommitted | apply keeps_dropEvents
    | split | intro _ | with_reducible refine keeps_mk ?_ rfl rfl rfl rfl

theorem keeps_advanceJob {r0 s : State} (io : JobIo) (k : Nat) (h_s : Keeps r0 s) :
    Keeps r0 (advanceJob io s k) := by
  unfold advanceJob
  try dsimp only
  repeat' first
    | with_reducible first
        | assumption | apply keeps_putJob | apply keeps_endJob | apply keeps_finishJob
    | split | intro _ | with_reducible refine keeps_mk ?_ rfl rfl rfl rfl

theorem keeps_corruptSlots {r0 s : State} (lo : Nat) (h_s : Keeps r0 s) :
    Keeps r0 (corruptSlots s lo) := by
  unfold corruptSlots
  try dsimp only
  repeat' first
    | with_reducible first
        | assumption
    | split | intro _ | with_reducible refine keeps_mk ?_ rfl rfl rfl rfl

theorem keeps_lostRecord {r0 s : State} (rid : Nat) (h_s : Keeps r0 s) :
    Keeps r0 (lostRecord s rid) := by
  unfold lostRecord
  try dsimp only
  repeat' first
    | with_reducible first
        | assumption | apply keeps_notifyEvent | apply keeps_raiseFault | apply keeps_withdrawSlot | apply keeps_portCommitted
        | apply keeps_applySliceRec | apply keeps_modRecov | apply keeps_corruptSlots | apply keeps_foldl
    | split | intro _ | with_reducible refine keeps_mk ?_ rfl rfl rfl rfl

theorem keeps_failWrite {r0 s : State} (io : JobIo) (k : Nat) (h_s : Keeps r0 s) :
    Keeps r0 (failWrite io s k) := by
  unfold failWrite
  try dsimp only
  repeat' first
    | with_reducible first
        | assumption | apply keeps_replayJob | apply keeps_advanceJob
    | split | intro _

theorem keeps_commitWrite {r0 s : State} (rid : Nat) (rb : List Bool) (io : JobIo) (h_s : Keeps r0 s) :
    Keeps r0 (commitWrite s rid rb io) := by
  unfold commitWrite
  try dsimp only
  repeat' first
    | with_reducible first
        | assumption | apply keeps_commitRec | apply keeps_endWrite | apply keeps_noteCommit | apply keeps_raiseFault
        | apply keeps_opEffect | apply keeps_advanceJob | apply keeps_lostRecord | apply keeps_failWrite | apply keeps_foldl
    | split | intro _ | with_reducible refine keeps_mk ?_ rfl rfl rfl rfl

theorem keeps_finishWrite {r0 s : State} (k : Nat) (h_s : Keeps r0 s) :
    Keeps r0 (finishWrite s k) := by
  unfold finishWrite
  try dsimp only
  repeat' first
    | with_reducible first
        | assumption | apply keeps_commitRec | apply keeps_opEffect | apply keeps_foldl
    | split | intro _

theorem keeps_finishWrites {r0 s : State} (h_s : Keeps r0 s) :
    Keeps r0 (finishWrites s) := by
  unfold finishWrites
  try dsimp only
  repeat' first
    | with_reducible first
        | assumption | apply keeps_finishWrite | apply keeps_foldl
    | split | intro _

theorem keeps_askWrite {r0 s : State} (j : Job) (prio : Nat) (o : AlmOp) (h_s : Keeps r0 s) :
    Keeps r0 (askWrite s j prio o) := by
  unfold askWrite
  try dsimp only
  repeat' first
    | with_reducible first
        | assumption | apply keeps_modJob | apply keeps_requestWrite
    | split | intro _ | with_reducible refine keeps_mk ?_ rfl rfl rfl rfl

theorem keeps_stageCommit {r0 s : State} (j : Job) (r : JobRes) (ops : List AlmOp) (h_s : Keeps r0 s) :
    Keeps r0 (stageCommit s j r ops) := by
  unfold stageCommit
  try dsimp only
  repeat' first
    | with_reducible first
        | assumption | apply keeps_putJob | apply keeps_askWrite | apply keeps_foldl
    | split | intro _ | with_reducible refine keeps_mk ?_ rfl rfl rfl rfl

theorem keeps_slotWritten {r0 s : State} (j : Job) (n : SlotNew) (h_s : Keeps r0 s) :
    Keeps r0 (slotWritten s j n) := by
  unfold slotWritten
  try dsimp only
  repeat' first
    | with_reducible first
        | assumption | apply keeps_askWrite | apply keeps_foldl
    | split | intro _

/-! ### ModeOps.lean -/

theorem keeps_wipeBnes {r0 s : State} (h_s : Keeps r0 s) :
    Keeps r0 (wipeBnes s) := by
  unfold wipeBnes
  try dsimp only
  repeat' first
    | with_reducible first
        | assumption
    | split | intro _ | with_reducible refine keeps_mk ?_ rfl rfl rfl rfl

theorem keeps_clearWindows {r0 s : State} (h_s : Keeps r0 s) :
    Keeps r0 (clearWindows s) := by
  unfold clearWindows
  try dsimp only
  repeat' first
    | with_reducible first
        | assumption
    | split | intro _ | with_reducible refine keeps_mk ?_ rfl rfl rfl rfl

theorem keeps_setMode {r0 s : State} (new : Mode) (trig op seq : Nat) (h_s : Keeps r0 s) :
    Keeps r0 (setMode s new trig op seq) := by
  unfold setMode
  try dsimp only
  repeat' first
    | with_reducible first
        | assumption | apply keeps_smbAlert | apply keeps_logEvent | apply keeps_vecMode | apply keeps_portsMode
        | apply keeps_wipeBnes | apply keeps_clearWindows
    | split | intro _ | with_reducible refine keeps_mk ?_ rfl rfl rfl rfl

theorem keeps_idleCards {r0 s : State} (h_s : Keeps r0 s) :
    Keeps r0 (idleCards s) := by
  unfold idleCards
  try dsimp only
  repeat' first
    | with_reducible first
        | assumption
    | split | intro _ | with_reducible refine keeps_mk ?_ rfl rfl rfl rfl

theorem keeps_logCer {r0 s : State} (k : Nat) (card : List Byte) (n : Nat) (h_s : Keeps r0 s) :
    Keeps r0 (logCer s k card n) := by
  unfold logCer
  repeat' first
    | with_reducible first
        | assumption | apply keeps_logEvent
    | split | intro _

theorem keeps_logAbort {r0 s : State} (h_s : Keeps r0 s) :
    Keeps r0 (logAbort s) := by
  unfold logAbort
  try dsimp only
  repeat' first
    | with_reducible first
        | assumption | apply keeps_logCer
    | split | intro _

theorem keeps_dropCeremony {r0 s : State} (h_s : Keeps r0 s) :
    Keeps r0 (dropCeremony s) := by
  unfold dropCeremony
  try dsimp only
  repeat' first
    | with_reducible first
        | assumption | apply keeps_zeroizeRoot | apply keeps_idleCards
    | split | intro _ | with_reducible refine keeps_mk ?_ rfl rfl rfl rfl

theorem keeps_finishSlot {r0 s : State} (i : Nat) (h_s : Keeps r0 s) :
    Keeps r0 (finishSlot s i) := by
  unfold finishSlot
  try dsimp only
  repeat' first
    | with_reducible first
        | assumption | apply keeps_endWrite | apply keeps_putJob | apply keeps_opEffect | apply keeps_slotWritten
        | apply keeps_foldl
    | split | intro _

theorem keeps_finishBegun {r0 s : State} (w : WriteIo) (h_s : Keeps r0 s) :
    Keeps r0 (finishBegun w s) := by
  unfold finishBegun
  try dsimp only
  repeat' first
    | with_reducible first
        | assumption | apply keeps_commitWrite | apply keeps_finishSlot | apply keeps_foldl
    | split | intro _

theorem keeps_discardWrites {r0 s : State} (h_s : Keeps r0 s) :
    Keeps r0 (discardWrites s) := by
  unfold discardWrites
  repeat' first
    | with_reducible first
        | assumption
    | split | intro _ | with_reducible refine keeps_mk ?_ rfl rfl rfl rfl

theorem keeps_umbraWrites {r0 s : State} (h_s : Keeps r0 s) :
    Keeps r0 (umbraWrites s) := by
  unfold umbraWrites
  try dsimp only
  repeat' first
    | with_reducible first
        | assumption | apply keeps_discardWrites
    | split | intro _ | with_reducible refine keeps_mk ?_ rfl rfl rfl rfl

theorem keeps_resetQps {r0 s : State} (n : Nat) (disable : Bool) (h_s : Keeps r0 s) :
    Keeps r0 (resetQps s n disable) := by
  unfold resetQps
  try dsimp only
  repeat' first
    | with_reducible first
        | assumption | apply keeps_modQp | apply keeps_foldl
    | split | intro _ | with_reducible refine keeps_mk ?_ rfl rfl rfl rfl

theorem keeps_finishReset {r0 s : State} (n : Nat) (h_s : Keeps r0 s) :
    Keeps r0 (finishReset s n) := by
  unfold finishReset
  try dsimp only
  repeat' first
    | with_reducible first
        | assumption | apply keeps_modSlice | apply keeps_notifyState | apply keeps_notifyReset | apply keeps_resetQps
    | split | intro _ | with_reducible refine keeps_mk ?_ rfl rfl rfl rfl

theorem keeps_finishResets {r0 s : State} (p : ResetRec → Bool) (h_s : Keeps r0 s) :
    Keeps r0 (finishResets p s) := by
  unfold finishResets
  try dsimp only
  repeat' first
    | with_reducible first
        | assumption | apply keeps_finishReset | apply keeps_foldl
    | split | intro _

theorem keeps_umbraClear {r0 s : State} (h : Keeps r0 s) : Keeps r0 (umbraClear s) := by
  unfold umbraClear
  extract_lets t u v
  have k : Keeps r0 v := by
    show Keeps r0 (loseHbm (finishResets _ (clearWindows (forJobs _ _ (forJobs _ _ s)))))
    apply keeps_loseHbm
    apply keeps_finishResets
    apply keeps_clearWindows
    apply keeps_forJobs
    · intro a j ha
      split
      · exact ha
      · split
        · exact keeps_finishJob _ _ _ ha
        · exact keeps_failJob _ _ _ _ ha
    · apply keeps_forJobs
      · intro a j ha
        exact keeps_failJob _ _ _ _ ha
      · exact h
  clear_value v
  exact Keeps.updMem (s := v) k rfl rfl rfl (fun _ => rfl)

theorem keeps_enterUmbra {r0 s : State} (w : WriteIo) (seq : Nat) (h_s : Keeps r0 s) :
    Keeps r0 (enterUmbra s w seq) := by
  unfold enterUmbra
  try dsimp only
  repeat' first
    | with_reducible first
        | assumption | apply keeps_startWrites | apply keeps_setMode | apply keeps_logAbort | apply keeps_dropCeremony
        | apply keeps_finishBegun | apply keeps_umbraWrites | apply keeps_umbraClear
    | split | intro _

theorem keeps_enterHalt {r0 s : State} (trig seq : Nat) (h_s : Keeps r0 s) :
    Keeps r0 (enterHalt s trig seq) := by
  unfold enterHalt
  try dsimp only
  repeat' first
    | with_reducible first
        | assumption | apply keeps_setMode | apply keeps_dropCeremony | apply keeps_finishResets
    | split | intro _ | with_reducible refine keeps_mk ?_ rfl rfl rfl rfl

theorem keeps_bootState {r0 s : State} (cause : Nat) (h : Keeps r0 s) : Keeps r0 (bootState s cause) :=
  h.updMem rfl rfl rfl (fun _ => rfl)

/-! ### Fuse.lean -/

/-- Programming only sets bits. -/
theorem byte_keeps_bits (x o v : Byte) (a : Nat) (dead : List Nat) (h : x &&& o = x) : x &&& fuseByteOr dead a o v = x := by
  apply BitVec.eq_of_getLsbD_eq
  intro i hi
  have k := congrArg (fun b => b.getLsbD i) h
  simp only [BitVec.getLsbD_and] at k ⊢
  have e : (fuseByteOr dead a o v).getLsbD i = (o.getLsbD i || (v.getLsbD i && !dead.contains (8 * a + i))) := by
    unfold fuseByteOr
    rw [BitVec.getLsbD_ofNat, testBit_maskOf]
    simp [hi]
  rw [e]
  cases hx : x.getLsbD i <;> simp_all

theorem keeps_fuseProg {r0 : State} (dead : List Nat) (bs : List Byte) :
    ∀ {s : State} (off : Nat), Keeps r0 s → Keeps r0 (fuseProg dead s off bs) := by
  induction bs with
  | nil => intro s off h; exact h
  | cons b bs ih =>
    intro s off h
    unfold fuseProg
    refine ih _ ?_
    refine ⟨h.pending, h.uptime, ?_, ?_, h.memWf⟩
    · intro f hf a
      have k := h.fuses f hf a
      show mapGet 0 f a &&& mapGet 0 (mapSet 0 s.fuses off _) a = mapGet 0 f a
      by_cases e : a = off
      · subst e
        rw [mapGet_set_same]
        exact byte_keeps_bits _ _ _ _ _ k
      · rw [mapGet_set_other _ _ _ e]
        exact k
    · intro w
      exact mapWf_set 0 _ _ _ (h.fuseWf w)

theorem keeps_fuseProg3 {r0 s : State} (dead : List Nat) (off : Nat) (bs : List Byte) (h : Keeps r0 s) :
    Keeps r0 (fuseProg3 dead s off bs) :=
  keeps_fuseProg _ _ _ (keeps_fuseProg _ _ _ (keeps_fuseProg _ _ _ h))

/-! ### Partas.lean -/

theorem keeps_runMgmt {r0 s : State} (job op : Nat) (f : Job → State) (hf : ∀ j, Keeps r0 (f j)) (h : Keeps r0 s) :
    KeepsR r0 (runMgmt s job op f) := by
  unfold runMgmt
  split
  · exact keepsR_doIf h (hf _) _
  · exact keepsR_next h

theorem keeps_answer {r0 s : State} (j : Job) (io : JobIo) (r : JobRes) (h_s : Keeps r0 s) :
    Keeps r0 (answer s j io r) := by
  unfold answer
  try dsimp only
  repeat' first
    | with_reducible first
        | assumption | apply keeps_endJob | apply keeps_finishJob
    | split | intro _ | with_reducible refine keeps_mk ?_ rfl rfl rfl rfl

theorem keeps_refuse {r0 s : State} (j : Job) (io : JobIo) (status : Nat) (h_s : Keeps r0 s) :
    Keeps r0 (refuse s j io status) := by
  unfold refuse
  repeat' first
    | with_reducible first
        | assumption | apply keeps_answer
    | split | intro _

theorem keeps_answerOk {r0 s : State} (j : Job) (io : JobIo) (h_s : Keeps r0 s) :
    Keeps r0 (answerOk s j io) := by
  unfold answerOk
  repeat' first
    | with_reducible first
        | assumption | apply keeps_answer
    | split | intro _

theorem keeps_settle {r0 s : State} (j : Job) (io : JobIo) (r : JobRes) (h_s : Keeps r0 s) :
    Keeps r0 (settle s j io r) := by
  unfold settle
  repeat' first
    | with_reducible first
        | assumption | apply keeps_putJob | apply keeps_answer
    | split | intro _ | with_reducible refine keeps_mk ?_ rfl rfl rfl rfl

theorem keeps_withReadAt {r0 : State} {t : State} {s : State} (j : Job) (off len : Nat) (h_s : Keeps r0 s) (h_t : Keeps r0
    t) :
    Keeps r0 (withReadAt s j off len t) := by
  unfold withReadAt
  try dsimp only
  repeat' first
    | with_reducible first
        | assumption
    | split | intro _ | with_reducible refine keeps_mk ?_ rfl rfl rfl rfl

theorem keeps_withRead {r0 : State} {t : State} {s : State} (j : Job) (h_s : Keeps r0 s) (h_t : Keeps r0 t) :
    Keeps r0 (withRead s j t) := by
  unfold withRead
  repeat' first
    | with_reducible first
        | assumption | apply keeps_withReadAt
    | split | intro _

theorem keeps_withInput {r0 s : State} (j : Job) (io : JobIo) (f : List Byte → State) (hf : ∀ b, Keeps r0 (f b)) (h : Keeps r0 s) :
    Keeps r0 (withInput s j io f) := by
  unfold withInput
  dsimp only
  apply keeps_withRead _ h
  split
  · exact hf _
  · exact keeps_answer _ _ _ h

theorem keeps_stage {r0 s : State} (j : Job) (r : JobRes) (check : Bool) (h_s : Keeps r0 s) :
    Keeps r0 (stage s j r check) := by
  unfold stage
  try dsimp only
  repeat' first
    | with_reducible first
        | assumption | apply keeps_putJob | apply keeps_freeCellsBut | apply keeps_freeBnesIf
    | split | intro _ | with_reducible refine keeps_mk ?_ rfl rfl rfl rfl

theorem keeps_stageFail {r0 s : State} (j : Job) (io : JobIo) (r : JobRes) (h_s : Keeps r0 s) :
    Keeps r0 (stageFail s j io r) := by
  unfold stageFail
  repeat' first
    | with_reducible first
        | assumption | apply keeps_endJob
    | split | intro _ | with_reducible refine keeps_mk ?_ rfl rfl rfl rfl

theorem keeps_engineInput {r0 s : State} (j : Job) (io : JobIo) (f : List Byte → State) (hf : ∀ b, Keeps r0 (f b))
    (h : Keeps r0 s) : Keeps r0 (engineInput s j io f) := by
  unfold engineInput
  dsimp only
  apply keeps_withRead _ h
  split
  · exact hf _
  · exact keeps_stageFail _ _ _ h

theorem keeps_runEngine {r0 s : State} (job op : Nat) (p : Job → Bool) (f : Job → State) (hf : ∀ j, Keeps r0 (f j))
    (h : Keeps r0 s) : KeepsR r0 (runEngine s job op p f) := by
  unfold runEngine
  split
  · exact keepsR_doIf h (hf _) _
  · exact keepsR_next h

/-! ### Rng.lean -/

theorem keeps_callDrbg {r0 s : State} (r n : Nat) (h_s : Keeps r0 s) :
    Keeps r0 (callDrbg s r n) := by
  unfold callDrbg
  try dsimp only
  repeat' first
    | with_reducible first
        | assumption | apply keeps_modRng
    | split | intro _ | with_reducible refine keeps_mk ?_ rfl rfl rfl rfl

theorem keeps_instantiate {r0 s : State} (r : Nat) (h_s : Keeps r0 s) :
    Keeps r0 (instantiate s r) := by
  unfold instantiate
  try dsimp only
  repeat' first
    | with_reducible first
        | assumption | apply keeps_modRng
    | split | intro _ | with_reducible refine keeps_mk ?_ rfl rfl rfl rfl

theorem keeps_reseeded {r0 s : State} (r : Nat) (h_s : Keeps r0 s) :
    Keeps r0 (reseeded s r) := by
  unfold reseeded
  try dsimp only
  repeat' first
    | with_reducible first
        | assumption | apply keeps_modRng
    | split | intro _ | with_reducible refine keeps_mk ?_ rfl rfl rfl rfl

theorem keeps_useBlock {r0 s : State} (q : Nat) (h_s : Keeps r0 s) :
    Keeps r0 (useBlock s q) := by
  unfold useBlock
  try dsimp only
  repeat' first
    | with_reducible first
        | assumption | apply keeps_modRng
    | split | intro _ | with_reducible refine keeps_mk ?_ rfl rfl rfl rfl

theorem keeps_feed {r0 s : State} (r : Nat) (h_s : Keeps r0 s) :
    Keeps r0 (feed s r) := by
  unfold feed
  try dsimp only
  repeat' first
    | with_reducible first
        | assumption | apply keeps_instantiate | apply keeps_reseeded | apply keeps_useBlock
    | split | intro _

theorem keeps_moveDependent {r0 s : State} (r : Nat) (h_s : Keeps r0 s) :
    Keeps r0 (moveDependent s r) := by
  unfold moveDependent
  try dsimp only
  repeat' first
    | with_reducible first
        | assumption | apply keeps_modRng
    | split | intro _ | with_reducible refine keeps_mk ?_ rfl rfl rfl rfl

theorem keeps_settleRng {r0 s : State} (h_s : Keeps r0 s) :
    Keeps r0 (settleRng s) := by
  unfold settleRng
  try dsimp only
  repeat' first
    | with_reducible first
        | assumption | apply keeps_feed | apply keeps_moveDependent | apply keeps_foldl
    | split | intro _

theorem keeps_healthFail {r0 s : State} (r cause : Nat) (h_s : Keeps r0 s) :
    Keeps r0 (healthFail s r cause) := by
  unfold healthFail
  try dsimp only
  repeat' first
    | with_reducible first
        | assumption | apply keeps_modRng | apply keeps_raiseFault | apply keeps_settleRng | apply keeps_foldl
    | split | intro _ | with_reducible refine keeps_mk ?_ rfl rfl rfl rfl

theorem keeps_startupPass {r0 s : State} (r : Nat) (h_s : Keeps r0 s) :
    Keeps r0 (startupPass s r) := by
  unfold startupPass
  try dsimp only
  repeat' first
    | with_reducible first
        | assumption | apply keeps_modRng | apply keeps_instantiate | apply keeps_settleRng
    | split | intro _ | with_reducible refine keeps_mk ?_ rfl rfl rfl rfl

theorem keeps_execHealthTestFailure {r0 s : State} (rgn kind : Nat) (h_s : Keeps r0 s) :
    KeepsR r0 (execHealthTestFailure rgn kind s) := by
  unfold execHealthTestFailure
  try dsimp only
  repeat' first
    | with_reducible first
        | assumption | apply keepsR_known | apply keepsR_doIf | apply keeps_modRng | apply keeps_healthFail
    | split | intro _ | with_reducible refine keeps_mk ?_ rfl rfl rfl rfl

theorem keeps_execRngStartupDone {r0 s : State} (rgn : Nat) (ok : Bool) (h_s : Keeps r0 s) :
    KeepsR r0 (execRngStartupDone rgn ok s) := by
  unfold execRngStartupDone
  try dsimp only
  repeat' first
    | with_reducible first
        | assumption | apply keepsR_known | apply keepsR_doIf | apply keeps_modRng | apply keeps_healthFail
        | apply keeps_startupPass
    | split | intro _ | with_reducible refine keeps_mk ?_ rfl rfl rfl rfl

theorem keeps_execConditionerBlockReady {r0 s : State} (rgn : Nat) (raw : BitVec 1024) (h_s : Keeps r0 s) :
    KeepsR r0 (execConditionerBlockReady rgn raw s) := by
  unfold execConditionerBlockReady
  try dsimp only
  repeat' first
    | with_reducible first
        | assumption | apply keepsR_known | apply keepsR_doIf | apply keeps_modRng | apply keeps_feed
    | split | intro _ | with_reducible refine keeps_mk ?_ rfl rfl rfl rfl

theorem keeps_execDrbgAutoReseed {r0 s : State} (rgn : Nat) (h_s : Keeps r0 s) :
    KeepsR r0 (execDrbgAutoReseed rgn s) := by
  unfold execDrbgAutoReseed
  try dsimp only
  repeat' first
    | with_reducible first
        | assumption | apply keepsR_known | apply keepsR_doIf | apply keeps_modRng | apply keeps_feed
    | split | intro _ | with_reducible refine keeps_mk ?_ rfl rfl rfl rfl

theorem keeps_execRngFailureWindowExpire {r0 s : State} (rgn : Nat) (h_s : Keeps r0 s) :
    KeepsR r0 (execRngFailureWindowExpire rgn s) := by
  unfold execRngFailureWindowExpire
  try dsimp only
  repeat' first
    | with_reducible first
        | assumption | apply keepsR_known | apply keepsR_doIf | apply keeps_modRng
    | split | intro _ | with_reducible refine keeps_mk ?_ rfl rfl rfl rfl

theorem keeps_knownAnswer {r0 s : State} (r : Nat) (tests : List Bool) (h_s : Keeps r0 s) :
    Keeps r0 (knownAnswer s r tests).2 := by
  unfold knownAnswer
  try dsimp only
  repeat' first
    | with_reducible first
        | assumption | apply keeps_modRng | apply keeps_feed | apply keeps_healthFail
    | split | intro _ | with_reducible refine keeps_mk ?_ rfl rfl rfl rfl

theorem keeps_restartSource {r0 s : State} (r : Nat) (tests : List Bool) (h_s : Keeps r0 s) :
    Keeps r0 (restartSource s r tests).2 := by
  unfold restartSource
  try dsimp only
  repeat' first
    | with_reducible first
        | assumption | apply keeps_modRng | apply keeps_healthFail | apply keeps_startupPass
    | split | intro _ | with_reducible refine keeps_mk ?_ rfl rfl rfl rfl

theorem keeps_execRngTest {r0 s : State} (job : Nat) (io : JobIo) (h_s : Keeps r0 s) :
    KeepsR r0 (execRngTest job io s) := by
  unfold execRngTest
  try dsimp only
  repeat' first
    | with_reducible first
        | assumption | apply keeps_runMgmt | apply keeps_answer | apply keeps_knownAnswer | apply keeps_restartSource
    | split | intro _

theorem keeps_withRng {r0 s fail : State} (j : Job) (n : Nat) (f : State → State) (hf : ∀ a, Keeps r0 a → Keeps r0 (f a))
    (hfail : Keeps r0 fail) (h : Keeps r0 s) : Keeps r0 (withRng s j n fail f) := by
  unfold withRng
  split
  · exact hf _ (keeps_callDrbg _ _ h)
  · split
    · exact hfail
    · exact h

theorem keeps_execGetRandom {r0 s : State} (job : Nat) (io : JobIo) (h_s : Keeps r0 s) :
    KeepsR r0 (execGetRandom job io s) := by
  unfold execGetRandom
  try dsimp only
  repeat' first
    | with_reducible first
        | assumption | apply keeps_drew' | apply keeps_runMgmt | apply keeps_answer | apply keeps_refuse
        | apply keeps_callDrbg | apply keeps_reseeded | apply keeps_useBlock
    | split | intro _

/-! ### SliceOps.lean -/

theorem keeps_scrubSlice {r0 s : State} (n : Nat) (h : Keeps r0 s) : Keeps r0 (scrubSlice s n) := by
  unfold scrubSlice
  extract_lets s1 x t lo hi u
  have kt : Keeps r0 t := keeps_scrubSliceKeys _ (keeps_dropVolBindings _ h)
  clear_value t lo hi x
  have ku : Keeps r0 (drew' u 1) := keeps_drew' _ (keeps_modSlice _ _ kt)
  have e : (drew' u 1).hdm = t.hdm := rfl
  clear_value u
  refine Keeps.updMem (s := drew' u 1) ku rfl rfl rfl (fun w => ?_)
  rw [e] at w
  exact mapWf_filter 0 _ t.hdm.mem w

theorem keeps_abortCells {r0 s : State} (n : Nat) (h_s : Keeps r0 s) :
    Keeps r0 (abortCells s n) := by
  unfold abortCells
  try dsimp only
  repeat' first
    | with_reducible first
        | assumption
    | split | intro _ | with_reducible refine keeps_mk ?_ rfl rfl rfl rfl

theorem keeps_squashSlice {r0 s : State} (n : Nat) (h_s : Keeps r0 s) :
    Keeps r0 (squashSlice s n) := by
  unfold squashSlice
  try dsimp only
  repeat' first
    | with_reducible first
        | assumption | apply keeps_failJob | apply keeps_forJobs | apply keeps_abortCells
    | split | intro _

theorem keeps_beginReset {r0 s : State} (n : Nat) (job : Option Nat) (removal : Bool) (h_s : Keeps r0 s) :
    Keeps r0 (beginReset s n job removal) := by
  unfold beginReset
  try dsimp only
  repeat' first
    | with_reducible first
        | assumption | apply keeps_modSlice | apply keeps_notifyState | apply keeps_squashSlice
    | split | intro _ | with_reducible refine keeps_mk ?_ rfl rfl rfl rfl

theorem keeps_hostResetSlice {r0 s : State} (n : Nat) (h_s : Keeps r0 s) :
    Keeps r0 (hostResetSlice s n) := by
  unfold hostResetSlice
  try dsimp only
  repeat' first
    | with_reducible first
        | assumption | apply keeps_modSlice | apply keeps_notifyState | apply keeps_dropJob | apply keeps_resetQps
        | apply keeps_squashSlice
    | split | intro _ | with_reducible refine keeps_mk ?_ rfl rfl rfl rfl

theorem keeps_hostResetAll {r0 s : State} (h_s : Keeps r0 s) :
    Keeps r0 (hostResetAll s) := by
  unfold hostResetAll
  try dsimp only
  repeat' first
    | with_reducible first
        | assumption | apply keeps_idleCards | apply keeps_hostResetSlice | apply keeps_foldl
    | split | intro _ | with_reducible refine keeps_mk ?_ rfl rfl rfl rfl

theorem keeps_startSlice {r0 s : State} (n : Nat) (h_s : Keeps r0 s) :
    Keeps r0 (startSlice s n) := by
  unfold startSlice
  try dsimp only
  repeat' first
    | with_reducible first
        | assumption | apply keeps_modSlice
    | split | intro _ | with_reducible refine keeps_mk ?_ rfl rfl rfl rfl

theorem keeps_startSlices {r0 s : State} (h_s : Keeps r0 s) :
    Keeps r0 (startSlices s) := by
  unfold startSlices
  repeat' first
    | with_reducible first
        | assumption | apply keeps_drew' | apply keeps_placeCopies | apply keeps_startSlice | apply keeps_foldl
    | split | intro _ | with_reducible refine keeps_mk ?_ rfl rfl rfl rfl

end Sys2Proof.Laws
end

