-- ==== Sys2Proof/Laws/KeepsCells.lean ====
section
/-! SUPPORT. What every command keeps (Laws/Keeps.lean), operation by operation: cells, big-number engines and key commands. Each lemma reads backwards: where
the state an operation starts from is kept, the one it answers is. -/

namespace Sys2Proof.Laws

open Sys2Proof Machine

set_option linter.unusedTactic false
set_option linter.unreachableTactic false
set_option linter.unusedVariables false

/-! ### Resolve.lean -/

theorem keeps_cacheHit {r0 s : State} (j : Job) (h : W64) (h_s : Keeps r0 s) :
    Keeps r0 (cacheHit s j h) := by
  unfold cacheHit
  try dsimp only
  repeat' first
    | with_reducible first
        | assumption | apply keeps_modBlock | apply keeps_modRegion
    | split | intro _ | with_reducible refine keeps_mk ?_ rfl rfl rfl rfl

theorem keeps_cacheFill {r0 s : State} (j : Job) (leaf : Bool) (e : CacheEnt) (h_s : Keeps r0 s) :
    Keeps r0 (cacheFill s j leaf e) := by
  unfold cacheFill
  try dsimp only
  repeat' first
    | with_reducible first
        | assumption | apply keeps_modBlock | apply keeps_modRegion
    | split | intro _ | with_reducible refine keeps_mk ?_ rfl rfl rfl rfl

theorem keeps_fillChain {r0 : State} (j : Job) (leaf : Bool) (src : KeySrc) :
    ∀ {s : State} (hs : List W64), Keeps r0 s → Keeps r0 (fillChain j leaf s src hs) := by
  induction src generalizing leaf with
  | child p l ih =>
    intro s hs h
    cases hs with
    | nil => exact h
    | cons x hs =>
      unfold fillChain
      split
      · exact keeps_cacheHit _ _ h
      · dsimp only
        split
        · exact keeps_cacheFill _ _ _ (ih _ _ h)
        · exact ih _ _ h
  | slot i g =>
    intro s hs h
    cases hs with
    | nil => exact h
    | cons x hs =>
      unfold fillChain
      split
      · exact keeps_cacheHit _ _ h
      · split
        · exact keeps_cacheFill _ _ _ h
        · exact h
  | _ => intro s hs h; cases hs <;> exact h

theorem keeps_fillKey {r0 s : State} (j : Job) (k : KeyRef) (h : Keeps r0 s) : Keeps r0 (fillKey j s k) := by
  unfold fillKey
  split
  · split
    · exact h
    · split
      · exact keeps_cacheHit _ _ h
      · exact keeps_cacheFill _ _ _ h
  · exact h
  · exact keeps_fillChain _ _ _ _ h

theorem keeps_corruptJob {r0 s : State} (j : Job) (i : Nat) (h_s : Keeps r0 s) :
    Keeps r0 (corruptJob s j i) := by
  unfold corruptJob
  try dsimp only
  repeat' first
    | with_reducible first
        | assumption | apply keeps_putJob | apply keeps_freeEngines | apply keeps_failJob | apply keeps_withdrawSlot
    | split | intro _ | with_reducible refine keeps_mk ?_ rfl rfl rfl rfl

theorem keeps_withKeys {r0 s : State} (j : Job) (f : State → List (List Byte) → State) (hf : ∀ a b, Keeps r0 a → Keeps r0 (f a b))
    (h : Keeps r0 s) : Keeps r0 (withKeys s j f) := by
  unfold withKeys
  split
  · exact hf _ _ h
  split
  · exact h
  split
  · exact keeps_corruptJob _ _ h
  · refine hf _ _ ?_
    split
    · exact keeps_foldl h (fun a x ha => keeps_fillKey j x ha) _
    · exact h

theorem keeps_askBne {r0 s : State} (j : Job) (r : BneReq) (h_s : Keeps r0 s) :
    Keeps r0 (askBne s j r) := by
  unfold askBne
  try dsimp only
  repeat' first
    | with_reducible first
        | assumption | apply keeps_modBne | apply keeps_putJob | apply keeps_wakeUnit
    | split | intro _ | with_reducible refine keeps_mk ?_ rfl rfl rfl rfl

/-! ### CellRun.lean -/

theorem keeps_endMacro {r0 s : State} (n : Nat) (h_s : Keeps r0 s) :
    Keeps r0 (endMacro s n) := by
  unfold endMacro
  try dsimp only
  repeat' first
    | with_reducible first
        | assumption | apply keeps_modCell | apply keeps_freeCells | apply keeps_endJob | apply keeps_stage
    | split | intro _ | with_reducible refine keeps_mk ?_ rfl rfl rfl rfl

theorem keeps_enterPc {r0 s : State} (n pc : Nat) (h_s : Keeps r0 s) :
    Keeps r0 (enterPc s n pc) := by
  unfold enterPc
  try dsimp only
  repeat' first
    | with_reducible first
        | assumption | apply keeps_modCell | apply keeps_endMacro
    | split | intro _ | with_reducible refine keeps_mk ?_ rfl rfl rfl rfl

theorem keeps_machineCheck {r0 s : State} (n cause cond : Nat) (cust : Bool) (h_s : Keeps r0 s) :
    Keeps r0 (machineCheck s n cause cond cust) := by
  unfold machineCheck
  try dsimp only
  repeat' first
    | with_reducible first
        | assumption | apply keeps_modCell | apply keeps_failJob | apply keeps_raiseFault
    | split | intro _ | with_reducible refine keeps_mk ?_ rfl rfl rfl rfl

theorem keeps_takeNext {r0 s : State} (n : Nat) (w : MicroWord) (h_s : Keeps r0 s) :
    Keeps r0 (takeNext s n w) := by
  unfold takeNext
  try dsimp only
  repeat' first
    | with_reducible first
        | assumption | apply keeps_modCell | apply keeps_enterPc | apply keeps_machineCheck
    | split | intro _ | with_reducible refine keeps_mk ?_ rfl rfl rfl rfl

theorem keeps_runWord {r0 s : State} (f : CellCtx → MicroWord → Cell → WordEnd) (n : Nat) (h_s : Keeps r0 s) :
    Keeps r0 (runWord f s n) := by
  unfold runWord
  try dsimp only
  repeat' first
    | with_reducible first
        | assumption | apply keeps_modCell | apply keeps_enterPc | apply keeps_machineCheck | apply keeps_takeNext
    | split | intro _ | with_reducible refine keeps_mk ?_ rfl rfl rfl rfl

theorem keeps_runRow {r0 s : State} (op : Nat) (f : CellCtx → MicroWord → Cell → WordEnd) (n : Nat) (h_s : Keeps r0 s) :
    KeepsR r0 (runRow op f n s) := by
  unfold runRow
  try dsimp only
  repeat' first
    | with_reducible first
        | assumption | apply keepsR_known | apply keepsR_doIf | apply keeps_runWord
    | split | intro _

theorem keeps_execNop {r0 s : State} (cell : Nat) (h_s : Keeps r0 s) :
    KeepsR r0 (execNop cell s) := by
  unfold execNop
  try dsimp only
  repeat' first
    | with_reducible first
        | assumption | apply keeps_runRow
    | split | intro _

theorem keeps_execAdd {r0 s : State} (cell : Nat) (h_s : Keeps r0 s) :
    KeepsR r0 (execAdd cell s) := by
  unfold execAdd
  try dsimp only
  repeat' first
    | with_reducible first
        | assumption | apply keeps_runRow
    | split | intro _

theorem keeps_execSub {r0 s : State} (cell : Nat) (h_s : Keeps r0 s) :
    KeepsR r0 (execSub cell s) := by
  unfold execSub
  try dsimp only
  repeat' first
    | with_reducible first
        | assumption | apply keeps_runRow
    | split | intro _

theorem keeps_execAddi {r0 s : State} (cell : Nat) (h_s : Keeps r0 s) :
    KeepsR r0 (execAddi cell s) := by
  unfold execAddi
  try dsimp only
  repeat' first
    | with_reducible first
        | assumption | apply keeps_runRow
    | split | intro _

theorem keeps_execAndOp {r0 s : State} (cell : Nat) (h_s : Keeps r0 s) :
    KeepsR r0 (execAndOp cell s) := by
  unfold execAndOp
  try dsimp only
  repeat' first
    | with_reducible first
        | assumption | apply keeps_runRow
    | split | intro _

theorem keeps_execOrOp {r0 s : State} (cell : Nat) (h_s : Keeps r0 s) :
    KeepsR r0 (execOrOp cell s) := by
  unfold execOrOp
  try dsimp only
  repeat' first
    | with_reducible first
        | assumption | apply keeps_runRow
    | split | intro _

theorem keeps_execXor {r0 s : State} (cell : Nat) (h_s : Keeps r0 s) :
    KeepsR r0 (execXor cell s) := by
  unfold execXor
  try dsimp only
  repeat' first
    | with_reducible first
        | assumption | apply keeps_runRow
    | split | intro _

theorem keeps_execShl {r0 s : State} (cell : Nat) (h_s : Keeps r0 s) :
    KeepsR r0 (execShl cell s) := by
  unfold execShl
  try dsimp only
  repeat' first
    | with_reducible first
        | assumption | apply keeps_runRow
    | split | intro _

theorem keeps_execShr {r0 s : State} (cell : Nat) (h_s : Keeps r0 s) :
    KeepsR r0 (execShr cell s) := by
  unfold execShr
  try dsimp only
  repeat' first
    | with_reducible first
        | assumption | apply keeps_runRow
    | split | intro _

theorem keeps_execSar {r0 s : State} (cell : Nat) (h_s : Keeps r0 s) :
    KeepsR r0 (execSar cell s) := by
  unfold execSar
  try dsimp only
  repeat' first
    | with_reducible first
        | assumption | apply keeps_runRow
    | split | intro _

theorem keeps_execMul {r0 s : State} (cell : Nat) (h_s : Keeps r0 s) :
    KeepsR r0 (execMul cell s) := by
  unfold execMul
  try dsimp only
  repeat' first
    | with_reducible first
        | assumption | apply keeps_runRow
    | split | intro _

theorem keeps_execMulhu {r0 s : State} (cell : Nat) (h_s : Keeps r0 s) :
    KeepsR r0 (execMulhu cell s) := by
  unfold execMulhu
  try dsimp only
  repeat' first
    | with_reducible first
        | assumption | apply keeps_runRow
    | split | intro _

theorem keeps_execLds {r0 s : State} (cell : Nat) (h_s : Keeps r0 s) :
    KeepsR r0 (execLds cell s) := by
  unfold execLds
  try dsimp only
  repeat' first
    | with_reducible first
        | assumption | apply keeps_runRow
    | split | intro _

theorem keeps_execCmp {r0 s : State} (cell : Nat) (h_s : Keeps r0 s) :
    KeepsR r0 (execCmp cell s) := by
  unfold execCmp
  try dsimp only
  repeat' first
    | with_reducible first
        | assumption | apply keeps_runRow
    | split | intro _

theorem keeps_execLd {r0 s : State} (cell : Nat) (h_s : Keeps r0 s) :
    KeepsR r0 (execLd cell s) := by
  unfold execLd
  try dsimp only
  repeat' first
    | with_reducible first
        | assumption | apply keeps_runRow
    | split | intro _

theorem keeps_execSt {r0 s : State} (cell : Nat) (h_s : Keeps r0 s) :
    KeepsR r0 (execSt cell s) := by
  unfold execSt
  try dsimp only
  repeat' first
    | with_reducible first
        | assumption | apply keeps_runRow
    | split | intro _

theorem keeps_execMfc {r0 s : State} (cell : Nat) (h_s : Keeps r0 s) :
    KeepsR r0 (execMfc cell s) := by
  unfold execMfc
  try dsimp only
  repeat' first
    | with_reducible first
        | assumption | apply keeps_runRow
    | split | intro _

theorem keeps_execMtc {r0 s : State} (cell : Nat) (h_s : Keeps r0 s) :
    KeepsR r0 (execMtc cell s) := by
  unfold execMtc
  try dsimp only
  repeat' first
    | with_reducible first
        | assumption | apply keeps_runRow
    | split | intro _

theorem keeps_execCall {r0 s : State} (cell : Nat) (h_s : Keeps r0 s) :
    KeepsR r0 (execCall cell s) := by
  unfold execCall
  try dsimp only
  repeat' first
    | with_reducible first
        | assumption | apply keeps_runRow
    | split | intro _

theorem keeps_execRet {r0 s : State} (cell : Nat) (h_s : Keeps r0 s) :
    KeepsR r0 (execRet cell s) := by
  unfold execRet
  try dsimp only
  repeat' first
    | with_reducible first
        | assumption | apply keeps_runRow
    | split | intro _

theorem keeps_execMsg {r0 s : State} (cell : Nat) (h_s : Keeps r0 s) :
    KeepsR r0 (execMsg cell s) := by
  unfold execMsg
  try dsimp only
  repeat' first
    | with_reducible first
        | assumption | apply keeps_runRow
    | split | intro _

theorem keeps_execDmain {r0 s : State} (cell : Nat) (h_s : Keeps r0 s) :
    KeepsR r0 (execDmain cell s) := by
  unfold execDmain
  try dsimp only
  repeat' first
    | with_reducible first
        | assumption | apply keeps_runRow
    | split | intro _

theorem keeps_execDmaout {r0 s : State} (cell : Nat) (h_s : Keeps r0 s) :
    KeepsR r0 (execDmaout cell s) := by
  unfold execDmaout
  try dsimp only
  repeat' first
    | with_reducible first
        | assumption | apply keeps_runRow
    | split | intro _

theorem keeps_execLoadkey {r0 s : State} (cell : Nat) (h_s : Keeps r0 s) :
    KeepsR r0 (execLoadkey cell s) := by
  unfold execLoadkey
  try dsimp only
  repeat' first
    | with_reducible first
        | assumption | apply keeps_runRow
    | split | intro _

theorem keeps_execSchk {r0 s : State} (cell : Nat) (h_s : Keeps r0 s) :
    KeepsR r0 (execSchk cell s) := by
  unfold execSchk
  try dsimp only
  repeat' first
    | with_reducible first
        | assumption | apply keeps_runRow
    | split | intro _

theorem keeps_execHinit {r0 s : State} (cell : Nat) (h_s : Keeps r0 s) :
    KeepsR r0 (execHinit cell s) := by
  unfold execHinit
  try dsimp only
  repeat' first
    | with_reducible first
        | assumption | apply keeps_runRow
    | split | intro _

theorem keeps_execHabs {r0 s : State} (cell : Nat) (h_s : Keeps r0 s) :
    KeepsR r0 (execHabs cell s) := by
  unfold execHabs
  try dsimp only
  repeat' first
    | with_reducible first
        | assumption | apply keeps_runRow
    | split | intro _

theorem keeps_execHsqz {r0 s : State} (cell : Nat) (h_s : Keeps r0 s) :
    KeepsR r0 (execHsqz cell s) := by
  unfold execHsqz
  try dsimp only
  repeat' first
    | with_reducible first
        | assumption | apply keeps_runRow
    | split | intro _

theorem keeps_execGadget {r0 s : State} (cell : Nat) (h_s : Keeps r0 s) :
    KeepsR r0 (execGadget cell s) := by
  unfold execGadget
  try dsimp only
  repeat' first
    | with_reducible first
        | assumption | apply keeps_runRow
    | split | intro _

theorem keeps_execUnmask {r0 s : State} (cell : Nat) (h_s : Keeps r0 s) :
    KeepsR r0 (execUnmask cell s) := by
  unfold execUnmask
  try dsimp only
  repeat' first
    | with_reducible first
        | assumption | apply keeps_runRow
    | split | intro _

theorem keeps_execNtt {r0 s : State} (cell : Nat) (h_s : Keeps r0 s) :
    KeepsR r0 (execNtt cell s) := by
  unfold execNtt
  try dsimp only
  repeat' first
    | with_reducible first
        | assumption | apply keeps_runRow
    | split | intro _

theorem keeps_execIntt {r0 s : State} (cell : Nat) (h_s : Keeps r0 s) :
    KeepsR r0 (execIntt cell s) := by
  unfold execIntt
  try dsimp only
  repeat' first
    | with_reducible first
        | assumption | apply keeps_runRow
    | split | intro _

theorem keeps_execPmul {r0 s : State} (cell : Nat) (h_s : Keeps r0 s) :
    KeepsR r0 (execPmul cell s) := by
  unfold execPmul
  try dsimp only
  repeat' first
    | with_reducible first
        | assumption | apply keeps_runRow
    | split | intro _

theorem keeps_execPmac {r0 s : State} (cell : Nat) (h_s : Keeps r0 s) :
    KeepsR r0 (execPmac cell s) := by
  unfold execPmac
  try dsimp only
  repeat' first
    | with_reducible first
        | assumption | apply keeps_runRow
    | split | intro _

theorem keeps_execPadd {r0 s : State} (cell : Nat) (h_s : Keeps r0 s) :
    KeepsR r0 (execPadd cell s) := by
  unfold execPadd
  try dsimp only
  repeat' first
    | with_reducible first
        | assumption | apply keeps_runRow
    | split | intro _

theorem keeps_execPsub {r0 s : State} (cell : Nat) (h_s : Keeps r0 s) :
    KeepsR r0 (execPsub cell s) := by
  unfold execPsub
  try dsimp only
  repeat' first
    | with_reducible first
        | assumption | apply keeps_runRow
    | split | intro _

theorem keeps_execVld {r0 s : State} (cell : Nat) (h_s : Keeps r0 s) :
    KeepsR r0 (execVld cell s) := by
  unfold execVld
  try dsimp only
  repeat' first
    | with_reducible first
        | assumption | apply keeps_runRow
    | split | intro _

theorem keeps_execVst {r0 s : State} (cell : Nat) (h_s : Keeps r0 s) :
    KeepsR r0 (execVst cell s) := by
  unfold execVst
  try dsimp only
  repeat' first
    | with_reducible first
        | assumption | apply keeps_runRow
    | split | intro _

theorem keeps_execVbcast {r0 s : State} (cell : Nat) (h_s : Keeps r0 s) :
    KeepsR r0 (execVbcast cell s) := by
  unfold execVbcast
  try dsimp only
  repeat' first
    | with_reducible first
        | assumption | apply keeps_runRow
    | split | intro _

theorem keeps_execVext {r0 s : State} (cell : Nat) (h_s : Keeps r0 s) :
    KeepsR r0 (execVext cell s) := by
  unfold execVext
  try dsimp only
  repeat' first
    | with_reducible first
        | assumption | apply keeps_runRow
    | split | intro _

theorem keeps_execVadd {r0 s : State} (cell : Nat) (h_s : Keeps r0 s) :
    KeepsR r0 (execVadd cell s) := by
  unfold execVadd
  try dsimp only
  repeat' first
    | with_reducible first
        | assumption | apply keeps_runRow
    | split | intro _

theorem keeps_execVsub {r0 s : State} (cell : Nat) (h_s : Keeps r0 s) :
    KeepsR r0 (execVsub cell s) := by
  unfold execVsub
  try dsimp only
  repeat' first
    | with_reducible first
        | assumption | apply keeps_runRow
    | split | intro _

theorem keeps_execVaddm {r0 s : State} (cell : Nat) (h_s : Keeps r0 s) :
    KeepsR r0 (execVaddm cell s) := by
  unfold execVaddm
  try dsimp only
  repeat' first
    | with_reducible first
        | assumption | apply keeps_runRow
    | split | intro _

theorem keeps_execVsubm {r0 s : State} (cell : Nat) (h_s : Keeps r0 s) :
    KeepsR r0 (execVsubm cell s) := by
  unfold execVsubm
  try dsimp only
  repeat' first
    | with_reducible first
        | assumption | apply keeps_runRow
    | split | intro _

theorem keeps_execVadds {r0 s : State} (cell : Nat) (h_s : Keeps r0 s) :
    KeepsR r0 (execVadds cell s) := by
  unfold execVadds
  try dsimp only
  repeat' first
    | with_reducible first
        | assumption | apply keeps_runRow
    | split | intro _

theorem keeps_execVsubs {r0 s : State} (cell : Nat) (h_s : Keeps r0 s) :
    KeepsR r0 (execVsubs cell s) := by
  unfold execVsubs
  try dsimp only
  repeat' first
    | with_reducible first
        | assumption | apply keeps_runRow
    | split | intro _

theorem keeps_execVmul {r0 s : State} (cell : Nat) (h_s : Keeps r0 s) :
    KeepsR r0 (execVmul cell s) := by
  unfold execVmul
  try dsimp only
  repeat' first
    | with_reducible first
        | assumption | apply keeps_runRow
    | split | intro _

theorem keeps_execVmulhr {r0 s : State} (cell : Nat) (h_s : Keeps r0 s) :
    KeepsR r0 (execVmulhr cell s) := by
  unfold execVmulhr
  try dsimp only
  repeat' first
    | with_reducible first
        | assumption | apply keeps_runRow
    | split | intro _

theorem keeps_execVrshr {r0 s : State} (cell : Nat) (h_s : Keeps r0 s) :
    KeepsR r0 (execVrshr cell s) := by
  unfold execVrshr
  try dsimp only
  repeat' first
    | with_reducible first
        | assumption | apply keeps_runRow
    | split | intro _

theorem keeps_execVsh {r0 s : State} (cell : Nat) (h_s : Keeps r0 s) :
    KeepsR r0 (execVsh cell s) := by
  unfold execVsh
  try dsimp only
  repeat' first
    | with_reducible first
        | assumption | apply keeps_runRow
    | split | intro _

theorem keeps_execVand {r0 s : State} (cell : Nat) (h_s : Keeps r0 s) :
    KeepsR r0 (execVand cell s) := by
  unfold execVand
  try dsimp only
  repeat' first
    | with_reducible first
        | assumption | apply keeps_runRow
    | split | intro _

theorem keeps_execVor {r0 s : State} (cell : Nat) (h_s : Keeps r0 s) :
    KeepsR r0 (execVor cell s) := by
  unfold execVor
  try dsimp only
  repeat' first
    | with_reducible first
        | assumption | apply keeps_runRow
    | split | intro _

theorem keeps_execVxor {r0 s : State} (cell : Nat) (h_s : Keeps r0 s) :
    KeepsR r0 (execVxor cell s) := by
  unfold execVxor
  try dsimp only
  repeat' first
    | with_reducible first
        | assumption | apply keeps_runRow
    | split | intro _

theorem keeps_execVcmp {r0 s : State} (cell : Nat) (h_s : Keeps r0 s) :
    KeepsR r0 (execVcmp cell s) := by
  unfold execVcmp
  try dsimp only
  repeat' first
    | with_reducible first
        | assumption | apply keeps_runRow
    | split | intro _

theorem keeps_execVcomp {r0 s : State} (cell : Nat) (h_s : Keeps r0 s) :
    KeepsR r0 (execVcomp cell s) := by
  unfold execVcomp
  try dsimp only
  repeat' first
    | with_reducible first
        | assumption | apply keeps_runRow
    | split | intro _

theorem keeps_execVdecomp {r0 s : State} (cell : Nat) (h_s : Keeps r0 s) :
    KeepsR r0 (execVdecomp cell s) := by
  unfold execVdecomp
  try dsimp only
  repeat' first
    | with_reducible first
        | assumption | apply keeps_runRow
    | split | intro _

theorem keeps_execVperm {r0 s : State} (cell : Nat) (h_s : Keeps r0 s) :
    KeepsR r0 (execVperm cell s) := by
  unfold execVperm
  try dsimp only
  repeat' first
    | with_reducible first
        | assumption | apply keeps_runRow
    | split | intro _

theorem keeps_execVgath {r0 s : State} (cell : Nat) (h_s : Keeps r0 s) :
    KeepsR r0 (execVgath cell s) := by
  unfold execVgath
  try dsimp only
  repeat' first
    | with_reducible first
        | assumption | apply keeps_runRow
    | split | intro _

theorem keeps_execVscat {r0 s : State} (cell : Nat) (h_s : Keeps r0 s) :
    KeepsR r0 (execVscat cell s) := by
  unfold execVscat
  try dsimp only
  repeat' first
    | with_reducible first
        | assumption | apply keeps_runRow
    | split | intro _

theorem keeps_execCellMsgRead {r0 s : State} (cell : Nat) (h_s : Keeps r0 s) :
    KeepsR r0 (execCellMsgRead cell s) := by
  unfold execCellMsgRead
  try dsimp only
  repeat' first
    | with_reducible first
        | assumption | apply keepsR_known | apply keepsR_doIf | apply keeps_runWord
    | split | intro _

theorem keeps_execReservedOp {r0 s : State} (cell : Nat) (h_s : Keeps r0 s) :
    KeepsR r0 (execReservedOp cell s) := by
  unfold execReservedOp
  try dsimp only
  repeat' first
    | with_reducible first
        | assumption | apply keepsR_known | apply keepsR_doIf | apply keeps_runWord
    | split | intro _

theorem keeps_execPwait {r0 s : State} (cell : Nat) (core : Option Nat) (h_s : Keeps r0 s) :
    KeepsR r0 (execPwait cell core s) := by
  unfold execPwait
  try dsimp only
  repeat' first
    | with_reducible first
        | assumption | apply keepsR_known | apply keepsR_doIf | apply keeps_modCell | apply keeps_modDom | apply keeps_runWord
    | split | intro _ | with_reducible refine keeps_mk ?_ rfl rfl rfl rfl

/-! ### CellEvents.lean -/

theorem keeps_dmaPut {r0 s : State} (n : Nat) (j : Option Job) (op : DmaOp) (bs : List Byte) (h_s : Keeps r0 s) :
    Keeps r0 (dmaPut s n j op bs) := by
  unfold dmaPut
  try dsimp only
  repeat' first
    | with_reducible first
        | assumption | apply keeps_modCell | apply keeps_modRegion | apply keeps_foldl
    | split | intro _ | with_reducible refine keeps_mk ?_ rfl rfl rfl rfl

theorem keeps_transfer {r0 s : State} (n : Nat) (op : DmaOp) (input : List Byte) (h_s : Keeps r0 s) :
    Keeps r0 (transfer s n op input) := by
  unfold transfer
  try dsimp only
  repeat' first
    | with_reducible first
        | assumption | apply keeps_machineCheck | apply keeps_dmaPut
    | split | intro _

theorem keeps_execDmaTransferDone {r0 s : State} (cell : Nat) (io : JobIo) (h_s : Keeps r0 s) :
    KeepsR r0 (execDmaTransferDone cell io s) := by
  unfold execDmaTransferDone
  try dsimp only
  repeat' first
    | with_reducible first
        | assumption | apply keepsR_next | apply keepsR_known | apply keepsR_doIf | apply keeps_modCell | apply keeps_putJob
        | apply keeps_withReadAt | apply keeps_stageFail | apply keeps_transfer
    | split | intro _ | with_reducible refine keeps_mk ?_ rfl rfl rfl rfl

theorem keeps_execHashOpDone {r0 s : State} (cell : Nat) (h_s : Keeps r0 s) :
    KeepsR r0 (execHashOpDone cell s) := by
  unfold execHashOpDone
  try dsimp only
  repeat' first
    | with_reducible first
        | assumption | apply keepsR_next | apply keepsR_known | apply keepsR_doIf | apply keeps_modCell
    | split | intro _ | with_reducible refine keeps_mk ?_ rfl rfl rfl rfl

theorem keeps_execSchkDone {r0 s : State} (cell : Nat) (ok : Bool) (h_s : Keeps r0 s) :
    KeepsR r0 (execSchkDone cell ok s) := by
  unfold execSchkDone
  try dsimp only
  repeat' first
    | with_reducible first
        | assumption | apply keepsR_known | apply keepsR_doIf | apply keeps_modCell | apply keeps_endMacro
        | apply keeps_machineCheck
    | split | intro _ | with_reducible refine keeps_mk ?_ rfl rfl rfl rfl

theorem keeps_execWaitConditionMet {r0 s : State} (cell : Nat) (h_s : Keeps r0 s) :
    KeepsR r0 (execWaitConditionMet cell s) := by
  unfold execWaitConditionMet
  try dsimp only
  repeat' first
    | with_reducible first
        | assumption | apply keepsR_known | apply keepsR_doIf | apply keeps_modCell | apply keeps_enterPc
        | apply keeps_machineCheck
    | split | intro _ | with_reducible refine keeps_mk ?_ rfl rfl rfl rfl

theorem keeps_execWaitTimeout {r0 s : State} (cell : Nat) (h_s : Keeps r0 s) :
    KeepsR r0 (execWaitTimeout cell s) := by
  unfold execWaitTimeout
  try dsimp only
  repeat' first
    | with_reducible first
        | assumption | apply keepsR_known | apply keepsR_doIf | apply keeps_machineCheck
    | split | intro _

theorem keeps_execCellTimerExpire {r0 s : State} (cell : Nat) (h_s : Keeps r0 s) :
    KeepsR r0 (execCellTimerExpire cell s) := by
  unfold execCellTimerExpire
  try dsimp only
  repeat' first
    | with_reducible first
        | assumption | apply keepsR_known | apply keepsR_doIf | apply keeps_modCell | apply keeps_enterPc
        | apply keeps_machineCheck
    | split | intro _ | with_reducible refine keeps_mk ?_ rfl rfl rfl rfl

theorem keeps_execJoblim {r0 s : State} (cell : Nat) (h_s : Keeps r0 s) :
    KeepsR r0 (execJoblim cell s) := by
  unfold execJoblim
  try dsimp only
  repeat' first
    | with_reducible first
        | assumption | apply keepsR_known | apply keepsR_doIf | apply keeps_machineCheck
    | split | intro _

theorem keeps_execCellJobAbort {r0 s : State} (cell : Nat) (h_s : Keeps r0 s) :
    KeepsR r0 (execCellJobAbort cell s) := by
  unfold execCellJobAbort
  try dsimp only
  repeat' first
    | with_reducible first
        | assumption | apply keepsR_next | apply keepsR_known | apply keepsR_doIf | apply keeps_failJob
    | split | intro _ | with_reducible refine keeps_mk ?_ rfl rfl rfl rfl

theorem keeps_execMaskReseed {r0 s : State} (cell : Nat) (h_s : Keeps r0 s) :
    KeepsR r0 (execMaskReseed cell s) := by
  unfold execMaskReseed
  try dsimp only
  repeat' first
    | with_reducible first
        | assumption | apply keepsR_known | apply keepsR_doIf | apply keeps_modCell | apply keeps_drew' | apply keeps_failJob
        | apply keeps_callDrbg
    | split | intro _ | with_reducible refine keeps_mk ?_ rfl rfl rfl rfl

theorem keeps_gateReturn {r0 s : State} (n : Nat) (h_s : Keeps r0 s) :
    Keeps r0 (gateReturn s n) := by
  unfold gateReturn
  try dsimp only
  repeat' first
    | with_reducible first
        | assumption | apply keeps_modCell | apply keeps_enterPc | apply keeps_machineCheck
    | split | intro _ | with_reducible refine keeps_mk ?_ rfl rfl rfl rfl

theorem keeps_execGetParams {r0 s : State} (cell : Nat) (h_s : Keeps r0 s) :
    KeepsR r0 (execGetParams cell s) := by
  unfold execGetParams
  try dsimp only
  repeat' first
    | with_reducible first
        | assumption | apply keepsR_known | apply keepsR_doIf | apply keeps_modCell | apply keeps_gateReturn
    | split | intro _

theorem keeps_execSetResult {r0 s : State} (cell : Nat) (h_s : Keeps r0 s) :
    KeepsR r0 (execSetResult cell s) := by
  unfold execSetResult
  try dsimp only
  repeat' first
    | with_reducible first
        | assumption | apply keepsR_known | apply keepsR_doIf | apply keeps_modCell | apply keeps_gateReturn
    | split | intro _ | with_reducible refine keeps_mk ?_ rfl rfl rfl rfl

theorem keeps_execRandom {r0 s : State} (cell : Nat) (h_s : Keeps r0 s) :
    KeepsR r0 (execRandom cell s) := by
  unfold execRandom
  try dsimp only
  repeat' first
    | with_reducible first
        | assumption | apply keepsR_known | apply keepsR_doIf | apply keeps_modCell | apply keeps_drew' | apply keeps_failJob
        | apply keeps_callDrbg | apply keeps_enterPc | apply keeps_machineCheck | apply keeps_gateReturn
    | split | intro _ | with_reducible refine keeps_mk ?_ rfl rfl rfl rfl

/-! ### Bne.lean -/

theorem keeps_askHash {r0 s : State} (blk : Nat) (r : BneReq) (h_s : Keeps r0 s) :
    Keeps r0 (askHash s blk r) := by
  unfold askHash
  try dsimp only
  repeat' first
    | with_reducible first
        | assumption | apply keeps_modDe
    | split | intro _ | with_reducible refine keeps_mk ?_ rfl rfl rfl rfl

theorem keeps_execBneRequestStart {r0 s : State} (blk : Nat) (h_s : Keeps r0 s) :
    KeepsR r0 (execBneRequestStart blk s) := by
  unfold execBneRequestStart
  try dsimp only
  repeat' first
    | with_reducible first
        | assumption | apply keepsR_known | apply keepsR_doIf | apply keeps_modBne | apply keeps_drew' | apply keeps_askHash
    | split | intro _ | with_reducible refine keeps_mk ?_ rfl rfl rfl rfl

theorem keeps_bneRow {r0 s : State} (func blk : Nat) (h_s : Keeps r0 s) :
    KeepsR r0 (bneRow func blk s) := by
  unfold bneRow
  try dsimp only
  repeat' first
    | with_reducible first
        | assumption | apply keepsR_known | apply keepsR_doIf | apply keeps_modBne
    | split | intro _ | with_reducible refine keeps_mk ?_ rfl rfl rfl rfl

theorem keeps_execBnePublic {r0 s : State} (blk : Nat) (h_s : Keeps r0 s) :
    KeepsR r0 (execBnePublic blk s) := by
  unfold execBnePublic
  try dsimp only
  repeat' first
    | with_reducible first
        | assumption | apply keeps_bneRow
    | split | intro _

theorem keeps_execAgree {r0 s : State} (blk : Nat) (h_s : Keeps r0 s) :
    KeepsR r0 (execAgree blk s) := by
  unfold execAgree
  try dsimp only
  repeat' first
    | with_reducible first
        | assumption | apply keeps_bneRow
    | split | intro _

theorem keeps_execEphemeralAgree {r0 s : State} (blk : Nat) (h_s : Keeps r0 s) :
    KeepsR r0 (execEphemeralAgree blk s) := by
  unfold execEphemeralAgree
  try dsimp only
  repeat' first
    | with_reducible first
        | assumption | apply keeps_bneRow
    | split | intro _

theorem keeps_execEcdsaSign {r0 s : State} (blk : Nat) (h_s : Keeps r0 s) :
    KeepsR r0 (execEcdsaSign blk s) := by
  unfold execEcdsaSign
  try dsimp only
  repeat' first
    | with_reducible first
        | assumption | apply keeps_bneRow
    | split | intro _

theorem keeps_execEcdsaVerify {r0 s : State} (blk : Nat) (h_s : Keeps r0 s) :
    KeepsR r0 (execEcdsaVerify blk s) := by
  unfold execEcdsaVerify
  try dsimp only
  repeat' first
    | with_reducible first
        | assumption | apply keeps_bneRow
    | split | intro _

theorem keeps_execEddsaSign {r0 s : State} (blk : Nat) (h_s : Keeps r0 s) :
    KeepsR r0 (execEddsaSign blk s) := by
  unfold execEddsaSign
  try dsimp only
  repeat' first
    | with_reducible first
        | assumption | apply keeps_bneRow
    | split | intro _

theorem keeps_execEddsaVerify {r0 s : State} (blk : Nat) (h_s : Keeps r0 s) :
    KeepsR r0 (execEddsaVerify blk s) := by
  unfold execEddsaVerify
  try dsimp only
  repeat' first
    | with_reducible first
        | assumption | apply keeps_bneRow
    | split | intro _

theorem keeps_execRsaSign {r0 s : State} (blk : Nat) (h_s : Keeps r0 s) :
    KeepsR r0 (execRsaSign blk s) := by
  unfold execRsaSign
  try dsimp only
  repeat' first
    | with_reducible first
        | assumption | apply keeps_bneRow
    | split | intro _

theorem keeps_execRsaVerify {r0 s : State} (blk : Nat) (h_s : Keeps r0 s) :
    KeepsR r0 (execRsaVerify blk s) := by
  unfold execRsaVerify
  try dsimp only
  repeat' first
    | with_reducible first
        | assumption | apply keeps_bneRow
    | split | intro _

theorem keeps_execRsaKeygen {r0 s : State} (blk : Nat) (h_s : Keeps r0 s) :
    KeepsR r0 (execRsaKeygen blk s) := by
  unfold execRsaKeygen
  try dsimp only
  repeat' first
    | with_reducible first
        | assumption | apply keeps_bneRow
    | split | intro _

theorem keeps_execRsaRebuild {r0 s : State} (blk : Nat) (h_s : Keeps r0 s) :
    KeepsR r0 (execRsaRebuild blk s) := by
  unfold execRsaRebuild
  try dsimp only
  repeat' first
    | with_reducible first
        | assumption | apply keeps_bneRow
    | split | intro _

theorem keeps_execValidate {r0 s : State} (blk : Nat) (h_s : Keeps r0 s) :
    KeepsR r0 (execValidate blk s) := by
  unfold execValidate
  try dsimp only
  repeat' first
    | with_reducible first
        | assumption | apply keeps_bneRow
    | split | intro _

theorem keeps_execScalarCheck {r0 s : State} (blk : Nat) (h_s : Keeps r0 s) :
    KeepsR r0 (execScalarCheck blk s) := by
  unfold execScalarCheck
  try dsimp only
  repeat' first
    | with_reducible first
        | assumption | apply keeps_bneRow
    | split | intro _

theorem keeps_execBneSegmentEnd {r0 s : State} (blk : Nat) (h_s : Keeps r0 s) :
    KeepsR r0 (execBneSegmentEnd blk s) := by
  unfold execBneSegmentEnd
  try dsimp only
  repeat' first
    | with_reducible first
        | assumption | apply keepsR_known | apply keepsR_doIf | apply keeps_modBne | apply keeps_failJob
    | split | intro _ | with_reducible refine keeps_mk ?_ rfl rfl rfl rfl

theorem keeps_execBnereq {r0 s : State} (cell : Nat) (h_s : Keeps r0 s) :
    KeepsR r0 (execBnereq cell s) := by
  unfold execBnereq
  try dsimp only
  repeat' first
    | with_reducible first
        | assumption | apply keepsR_known | apply keepsR_doIf | apply keeps_modCell | apply keeps_modBne | apply keeps_drew'
        | apply keeps_runWord
    | split | intro _ | with_reducible refine keeps_mk ?_ rfl rfl rfl rfl

/-! ### KeyCmds.lean -/

theorem keeps_runCell {r0 s : State} (job op : Nat) (f : Job → State) (hf : ∀ j, Keeps r0 (f j))
    (h : Keeps r0 s) : KeepsR r0 (runCell s job op f) := keeps_runEngine _ _ _ _ hf h

theorem keeps_runCellBne {r0 s : State} (job op : Nat) (cell bne : Job → State) (hc : ∀ j, Keeps r0 (cell j))
    (hb : ∀ j, Keeps r0 (bne j)) (h : Keeps r0 s) : KeepsR r0 (runCellBne s job op cell bne) := by
  unfold runCellBne
  refine keeps_runEngine _ _ _ _ ?_ h
  intro j
  try dsimp only
  split
  · exact hb j
  · exact hc j

theorem keeps_withDraw {r0 s : State} (j : Job) (io : JobIo) (n : Nat) (f : State → List Byte → State)
    (hf : ∀ a b, Keeps r0 a → Keeps r0 (f a b)) (h : Keeps r0 s) : Keeps r0 (withDraw s j io n f) := by
  unfold withDraw
  exact keeps_withRng _ _ _ (fun a ha => hf _ _ (keeps_drew' _ ha)) (keeps_stageFail _ _ _ h) h

theorem keeps_stageErr {r0 s : State} (j : Job) (io : JobIo) (st : Nat) (h_s : Keeps r0 s) :
    Keeps r0 (stageErr s j io st) := by
  unfold stageErr
  repeat' first
    | with_reducible first
        | assumption | apply keeps_stageFail
    | split | intro _

theorem keeps_keepGenerated {r0 s : State} (j : Job) (seed : List Byte) (h_s : Keeps r0 s) :
    Keeps r0 (keepGenerated s j seed) := by
  unfold keepGenerated
  try dsimp only
  repeat' first
    | with_reducible first
        | assumption | apply keeps_stage
    | split | intro _

theorem keeps_askWith {r0 s : State} (j : Job) (saved : List (List Byte)) (r : BneReq) (h_s : Keeps r0 s) :
    Keeps r0 (askWith s j saved r) := by
  unfold askWith
  repeat' first
    | with_reducible first
        | assumption | apply keeps_askBne
    | split | intro _ | with_reducible refine keeps_mk ?_ rfl rfl rfl rfl

theorem keeps_cellSeed {r0 s : State} (j : Job) (io : JobIo) (f : State → List Byte → State)
    (hf : ∀ a b, Keeps r0 a → Keeps r0 (f a b)) (h : Keeps r0 s) : Keeps r0 (cellSeed s j io f) := by
  unfold cellSeed
  try dsimp only
  split
  · split
    · split
      · exact keeps_withDraw _ _ _ _ (fun a b ha => keeps_askWith _ _ _ ha) h
      · exact h
    · exact h
  · exact keeps_withDraw _ _ _ _ (fun a b ha => hf _ _ ha) h

theorem keeps_bneSeed {r0 s : State} (j : Job) (io : JobIo) (h_s : Keeps r0 s) :
    Keeps r0 (bneSeed s j io) := by
  unfold bneSeed
  try dsimp only
  repeat' first
    | with_reducible first
        | assumption | apply keeps_withDraw | apply keeps_askWith
    | split | intro _

theorem keeps_execKeyGenerate {r0 s : State} (job : Nat) (io : JobIo) (h_s : Keeps r0 s) :
    KeepsR r0 (execKeyGenerate job io s) := by
  unfold execKeyGenerate
  try dsimp only
  repeat' first
    | with_reducible first
        | assumption | apply keeps_runCellBne | apply keeps_keepGenerated | apply keeps_cellSeed | apply keeps_bneSeed
    | split | intro _

theorem keeps_slotRead {r0 : State} {t : State} {s : State} (j : Job) (h_s : Keeps r0 s) (h_t : Keeps r0 t) :
    Keeps r0 (slotRead s j t) := by
  unfold slotRead
  try dsimp only
  repeat' first
    | with_reducible first
        | assumption | apply keeps_corruptJob
    | split | intro _

theorem keeps_execKeyQuery {r0 s : State} (job : Nat) (io : JobIo) (h_s : Keeps r0 s) :
    KeepsR r0 (execKeyQuery job io s) := by
  unfold execKeyQuery
  try dsimp only
  repeat' first
    | with_reducible first
        | assumption | apply keeps_runMgmt | apply keeps_answer | apply keeps_slotRead
    | split | intro _

theorem keeps_givePublic {r0 s : State} (j : Job) (pub : List Byte) (h_s : Keeps r0 s) :
    Keeps r0 (givePublic s j pub) := by
  unfold givePublic
  repeat' first
    | with_reducible first
        | assumption | apply keeps_replayJob | apply keeps_stage | apply keeps_slotRead
    | split | intro _ | with_reducible refine keeps_mk ?_ rfl rfl rfl rfl

theorem keeps_execKeyPublic {r0 s : State} (job : Nat) (io : JobIo) (h_s : Keeps r0 s) :
    KeepsR r0 (execKeyPublic job io s) := by
  unfold execKeyPublic
  try dsimp only
  repeat' first
    | with_reducible first
        | assumption | apply keepsR_next | apply keeps_runMgmt | apply keeps_answer | apply keeps_withKeys
        | apply keeps_runCellBne | apply keeps_askWith | apply keeps_givePublic
    | split | intro _

theorem keeps_execKeyRetire {r0 s : State} (job : Nat) (io : JobIo) (h_s : Keeps r0 s) :
    KeepsR r0 (execKeyRetire job io s) := by
  unfold execKeyRetire
  try dsimp only
  repeat' first
    | with_reducible first
        | assumption | apply keeps_stageCommit | apply keeps_runMgmt | apply keeps_refuse
    | split | intro _

theorem keeps_execDerive {r0 s : State} (job : Nat) (io : JobIo) (h_s : Keeps r0 s) :
    KeepsR r0 (execDerive job io s) := by
  unfold execDerive
  try dsimp only
  repeat' first
    | with_reducible first
        | assumption | apply keeps_endJob | apply keeps_runMgmt | apply keeps_answer | apply keeps_withInput
        | apply keeps_withKeys
    | split | intro _ | with_reducible refine keeps_mk ?_ rfl rfl rfl rfl

theorem keeps_execEpochHandle {r0 s : State} (job : Nat) (io : JobIo) (h_s : Keeps r0 s) :
    KeepsR r0 (execEpochHandle job io s) := by
  unfold execEpochHandle
  try dsimp only
  repeat' first
    | with_reducible first
        | assumption | apply keeps_runMgmt | apply keeps_answer | apply keeps_refuse | apply keeps_withKeys
    | split | intro _ | with_reducible refine keeps_mk ?_ rfl rfl rfl rfl

theorem keeps_keepPeer {r0 s : State} (j : Job) (pub : List Byte) (h_s : Keeps r0 s) :
    Keeps r0 (keepPeer s j pub) := by
  unfold keepPeer
  try dsimp only
  repeat' first
    | with_reducible first
        | assumption | apply keeps_stage
    | split | intro _ | with_reducible refine keeps_mk ?_ rfl rfl rfl rfl

theorem keeps_execPeerLoad {r0 s : State} (job : Nat) (io : JobIo) (h_s : Keeps r0 s) :
    KeepsR r0 (execPeerLoad job io s) := by
  unfold execPeerLoad
  try dsimp only
  repeat' first
    | with_reducible first
        | assumption | apply keeps_engineInput | apply keeps_runCellBne | apply keeps_stageErr | apply keeps_askWith
        | apply keeps_keepPeer
    | split | intro _

theorem keeps_execHandleRelease {r0 s : State} (job : Nat) (io : JobIo) (h_s : Keeps r0 s) :
    KeepsR r0 (execHandleRelease job io s) := by
  unfold execHandleRelease
  try dsimp only
  repeat' first
    | with_reducible first
        | assumption | apply keeps_endKey | apply keeps_runMgmt | apply keeps_answerOk
    | split | intro _

theorem keeps_pinEntries {r0 s : State} (h : W64) (p : Bool) (h_s : Keeps r0 s) :
    Keeps r0 (pinEntries s h p) := by
  unfold pinEntries
  try dsimp only
  repeat' first
    | with_reducible first
        | assumption
    | split | intro _ | with_reducible refine keeps_mk ?_ rfl rfl rfl rfl

theorem keeps_execCacheControl {r0 s : State} (job : Nat) (io : JobIo) (h_s : Keeps r0 s) :
    KeepsR r0 (execCacheControl job io s) := by
  unfold execCacheControl
  try dsimp only
  repeat' first
    | with_reducible first
        | assumption | apply keeps_expand | apply keeps_filterExpanded | apply keeps_runMgmt | apply keeps_answer
        | apply keeps_withKeys | apply keeps_pinEntries | apply keeps_foldl
    | split | intro _ | with_reducible refine keeps_mk ?_ rfl rfl rfl rfl

theorem keeps_execTransportEstablish {r0 s : State} (job : Nat) (io : JobIo) (h_s : Keeps r0 s) :
    KeepsR r0 (execTransportEstablish job io s) := by
  unfold execTransportEstablish
  try dsimp only
  repeat' first
    | with_reducible first
        | assumption | apply keeps_stage | apply keeps_engineInput | apply keeps_withKeys | apply keeps_runCell
        | apply keeps_withDraw | apply keeps_stageErr
    | split | intro _ | with_reducible refine keeps_mk ?_ rfl rfl rfl rfl

theorem keeps_execTransportAccept {r0 s : State} (job : Nat) (io : JobIo) (h_s : Keeps r0 s) :
    KeepsR r0 (execTransportAccept job io s) := by
  unfold execTransportAccept
  try dsimp only
  repeat' first
    | with_reducible first
        | assumption | apply keeps_stage | apply keeps_engineInput | apply keeps_withKeys | apply keeps_runCell
    | split | intro _ | with_reducible refine keeps_mk ?_ rfl rfl rfl rfl

theorem keeps_execKeyExport {r0 s : State} (job : Nat) (x1 : JobIo) (h_s : Keeps r0 s) :
    KeepsR r0 (execKeyExport job x1 s) := by
  unfold execKeyExport
  try dsimp only
  repeat' first
    | with_reducible first
        | assumption | apply keeps_stage | apply keeps_withKeys | apply keeps_runCell | apply keeps_slotRead
    | split | intro _

theorem keeps_keepImported {r0 s : State} (j : Job) (a pol : Nat) (seed : List Byte) (h_s : Keeps r0 s) :
    Keeps r0 (keepImported s j a pol seed) := by
  unfold keepImported
  try dsimp only
  repeat' first
    | with_reducible first
        | assumption | apply keeps_stage
    | split | intro _ | with_reducible refine keeps_mk ?_ rfl rfl rfl rfl

theorem keeps_execKeyImport {r0 s : State} (job : Nat) (io : JobIo) (h_s : Keeps r0 s) :
    KeepsR r0 (execKeyImport job io s) := by
  unfold execKeyImport
  try dsimp only
  repeat' first
    | with_reducible first
        | assumption | apply keeps_engineInput | apply keeps_withKeys | apply keeps_runCell | apply keeps_stageErr
        | apply keeps_askWith | apply keeps_keepImported
    | split | intro _

/-! ### KemCmds.lean -/

theorem keeps_keepKem {r0 s : State} (j : Job) (seed : List Byte) (h_s : Keeps r0 s) :
    Keeps r0 (keepKem s j seed) := by
  unfold keepKem
  try dsimp only
  repeat' first
    | with_reducible first
        | assumption | apply keeps_stage
    | split | intro _ | with_reducible refine keeps_mk ?_ rfl rfl rfl rfl

theorem keeps_execKemKeygen {r0 s : State} (job : Nat) (io : JobIo) (h_s : Keeps r0 s) :
    KeepsR r0 (execKemKeygen job io s) := by
  unfold execKemKeygen
  try dsimp only
  repeat' first
    | with_reducible first
        | assumption | apply keeps_runCellBne | apply keeps_cellSeed | apply keeps_bneSeed | apply keeps_keepKem
    | split | intro _

theorem keeps_withPeer {r0 s : State} (j : Job) (io : JobIo) (f : State → List Byte → List FormUse → State)
    (hf : ∀ a b n, Keeps r0 a → Keeps r0 (f a b n)) (h : Keeps r0 s) : Keeps r0 (withPeer s j io f) := by
  unfold withPeer
  split
  · refine keeps_engineInput _ _ _ ?_ h
    intro pk
    try dsimp only
    split
    · exact hf _ _ _ h
    · exact keeps_stageErr _ _ _ h
  · exact keeps_withKeys _ _ (fun a b ha => hf _ _ _ ha) h

theorem keeps_execKemEncaps {r0 s : State} (job : Nat) (io : JobIo) (h_s : Keeps r0 s) :
    KeepsR r0 (execKemEncaps job io s) := by
  unfold execKemEncaps
  try dsimp only
  repeat' first
    | with_reducible first
        | assumption | apply keeps_stage | apply keeps_runCell | apply keeps_withDraw | apply keeps_withPeer
    | split | intro _ | with_reducible refine keeps_mk ?_ rfl rfl rfl rfl

theorem keeps_execKemDecaps {r0 s : State} (job : Nat) (io : JobIo) (h : Keeps r0 s) : KeepsR r0 (execKemDecaps job io s) := by
  unfold execKemDecaps
  refine keeps_runCell _ _ _ (fun j => ?_) h
  refine keeps_engineInput _ _ _ (fun ct => ?_) h
  refine keeps_withKeys _ _ (fun a b ha => ?_) h
  exact keeps_stage _ _ _ ha

theorem keeps_execDhAgree {r0 s : State} (job : Nat) (io : JobIo) (h_s : Keeps r0 s) :
    KeepsR r0 (execDhAgree job io s) := by
  unfold execDhAgree
  try dsimp only
  repeat' first
    | with_reducible first
        | assumption | apply keeps_engineInput | apply keeps_runEngine | apply keeps_withKeys | apply keeps_askWith
    | split | intro _

theorem keeps_askTwin {r0 s : State} (j : Job) (r : BneReq) (h_s : Keeps r0 s) :
    Keeps r0 (askTwin s j r) := by
  unfold askTwin
  try dsimp only
  repeat' first
    | with_reducible first
        | assumption | apply keeps_modBne | apply keeps_wakeUnit
    | split | intro _ | with_reducible refine keeps_mk ?_ rfl rfl rfl rfl

theorem keeps_execHybridEncaps {r0 s : State} (job : Nat) (io : JobIo) (h_s : Keeps r0 s) :
    KeepsR r0 (execHybridEncaps job io s) := by
  unfold execHybridEncaps
  try dsimp only
  repeat' first
    | with_reducible first
        | assumption | apply keeps_runEngine | apply keeps_withDraw | apply keeps_askWith | apply keeps_withPeer
        | apply keeps_askTwin
    | split | intro _

theorem keeps_execHybridDecaps {r0 s : State} (job : Nat) (io : JobIo) (h_s : Keeps r0 s) :
    KeepsR r0 (execHybridDecaps job io s) := by
  unfold execHybridDecaps
  try dsimp only
  repeat' first
    | with_reducible first
        | assumption | apply keeps_engineInput | apply keeps_runEngine | apply keeps_withKeys | apply keeps_askWith
    | split | intro _

/-! ### SigCmds.lean -/

theorem keeps_execSigKeygen {r0 s : State} (job : Nat) (io : JobIo) (h_s : Keeps r0 s) :
    KeepsR r0 (execSigKeygen job io s) := by
  unfold execSigKeygen
  try dsimp only
  repeat' first
    | with_reducible first
        | assumption | apply keeps_runCellBne | apply keeps_cellSeed | apply keeps_bneSeed | apply keeps_keepKem
    | split | intro _

theorem keeps_execStatefulCreate {r0 s : State} (job : Nat) (io : JobIo) (h_s : Keeps r0 s) :
    KeepsR r0 (execStatefulCreate job io s) := by
  unfold execStatefulCreate
  try dsimp only
  repeat' first
    | with_reducible first
        | assumption | apply keeps_stage | apply keeps_runCell | apply keeps_withDraw
    | split | intro _

theorem keeps_reserveLeaf {r0 s : State} (rid : Nat) (l : Leaf) (h_s : Keeps r0 s) :
    Keeps r0 (reserveLeaf s rid l) := by
  unfold reserveLeaf
  try dsimp only
  repeat' first
    | with_reducible first
        | assumption | apply keeps_requestWrite
    | split | intro _ | with_reducible refine keeps_mk ?_ rfl rfl rfl rfl

theorem keeps_takeLeaf {r0 s : State} (rid : Nat) (l : Leaf) (h_s : Keeps r0 s) :
    Keeps r0 (takeLeaf s rid l) := by
  unfold takeLeaf
  try dsimp only
  repeat' first
    | with_reducible first
        | assumption | apply keeps_modTree
    | split | intro _ | with_reducible refine keeps_mk ?_ rfl rfl rfl rfl

theorem keeps_signStateful {r0 s : State} (j : Job) (io : JobIo) (h_s : Keeps r0 s) :
    Keeps r0 (signStateful s j io) := by
  unfold signStateful
  try dsimp only
  repeat' first
    | with_reducible first
        | assumption | apply keeps_stage | apply keeps_engineInput | apply keeps_withKeys | apply keeps_stageErr
        | apply keeps_reserveLeaf | apply keeps_takeLeaf
    | split | intro _ | with_reducible refine keeps_mk ?_ rfl rfl rfl rfl

theorem keeps_execSign {r0 s : State} (job : Nat) (io : JobIo) (h_s : Keeps r0 s) :
    KeepsR r0 (execSign job io s) := by
  unfold execSign
  try dsimp only
  repeat' first
    | with_reducible first
        | assumption | apply keeps_stage | apply keeps_engineInput | apply keeps_withKeys | apply keeps_runCellBne
        | apply keeps_withDraw | apply keeps_askWith | apply keeps_signStateful
    | split | intro _ | with_reducible refine keeps_mk ?_ rfl rfl rfl rfl

theorem keeps_endVerify {r0 s : State} (j : Job) (io : JobIo) (v : Nat × Nat) (forms : List FormUse) (h_s : Keeps r0 s) :
    Keeps r0 (endVerify s j io v forms) := by
  unfold endVerify
  repeat' first
    | with_reducible first
        | assumption | apply keeps_stage | apply keeps_stageErr
    | split | intro _ | with_reducible refine keeps_mk ?_ rfl rfl rfl rfl

theorem keeps_execVerify {r0 s : State} (job : Nat) (io : JobIo) (h_s : Keeps r0 s) :
    KeepsR r0 (execVerify job io s) := by
  unfold execVerify
  try dsimp only
  repeat' first
    | with_reducible first
        | assumption | apply keeps_replayJob | apply keeps_engineInput | apply keeps_withKeys | apply keeps_runCellBne
        | apply keeps_stageErr | apply keeps_askWith | apply keeps_endVerify
    | split | intro _

theorem keeps_execStatefulQuery {r0 s : State} (job : Nat) (io : JobIo) (h_s : Keeps r0 s) :
    KeepsR r0 (execStatefulQuery job io s) := by
  unfold execStatefulQuery
  try dsimp only
  repeat' first
    | with_reducible first
        | assumption | apply keepsR_next | apply keeps_drew' | apply keeps_runMgmt | apply keeps_answer | apply keeps_refuse
    | split | intro _

theorem keeps_execTreeBuildDone {r0 s : State} (rid part : Nat) (h_s : Keeps r0 s) :
    KeepsR r0 (execTreeBuildDone rid part s) := by
  unfold execTreeBuildDone
  try dsimp only
  repeat' first
    | with_reducible first
        | assumption | apply keepsR_next | apply keepsR_doIf | apply keeps_modTree | apply keeps_chargeSlice
    | split | intro _ | with_reducible refine keeps_mk ?_ rfl rfl rfl rfl

/-! ### BneDone.lean -/

theorem keeps_leaveH0 {r0 s : State} (b : Nat) (r : BneReq) (ok : Bool) (h_s : Keeps r0 s) :
    Keeps r0 (leaveH0 s b r ok) := by
  unfold leaveH0
  try dsimp only
  repeat' first
    | with_reducible first
        | assumption | apply keeps_modBne
    | split | intro _ | with_reducible refine keeps_mk ?_ rfl rfl rfl rfl

theorem keeps_leaveH1 {r0 s : State} (b : Nat) (h_s : Keeps r0 s) :
    Keeps r0 (leaveH1 s b) := by
  unfold leaveH1
  try dsimp only
  repeat' first
    | with_reducible first
        | assumption | apply keeps_modBne
    | split | intro _ | with_reducible refine keeps_mk ?_ rfl rfl rfl rfl

theorem keeps_answerCell {r0 s : State} (c : Nat) (r : BneReq) (x : BneRes) (h_s : Keeps r0 s) :
    Keeps r0 (answerCell s c r x) := by
  unfold answerCell
  try dsimp only
  repeat' first
    | with_reducible first
        | assumption | apply keeps_modCell | apply keeps_drew'
    | split | intro _ | with_reducible refine keeps_mk ?_ rfl rfl rfl rfl

theorem keeps_askAgain {r0 s : State} (j : Job) (r : BneReq) (h_s : Keeps r0 s) :
    Keeps r0 (askAgain s j r) := by
  unfold askAgain
  try dsimp only
  repeat' first
    | with_reducible first
        | assumption | apply keeps_modBne | apply keeps_putJob | apply keeps_replayJob | apply keeps_wakeUnit
    | split | intro _ | with_reducible refine keeps_mk ?_ rfl rfl rfl rfl

theorem keeps_goOn {r0 s : State} (j : Job) (io : JobIo) (r : BneReq) (x : BneRes) (h_s : Keeps r0 s) :
    Keeps r0 (goOn s j io r x) := by
  unfold goOn
  try dsimp only
  repeat' first
    | with_reducible first
        | assumption | apply keeps_stage | apply keeps_keepGenerated | apply keeps_givePublic | apply keeps_keepPeer
        | apply keeps_keepImported | apply keeps_keepKem | apply keeps_endVerify | apply keeps_askAgain
    | split | intro _ | with_reducible refine keeps_mk ?_ rfl rfl rfl rfl

theorem keeps_endRequest {r0 s : State} (b : Nat) (io : JobIo) (r : BneReq) (x : BneRes) (pass : Bool) (h_s : Keeps r0 s)
    :
    Keeps r0 (endRequest s b io r x pass) := by
  unfold endRequest
  try dsimp only
  repeat' first
    | with_reducible first
        | assumption | apply keeps_modBne | apply keeps_drew' | apply keeps_putJob | apply keeps_replayJob
        | apply keeps_stageErr | apply keeps_answerCell | apply keeps_goOn
    | split | intro _ | with_reducible refine keeps_mk ?_ rfl rfl rfl rfl

theorem keeps_execBneRequestDone {r0 s : State} (blk : Nat) (io : JobIo) (h_s : Keeps r0 s) :
    KeepsR r0 (execBneRequestDone blk io s) := by
  unfold execBneRequestDone
  try dsimp only
  repeat' first
    | with_reducible first
        | assumption | apply keepsR_known | apply keepsR_doIf | apply keeps_leaveH0 | apply keeps_leaveH1
        | apply keeps_endRequest
    | split | intro _

theorem keeps_gateFail {r0 s : State} (n : Nat) (st : Nat) (h_s : Keeps r0 s) :
    Keeps r0 (gateFail s n st) := by
  unfold gateFail
  try dsimp only
  repeat' first
    | with_reducible first
        | assumption | apply keeps_failJob
    | split | intro _ | with_reducible refine keeps_mk ?_ rfl rfl rfl rfl

theorem keeps_execPutKey {r0 s : State} (cell : Nat) (h_s : Keeps r0 s) :
    KeepsR r0 (execPutKey cell s) := by
  unfold execPutKey
  try dsimp only
  repeat' first
    | with_reducible first
        | assumption | apply keepsR_known | apply keepsR_doIf | apply keeps_modCell | apply keeps_machineCheck
        | apply keeps_gateReturn | apply keeps_gateFail
    | split | intro _ | with_reducible refine keeps_mk ?_ rfl rfl rfl rfl

/-! ### Micro.lean -/

theorem keeps_execMicroLoad {r0 s : State} (job : Nat) (io : JobIo) (h_s : Keeps r0 s) :
    KeepsR r0 (execMicroLoad job io s) := by
  unfold execMicroLoad
  try dsimp only
  repeat' first
    | with_reducible first
        | assumption | apply keeps_stageCommit | apply keeps_runMgmt | apply keeps_answer | apply keeps_withInput
    | split | intro _

theorem keeps_execMicroUnload {r0 s : State} (job : Nat) (io : JobIo) (h_s : Keeps r0 s) :
    KeepsR r0 (execMicroUnload job io s) := by
  unfold execMicroUnload
  try dsimp only
  repeat' first
    | with_reducible first
        | assumption | apply keeps_freeCells | apply keeps_runMgmt | apply keeps_answerOk
    | split | intro _ | with_reducible refine keeps_mk ?_ rfl rfl rfl rfl

theorem keeps_execMicroQuery {r0 s : State} (job : Nat) (io : JobIo) (h_s : Keeps r0 s) :
    KeepsR r0 (execMicroQuery job io s) := by
  unfold execMicroQuery
  try dsimp only
  repeat' first
    | with_reducible first
        | assumption | apply keeps_runMgmt | apply keeps_answer
    | split | intro _

theorem keeps_execCustomerMacroOp {r0 s : State} (job : Nat) (x1 : JobIo) (h_s : Keeps r0 s) :
    KeepsR r0 (execCustomerMacroOp job x1 s) := by
  unfold execCustomerMacroOp
  try dsimp only
  repeat' first
    | with_reducible first
        | assumption | apply keepsR_next | apply keepsR_doIf | apply keeps_modCell
    | split | intro _ | with_reducible refine keeps_mk ?_ rfl rfl rfl rfl

theorem keeps_execWdogConfig {r0 s : State} (job : Nat) (x1 : JobIo) (h_s : Keeps r0 s) :
    KeepsR r0 (execWdogConfig job x1 s) := by
  unfold execWdogConfig
  try dsimp only
  repeat' first
    | with_reducible first
        | assumption | apply keeps_stageCommit | apply keeps_runMgmt
    | split | intro _

end Sys2Proof.Laws
end

