-- ==== Sys2Proof/Laws/KeepsStore.lean ====
section
/-! SUPPORT. What every command keeps (Laws/Keeps.lean), operation by operation: cards, tamper, life cycle, ceremonies, the Almanac, power and digests. Each lemma reads backwards: where
the state an operation starts from is kept, the one it answers is. -/

namespace Sys2Proof.Laws

open Sys2Proof Machine

set_option linter.unusedTactic false
set_option linter.unreachableTactic false
set_option linter.unusedVariables false

/-! ### CardBus.lean -/

theorem keeps_sendCard {r0 s : State} (cs op arg : Nat) (h_s : Keeps r0 s) :
    Keeps r0 (sendCard s cs op arg) := by
  unfold sendCard
  try dsimp only
  repeat' first
    | with_reducible first
        | assumption | apply keeps_modCard | apply keeps_emit
    | split | intro _ | with_reducible refine keeps_mk ?_ rfl rfl rfl rfl

theorem keeps_sendBlock {r0 s : State} (cs : Nat) (bs : List Byte) (h_s : Keeps r0 s) :
    Keeps r0 (sendBlock s cs bs) := by
  unfold sendBlock
  repeat' first
    | with_reducible first
        | assumption | apply keeps_emit
    | split | intro _

theorem keeps_cardError {r0 s : State} (cs : Nat) (h_s : Keeps r0 s) :
    Keeps r0 (cardError s cs) := by
  unfold cardError
  try dsimp only
  repeat' first
    | with_reducible first
        | assumption | apply keeps_modCard
    | split | intro _ | with_reducible refine keeps_mk ?_ rfl rfl rfl rfl

theorem keeps_execCardDebouncedInsert {r0 s : State} (cs : Nat) (wp : Bool) (h_s : Keeps r0 s) :
    KeepsR r0 (execCardDebouncedInsert cs wp s) := by
  unfold execCardDebouncedInsert
  try dsimp only
  repeat' first
    | with_reducible first
        | assumption | apply keepsR_known | apply keepsR_doIf | apply keeps_modCard | apply keeps_vecCard
    | split | intro _ | with_reducible refine keeps_mk ?_ rfl rfl rfl rfl

theorem keeps_askCard {r0 : State} (cs op arg n : Nat) : ∀ {t : CardTalk}, Keeps r0 t.s → Keeps r0 (askCard cs op arg n t).2.s := by
  induction n with
  | zero => intro t h; unfold askCard; exact h
  | succ n ih =>
    intro t h
    unfold askCard
    try dsimp only
    have k : Keeps r0 (sendCard t.s cs op arg) := keeps_sendCard _ _ _ h
    repeat' (first | exact k | exact keeps_cardError _ k | apply ih | split)

theorem keeps_readCard {r0 : State} (cs n : Nat) :
    ∀ {t : CardTalk} (i : Nat) (acc : List Byte), Keeps r0 t.s → Keeps r0 (readCard cs i n acc t).2.s := by
  induction n with
  | zero => intro t i acc h; exact h
  | succ n ih =>
    intro t i acc h
    unfold readCard
    have k := keeps_askCard cs 0x10 i 3 h
    split
    · next e => rw [e] at k; exact ih _ _ k
    · next e => rw [e] at k; exact k

theorem keeps_sweep {r0 : State} (cs n : Nat) :
    ∀ {t : CardTalk} (acc : List Bool), Keeps r0 t.s → Keeps r0 (sweep cs n acc t).2.s := by
  induction n with
  | zero => intro t acc h; exact h
  | succ n ih =>
    intro t acc h
    unfold sweep
    exact ih _ (keeps_sendCard _ _ _ h)

theorem keeps_setBus {r0 s : State} (cs width rate : Nat) (h_s : Keeps r0 s) :
    Keeps r0 (setBus cs width rate s) := by
  unfold setBus
  try dsimp only
  repeat' first
    | with_reducible first
        | assumption | apply keeps_modCard
    | split | intro _ | with_reducible refine keeps_mk ?_ rfl rfl rfl rfl

theorem keeps_refuseCard {r0 s : State} (cs : Nat) (h_s : Keeps r0 s) :
    Keeps r0 (refuseCard cs s) := by
  unfold refuseCard
  try dsimp only
  repeat' first
    | with_reducible first
        | assumption | apply keeps_modCard
    | split | intro _ | with_reducible refine keeps_mk ?_ rfl rfl rfl rfl

theorem keeps_readyCard {r0 s : State} (cs : Nat) (h_s : Keeps r0 s) :
    Keeps r0 (readyCard cs s) := by
  unfold readyCard
  try dsimp only
  repeat' first
    | with_reducible first
        | assumption | apply keeps_modCard
    | split | intro _ | with_reducible refine keeps_mk ?_ rfl rfl rfl rfl

theorem keeps_fallBack {r0 : State} {t : CardTalk} (cs : Nat) (h : Keeps r0 t.s) : Keeps r0 (fallBack cs t) := by
  unfold fallBack
  have k := keeps_askCard cs 0x03 5 3 h
  split
  · next e => rw [e] at k; exact keeps_readyCard _ (keeps_modCard _ _ (keeps_setBus _ _ _ k))
  · next e => rw [e] at k; exact keeps_refuseCard _ k

theorem keeps_raiseBus {r0 : State} {t : CardTalk} (cs : Nat) (h : Keeps r0 t.s) : Keeps r0 (raiseBus cs t) := by
  unfold raiseBus
  have k := keeps_askCard cs 0x03 4 3 h
  split
  · next e => rw [e] at k; exact keeps_refuseCard _ k
  · next u e =>
    rw [e] at k
    have k2 := keeps_askCard cs 0x03 9 3 (t := { u with s := setBus cs 0 1 u.s }) (keeps_setBus _ _ _ k)
    split
    · next e2 => rw [e2] at k2; exact keeps_refuseCard _ k2
    · next v e2 =>
      rw [e2] at k2
      have k3 := keeps_sweep cs 32 (t := { v with s := setBus cs 1 2 v.s }) [] (keeps_setBus _ _ _ k2)
      try dsimp only
      split
      · exact keeps_readyCard _ (keeps_modCard _ _ k3)
      · exact keeps_fallBack _ k3

theorem keeps_identify {r0 : State} {t : CardTalk} (cs : Nat) (h : Keeps r0 t.s) : Keeps r0 (identify cs t) := by
  unfold identify
  have k := keeps_askCard cs 0x01 0 3 h
  split
  · next e => rw [e] at k; exact keeps_refuseCard _ k
  · next id u e =>
    rw [e] at k
    have k2 := keeps_readCard cs 10 1 [] k
    split
    · next e2 => rw [e2] at k2; exact keeps_refuseCard _ k2
    · next e2 =>
      rw [e2] at k2
      try dsimp only
      split
      · exact keeps_raiseBus _ (keeps_modCard _ _ k2)
      · exact keeps_refuseCard _ (keeps_modCard _ _ k2)

theorem keeps_execCardIdentify {r0 s : State} (cs : Nat) (ans : List (List Byte)) (h_s : Keeps r0 s) :
    KeepsR r0 (execCardIdentify cs ans s) := by
  unfold execCardIdentify
  try dsimp only
  repeat' first
    | with_reducible first
        | assumption | apply keepsR_known | apply keepsR_doIf | apply keeps_modCard | apply keeps_identify
    | split | intro _ | with_reducible refine keeps_mk ?_ rfl rfl rfl rfl

/-! ### Tamper.lean -/

theorem keeps_setLatch {r0 s : State} (h_s : Keeps r0 s) :
    Keeps r0 (setLatch s) := by
  unfold setLatch
  repeat' first
    | with_reducible first
        | assumption
    | split | intro _ | with_reducible refine keeps_mk ?_ rfl rfl rfl rfl

theorem keeps_clearLatch {r0 s : State} (h_s : Keeps r0 s) :
    Keeps r0 (clearLatch s) := by
  unfold clearLatch
  repeat' first
    | with_reducible first
        | assumption
    | split | intro _ | with_reducible refine keeps_mk ?_ rfl rfl rfl rfl

theorem keeps_batLog {r0 s : State} (e : List Byte) (h_s : Keeps r0 s) :
    Keeps r0 (batLog s e) := by
  unfold batLog
  repeat' first
    | with_reducible first
        | assumption
    | split | intro _ | with_reducible refine keeps_mk ?_ rfl rfl rfl rfl

theorem keeps_copyEntry {r0 s : State} (e : List Byte) (h_s : Keeps r0 s) :
    Keeps r0 (copyEntry s e) := by
  unfold copyEntry
  repeat' first
    | with_reducible first
        | assumption | apply keeps_logEventAt
    | split | intro _

theorem keeps_copyOldest {r0 s : State} (h_s : Keeps r0 s) :
    Keeps r0 (copyOldest s) := by
  unfold copyOldest
  try dsimp only
  repeat' first
    | with_reducible first
        | assumption | apply keeps_batLog | apply keeps_copyEntry
    | split | intro _ | with_reducible refine keeps_mk ?_ rfl rfl rfl rfl

theorem keeps_copyAll {r0 s : State} (h_s : Keeps r0 s) :
    Keeps r0 (copyAll s) := by
  unfold copyAll
  repeat' first
    | with_reducible first
        | assumption | apply keeps_batLog | apply keeps_copyEntry | apply keeps_foldl
    | split | intro _ | with_reducible refine keeps_mk ?_ rfl rfl rfl rfl

theorem keeps_startCopy {r0 s : State} (h_s : Keeps r0 s) :
    Keeps r0 (startCopy s) := by
  unfold startCopy
  try dsimp only
  repeat' first
    | with_reducible first
        | assumption | apply keeps_logEvent | apply keeps_copyAll
    | split | intro _ | with_reducible refine keeps_mk ?_ rfl rfl rfl rfl

theorem keeps_noteAlarm {r0 s : State} (source kind cell resp : Nat) (h_s : Keeps r0 s) :
    Keeps r0 (noteAlarm s source kind cell resp) := by
  unfold noteAlarm
  repeat' first
    | with_reducible first
        | assumption
    | split | intro _ | with_reducible refine keeps_mk ?_ rfl rfl rfl rfl

theorem keeps_rootResponse {r0 s : State} (resp : Nat) (h_s : Keeps r0 s) :
    Keeps r0 (rootResponse s resp) := by
  unfold rootResponse
  try dsimp only
  repeat' first
    | with_reducible first
        | assumption | apply keeps_zeroizeRoot | apply keeps_setLatch
    | split | intro _

theorem keeps_burnAll {r0 s : State} (h_s : Keeps r0 s) :
    Keeps r0 (burnAll s) := by
  unfold burnAll
  try dsimp only
  repeat' first
    | with_reducible first
        | assumption | apply keeps_putJob | apply keeps_burnLeaf | apply keeps_forJobs
    | split | intro _ | with_reducible refine keeps_mk ?_ rfl rfl rfl rfl

theorem keeps_respond {r0 s : State} (resp : Nat) (w : WriteIo) (h_s : Keeps r0 s) :
    Keeps r0 (respond s resp w) := by
  unfold respond
  try dsimp only
  repeat' first
    | with_reducible first
        | assumption | apply keeps_logEvent | apply keeps_finishBegun | apply keeps_umbraWrites | apply keeps_enterUmbra
        | apply keeps_copyAll | apply keeps_rootResponse | apply keeps_burnAll
    | split | intro _ | with_reducible refine keeps_mk ?_ rfl rfl rfl rfl

theorem keeps_alarm {r0 s : State} (k source kind cell resp : Nat) (w : WriteIo) (h_s : Keeps r0 s) :
    Keeps r0 (alarm s k source kind cell resp w) := by
  unfold alarm
  try dsimp only
  repeat' first
    | with_reducible first
        | assumption | apply keeps_batLog | apply keeps_noteAlarm | apply keeps_respond
    | split | intro _ | with_reducible refine keeps_mk ?_ rfl rfl rfl rfl

theorem keeps_execClockMonitorTrip {r0 s : State} (cell kind : Nat) (w : WriteIo) (h_s : Keeps r0 s) :
    KeepsR r0 (execClockMonitorTrip cell kind w s) := by
  unfold execClockMonitorTrip
  try dsimp only
  repeat' first
    | with_reducible first
        | assumption | apply keepsR_known | apply keepsR_doIf | apply keeps_modCell | apply keeps_fence | apply keeps_alarm
    | split | intro _ | with_reducible refine keeps_mk ?_ rfl rfl rfl rfl

theorem keeps_execLoopAlarm {r0 s : State} (loop kind : Nat) (w : WriteIo) (h_s : Keeps r0 s) :
    KeepsR r0 (execLoopAlarm loop kind w s) := by
  unfold execLoopAlarm
  try dsimp only
  repeat' first
    | with_reducible first
        | assumption | apply keepsR_known | apply keepsR_doIf | apply keeps_alarm
    | split | intro _

theorem keeps_execCaseAlarm {r0 s : State} (sw kind : Nat) (w : WriteIo) (h_s : Keeps r0 s) :
    KeepsR r0 (execCaseAlarm sw kind w s) := by
  unfold execCaseAlarm
  try dsimp only
  repeat' first
    | with_reducible first
        | assumption | apply keepsR_known | apply keepsR_doIf | apply keeps_alarm
    | split | intro _

theorem keeps_execSensorRearm {r0 s : State} (tsrc : Nat) (h_s : Keeps r0 s) :
    KeepsR r0 (execSensorRearm tsrc s) := by
  unfold execSensorRearm
  try dsimp only
  repeat' first
    | with_reducible first
        | assumption | apply keepsR_known | apply keepsR_doIf
    | split | intro _ | with_reducible refine keeps_mk ?_ rfl rfl rfl rfl

theorem keeps_batAlarm {r0 s : State} (k source kind : Nat) (h_s : Keeps r0 s) :
    Keeps r0 (batAlarm s k source kind) := by
  unfold batAlarm
  try dsimp only
  repeat' first
    | with_reducible first
        | assumption | apply keeps_batLog | apply keeps_rootResponse
    | split | intro _ | with_reducible refine keeps_mk ?_ rfl rfl rfl rfl

theorem keeps_execBatteryLoopPulse {r0 s : State} (opens shorts : List Nat) (h_s : Keeps r0 s) :
    KeepsR r0 (execBatteryLoopPulse opens shorts s) := by
  unfold execBatteryLoopPulse
  try dsimp only
  repeat' first
    | with_reducible first
        | assumption | apply keepsR_doIf | apply keeps_batAlarm | apply keeps_foldl
    | split | intro _

theorem keeps_execBtimeTick {r0 s : State} (h_s : Keeps r0 s) :
    KeepsR r0 (execBtimeTick s) := by
  unfold execBtimeTick
  try dsimp only
  repeat' first
    | with_reducible first
        | assumption | apply keepsR_next
    | split | intro _ | with_reducible refine keeps_mk ?_ rfl rfl rfl rfl

theorem keeps_execBatteryLogCopy {r0 s : State} (h_s : Keeps r0 s) :
    KeepsR r0 (execBatteryLogCopy s) := by
  unfold execBatteryLogCopy
  try dsimp only
  repeat' first
    | with_reducible first
        | assumption | apply keepsR_doIf | apply keeps_copyOldest
    | split | intro _

theorem keeps_execRootSupplySwitch {r0 s : State} (aux : Bool) (h_s : Keeps r0 s) :
    KeepsR r0 (execRootSupplySwitch aux s) := by
  unfold execRootSupplySwitch
  try dsimp only
  repeat' first
    | with_reducible first
        | assumption | apply keepsR_next
    | split | intro _ | with_reducible refine keeps_mk ?_ rfl rfl rfl rfl

/-! ### Lifecycle.lean -/

theorem keeps_eraseBit {r0 s : State} (dead : List Nat) (k : Nat) (h : Keeps r0 s) : Keeps r0 (eraseBit dead s k) := by
  unfold eraseBit
  split
  · repeat' first
      | with_reducible first
          | assumption | apply keeps_zeroizeRoot | apply keeps_foldl
      | split | intro _ | with_reducible refine keeps_mk ?_ rfl rfl rfl rfl
  · repeat' first
      | with_reducible first
          | assumption | apply keeps_foldl
      | split | intro _ | with_reducible refine keeps_mk ?_ rfl rfl rfl rfl
  · repeat' first
      | with_reducible first
          | assumption | apply keeps_foldl
      | split | intro _ | with_reducible refine keeps_mk ?_ rfl rfl rfl rfl
  · exact h.updMem rfl rfl rfl (fun _ => rfl)
  · repeat' first
      | with_reducible first
          | assumption | apply keeps_foldl
      | split | intro _ | with_reducible refine keeps_mk ?_ rfl rfl rfl rfl
  · repeat' first
      | with_reducible first
          | assumption | apply keeps_foldl
      | split | intro _ | with_reducible refine keeps_mk ?_ rfl rfl rfl rfl
  · exact keeps_foldl h (fun a x ha => keeps_fuseProg _ _ _ ha) _
  · exact h

theorem keeps_commitIntent {r0 s : State} (i : Intent) (h_s : Keeps r0 s) :
    Keeps r0 (commitIntent s i) := by
  unfold commitIntent
  repeat' first
    | with_reducible first
        | assumption | apply keeps_commitRec
    | split | intro _

theorem keeps_doErasures {r0 s : State} (dead : List Nat) (i : Intent) (h : Keeps r0 s) : Keeps r0 (doErasures dead s i).1 := by
  unfold doErasures
  generalize List.range 7 = l
  induction l generalizing s i with
  | nil => exact h
  | cons k l ih =>
    rw [List.foldl_cons]
    split
    · exact ih _ (keeps_commitIntent _ (keeps_eraseBit _ _ h))
    · exact ih _ h

theorem keeps_companions {r0 s : State} (dead : List Nat) (i : Intent) (h_s : Keeps r0 s) :
    Keeps r0 (companions dead s i) := by
  unfold companions
  try dsimp only
  repeat' first
    | with_reducible first
        | assumption | apply keeps_fuseProg3
    | split | intro _

theorem keeps_programCopies {r0 s : State} (dead : List Nat) (i : Intent) (h : Keeps r0 s) : Keeps r0 (programCopies dead s i).1 := by
  unfold programCopies
  refine keeps_foldl1 h ?_ _
  intro a k ha
  try dsimp only
  split
  · exact ha
  · exact keeps_commitIntent _ (keeps_fuseProg _ _ _ ha)

theorem keeps_carryOut {r0 s : State} (dead : List Nat) (i : Intent) (h_s : Keeps r0 s) :
    Keeps r0 (carryOut dead s i) := by
  unfold carryOut
  try dsimp only
  repeat' first
    | with_reducible first
        | assumption | apply keeps_commitIntent | apply keeps_doErasures | apply keeps_companions | apply keeps_programCopies
    | split | intro _ | with_reducible refine keeps_mk ?_ rfl rfl rfl rfl

theorem keeps_rollForward {r0 s : State} (dead : List Nat) (h_s : Keeps r0 s) :
    Keeps r0 (rollForward dead s) := by
  unfold rollForward
  try dsimp only
  repeat' first
    | with_reducible first
        | assumption | apply keeps_commitIntent | apply keeps_carryOut
    | split | intro _ | with_reducible refine keeps_mk ?_ rfl rfl rfl rfl

theorem keeps_raiseFloor {r0 s : State} (dead : List Nat) (h_s : Keeps r0 s) :
    Keeps r0 (raiseFloor dead s) := by
  unfold raiseFloor
  try dsimp only
  repeat' first
    | with_reducible first
        | assumption | apply keeps_fuseProg3
    | split | intro _

theorem keeps_execLcAdvance {r0 s : State} (job : Nat) (io : JobIo) (h_s : Keeps r0 s) :
    KeepsR r0 (execLcAdvance job io s) := by
  unfold execLcAdvance
  try dsimp only
  repeat' first
    | with_reducible first
        | assumption | apply keeps_stageCommit | apply keeps_runMgmt | apply keeps_refuse
    | split | intro _

theorem keeps_storeImage {r0 s : State} (b : List Byte) (h_s : Keeps r0 s) :
    Keeps r0 (storeImage s b) := by
  unfold storeImage
  repeat' first
    | with_reducible first
        | assumption
    | split | intro _ | with_reducible refine keeps_mk ?_ rfl rfl rfl rfl

theorem keeps_execFwUpdate {r0 s : State} (job : Nat) (io : JobIo) (h_s : Keeps r0 s) :
    KeepsR r0 (execFwUpdate job io s) := by
  unfold execFwUpdate
  try dsimp only
  repeat' first
    | with_reducible first
        | assumption | apply keeps_runMgmt | apply keeps_answer | apply keeps_refuse | apply keeps_withInput
        | apply keeps_storeImage
    | split | intro _

theorem keeps_tapSelect {r0 s : State} (code : Nat) (h_s : Keeps r0 s) :
    Keeps r0 (tapSelect s code) := by
  unfold tapSelect
  repeat' first
    | with_reducible first
        | assumption
    | split | intro _ | with_reducible refine keeps_mk ?_ rfl rfl rfl rfl

theorem keeps_tapRun {r0 s : State} (code : Nat) (f : State → State) (hf : ∀ a, Keeps r0 a → Keeps r0 (f a)) (h : Keeps r0 s) :
    KeepsR r0 (tapRun s code f) := by
  have k : Keeps r0 (tapSelect s code) := keeps_tapSelect _ h
  unfold tapRun
  refine keepsR_doIf h ?_ _
  try dsimp only
  split
  · exact hf _ k
  · exact k

theorem keeps_execExtest {r0 s : State} (pins : List Byte) (h_s : Keeps r0 s) :
    KeepsR r0 (execExtest pins s) := by
  unfold execExtest
  try dsimp only
  repeat' first
    | with_reducible first
        | assumption | apply keeps_emit | apply keeps_tapRun
    | split | intro _ | with_reducible refine keeps_mk ?_ rfl rfl rfl rfl

theorem keeps_execSamplePreload {r0 s : State} (pins : List Byte) (h_s : Keeps r0 s) :
    KeepsR r0 (execSamplePreload pins s) := by
  unfold execSamplePreload
  try dsimp only
  repeat' first
    | with_reducible first
        | assumption | apply keeps_tapRun
    | split | intro _ | with_reducible refine keeps_mk ?_ rfl rfl rfl rfl

theorem keeps_execClamp {r0 s : State} (h_s : Keeps r0 s) :
    KeepsR r0 (execClamp s) := by
  unfold execClamp
  try dsimp only
  repeat' first
    | with_reducible first
        | assumption | apply keeps_emit | apply keeps_tapRun
    | split | intro _

theorem keeps_execHighz {r0 s : State} (h_s : Keeps r0 s) :
    KeepsR r0 (execHighz s) := by
  unfold execHighz
  try dsimp only
  repeat' first
    | with_reducible first
        | assumption | apply keeps_emit | apply keeps_tapRun
    | split | intro _

theorem keeps_execBypass {r0 s : State} (h : Keeps r0 s) : KeepsR r0 (execBypass s) := keeps_tapRun _ _ (fun _ ha => ha) h

theorem keeps_execTrstAssert {r0 s : State} (h_s : Keeps r0 s) :
    KeepsR r0 (execTrstAssert s) := by
  unfold execTrstAssert
  try dsimp only
  repeat' first
    | with_reducible first
        | assumption | apply keepsR_next
    | split | intro _ | with_reducible refine keeps_mk ?_ rfl rfl rfl rfl

theorem keeps_execDbgAccess {r0 s : State} (req : DbgOp) (h_s : Keeps r0 s) :
    KeepsR r0 (execDbgAccess req s) := by
  unfold execDbgAccess
  try dsimp only
  repeat' first
    | with_reducible first
        | assumption | apply keeps_modCell | apply keeps_modBne | apply keeps_emit | apply keeps_hdmWrite | apply keeps_tapRun
    | split | intro _ | with_reducible refine keeps_mk ?_ rfl rfl rfl rfl

theorem keeps_execDbgFuse {r0 s : State} (off : Nat) (bytes : List Byte) (h_s : Keeps r0 s) :
    KeepsR r0 (execDbgFuse off bytes s) := by
  unfold execDbgFuse
  try dsimp only
  repeat' first
    | with_reducible first
        | assumption | apply keeps_drew' | apply keeps_fuseProg | apply keeps_tapRun
    | split | intro _

/-! ### Ceremony.lean -/

theorem keeps_modCer {r0 s : State} (f : Ceremony → Ceremony) (h_s : Keeps r0 s) :
    Keeps r0 (modCer s f) := by
  unfold modCer
  repeat' first
    | with_reducible first
        | assumption
    | split | intro _ | with_reducible refine keeps_mk ?_ rfl rfl rfl rfl

theorem keeps_modStep {r0 s : State} (f : CardStep → CardStep) (h_s : Keeps r0 s) :
    Keeps r0 (modStep s f) := by
  unfold modStep
  try dsimp only
  repeat' first
    | with_reducible first
        | assumption | apply keeps_modCer
    | split | intro _ | with_reducible refine keeps_mk ?_ rfl rfl rfl rfl

theorem keeps_retractWrite {r0 s : State} (k job : Nat) (h_s : Keeps r0 s) :
    Keeps r0 (retractWrite s k job) := by
  unfold retractWrite
  try dsimp only
  repeat' first
    | with_reducible first
        | assumption | apply keeps_endWrite
    | split | intro _ | with_reducible refine keeps_mk ?_ rfl rfl rfl rfl

theorem keeps_enterAssay {r0 s : State} (trig op : Nat) (h_s : Keeps r0 s) :
    Keeps r0 (enterAssay s trig op) := by
  unfold enterAssay
  try dsimp only
  repeat' first
    | with_reducible first
        | assumption | apply keeps_modRng | apply keeps_failJob | apply keeps_forJobs | apply keeps_setMode
        | apply keeps_startSlices | apply keeps_foldl
    | split | intro _ | with_reducible refine keeps_mk ?_ rfl rfl rfl rfl

theorem keeps_abortCeremony {r0 s : State} (op : Nat) (h_s : Keeps r0 s) :
    Keeps r0 (abortCeremony s op) := by
  unfold abortCeremony
  try dsimp only
  repeat' first
    | with_reducible first
        | assumption | apply keeps_setMode | apply keeps_logAbort | apply keeps_dropCeremony
    | split | intro _

theorem keeps_endStep {r0 s : State} (r : JobRes) (h_s : Keeps r0 s) :
    Keeps r0 (endStep s r) := by
  unfold endStep
  try dsimp only
  repeat' first
    | with_reducible first
        | assumption | apply keeps_idleCards | apply keeps_settle
    | split | intro _ | with_reducible refine keeps_mk ?_ rfl rfl rfl rfl

theorem keeps_refuseStep {r0 s : State} (status detail : Nat) (h_s : Keeps r0 s) :
    Keeps r0 (refuseStep s status detail) := by
  unfold refuseStep
  repeat' first
    | with_reducible first
        | assumption | apply keeps_endStep
    | split | intro _

theorem keeps_countStep {r0 s : State} (h_s : Keeps r0 s) :
    Keeps r0 (countStep s) := by
  unfold countStep
  try dsimp only
  repeat' first
    | with_reducible first
        | assumption | apply keeps_modCer
    | split | intro _ | with_reducible refine keeps_mk ?_ rfl rfl rfl rfl

theorem keeps_passStep {r0 s : State} (h_s : Keeps r0 s) :
    Keeps r0 (passStep s) := by
  unfold passStep
  repeat' first
    | with_reducible first
        | assumption | apply keeps_endStep | apply keeps_countStep
    | split | intro _

theorem keeps_commitStep {r0 s : State} (c : Ceremony) (ops : List AlmOp) (h_s : Keeps r0 s) :
    Keeps r0 (commitStep s c ops) := by
  unfold commitStep
  try dsimp only
  repeat' first
    | with_reducible first
        | assumption | apply keeps_modJob | apply keeps_record | apply keeps_stageCommit | apply keeps_idleCards
        | apply keeps_modStep
    | split | intro _ | with_reducible refine keeps_mk ?_ rfl rfl rfl rfl

theorem keeps_concludeStep {r0 s : State} (c : Ceremony) (write : Bool) (card : List Byte) (x : Nat) (h_s : Keeps r0 s) :
    Keeps r0 (concludeStep s c write card x) := by
  unfold concludeStep
  try dsimp only
  repeat' first
    | with_reducible first
        | assumption | apply keeps_logCer | apply keeps_clearLatch | apply keeps_modCer | apply keeps_enterAssay
        | apply keeps_passStep | apply keeps_commitStep
    | split | intro _ | with_reducible refine keeps_mk ?_ rfl rfl rfl rfl

theorem keeps_takeShare {r0 s : State} (c : Ceremony) (card : List Byte) (x : Nat) (y : List Byte) (h_s : Keeps r0 s) :
    Keeps r0 (takeShare s c card x y) := by
  unfold takeShare
  try dsimp only
  repeat' first
    | with_reducible first
        | assumption | apply keeps_installRoot | apply keeps_modCer | apply keeps_abortCeremony | apply keeps_endStep
        | apply keeps_concludeStep
    | split | intro _ | with_reducible refine keeps_mk ?_ rfl rfl rfl rfl

theorem keeps_finishRead {r0 s : State} (c : Ceremony) (p : CardStep) (h_s : Keeps r0 s) :
    Keeps r0 (finishRead s c p) := by
  unfold finishRead
  try dsimp only
  repeat' first
    | with_reducible first
        | assumption | apply keeps_refuseStep | apply keeps_takeShare
    | split | intro _

theorem keeps_sendStep {r0 s : State} (p : CardStep) (pos op arg : Nat) (h_s : Keeps r0 s) :
    Keeps r0 (sendStep s p pos op arg) := by
  unfold sendStep
  try dsimp only
  repeat' first
    | with_reducible first
        | assumption | apply keeps_modCard | apply keeps_sendCard | apply keeps_modStep
    | split | intro _ | with_reducible refine keeps_mk ?_ rfl rfl rfl rfl

theorem keeps_chooseBank {r0 s : State} (c : Ceremony) (p : CardStep) (h_s : Keeps r0 s) :
    Keeps r0 (chooseBank s c p) := by
  unfold chooseBank
  try dsimp only
  repeat' first
    | with_reducible first
        | assumption | apply keeps_modStep | apply keeps_refuseStep | apply keeps_sendStep
    | split | intro _ | with_reducible refine keeps_mk ?_ rfl rfl rfl rfl

theorem keeps_enterPos {r0 s : State} (pos : Nat) (h_s : Keeps r0 s) :
    Keeps r0 (enterPos s pos) := by
  unfold enterPos
  try dsimp only
  repeat' first
    | with_reducible first
        | assumption | apply keeps_refuseStep | apply keeps_sendStep | apply keeps_chooseBank
    | split | intro _

theorem keeps_startTune {r0 s : State} (cs : Nat) (h_s : Keeps r0 s) :
    Keeps r0 (startTune s cs) := by
  unfold startTune
  try dsimp only
  repeat' first
    | with_reducible first
        | assumption | apply keeps_modCard | apply keeps_sendCard
    | split | intro _ | with_reducible refine keeps_mk ?_ rfl rfl rfl rfl

theorem keeps_spentStep {r0 s : State} (p : CardStep) (bankData : Bool) (h_s : Keeps r0 s) :
    Keeps r0 (spentStep s p bankData) := by
  unfold spentStep
  try dsimp only
  repeat' first
    | with_reducible first
        | assumption | apply keeps_modStep | apply keeps_refuseStep | apply keeps_enterPos | apply keeps_startTune
    | split | intro _ | with_reducible refine keeps_mk ?_ rfl rfl rfl rfl

theorem keeps_retryStep {r0 s : State} (p : CardStep) (crc bankData : Bool) (h_s : Keeps r0 s) :
    Keeps r0 (retryStep s p crc bankData) := by
  unfold retryStep
  try dsimp only
  repeat' first
    | with_reducible first
        | assumption | apply keeps_modCard | apply keeps_sendCard | apply keeps_cardError | apply keeps_spentStep
    | split | intro _ | with_reducible refine keeps_mk ?_ rfl rfl rfl rfl

theorem keeps_rewriteStep {r0 s : State} (p : CardStep) (h_s : Keeps r0 s) :
    Keeps r0 (rewriteStep s p) := by
  unfold rewriteStep
  try dsimp only
  repeat' first
    | with_reducible first
        | assumption | apply keeps_cardError | apply keeps_modStep | apply keeps_refuseStep | apply keeps_enterPos
    | split | intro _ | with_reducible refine keeps_mk ?_ rfl rfl rfl rfl

theorem keeps_sendData {r0 s : State} (p : CardStep) (pos : Nat) (blocks : List (List Byte)) (h_s : Keeps r0 s) :
    Keeps r0 (sendData s p pos blocks) := by
  unfold sendData
  try dsimp only
  repeat' first
    | with_reducible first
        | assumption | apply keeps_modCard | apply keeps_sendBlock | apply keeps_modStep | apply keeps_foldl
    | split | intro _ | with_reducible refine keeps_mk ?_ rfl rfl rfl rfl

theorem keeps_goodStep {r0 s : State} (c : Ceremony) (p : CardStep) (data : List Byte) (h_s : Keeps r0 s) :
    Keeps r0 (goodStep s c p data) := by
  unfold goodStep
  try dsimp only
  repeat' first
    | with_reducible first
        | assumption | apply keeps_modStep | apply keeps_refuseStep | apply keeps_concludeStep | apply keeps_finishRead
        | apply keeps_enterPos | apply keeps_rewriteStep | apply keeps_sendData
    | split | intro _ | with_reducible refine keeps_mk ?_ rfl rfl rfl rfl

theorem keeps_badStatus {r0 s : State} (p : CardStep) (st : Nat) (h_s : Keeps r0 s) :
    Keeps r0 (badStatus s p st) := by
  unfold badStatus
  try dsimp only
  repeat' first
    | with_reducible first
        | assumption | apply keeps_refuseStep | apply keeps_retryStep
    | split | intro _

theorem keeps_answerStep {r0 s : State} (c : Ceremony) (p : CardStep) (bs : List Byte) (h_s : Keeps r0 s) :
    Keeps r0 (answerStep s c p bs) := by
  unfold answerStep
  try dsimp only
  repeat' first
    | with_reducible first
        | assumption | apply keeps_modCard | apply keeps_retryStep | apply keeps_goodStep | apply keeps_badStatus
    | split | intro _ | with_reducible refine keeps_mk ?_ rfl rfl rfl rfl

theorem keeps_afterTune {r0 s : State} (cs : Nat) (h_s : Keeps r0 s) :
    Keeps r0 (afterTune s cs) := by
  unfold afterTune
  try dsimp only
  repeat' first
    | with_reducible first
        | assumption | apply keeps_modCard | apply keeps_readyCard | apply keeps_enterPos
    | split | intro _ | with_reducible refine keeps_mk ?_ rfl rfl rfl rfl

theorem keeps_tuneStep {r0 s : State} (cs : Nat) (l : List Bool) (pass : Bool) (h_s : Keeps r0 s) :
    Keeps r0 (tuneStep s cs l pass) := by
  unfold tuneStep
  try dsimp only
  repeat' first
    | with_reducible first
        | assumption | apply keeps_modCard | apply keeps_sendCard | apply keeps_setBus | apply keeps_afterTune
    | split | intro _ | with_reducible refine keeps_mk ?_ rfl rfl rfl rfl

theorem keeps_cardAnswer {r0 s : State} (cs : Nat) (bs : Option (List Byte)) (h_s : Keeps r0 s) :
    Keeps r0 (cardAnswer s cs bs) := by
  unfold cardAnswer
  try dsimp only
  repeat' first
    | with_reducible first
        | assumption | apply keeps_idleCards | apply keeps_retryStep | apply keeps_answerStep | apply keeps_tuneStep
    | split | intro _

theorem keeps_execCardResponse {r0 s : State} (cs : Nat) (bytes : List Byte) (wp : Bool) (h_s : Keeps r0 s) :
    KeepsR r0 (execCardResponse cs bytes wp s) := by
  unfold execCardResponse
  try dsimp only
  repeat' first
    | with_reducible first
        | assumption | apply keepsR_known | apply keepsR_doIf | apply keeps_modCard | apply keeps_cardAnswer
    | split | intro _ | with_reducible refine keeps_mk ?_ rfl rfl rfl rfl

theorem keeps_execCardResponseTimeout {r0 s : State} (cs : Nat) (h_s : Keeps r0 s) :
    KeepsR r0 (execCardResponseTimeout cs s) := by
  unfold execCardResponseTimeout
  try dsimp only
  repeat' first
    | with_reducible first
        | assumption | apply keepsR_known | apply keepsR_doIf | apply keeps_cardAnswer
    | split | intro _

theorem keeps_pollStep {r0 s : State} (cs status : Nat) (h_s : Keeps r0 s) :
    Keeps r0 (pollStep s cs status) := by
  unfold pollStep
  try dsimp only
  repeat' first
    | with_reducible first
        | assumption | apply keeps_idleCards | apply keeps_refuseStep | apply keeps_enterPos | apply keeps_rewriteStep
    | split | intro _

theorem keeps_execCardStatusPoll {r0 s : State} (cs status : Nat) (wp : Bool) (h_s : Keeps r0 s) :
    KeepsR r0 (execCardStatusPoll cs status wp s) := by
  unfold execCardStatusPoll
  try dsimp only
  repeat' first
    | with_reducible first
        | assumption | apply keepsR_known | apply keepsR_doIf | apply keeps_modCard | apply keeps_emit | apply keeps_pollStep
    | split | intro _ | with_reducible refine keeps_mk ?_ rfl rfl rfl rfl

theorem keeps_execCardBusyTimeout {r0 s : State} (cs : Nat) (h_s : Keeps r0 s) :
    KeepsR r0 (execCardBusyTimeout cs s) := by
  unfold execCardBusyTimeout
  try dsimp only
  repeat' first
    | with_reducible first
        | assumption | apply keepsR_known | apply keepsR_doIf | apply keeps_idleCards | apply keeps_refuseStep
    | split | intro _

theorem keeps_dropStep {r0 s : State} (cs : Nat) (h_s : Keeps r0 s) :
    Keeps r0 (dropStep s cs) := by
  unfold dropStep
  try dsimp only
  repeat' first
    | with_reducible first
        | assumption | apply keeps_record | apply keeps_logCer | apply keeps_modCer | apply keeps_retractWrite
        | apply keeps_refuseStep
    | split | intro _ | with_reducible refine keeps_mk ?_ rfl rfl rfl rfl

theorem keeps_execCardDetectRise {r0 s : State} (cs : Nat) (h_s : Keeps r0 s) :
    KeepsR r0 (execCardDetectRise cs s) := by
  unfold execCardDetectRise
  try dsimp only
  repeat' first
    | with_reducible first
        | assumption | apply keepsR_known | apply keepsR_doIf | apply keeps_modCard | apply keeps_vecCard
        | apply keeps_dropStep
    | split | intro _

theorem keeps_startCeremony {r0 s : State} (j : Job) (io : JobIo) (input : List Byte) (h_s : Keeps r0 s) :
    Keeps r0 (startCeremony s j io input) := by
  unfold startCeremony
  try dsimp only
  repeat' first
    | with_reducible first
        | assumption | apply keeps_setMode | apply keeps_answer
    | split | intro _ | with_reducible refine keeps_mk ?_ rfl rfl rfl rfl

theorem keeps_withFreshRoot {r0 s : State} (j : Job) (io : JobIo) (f : State → State) (hf : ∀ a, Keeps r0 a → Keeps r0 (f a))
    (h : Keeps r0 s) : Keeps r0 (withFreshRoot s j io f) := by
  unfold withFreshRoot
  try dsimp only
  split
  · split
    · exact keeps_refuse _ _ _ h
    · exact h
  · split
    · refine hf _ ?_
      repeat' first
        | with_reducible first
            | assumption | apply keeps_installRoot | apply keeps_drew' | apply keeps_callDrbg | apply keeps_reseeded
            | apply keeps_useBlock | apply keeps_foldl
        | split | intro _ | with_reducible refine keeps_mk ?_ rfl rfl rfl rfl
    · exact h

theorem keeps_execCeremonyBegin {r0 s : State} (job : Nat) (io : JobIo) (h_s : Keeps r0 s) :
    KeepsR r0 (execCeremonyBegin job io s) := by
  unfold execCeremonyBegin
  try dsimp only
  repeat' first
    | with_reducible first
        | assumption | apply keeps_runMgmt | apply keeps_refuse | apply keeps_withInput | apply keeps_startCeremony
        | apply keeps_withFreshRoot
    | split | intro _ | with_reducible refine keeps_mk ?_ rfl rfl rfl rfl

theorem keeps_beginCardStep {r0 s : State} (j : Job) (io : JobIo) (c : Ceremony) (cs : Nat) (write : Bool) (h_s : Keeps r0
    s) :
    Keeps r0 (beginCardStep s j io c cs write) := by
  unfold beginCardStep
  try dsimp only
  repeat' first
    | with_reducible first
        | assumption | apply keeps_drew' | apply keeps_putJob | apply keeps_refuse | apply keeps_withRng | apply keeps_modCer
        | apply keeps_enterPos
    | split | intro _ | with_reducible refine keeps_mk ?_ rfl rfl rfl rfl

theorem keeps_cardStep {r0 s : State} (j : Job) (io : JobIo) (c : Ceremony) (cs : Nat) (h_s : Keeps r0 s) :
    Keeps r0 (cardStep s j io c cs) := by
  unfold cardStep
  try dsimp only
  repeat' first
    | with_reducible first
        | assumption | apply keeps_modCard | apply keeps_answer | apply keeps_beginCardStep
    | split | intro _ | with_reducible refine keeps_mk ?_ rfl rfl rfl rfl

theorem keeps_execCeremonyStep {r0 s : State} (job : Nat) (io : JobIo) (h_s : Keeps r0 s) :
    KeepsR r0 (execCeremonyStep job io s) := by
  unfold execCeremonyStep
  try dsimp only
  repeat' first
    | with_reducible first
        | assumption | apply keeps_putJob | apply keeps_runMgmt | apply keeps_answer | apply keeps_refuse | apply keeps_modCer
        | apply keeps_concludeStep | apply keeps_cardStep
    | split | intro _ | with_reducible refine keeps_mk ?_ rfl rfl rfl rfl

theorem keeps_execCeremonyAbort {r0 s : State} (job : Nat) (io : JobIo) (h_s : Keeps r0 s) :
    KeepsR r0 (execCeremonyAbort job io s) := by
  unfold execCeremonyAbort
  try dsimp only
  repeat' first
    | with_reducible first
        | assumption | apply keeps_runMgmt | apply keeps_refuse | apply keeps_answerOk | apply keeps_abortCeremony
    | split | intro _

theorem keeps_execCeremonyQuery {r0 s : State} (job : Nat) (io : JobIo) (h_s : Keeps r0 s) :
    KeepsR r0 (execCeremonyQuery job io s) := by
  unfold execCeremonyQuery
  try dsimp only
  repeat' first
    | with_reducible first
        | assumption | apply keeps_runMgmt | apply keeps_answer | apply keeps_refuse
    | split | intro _

theorem keeps_execCardQuery {r0 s : State} (job : Nat) (io : JobIo) (h_s : Keeps r0 s) :
    KeepsR r0 (execCardQuery job io s) := by
  unfold execCardQuery
  try dsimp only
  repeat' first
    | with_reducible first
        | assumption | apply keeps_runMgmt | apply keeps_answer | apply keeps_refuse
    | split | intro _

theorem keeps_ceremonyTimesOut {r0 s : State} (io : JobIo) (h_s : Keeps r0 s) :
    Keeps r0 (ceremonyTimesOut io s) := by
  unfold ceremonyTimesOut
  try dsimp only
  repeat' first
    | with_reducible first
        | assumption | apply keeps_settle | apply keeps_modCer | apply keeps_retractWrite | apply keeps_abortCeremony
    | split | intro _ | with_reducible refine keeps_mk ?_ rfl rfl rfl rfl

theorem keeps_execCeremonyTimeout {r0 s : State} (io : JobIo) (h_s : Keeps r0 s) :
    KeepsR r0 (execCeremonyTimeout io s) := by
  unfold execCeremonyTimeout
  try dsimp only
  repeat' first
    | with_reducible first
        | assumption | apply keepsR_doIf | apply keeps_ceremonyTimesOut
    | split | intro _

theorem keeps_runChange {r0 s : State} (i : Intent) (dead : List Nat) (h_s : Keeps r0 s) :
    Keeps r0 (runChange s i dead) := by
  unfold runChange
  try dsimp only
  repeat' first
    | with_reducible first
        | assumption | apply keeps_raiseFault | apply keeps_setMode | apply keeps_enterHalt | apply keeps_bootState
        | apply keeps_clearLatch | apply keeps_carryOut
    | split | intro _ | with_reducible refine keeps_mk ?_ rfl rfl rfl rfl

theorem keeps_cerCommitted {r0 : State} {s t : State} (rid : Nat) (tests : List Bool) (h_s : Keeps r0 s) (h_t : Keeps r0
    t) :
    Keeps r0 (cerCommitted s t rid tests) := by
  unfold cerCommitted
  try dsimp only
  repeat' first
    | with_reducible first
        | assumption | apply keeps_modJob | apply keeps_requestWrite | apply keeps_setMode | apply keeps_modCer
        | apply keeps_modStep | apply keeps_countStep | apply keeps_runChange
    | split | intro _ | with_reducible refine keeps_mk ?_ rfl rfl rfl rfl

/-! ### Almanac.lean -/

theorem keeps_execLedgerCommit {r0 s : State} (rid : Nat) (rb : List Bool) (io : JobIo) (h_s : Keeps r0 s) :
    KeepsR r0 (execLedgerCommit rid rb io s) := by
  unfold execLedgerCommit
  try dsimp only
  repeat' first
    | with_reducible first
        | assumption | apply keepsR_doIf | apply keeps_commitWrite | apply keeps_ceremonyTimesOut | apply keeps_cerCommitted
    | split | intro _

theorem keeps_execSlotWriteCommit {r0 s : State} (job : Nat) (ok : Bool) (h_s : Keeps r0 s) :
    KeepsR r0 (execSlotWriteCommit job ok s) := by
  unfold execSlotWriteCommit
  try dsimp only
  repeat' first
    | with_reducible first
        | assumption | apply keepsR_next | apply keepsR_doIf | apply keeps_endWrite | apply keeps_replayJob
        | apply keeps_opEffect | apply keeps_slotWritten
    | split | intro _

theorem keeps_execSlotZeroing {r0 s : State} (idx : Nat) (ok : Bool) (h_s : Keeps r0 s) :
    KeepsR r0 (execSlotZeroing idx ok s) := by
  unfold execSlotZeroing
  try dsimp only
  repeat' first
    | with_reducible first
        | assumption | apply keepsR_known | apply keepsR_doIf | apply keeps_requestWrite | apply keeps_opEffect
    | split | intro _ | with_reducible refine keeps_mk ?_ rfl rfl rfl rfl

theorem keeps_writePageOf {r0 s : State} (hw : Nat → Nat) (ok : Bool) (h_s : Keeps r0 s) :
    Keeps r0 (writePageOf hw s ok) := by
  unfold writePageOf
  try dsimp only
  repeat' first
    | with_reducible first
        | assumption | apply keeps_modTree | apply keeps_foldl
    | split | intro _ | with_reducible refine keeps_mk ?_ rfl rfl rfl rfl

theorem keeps_writePage {r0 s : State} (ok : Bool) (h_s : Keeps r0 s) :
    Keeps r0 (writePage s ok) := by
  unfold writePage
  repeat' first
    | with_reducible first
        | assumption | apply keeps_writePageOf
    | split | intro _

theorem keeps_execProgressPageWrite {r0 s : State} (ok : Bool) (h_s : Keeps r0 s) :
    KeepsR r0 (execProgressPageWrite ok s) := by
  unfold execProgressPageWrite
  try dsimp only
  repeat' first
    | with_reducible first
        | assumption | apply keepsR_doIf | apply keeps_writePage
    | split | intro _

theorem keeps_startLeaves {r0 s : State} (h_s : Keeps r0 s) :
    Keeps r0 (startLeaves s) := by
  unfold startLeaves
  try dsimp only
  repeat' first
    | with_reducible first
        | assumption | apply keeps_modTree | apply keeps_foldl
    | split | intro _ | with_reducible refine keeps_mk ?_ rfl rfl rfl rfl

theorem keeps_execAlmanacScrub {r0 s : State} (pairs slots : List Nat) (h_s : Keeps r0 s) :
    KeepsR r0 (execAlmanacScrub pairs slots s) := by
  unfold execAlmanacScrub
  try dsimp only
  repeat' first
    | with_reducible first
        | assumption | apply keepsR_doIf | apply keeps_requestWrite | apply keeps_raiseFault | apply keeps_foldl
    | split | intro _ | with_reducible refine keeps_mk ?_ rfl rfl rfl rfl

theorem keeps_execAlmanacQuery {r0 s : State} (job : Nat) (io : JobIo) (h_s : Keeps r0 s) :
    KeepsR r0 (execAlmanacQuery job io s) := by
  unfold execAlmanacQuery
  try dsimp only
  repeat' first
    | with_reducible first
        | assumption | apply keeps_runMgmt | apply keeps_answer
    | split | intro _

theorem keeps_execLogRead {r0 s : State} (job : Nat) (io : JobIo) (h_s : Keeps r0 s) :
    KeepsR r0 (execLogRead job io s) := by
  unfold execLogRead
  try dsimp only
  repeat' first
    | with_reducible first
        | assumption | apply keeps_runMgmt | apply keeps_answer
    | split | intro _

/-! ### Power.lean -/

theorem keeps_beginEntry {r0 s : State} (d t : Nat) (h_s : Keeps r0 s) :
    Keeps r0 (beginEntry s d t) := by
  unfold beginEntry
  try dsimp only
  repeat' first
    | with_reducible first
        | assumption | apply keeps_modRng | apply keeps_modDom
    | split | intro _ | with_reducible refine keeps_mk ?_ rfl rfl rfl rfl

theorem keeps_execCoreWait {r0 s : State} (dom target : Nat) (h_s : Keeps r0 s) :
    KeepsR r0 (execCoreWait dom target s) := by
  unfold execCoreWait
  try dsimp only
  repeat' first
    | with_reducible first
        | assumption | apply keepsR_known | apply keepsR_doIf | apply keeps_beginEntry
    | split | intro _

theorem keeps_execPwrCtlEntry {r0 s : State} (dom target : Nat) (h_s : Keeps r0 s) :
    KeepsR r0 (execPwrCtlEntry dom target s) := by
  unfold execPwrCtlEntry
  try dsimp only
  repeat' first
    | with_reducible first
        | assumption | apply keepsR_known | apply keepsR_doIf | apply keeps_beginEntry
    | split | intro _

theorem keeps_execPwrStatAbortedClear {r0 s : State} (dom : Nat) (h_s : Keeps r0 s) :
    KeepsR r0 (execPwrStatAbortedClear dom s) := by
  unfold execPwrStatAbortedClear
  try dsimp only
  repeat' first
    | with_reducible first
        | assumption | apply keepsR_known | apply keepsR_doIf | apply keeps_modCell | apply keeps_modDom
    | split | intro _ | with_reducible refine keeps_mk ?_ rfl rfl rfl rfl

theorem keeps_execDomainWake {r0 s : State} (dom : Nat) (early : Bool) (h_s : Keeps r0 s) :
    KeepsR r0 (execDomainWake dom early s) := by
  unfold execDomainWake
  try dsimp only
  repeat' first
    | with_reducible first
        | assumption | apply keepsR_known | apply keepsR_doIf | apply keeps_wakeUnit
    | split | intro _

theorem keeps_execWakeComplete {r0 s : State} (dom : Nat) (h_s : Keeps r0 s) :
    KeepsR r0 (execWakeComplete dom s) := by
  unfold execWakeComplete
  try dsimp only
  repeat' first
    | with_reducible first
        | assumption | apply keepsR_known | apply keepsR_doIf | apply keeps_modCell | apply keeps_modRng | apply keeps_modDom
    | split | intro _ | with_reducible refine keeps_mk ?_ rfl rfl rfl rfl

theorem keeps_execWakeFail {r0 s : State} (dom : Nat) (h_s : Keeps r0 s) :
    KeepsR r0 (execWakeFail dom s) := by
  unfold execWakeFail
  try dsimp only
  repeat' first
    | with_reducible first
        | assumption | apply keepsR_known | apply keepsR_doIf | apply keeps_modDom | apply keeps_putJob | apply keeps_forJobs
        | apply keeps_raiseFault
    | split | intro _ | with_reducible refine keeps_mk ?_ rfl rfl rfl rfl

theorem keeps_execRetentionCheckDone {r0 s : State} (dom bank : Nat) (ok : Bool) (h_s : Keeps r0 s) :
    KeepsR r0 (execRetentionCheckDone dom bank ok s) := by
  unfold execRetentionCheckDone
  try dsimp only
  repeat' first
    | with_reducible first
        | assumption | apply keepsR_known | apply keepsR_doIf | apply keeps_modDom | apply keeps_raiseFault
    | split | intro _ | with_reducible refine keeps_mk ?_ rfl rfl rfl rfl

theorem keeps_execPowerForce {r0 s : State} (job : Nat) (io : JobIo) (h_s : Keeps r0 s) :
    KeepsR r0 (execPowerForce job io s) := by
  unfold execPowerForce
  try dsimp only
  repeat' first
    | with_reducible first
        | assumption | apply keeps_modCell | apply keeps_modRng | apply keeps_modDom | apply keeps_runMgmt
        | apply keeps_answerOk
    | split | intro _ | with_reducible refine keeps_mk ?_ rfl rfl rfl rfl

/-! ### De.lean -/

theorem keeps_keepState {r0 s : State} (j : Job) (blk hash : Nat) (cust : List Byte) (p : DePlan) (h_s : Keeps r0 s) :
    Keeps r0 (keepState s j blk hash cust p) := by
  unfold keepState
  try dsimp only
  repeat' first
    | with_reducible first
        | assumption | apply keeps_modDe
    | split | intro _ | with_reducible refine keeps_mk ?_ rfl rfl rfl rfl

theorem keeps_touchState {r0 s : State} (blk : Nat) (h : W64) (hash : Nat) (cust : List Byte) (h_s : Keeps r0 s) :
    Keeps r0 (touchState s blk h hash cust) := by
  unfold touchState
  try dsimp only
  repeat' first
    | with_reducible first
        | assumption | apply keeps_modDe
    | split | intro _ | with_reducible refine keeps_mk ?_ rfl rfl rfl rfl

theorem keeps_deGrant {r0 s : State} (b n : Nat) (r : DeReq) (h_s : Keeps r0 s) :
    Keeps r0 (deGrant s b n r) := by
  unfold deGrant
  try dsimp only
  repeat' first
    | with_reducible first
        | assumption | apply keeps_modDe
    | split | intro _ | with_reducible refine keeps_mk ?_ rfl rfl rfl rfl

theorem keeps_execDeContextGrant {r0 s : State} (blk : Nat) (h_s : Keeps r0 s) :
    KeepsR r0 (execDeContextGrant blk s) := by
  unfold execDeContextGrant
  try dsimp only
  repeat' first
    | with_reducible first
        | assumption | apply keepsR_known | apply keepsR_doIf | apply keeps_putJob | apply keeps_withKeys
        | apply keeps_deGrant
    | split | intro _ | with_reducible refine keeps_mk ?_ rfl rfl rfl rfl

theorem keeps_deCopy {r0 s : State} (blk : Nat) (n : Nat) (h_s : Keeps r0 s) :
    Keeps r0 (deCopy blk s n) := by
  unfold deCopy
  try dsimp only
  repeat' first
    | with_reducible first
        | assumption | apply keeps_modDe | apply keeps_putJob
    | split | intro _ | with_reducible refine keeps_mk ?_ rfl rfl rfl rfl

theorem keeps_deCopyAll {r0 s : State} (blk : Nat) (h_s : Keeps r0 s) :
    Keeps r0 (deCopyAll s blk) := by
  unfold deCopyAll
  repeat' first
    | with_reducible first
        | assumption | apply keeps_deCopy | apply keeps_foldl
    | split | intro _

theorem keeps_deKeep {r0 s : State} (blk : Nat) (c : DeCtx) (h_s : Keeps r0 s) :
    Keeps r0 (deKeep s blk c) := by
  unfold deKeep
  try dsimp only
  repeat' first
    | with_reducible first
        | assumption | apply keeps_keepState
    | split | intro _

theorem keeps_deEnds {r0 s : State} (blk n : Nat) (c : DeCtx) (j : Job) (h_s : Keeps r0 s) :
    Keeps r0 (deEnds s blk n c j) := by
  unfold deEnds
  try dsimp only
  repeat' first
    | with_reducible first
        | assumption | apply keeps_modBne | apply keeps_modDe
    | split | intro _ | with_reducible refine keeps_mk ?_ rfl rfl rfl rfl

theorem keeps_execDeBlockDone {r0 s : State} (blk : Nat) (more : Bool) (h_s : Keeps r0 s) :
    KeepsR r0 (execDeBlockDone blk more s) := by
  unfold execDeBlockDone
  try dsimp only
  repeat' first
    | with_reducible first
        | assumption | apply keepsR_known | apply keepsR_doIf | apply keeps_modDe | apply keeps_failJob
        | apply keeps_deCopyAll | apply keeps_deKeep | apply keeps_deEnds
    | split | intro _ | with_reducible refine keeps_mk ?_ rfl rfl rfl rfl

theorem keeps_execDeStarvationExpire {r0 s : State} (blk : Nat) (h_s : Keeps r0 s) :
    KeepsR r0 (execDeStarvationExpire blk s) := by
  unfold execDeStarvationExpire
  try dsimp only
  repeat' first
    | with_reducible first
        | assumption | apply keepsR_known | apply keepsR_doIf | apply keeps_modDe
    | split | intro _ | with_reducible refine keeps_mk ?_ rfl rfl rfl rfl

theorem keeps_deResult {r0 s : State} (j : Job) (ps : List DePlan) (keep : Option (Nat × List Byte)) (r : JobRes) (h_s :
    Keeps r0 s) :
    Keeps r0 (deResult s j ps keep r) := by
  unfold deResult
  try dsimp only
  repeat' first
    | with_reducible first
        | assumption | apply keeps_modDe | apply keeps_putJob
    | split | intro _ | with_reducible refine keeps_mk ?_ rfl rfl rfl rfl

theorem keeps_deKeyed {r0 s : State} (j : Job) (hash : Nat) (cust : List Byte) (f : Bool → DePlan) (r : JobRes) (h_s :
    Keeps r0 s) :
    Keeps r0 (deKeyed s j hash cust f r) := by
  unfold deKeyed
  try dsimp only
  repeat' first
    | with_reducible first
        | assumption | apply keeps_touchState | apply keeps_deResult
    | split | intro _ | with_reducible refine keeps_mk ?_ rfl rfl rfl rfl

theorem keeps_execDigest {r0 s : State} (job : Nat) (io : JobIo) (h_s : Keeps r0 s) :
    KeepsR r0 (execDigest job io s) := by
  unfold execDigest
  try dsimp only
  repeat' first
    | with_reducible first
        | assumption | apply keeps_engineInput | apply keeps_runEngine | apply keeps_deResult
    | split | intro _

theorem keeps_execMacGenerate {r0 s : State} (job : Nat) (io : JobIo) (h_s : Keeps r0 s) :
    KeepsR r0 (execMacGenerate job io s) := by
  unfold execMacGenerate
  try dsimp only
  repeat' first
    | with_reducible first
        | assumption | apply keeps_engineInput | apply keeps_runEngine | apply keeps_withKeys | apply keeps_deKeyed
    | split | intro _

theorem keeps_execMacVerify {r0 s : State} (job : Nat) (io : JobIo) (h_s : Keeps r0 s) :
    KeepsR r0 (execMacVerify job io s) := by
  unfold execMacVerify
  try dsimp only
  repeat' first
    | with_reducible first
        | assumption | apply keeps_engineInput | apply keeps_runEngine | apply keeps_withKeys | apply keeps_deKeyed
    | split | intro _

theorem keeps_execKdf {r0 s : State} (job : Nat) (io : JobIo) (h_s : Keeps r0 s) :
    KeepsR r0 (execKdf job io s) := by
  unfold execKdf
  try dsimp only
  repeat' first
    | with_reducible first
        | assumption | apply keeps_engineInput | apply keeps_runEngine | apply keeps_withKeys | apply keeps_deResult
        | apply keeps_deKeyed
    | split | intro _ | with_reducible refine keeps_mk ?_ rfl rfl rfl rfl

end Sys2Proof.Laws
end

