-- ==== Sys2Proof/Laws/KeepsChip.lean ====
section
/-! SUPPORT. What every command keeps (Laws/Keeps.lean), operation by operation: lanes, jobs, time, events, slices, faults, boot and the attachment. Each lemma reads backwards: where
the state an operation starts from is kept, the one it answers is. -/

namespace Sys2Proof.Laws

open Sys2Proof Machine

set_option linter.unusedTactic false
set_option linter.unreachableTactic false
set_option linter.unusedVariables false

/-! ### Lanes.lean -/

theorem keeps_quarantine {r0 s : State} (p : Nat) (h_s : Keeps r0 s) :
    Keeps r0 (quarantine s p) := by
  unfold quarantine
  try dsimp only
  repeat' first
    | with_reducible first
        | assumption | apply keeps_modPort | apply keeps_logEvent | apply keeps_vecQuarantine | apply keeps_requestWrite
    | split | intro _ | with_reducible refine keeps_mk ?_ rfl rfl rfl rfl

theorem keeps_sendNak {r0 s : State} (p tag reason : Nat) (counted credit : Bool) (h_s : Keeps r0 s) :
    Keeps r0 (sendNak s p tag reason counted credit) := by
  unfold sendNak
  try dsimp only
  repeat' first
    | with_reducible first
        | assumption | apply keeps_modPort | apply keeps_quarantine
    | split | intro _ | with_reducible refine keeps_mk ?_ rfl rfl rfl rfl

theorem keeps_serveKey {r0 s : State} (p op tag sel : Nat) (h_s : Keeps r0 s) :
    Keeps r0 (serveKey s p op tag sel) := by
  unfold serveKey
  try dsimp only
  repeat' first
    | with_reducible first
        | assumption | apply keeps_modPort
    | split | intro _ | with_reducible refine keeps_mk ?_ rfl rfl rfl rfl

theorem keeps_judgeRequest {r0 s : State} (p : Nat) (f : List Byte) (h_s : Keeps r0 s) :
    Keeps r0 (judgeRequest s p f) := by
  unfold judgeRequest
  try dsimp only
  repeat' first
    | with_reducible first
        | assumption | apply keeps_modPort | apply keeps_answer | apply keeps_quarantine | apply keeps_sendNak
        | apply keeps_serveKey
    | split | intro _ | with_reducible refine keeps_mk ?_ rfl rfl rfl rfl

theorem keeps_klRequest {r0 s : State} (p : Nat) (f : List Byte) (op : Nat → Bool) (h_s : Keeps r0 s) :
    KeepsR r0 (klRequest p f op s) := by
  unfold klRequest
  try dsimp only
  repeat' first
    | with_reducible first
        | assumption | apply keepsR_known | apply keepsR_doIf | apply keeps_modPort | apply keeps_judgeRequest
    | split | intro _ | with_reducible refine keeps_mk ?_ rfl rfl rfl rfl

theorem keeps_execKeyCur {r0 s : State} (port : Nat) (frame : List Byte) (h_s : Keeps r0 s) :
    KeepsR r0 (execKeyCur port frame s) := by
  unfold execKeyCur
  try dsimp only
  repeat' first
    | with_reducible first
        | assumption | apply keeps_klRequest
    | split | intro _

theorem keeps_execKeyNext {r0 s : State} (port : Nat) (frame : List Byte) (h_s : Keeps r0 s) :
    KeepsR r0 (execKeyNext port frame s) := by
  unfold execKeyNext
  try dsimp only
  repeat' first
    | with_reducible first
        | assumption | apply keeps_klRequest
    | split | intro _

theorem keeps_execKeyPrev {r0 s : State} (port : Nat) (frame : List Byte) (h_s : Keeps r0 s) :
    KeepsR r0 (execKeyPrev port frame s) := by
  unfold execKeyPrev
  try dsimp only
  repeat' first
    | with_reducible first
        | assumption | apply keeps_klRequest
    | split | intro _

theorem keeps_execPing {r0 s : State} (port : Nat) (frame : List Byte) (h_s : Keeps r0 s) :
    KeepsR r0 (execPing port frame s) := by
  unfold execPing
  try dsimp only
  repeat' first
    | with_reducible first
        | assumption | apply keeps_klRequest
    | split | intro _

theorem keeps_execInvalidOpcodeRequest {r0 s : State} (port : Nat) (frame : List Byte) (h_s : Keeps r0 s) :
    KeepsR r0 (execInvalidOpcodeRequest port frame s) := by
  unfold execInvalidOpcodeRequest
  try dsimp only
  repeat' first
    | with_reducible first
        | assumption | apply keeps_klRequest
    | split | intro _

theorem keeps_missDone {r0 s : State} (p : Nat) (q : KlReq) (h : Keeps r0 s) : Keeps r0 (missDone s p q) := by
  unfold missDone
  try dsimp only
  split
  · repeat' first
      | with_reducible first
          | assumption | apply keeps_sendNak | apply keeps_foldl
      | split | intro _ | with_reducible refine keeps_mk ?_ rfl rfl rfl rfl
  · split
    · repeat' first
        | with_reducible first
            | assumption | apply keeps_sendNak | apply keeps_withdrawSlot | apply keeps_foldl
        | split | intro _ | with_reducible refine keeps_mk ?_ rfl rfl rfl rfl
    · split
      · next hs => exact keeps_modPort _ _ (keeps_sealKeyFrame (keeps_holdParent _ _ _ _ h) hs)
      · exact keeps_holdParent _ _ _ _ h

theorem keeps_execKlMissDone {r0 s : State} (port : Nat) (h_s : Keeps r0 s) :
    KeepsR r0 (execKlMissDone port s) := by
  unfold execKlMissDone
  try dsimp only
  repeat' first
    | with_reducible first
        | assumption | apply keepsR_next | apply keepsR_known | apply keepsR_doIf | apply keeps_modPort | apply keeps_missDone
    | split | intro _ | with_reducible refine keeps_mk ?_ rfl rfl rfl rfl

theorem keeps_execKlResponseSend {r0 s : State} (port : Nat) (h_s : Keeps r0 s) :
    KeepsR r0 (execKlResponseSend port s) := by
  unfold execKlResponseSend
  try dsimp only
  repeat' first
    | with_reducible first
        | assumption | apply keepsR_next | apply keepsR_known | apply keepsR_doIf | apply keeps_modPort | apply keeps_drew'
        | apply keeps_emit
    | split | intro _ | with_reducible refine keeps_mk ?_ rfl rfl rfl rfl

theorem keeps_execKlRekey {r0 s : State} (port : Nat) (h_s : Keeps r0 s) :
    KeepsR r0 (execKlRekey port s) := by
  unfold execKlRekey
  try dsimp only
  repeat' first
    | with_reducible first
        | assumption | apply keepsR_known | apply keepsR_doIf | apply keeps_raiseGen
    | split | intro _

theorem keeps_execKlRxLinkLoss {r0 s : State} (port : Nat) (h_s : Keeps r0 s) :
    KeepsR r0 (execKlRxLinkLoss port s) := by
  unfold execKlRxLinkLoss
  try dsimp only
  repeat' first
    | with_reducible first
        | assumption | apply keepsR_known | apply keepsR_doIf | apply keeps_modPort
    | split | intro _ | with_reducible refine keeps_mk ?_ rfl rfl rfl rfl

theorem keeps_execKlRxLinkUp {r0 s : State} (port : Nat) (h_s : Keeps r0 s) :
    KeepsR r0 (execKlRxLinkUp port s) := by
  unfold execKlRxLinkUp
  try dsimp only
  repeat' first
    | with_reducible first
        | assumption | apply keepsR_known | apply keepsR_doIf | apply keeps_modPort
    | split | intro _ | with_reducible refine keeps_mk ?_ rfl rfl rfl rfl

theorem keeps_execLanePair {r0 s : State} (job : Nat) (x1 : JobIo) (h_s : Keeps r0 s) :
    KeepsR r0 (execLanePair job x1 s) := by
  unfold execLanePair
  try dsimp only
  repeat' first
    | with_reducible first
        | assumption | apply keeps_modPort | apply keeps_wakeOne | apply keeps_stageCommit | apply keeps_runMgmt
        | apply keeps_corruptJob
    | split | intro _ | with_reducible refine keeps_mk ?_ rfl rfl rfl rfl

theorem keeps_execLaneUnpair {r0 s : State} (job : Nat) (x1 : JobIo) (h_s : Keeps r0 s) :
    KeepsR r0 (execLaneUnpair job x1 s) := by
  unfold execLaneUnpair
  try dsimp only
  repeat' first
    | with_reducible first
        | assumption | apply keeps_modPort | apply keeps_stageCommit | apply keeps_runMgmt
    | split | intro _ | with_reducible refine keeps_mk ?_ rfl rfl rfl rfl

theorem keeps_execLaneBind {r0 s : State} (job : Nat) (io : JobIo) (h_s : Keeps r0 s) :
    KeepsR r0 (execLaneBind job io s) := by
  unfold execLaneBind
  try dsimp only
  repeat' first
    | with_reducible first
        | assumption | apply keeps_stageCommit | apply keeps_runMgmt | apply keeps_refuse
    | split | intro _

theorem keeps_execLaneUnbind {r0 s : State} (job : Nat) (io : JobIo) (h_s : Keeps r0 s) :
    KeepsR r0 (execLaneUnbind job io s) := by
  unfold execLaneUnbind
  try dsimp only
  repeat' first
    | with_reducible first
        | assumption | apply keeps_stageCommit | apply keeps_runMgmt | apply keeps_refuse
    | split | intro _

theorem keeps_execLaneQuery {r0 s : State} (job : Nat) (io : JobIo) (h_s : Keeps r0 s) :
    KeepsR r0 (execLaneQuery job io s) := by
  unfold execLaneQuery
  try dsimp only
  repeat' first
    | with_reducible first
        | assumption | apply keeps_drew' | apply keeps_runMgmt | apply keeps_answer
    | split | intro _

theorem keeps_prefillOne {r0 : State} (n p bind chan : Nat) (b : LaneBase) (op : Nat) (a : State × Nat) (h_a : Keeps r0
    a.1) :
    Keeps r0 (prefillOne n p bind chan b op a).1 := by
  unfold prefillOne
  try dsimp only
  repeat' first
    | with_reducible first
        | assumption | apply keeps_sealStore
    | split | intro _

theorem keeps_prefill {r0 s : State} (n bind first count : Nat) (h : Keeps r0 s) : Keeps r0 (prefill s n bind first count).1 := by
  unfold prefill
  split
  · exact h
  · dsimp only
    refine keeps_foldl1 (f := _) h ?_ _
    intro a p ha
    refine keeps_foldl1 ha ?_ _
    intro x c hx
    try dsimp only
    split
    · exact hx
    · split
      · exact keeps_prefillOne _ _ _ _ _ _ _ (keeps_prefillOne _ _ _ _ _ _ _ hx)
      · exact keeps_prefillOne _ _ _ _ _ _ _ hx

theorem keeps_execLanePrefill {r0 s : State} (job : Nat) (io : JobIo) (h_s : Keeps r0 s) :
    KeepsR r0 (execLanePrefill job io s) := by
  unfold execLanePrefill
  try dsimp only
  repeat' first
    | with_reducible first
        | assumption | apply keeps_runMgmt | apply keeps_answer | apply keeps_corruptJob | apply keeps_prefill
    | split | intro _

theorem keeps_execLaneLoopback {r0 s : State} (job : Nat) (io : JobIo) (h_s : Keeps r0 s) :
    KeepsR r0 (execLaneLoopback job io s) := by
  unfold execLaneLoopback
  try dsimp only
  repeat' first
    | with_reducible first
        | assumption | apply keeps_runMgmt | apply keeps_answer
    | split | intro _

/-! ### Sched.lean -/

theorem keeps_raiseVtime {r0 s : State} (n : Nat) (h_s : Keeps r0 s) :
    Keeps r0 (raiseVtime s n) := by
  unfold raiseVtime
  try dsimp only
  repeat' first
    | with_reducible first
        | assumption | apply keeps_modSlice
    | split | intro _ | with_reducible refine keeps_mk ?_ rfl rfl rfl rfl

theorem keeps_jumpOthers {r0 s : State} (j : Job) (h_s : Keeps r0 s) :
    Keeps r0 (jumpOthers s j) := by
  unfold jumpOthers
  try dsimp only
  repeat' first
    | with_reducible first
        | assumption
    | split | intro _ | with_reducible refine keeps_mk ?_ rfl rfl rfl rfl

theorem keeps_execDispatchPick {r0 s : State} (rgn lc : Nat) (h_s : Keeps r0 s) :
    KeepsR r0 (execDispatchPick rgn lc s) := by
  unfold execDispatchPick
  try dsimp only
  repeat' first
    | with_reducible first
        | assumption | apply keepsR_next | apply keepsR_known | apply keepsR_doIf | apply keeps_putJob
        | apply keeps_jumpOthers
    | split | intro _ | with_reducible refine keeps_mk ?_ rfl rfl rfl rfl

theorem keeps_askDe {r0 s : State} (j : Job) (b : Nat) (h_s : Keeps r0 s) :
    Keeps r0 (askDe s j b) := by
  unfold askDe
  try dsimp only
  repeat' first
    | with_reducible first
        | assumption | apply keeps_modDe
    | split | intro _ | with_reducible refine keeps_mk ?_ rfl rfl rfl rfl

theorem keeps_execBlockAssign {r0 s : State} (job : Nat) (h_s : Keeps r0 s) :
    KeepsR r0 (execBlockAssign job s) := by
  unfold execBlockAssign
  try dsimp only
  repeat' first
    | with_reducible first
        | assumption | apply keepsR_next | apply keepsR_doIf | apply keeps_putJob | apply keeps_wakeUnit | apply keeps_askDe
    | split | intro _ | with_reducible refine keeps_mk ?_ rfl rfl rfl rfl

theorem keeps_takeSecond {r0 s : State} (j : Job) (c : Nat) (h_s : Keeps r0 s) :
    Keeps r0 (takeSecond s j c) := by
  unfold takeSecond
  repeat' first
    | with_reducible first
        | assumption | apply keeps_modCell | apply keeps_putJob
    | split | intro _ | with_reducible refine keeps_mk ?_ rfl rfl rfl rfl

theorem keeps_cellTakes {r0 s : State} (j : Job) (c : Nat) (h_s : Keeps r0 s) :
    Keeps r0 (cellTakes s j c) := by
  unfold cellTakes
  try dsimp only
  repeat' first
    | with_reducible first
        | assumption | apply keeps_modCell | apply keeps_putJob
    | split | intro _ | with_reducible refine keeps_mk ?_ rfl rfl rfl rfl

theorem keeps_execCellJobStart {r0 s : State} (cell : Nat) (h_s : Keeps r0 s) :
    KeepsR r0 (execCellJobStart cell s) := by
  unfold execCellJobStart
  try dsimp only
  repeat' first
    | with_reducible first
        | assumption | apply keepsR_next | apply keepsR_known | apply keepsR_doIf | apply keeps_wakeUnit
        | apply keeps_withKeys | apply keeps_takeSecond | apply keeps_cellTakes
    | split | intro _ | with_reducible refine keeps_mk ?_ rfl rfl rfl rfl

theorem keeps_failCheck {r0 s : State} (j : Job) (dual : Bool) (h_s : Keeps r0 s) :
    Keeps r0 (failCheck s j dual) := by
  unfold failCheck
  try dsimp only
  repeat' first
    | with_reducible first
        | assumption | apply keeps_replayJob | apply keeps_raiseFor
    | split | intro _

theorem keeps_endCheck {r0 s : State} (job : Nat) (dual : Bool) (flag : Nat) (ok : Bool) (h_s : Keeps r0 s) :
    KeepsR r0 (endCheck s job dual flag ok) := by
  unfold endCheck
  try dsimp only
  repeat' first
    | with_reducible first
        | assumption | apply keepsR_next | apply keepsR_doIf | apply keeps_putJob | apply keeps_freeEngines
        | apply keeps_failCheck
    | split | intro _ | with_reducible refine keeps_mk ?_ rfl rfl rfl rfl

theorem keeps_execVerifyBeforeReleaseDone {r0 s : State} (job : Nat) (ok : Bool) (x2 : JobIo) (h_s : Keeps r0 s) :
    KeepsR r0 (execVerifyBeforeReleaseDone job ok x2 s) := by
  unfold execVerifyBeforeReleaseDone
  try dsimp only
  repeat' first
    | with_reducible first
        | assumption | apply keeps_endCheck
    | split | intro _

theorem keeps_execDualCompare {r0 s : State} (job : Nat) (ok : Bool) (x2 : JobIo) (h_s : Keeps r0 s) :
    KeepsR r0 (execDualCompare job ok x2 s) := by
  unfold execDualCompare
  try dsimp only
  repeat' first
    | with_reducible first
        | assumption | apply keepsR_next | apply keeps_endCheck
    | split | intro _

theorem keeps_writeSlot {r0 s : State} (j : Job) (n : SlotNew) (h_s : Keeps r0 s) :
    Keeps r0 (writeSlot s j n) := by
  unfold writeSlot
  try dsimp only
  repeat' first
    | with_reducible first
        | assumption | apply keeps_requestWrite | apply keeps_putJob
    | split | intro _ | with_reducible refine keeps_mk ?_ rfl rfl rfl rfl

theorem keeps_releaseJob {r0 s : State} (j : Job) (r : JobRes) (io : JobIo) (h_s : Keeps r0 s) :
    Keeps r0 (releaseJob s j r io) := by
  unfold releaseJob
  try dsimp only
  repeat' first
    | with_reducible first
        | assumption | apply keeps_endJob | apply keeps_finishJob | apply keeps_writeSlot
    | split | intro _ | with_reducible refine keeps_mk ?_ rfl rfl rfl rfl

theorem keeps_execJobRelease {r0 s : State} (job : Nat) (io : JobIo) (h_s : Keeps r0 s) :
    KeepsR r0 (execJobRelease job io s) := by
  unfold execJobRelease
  try dsimp only
  repeat' first
    | with_reducible first
        | assumption | apply keepsR_next | apply keepsR_doIf | apply keeps_failJob | apply keeps_releaseJob
    | split | intro _

theorem keeps_execUnassignedBoundExpire {r0 s : State} (job : Nat) (io : JobIo) (h_s : Keeps r0 s) :
    KeepsR r0 (execUnassignedBoundExpire job io s) := by
  unfold execUnassignedBoundExpire
  try dsimp only
  repeat' first
    | with_reducible first
        | assumption | apply keepsR_next | apply keepsR_doIf | apply keeps_failJob
    | split | intro _

theorem keeps_dropStepOf {r0 s : State} (k : Nat) (h_s : Keeps r0 s) :
    Keeps r0 (dropStepOf s k) := by
  unfold dropStepOf
  try dsimp only
  repeat' first
    | with_reducible first
        | assumption | apply keeps_idleCards
    | split | intro _ | with_reducible refine keeps_mk ?_ rfl rfl rfl rfl

theorem keeps_execJobAbandonTimeout {r0 s : State} (job : Nat) (io : JobIo) (h_s : Keeps r0 s) :
    KeepsR r0 (execJobAbandonTimeout job io s) := by
  unfold execJobAbandonTimeout
  try dsimp only
  repeat' first
    | with_reducible first
        | assumption | apply keepsR_next | apply keepsR_doIf | apply keeps_failJob | apply keeps_dropStepOf
    | split | intro _

theorem keeps_execKeyScrubAfterJobs {r0 s : State} (handle : W64) (h_s : Keeps r0 s) :
    KeepsR r0 (execKeyScrubAfterJobs handle s) := by
  unfold execKeyScrubAfterJobs
  try dsimp only
  repeat' first
    | with_reducible first
        | assumption | apply keepsR_doIf | apply keeps_scrubLane | apply keeps_filterExpanded | apply keeps_scrubKey
    | split | intro _ | with_reducible refine keeps_mk ?_ rfl rfl rfl rfl

/-! ### Time.lean -/

theorem keeps_modTb {r0 s : State} (f : Timebase → Timebase) (h_s : Keeps r0 s) :
    Keeps r0 (modTb s f) := by
  unfold modTb
  repeat' first
    | with_reducible first
        | assumption
    | split | intro _ | with_reducible refine keeps_mk ?_ rfl rfl rfl rfl

theorem keeps_setCond {r0 s : State} (new : Cond) (cause : Nat) (h_s : Keeps r0 s) :
    Keeps r0 (setCond s new cause) := by
  unfold setCond
  try dsimp only
  repeat' first
    | with_reducible first
        | assumption | apply keeps_smbAlert | apply keeps_logEvent | apply keeps_vecTime | apply keeps_modTb
    | split | intro _ | with_reducible refine keeps_mk ?_ rfl rfl rfl rfl

theorem keeps_rewindow {r0 s : State} (held : Bool) (h_s : Keeps r0 s) :
    Keeps r0 (rewindow s held) := by
  unfold rewindow
  try dsimp only
  repeat' first
    | with_reducible first
        | assumption | apply keeps_modTb
    | split | intro _ | with_reducible refine keeps_mk ?_ rfl rfl rfl rfl

theorem keeps_steerEdge {r0 s : State} (h_s : Keeps r0 s) :
    Keeps r0 (steerEdge s) := by
  unfold steerEdge
  try dsimp only
  repeat' first
    | with_reducible first
        | assumption | apply keeps_modTb
    | split | intro _ | with_reducible refine keeps_mk ?_ rfl rfl rfl rfl

theorem keeps_judgeEdge {r0 s : State} (h_s : Keeps r0 s) :
    Keeps r0 (judgeEdge s) := by
  unfold judgeEdge
  try dsimp only
  repeat' first
    | with_reducible first
        | assumption | apply keeps_modTb | apply keeps_setCond | apply keeps_steerEdge
    | split | intro _ | with_reducible refine keeps_mk ?_ rfl rfl rfl rfl

theorem keeps_runEdgeStep {r0 s : State} (h_s : Keeps r0 s) :
    Keeps r0 (runEdgeStep s) := by
  unfold runEdgeStep
  try dsimp only
  repeat' first
    | with_reducible first
        | assumption | apply keeps_modTb
    | split | intro _ | with_reducible refine keeps_mk ?_ rfl rfl rfl rfl

theorem keeps_endRun {r0 s : State} (h_s : Keeps r0 s) :
    Keeps r0 (endRun s) := by
  unfold endRun
  try dsimp only
  repeat' first
    | with_reducible first
        | assumption | apply keeps_modTb
    | split | intro _ | with_reducible refine keeps_mk ?_ rfl rfl rfl rfl

theorem keeps_renumber {r0 s : State} (sec : Nat) (h_s : Keeps r0 s) :
    Keeps r0 (renumber s sec) := by
  unfold renumber
  try dsimp only
  repeat' first
    | with_reducible first
        | assumption | apply keeps_modTb | apply keeps_rewindow
    | split | intro _ | with_reducible refine keeps_mk ?_ rfl rfl rfl rfl

theorem keeps_applyDecl {r0 s : State} (sec : Nat) (force : Bool) (h_s : Keeps r0 s) :
    Keeps r0 (applyDecl s sec force).2 := by
  unfold applyDecl
  try dsimp only
  repeat' first
    | with_reducible first
        | assumption | apply keeps_modTb | apply keeps_setCond | apply keeps_rewindow | apply keeps_renumber
    | split | intro _ | with_reducible refine keeps_mk ?_ rfl rfl rfl rfl

theorem keeps_applyDecls {r0 s : State} (io : JobIo) (h_s : Keeps r0 s) :
    Keeps r0 (applyDecls s io) := by
  unfold applyDecls
  try dsimp only
  repeat' first
    | with_reducible first
        | assumption | apply keeps_forJobs | apply keeps_settle | apply keeps_applyDecl
    | split | intro _ | with_reducible refine keeps_mk ?_ rfl rfl rfl rfl

theorem keeps_tryReturn {r0 s : State} (h_s : Keeps r0 s) :
    Keeps r0 (tryReturn s) := by
  unfold tryReturn
  try dsimp only
  repeat' first
    | with_reducible first
        | assumption | apply keeps_modTb | apply keeps_setCond | apply keeps_rewindow
    | split | intro _ | with_reducible refine keeps_mk ?_ rfl rfl rfl rfl

theorem keeps_execPpsEdge {r0 s : State} (io : JobIo) (h_s : Keeps r0 s) :
    KeepsR r0 (execPpsEdge io s) := by
  unfold execPpsEdge
  try dsimp only
  repeat' first
    | with_reducible first
        | assumption | apply keepsR_doIf | apply keeps_judgeEdge | apply keeps_runEdgeStep | apply keeps_applyDecls
        | apply keeps_tryReturn
    | split | intro _

theorem keeps_execPpsWindowClose {r0 s : State} (h_s : Keeps r0 s) :
    KeepsR r0 (execPpsWindowClose s) := by
  unfold execPpsWindowClose
  try dsimp only
  repeat' first
    | with_reducible first
        | assumption | apply keepsR_doIf | apply keeps_modTb | apply keeps_setCond
    | split | intro _ | with_reducible refine keeps_mk ?_ rfl rfl rfl rfl

theorem keeps_execPpsRunEnd {r0 s : State} (h_s : Keeps r0 s) :
    KeepsR r0 (execPpsRunEnd s) := by
  unfold execPpsRunEnd
  try dsimp only
  repeat' first
    | with_reducible first
        | assumption | apply keepsR_doIf | apply keeps_endRun
    | split | intro _

theorem keeps_execSlewEnd {r0 s : State} (h_s : Keeps r0 s) :
    KeepsR r0 (execSlewEnd s) := by
  unfold execSlewEnd
  try dsimp only
  repeat' first
    | with_reducible first
        | assumption | apply keepsR_doIf | apply keeps_modTb | apply keeps_setCond | apply keeps_endRun
    | split | intro _ | with_reducible refine keeps_mk ?_ rfl rfl rfl rfl

theorem keeps_execHoldoverExpired {r0 s : State} (h_s : Keeps r0 s) :
    KeepsR r0 (execHoldoverExpired s) := by
  unfold execHoldoverExpired
  try dsimp only
  repeat' first
    | with_reducible first
        | assumption | apply keepsR_doIf | apply keeps_logEvent | apply keeps_vecTime | apply keeps_modTb
    | split | intro _ | with_reducible refine keeps_mk ?_ rfl rfl rfl rfl

theorem keeps_execTrefQualified {r0 s : State} (code : Nat) (h_s : Keeps r0 s) :
    KeepsR r0 (execTrefQualified code s) := by
  unfold execTrefQualified
  try dsimp only
  repeat' first
    | with_reducible first
        | assumption | apply keepsR_doIf | apply keeps_modTb
    | split | intro _ | with_reducible refine keeps_mk ?_ rfl rfl rfl rfl

theorem keeps_execTrefLost {r0 s : State} (h_s : Keeps r0 s) :
    KeepsR r0 (execTrefLost s) := by
  unfold execTrefLost
  try dsimp only
  repeat' first
    | with_reducible first
        | assumption | apply keepsR_doIf | apply keeps_modTb | apply keeps_setCond
    | split | intro _ | with_reducible refine keeps_mk ?_ rfl rfl rfl rfl

theorem keeps_execTppsOutSecond {r0 s : State} (h_s : Keeps r0 s) :
    KeepsR r0 (execTppsOutSecond s) := by
  unfold execTppsOutSecond
  try dsimp only
  repeat' first
    | with_reducible first
        | assumption | apply keepsR_doIf
    | split | intro _ | with_reducible refine keeps_mk ?_ rfl rfl rfl rfl

theorem keeps_execTppsOutFall {r0 s : State} (h_s : Keeps r0 s) :
    KeepsR r0 (execTppsOutFall s) := by
  unfold execTppsOutFall
  try dsimp only
  repeat' first
    | with_reducible first
        | assumption | apply keepsR_doIf
    | split | intro _ | with_reducible refine keeps_mk ?_ rfl rfl rfl rfl

theorem keeps_execSetNextSecond {r0 s : State} (job : Nat) (x1 : JobIo) (h_s : Keeps r0 s) :
    KeepsR r0 (execSetNextSecond job x1 s) := by
  unfold execSetNextSecond
  try dsimp only
  repeat' first
    | with_reducible first
        | assumption | apply keeps_putJob | apply keeps_runMgmt
    | split | intro _ | with_reducible refine keeps_mk ?_ rfl rfl rfl rfl

theorem keeps_execSetNextSecondTimeout {r0 s : State} (io : JobIo) (h_s : Keeps r0 s) :
    KeepsR r0 (execSetNextSecondTimeout io s) := by
  unfold execSetNextSecondTimeout
  try dsimp only
  repeat' first
    | with_reducible first
        | assumption | apply keepsR_doIf | apply keeps_forJobs | apply keeps_settle
    | split | intro _

theorem keeps_execTimeQuery {r0 s : State} (job : Nat) (io : JobIo) (h_s : Keeps r0 s) :
    KeepsR r0 (execTimeQuery job io s) := by
  unfold execTimeQuery
  try dsimp only
  repeat' first
    | with_reducible first
        | assumption | apply keeps_runMgmt | apply keeps_answer
    | split | intro _

theorem keeps_execTimeConfig {r0 s : State} (job : Nat) (x1 : JobIo) (h_s : Keeps r0 s) :
    KeepsR r0 (execTimeConfig job x1 s) := by
  unfold execTimeConfig
  try dsimp only
  repeat' first
    | with_reducible first
        | assumption | apply keeps_stageCommit | apply keeps_runMgmt
    | split | intro _

/-! ### Events.lean -/

theorem keeps_modEvent {r0 s : State} (i : Nat) (f : EvRec → EvRec) (h_s : Keeps r0 s) :
    Keeps r0 (modEvent s i f) := by
  unfold modEvent
  try dsimp only
  repeat' first
    | with_reducible first
        | assumption
    | split | intro _ | with_reducible refine keeps_mk ?_ rfl rfl rfl rfl

theorem keeps_endEvent {r0 s : State} (i : Nat) (f : EvRec → EvRec) (h_s : Keeps r0 s) :
    Keeps r0 (endEvent s i f) := by
  unfold endEvent
  try dsimp only
  repeat' first
    | with_reducible first
        | assumption | apply keeps_notifyEvent | apply keeps_requestWrite | apply keeps_modEvent
    | split | intro _ | with_reducible refine keeps_mk ?_ rfl rfl rfl rfl

theorem keeps_preparePort {r0 s : State} (n : Nat) (v : EvRec) (p : Nat) (h_s : Keeps r0 s) :
    Keeps r0 (preparePort n v s p) := by
  unfold preparePort
  try dsimp only
  repeat' first
    | with_reducible first
        | assumption | apply keeps_sealStore | apply keeps_sealEpoch | apply keeps_foldl
    | split | intro _

theorem keeps_prepareEvent {r0 s : State} (i : Nat) (v : EvRec) (h_s : Keeps r0 s) :
    Keeps r0 (prepareEvent s i v) := by
  unfold prepareEvent
  try dsimp only
  repeat' first
    | with_reducible first
        | assumption | apply keeps_withdrawSlot | apply keeps_modEvent | apply keeps_preparePort | apply keeps_foldl
    | split | intro _ | with_reducible refine keeps_mk ?_ rfl rfl rfl rfl

theorem keeps_execEventPrepare {r0 s : State} (ev : Nat) (h_s : Keeps r0 s) :
    KeepsR r0 (execEventPrepare ev s) := by
  unfold execEventPrepare
  try dsimp only
  repeat' first
    | with_reducible first
        | assumption | apply keepsR_next | apply keepsR_known | apply keepsR_doIf | apply keeps_prepareEvent
    | split | intro _

theorem keeps_activateEpoch {r0 s : State} (v : EvRec) (h_s : Keeps r0 s) :
    Keeps r0 (activateEpoch s v) := by
  unfold activateEpoch
  try dsimp only
  repeat' first
    | with_reducible first
        | assumption
    | split | intro _ | with_reducible refine keeps_mk ?_ rfl rfl rfl rfl

theorem keeps_fireActivate {r0 s : State} (i : Nat) (v : EvRec) (h_s : Keeps r0 s) :
    Keeps r0 (fireActivate s i v).2 := by
  unfold fireActivate
  try dsimp only
  repeat' first
    | with_reducible first
        | assumption | apply keeps_prepareEvent | apply keeps_activateEpoch
    | split | intro _

theorem keeps_fireRetire {r0 s : State} (i : Nat) (v : EvRec) (h_s : Keeps r0 s) :
    Keeps r0 (fireRetire s i v).2 := by
  unfold fireRetire
  try dsimp only
  repeat' first
    | with_reducible first
        | assumption | apply keeps_requestWrite | apply keeps_endKey | apply keeps_foldl
    | split | intro _ | with_reducible refine keeps_mk ?_ rfl rfl rfl rfl

theorem keeps_fireWindow {r0 s : State} (v : EvRec) (h_s : Keeps r0 s) :
    Keeps r0 (fireWindow s v).2 := by
  unfold fireWindow
  try dsimp only
  repeat' first
    | with_reducible first
        | assumption | apply keeps_requestWrite
    | split | intro _ | with_reducible refine keeps_mk ?_ rfl rfl rfl rfl

theorem keeps_fireReseed {r0 s : State} (h_s : Keeps r0 s) :
    Keeps r0 (fireReseed s) := by
  unfold fireReseed
  try dsimp only
  repeat' first
    | with_reducible first
        | assumption | apply keeps_modRng | apply keeps_feed | apply keeps_foldl
    | split | intro _ | with_reducible refine keeps_mk ?_ rfl rfl rfl rfl

theorem keeps_fireSelfTest {r0 s : State} (tests : List Bool) (h_s : Keeps r0 s) :
    Keeps r0 (fireSelfTest s tests) := by
  unfold fireSelfTest
  try dsimp only
  repeat' first
    | with_reducible first
        | assumption | apply keeps_knownAnswer | apply keeps_foldl
    | split | intro _

theorem keeps_firePool {r0 s : State} (i : Nat) (v : EvRec) (h_s : Keeps r0 s) :
    Keeps r0 (firePool s i v) := by
  unfold firePool
  try dsimp only
  repeat' first
    | with_reducible first
        | assumption | apply keeps_modEvent | apply keeps_foldl
    | split | intro _ | with_reducible refine keeps_mk ?_ rfl rfl rfl rfl

theorem keeps_fireAction {r0 s : State} (i : Nat) (v : EvRec) (tests : List Bool) (h_s : Keeps r0 s) :
    Keeps r0 (fireAction s i v tests).2 := by
  unfold fireAction
  try dsimp only
  repeat' first
    | with_reducible first
        | assumption | apply keeps_notifyEvent | apply keeps_fireActivate | apply keeps_fireRetire | apply keeps_fireWindow
        | apply keeps_fireReseed | apply keeps_fireSelfTest | apply keeps_firePool
    | split | intro _

theorem keeps_fireEvent {r0 s : State} (late : Bool) (tests : List Bool) (i : Nat) (h_s : Keeps r0 s) :
    Keeps r0 (fireEvent late tests s i) := by
  unfold fireEvent
  try dsimp only
  repeat' first
    | with_reducible first
        | assumption | apply keeps_endEvent | apply keeps_fireAction
    | split | intro _ | with_reducible refine keeps_mk ?_ rfl rfl rfl rfl

theorem keeps_sendEpoch {r0 s : State} (n e mask : Nat) (p : Nat) (h_s : Keeps r0 s) :
    Keeps r0 (sendEpoch n e mask s p) := by
  unfold sendEpoch
  try dsimp only
  repeat' first
    | with_reducible first
        | assumption | apply keeps_modPort | apply keeps_emit | apply keeps_sealEpoch
    | split | intro _ | with_reducible refine keeps_mk ?_ rfl rfl rfl rfl

theorem keeps_sendEpochs {r0 s : State} (before : List (Nat × EvRec)) (h_s : Keeps r0 s) :
    Keeps r0 (sendEpochs before s) := by
  unfold sendEpochs
  try dsimp only
  repeat' first
    | with_reducible first
        | assumption | apply keeps_sendEpoch | apply keeps_foldl
    | split | intro _

theorem keeps_execEventFire {r0 s : State} (tests : List Bool) (h_s : Keeps r0 s) :
    KeepsR r0 (execEventFire tests s) := by
  unfold execEventFire
  try dsimp only
  repeat' first
    | with_reducible first
        | assumption | apply keepsR_doIf | apply keeps_modEvent | apply keeps_fireEvent | apply keeps_sendEpochs
        | apply keeps_foldl
    | split | intro _ | with_reducible refine keeps_mk ?_ rfl rfl rfl rfl

theorem keeps_execEventCatchUp {r0 s : State} (tests : List Bool) (h_s : Keeps r0 s) :
    KeepsR r0 (execEventCatchUp tests s) := by
  unfold execEventCatchUp
  try dsimp only
  repeat' first
    | with_reducible first
        | assumption | apply keepsR_doIf | apply keeps_endEvent | apply keeps_fireEvent | apply keeps_sendEpochs
        | apply keeps_foldl
    | split | intro _ | with_reducible refine keeps_mk ?_ rfl rfl rfl rfl

theorem keeps_execEventIndexFree {r0 s : State} (ev : Nat) (h_s : Keeps r0 s) :
    KeepsR r0 (execEventIndexFree ev s) := by
  unfold execEventIndexFree
  try dsimp only
  repeat' first
    | with_reducible first
        | assumption | apply keepsR_next | apply keepsR_known | apply keepsR_doIf | apply keeps_freeEventIdx
    | split | intro _

theorem keeps_execEventSchedule {r0 s : State} (job : Nat) (io : JobIo) (h_s : Keeps r0 s) :
    KeepsR r0 (execEventSchedule job io s) := by
  unfold execEventSchedule
  try dsimp only
  repeat' first
    | with_reducible first
        | assumption | apply keeps_modJob | apply keeps_stageCommit | apply keeps_runMgmt | apply keeps_answer
        | apply keeps_withInput
    | split | intro _ | with_reducible refine keeps_mk ?_ rfl rfl rfl rfl

theorem keeps_execEventCancel {r0 s : State} (job : Nat) (io : JobIo) (h_s : Keeps r0 s) :
    KeepsR r0 (execEventCancel job io s) := by
  unfold execEventCancel
  try dsimp only
  repeat' first
    | with_reducible first
        | assumption | apply keeps_stageCommit | apply keeps_runMgmt | apply keeps_refuse | apply keeps_answerOk
        | apply keeps_endEvent
    | split | intro _ | with_reducible refine keeps_mk ?_ rfl rfl rfl rfl

theorem keeps_execEventQuery {r0 s : State} (job : Nat) (io : JobIo) (h_s : Keeps r0 s) :
    KeepsR r0 (execEventQuery job io s) := by
  unfold execEventQuery
  try dsimp only
  repeat' first
    | with_reducible first
        | assumption | apply keeps_runMgmt | apply keeps_answer | apply keeps_refuse
    | split | intro _

/-! ### CfgSpace.lean -/

theorem keeps_writeCfgWord {r0 s : State} (off v : Nat) (h_s : Keeps r0 s) :
    Keeps r0 (writeCfgWord s off v) := by
  unfold writeCfgWord
  try dsimp only
  repeat' first
    | with_reducible first
        | assumption
    | split | intro _ | with_reducible refine keeps_mk ?_ rfl rfl rfl rfl

/-! ### Regs.lean -/

theorem keeps_execBar0BadAccess {r0 s : State} (wr : Bool) (addr size : Nat) (h_s : Keeps r0 s) :
    KeepsR r0 (execBar0BadAccess wr addr size s) := by
  unfold execBar0BadAccess
  try dsimp only
  repeat' first
    | with_reducible first
        | assumption | apply keepsR_doIf | apply keeps_emit
    | split | intro _ | with_reducible refine keeps_mk ?_ rfl rfl rfl rfl

theorem keeps_execBar0LowHalfRead {r0 s : State} (r : HostRead) (h_s : Keeps r0 s) :
    KeepsR r0 (execBar0LowHalfRead r s) := by
  unfold execBar0LowHalfRead
  try dsimp only
  repeat' first
    | with_reducible first
        | assumption | apply keepsR_doIf | apply keeps_emit
    | split | intro _ | with_reducible refine keeps_mk ?_ rfl rfl rfl rfl

theorem keeps_doorbell {r0 s : State} (n q tail : Nat) (h_s : Keeps r0 s) :
    Keeps r0 (doorbell s n q tail) := by
  unfold doorbell
  try dsimp only
  repeat' first
    | with_reducible first
        | assumption | apply keeps_modQp | apply keeps_stopQp
    | split | intro _ | with_reducible refine keeps_mk ?_ rfl rfl rfl rfl

theorem keeps_execSqDoorbell {r0 s : State} (sl qp tail : Nat) (h_s : Keeps r0 s) :
    KeepsR r0 (execSqDoorbell sl qp tail s) := by
  unfold execSqDoorbell
  try dsimp only
  repeat' first
    | with_reducible first
        | assumption | apply keepsR_known | apply keepsR_doIf | apply keeps_doorbell
    | split | intro _

theorem keeps_cqHead {r0 s : State} (n q head : Nat) (h_s : Keeps r0 s) :
    Keeps r0 (cqHead s n q head) := by
  unfold cqHead
  try dsimp only
  repeat' first
    | with_reducible first
        | assumption | apply keeps_modQp | apply keeps_stopQp
    | split | intro _ | with_reducible refine keeps_mk ?_ rfl rfl rfl rfl

theorem keeps_execCqHeadWrite {r0 s : State} (sl qp head : Nat) (h_s : Keeps r0 s) :
    KeepsR r0 (execCqHeadWrite sl qp head s) := by
  unfold execCqHeadWrite
  try dsimp only
  repeat' first
    | with_reducible first
        | assumption | apply keepsR_known | apply keepsR_doIf | apply keeps_cqHead
    | split | intro _

theorem keeps_writeCfg {r0 s : State} (n q cfg : Nat) (h_s : Keeps r0 s) :
    Keeps r0 (writeCfg s n q cfg) := by
  unfold writeCfg
  try dsimp only
  repeat' first
    | with_reducible first
        | assumption | apply keeps_modQp | apply keeps_cqHead
    | split | intro _ | with_reducible refine keeps_mk ?_ rfl rfl rfl rfl

theorem keeps_execQpEnable {r0 s : State} (sl qp cfg : Nat) (h_s : Keeps r0 s) :
    KeepsR r0 (execQpEnable sl qp cfg s) := by
  unfold execQpEnable
  try dsimp only
  repeat' first
    | with_reducible first
        | assumption | apply keepsR_known | apply keepsR_doIf | apply keeps_writeCfg
    | split | intro _

theorem keeps_execQpDisable {r0 s : State} (sl qp : Nat) (h_s : Keeps r0 s) :
    KeepsR r0 (execQpDisable sl qp s) := by
  unfold execQpDisable
  try dsimp only
  repeat' first
    | with_reducible first
        | assumption | apply keepsR_known | apply keepsR_doIf | apply keeps_writeCfg
    | split | intro _

theorem keeps_execQpDisableDone {r0 s : State} (sl qp : Nat) (h_s : Keeps r0 s) :
    KeepsR r0 (execQpDisableDone sl qp s) := by
  unfold execQpDisableDone
  try dsimp only
  repeat' first
    | with_reducible first
        | assumption | apply keepsR_known | apply keepsR_doIf | apply keeps_modQp
    | split | intro _ | with_reducible refine keeps_mk ?_ rfl rfl rfl rfl

theorem keeps_execSlNotifyClear {r0 s : State} (sl : Nat) (mask : Byte) (h_s : Keeps r0 s) :
    KeepsR r0 (execSlNotifyClear sl mask s) := by
  unfold execSlNotifyClear
  try dsimp only
  repeat' first
    | with_reducible first
        | assumption | apply keepsR_known | apply keepsR_doIf | apply keeps_modSlice
    | split | intro _ | with_reducible refine keeps_mk ?_ rfl rfl rfl rfl

theorem keeps_writeMsix {r0 s : State} (i v : Nat) (h_s : Keeps r0 s) :
    Keeps r0 (writeMsix s i v) := by
  unfold writeMsix
  try dsimp only
  repeat' first
    | with_reducible first
        | assumption | apply keeps_emit
    | split | intro _ | with_reducible refine keeps_mk ?_ rfl rfl rfl rfl

theorem keeps_writeReg {r0 s : State} (a v : Nat) (h_s : Keeps r0 s) :
    Keeps r0 (writeReg s a v) := by
  unfold writeReg
  try dsimp only
  repeat' first
    | with_reducible first
        | assumption | apply keeps_modSlice | apply keeps_modQp | apply keeps_doorbell | apply keeps_cqHead
        | apply keeps_writeCfg | apply keeps_writeMsix
    | split | intro _ | with_reducible refine keeps_mk ?_ rfl rfl rfl rfl

theorem keeps_execRegisterWrite {r0 s : State} (addr : HostAddr) (size val : Nat) (h_s : Keeps r0 s) :
    KeepsR r0 (execRegisterWrite addr size val s) := by
  unfold execRegisterWrite
  try dsimp only
  repeat' first
    | with_reducible first
        | assumption | apply keepsR_doIf | apply keeps_writeCfgWord | apply keeps_writeReg
    | split | intro _

/-! ### SliceCmds.lean -/

theorem keeps_execDeviceQuery {r0 s : State} (job : Nat) (io : JobIo) (h_s : Keeps r0 s) :
    KeepsR r0 (execDeviceQuery job io s) := by
  unfold execDeviceQuery
  try dsimp only
  repeat' first
    | with_reducible first
        | assumption | apply keeps_runMgmt | apply keeps_answer
    | split | intro _

theorem keeps_execSliceQuery {r0 s : State} (job : Nat) (io : JobIo) (h_s : Keeps r0 s) :
    KeepsR r0 (execSliceQuery job io s) := by
  unfold execSliceQuery
  try dsimp only
  repeat' first
    | with_reducible first
        | assumption | apply keeps_runMgmt | apply keeps_answer
    | split | intro _

theorem keeps_takeRec {r0 s : State} (j : Job) (io : JobIo) (n : Nat) (r : SliceRec) (h_s : Keeps r0 s) :
    Keeps r0 (takeRec s j io n r) := by
  unfold takeRec
  repeat' first
    | with_reducible first
        | assumption | apply keeps_applySliceRec | apply keeps_stageCommit | apply keeps_answerOk
    | split | intro _

theorem keeps_withBlock {r0 s : State} (j : Job) (io : JobIo) (n : Nat) (ok : SliceCfg → Bool) (st : SliceState) (h_s :
    Keeps r0 s) :
    Keeps r0 (withBlock s j io n ok st) := by
  unfold withBlock
  try dsimp only
  repeat' first
    | with_reducible first
        | assumption | apply keeps_answer | apply keeps_refuse | apply keeps_withInput | apply keeps_takeRec
    | split | intro _ | with_reducible refine keeps_mk ?_ rfl rfl rfl rfl

theorem keeps_execSliceCreate {r0 s : State} (job : Nat) (io : JobIo) (h_s : Keeps r0 s) :
    KeepsR r0 (execSliceCreate job io s) := by
  unfold execSliceCreate
  try dsimp only
  repeat' first
    | with_reducible first
        | assumption | apply keeps_runMgmt | apply keeps_refuse | apply keeps_withBlock
    | split | intro _

theorem keeps_execSliceConfigure {r0 s : State} (job : Nat) (io : JobIo) (h_s : Keeps r0 s) :
    KeepsR r0 (execSliceConfigure job io s) := by
  unfold execSliceConfigure
  try dsimp only
  repeat' first
    | with_reducible first
        | assumption | apply keeps_runMgmt | apply keeps_refuse | apply keeps_withBlock
    | split | intro _

theorem keeps_changeState {r0 s : State} (j : Job) (io : JobIo) (old new : SliceState) (h_s : Keeps r0 s) :
    Keeps r0 (changeState s j io old new) := by
  unfold changeState
  try dsimp only
  repeat' first
    | with_reducible first
        | assumption | apply keeps_refuse | apply keeps_takeRec
    | split | intro _ | with_reducible refine keeps_mk ?_ rfl rfl rfl rfl

theorem keeps_execSliceActivate {r0 s : State} (job : Nat) (io : JobIo) (h_s : Keeps r0 s) :
    KeepsR r0 (execSliceActivate job io s) := by
  unfold execSliceActivate
  try dsimp only
  repeat' first
    | with_reducible first
        | assumption | apply keeps_runMgmt | apply keeps_changeState
    | split | intro _

theorem keeps_execSliceQuiesce {r0 s : State} (job : Nat) (io : JobIo) (h_s : Keeps r0 s) :
    KeepsR r0 (execSliceQuiesce job io s) := by
  unfold execSliceQuiesce
  try dsimp only
  repeat' first
    | with_reducible first
        | assumption | apply keeps_runMgmt | apply keeps_changeState
    | split | intro _

theorem keeps_saveSlice {r0 s : State} (n : Nat) (h_s : Keeps r0 s) :
    Keeps r0 (saveSlice s n) := by
  unfold saveSlice
  try dsimp only
  repeat' first
    | with_reducible first
        | assumption | apply keeps_requestWrite
    | split | intro _ | with_reducible refine keeps_mk ?_ rfl rfl rfl rfl

theorem keeps_execQuiesceComplete {r0 s : State} (sl : Nat) (h_s : Keeps r0 s) :
    KeepsR r0 (execQuiesceComplete sl s) := by
  unfold execQuiesceComplete
  try dsimp only
  repeat' first
    | with_reducible first
        | assumption | apply keepsR_known | apply keepsR_doIf | apply keeps_modSlice | apply keeps_notifyState
        | apply keeps_saveSlice
    | split | intro _ | with_reducible refine keeps_mk ?_ rfl rfl rfl rfl

theorem keeps_park {r0 s : State} (j : Job) (h_s : Keeps r0 s) :
    Keeps r0 (park s j) := by
  unfold park
  try dsimp only
  repeat' first
    | with_reducible first
        | assumption | apply keeps_modJob
    | split | intro _ | with_reducible refine keeps_mk ?_ rfl rfl rfl rfl

theorem keeps_execSliceReset {r0 s : State} (job : Nat) (io : JobIo) (h_s : Keeps r0 s) :
    KeepsR r0 (execSliceReset job io s) := by
  unfold execSliceReset
  try dsimp only
  repeat' first
    | with_reducible first
        | assumption | apply keeps_record | apply keeps_runMgmt | apply keeps_refuse | apply keeps_beginReset
        | apply keeps_saveSlice | apply keeps_park
    | split | intro _

theorem keeps_beginRemoval {r0 s : State} (j : Job) (n : Nat) (h_s : Keeps r0 s) :
    Keeps r0 (beginRemoval s j n) := by
  unfold beginRemoval
  try dsimp only
  repeat' first
    | with_reducible first
        | assumption | apply keeps_askWrite | apply keeps_beginReset | apply keeps_park
    | split | intro _ | with_reducible refine keeps_mk ?_ rfl rfl rfl rfl

theorem keeps_execSliceRemove {r0 s : State} (job : Nat) (io : JobIo) (h_s : Keeps r0 s) :
    KeepsR r0 (execSliceRemove job io s) := by
  unfold execSliceRemove
  try dsimp only
  repeat' first
    | with_reducible first
        | assumption | apply keeps_modSlice | apply keeps_askWrite | apply keeps_runMgmt | apply keeps_refuse
        | apply keeps_park | apply keeps_beginRemoval
    | split | intro _ | with_reducible refine keeps_mk ?_ rfl rfl rfl rfl

theorem keeps_nextRemoval {r0 s : State} (n : Nat) (w : Option Nat) (h_s : Keeps r0 s) :
    Keeps r0 (nextRemoval s n w) := by
  unfold nextRemoval
  try dsimp only
  repeat' first
    | with_reducible first
        | assumption | apply keeps_modSlice | apply keeps_beginRemoval
    | split | intro _ | with_reducible refine keeps_mk ?_ rfl rfl rfl rfl

theorem keeps_execSliceResetDone {r0 s : State} (sl : Nat) (io : JobIo) (h_s : Keeps r0 s) :
    KeepsR r0 (execSliceResetDone sl io s) := by
  unfold execSliceResetDone
  try dsimp only
  repeat' first
    | with_reducible first
        | assumption | apply keepsR_next | apply keepsR_known | apply keepsR_doIf | apply keeps_modSlice
        | apply keeps_notifyState | apply keeps_notifyReset | apply keeps_resetQps | apply keeps_answerOk
        | apply keeps_scrubSlice | apply keeps_saveSlice | apply keeps_nextRemoval
    | split | intro _ | with_reducible refine keeps_mk ?_ rfl rfl rfl rfl

theorem keeps_askAlone {r0 s : State} (o : AlmOp) (h_s : Keeps r0 s) :
    Keeps r0 (askAlone s o) := by
  unfold askAlone
  repeat' first
    | with_reducible first
        | assumption | apply keeps_requestWrite
    | split | intro _ | with_reducible refine keeps_mk ?_ rfl rfl rfl rfl

theorem keeps_retireSlots {r0 s : State} (n : Nat) (h_s : Keeps r0 s) :
    Keeps r0 (retireSlots s n) := by
  unfold retireSlots
  try dsimp only
  repeat' first
    | with_reducible first
        | assumption | apply keeps_dropEvents | apply keeps_askAlone | apply keeps_foldl
    | split | intro _

theorem keeps_removeSlice {r0 s : State} (n : Nat) (h_s : Keeps r0 s) :
    Keeps r0 (removeSlice s n) := by
  unfold removeSlice
  try dsimp only
  repeat' first
    | with_reducible first
        | assumption | apply keeps_modSlice | apply keeps_askAlone | apply keeps_foldl
    | split | intro _ | with_reducible refine keeps_mk ?_ rfl rfl rfl rfl

theorem keeps_execSliceRemoveDone {r0 s : State} (sl : Nat) (io : JobIo) (h_s : Keeps r0 s) :
    KeepsR r0 (execSliceRemoveDone sl io s) := by
  unfold execSliceRemoveDone
  try dsimp only
  repeat' first
    | with_reducible first
        | assumption | apply keepsR_next | apply keepsR_known | apply keepsR_doIf | apply keeps_notifyState
        | apply keeps_answerOk | apply keeps_scrubSlice | apply keeps_retireSlots | apply keeps_removeSlice
    | split | intro _

theorem keeps_execPasidBind {r0 s : State} (job : Nat) (io : JobIo) (h_s : Keeps r0 s) :
    KeepsR r0 (execPasidBind job io s) := by
  unfold execPasidBind
  try dsimp only
  repeat' first
    | with_reducible first
        | assumption | apply keeps_modSlice | apply keeps_runMgmt | apply keeps_refuse | apply keeps_answerOk
    | split | intro _ | with_reducible refine keeps_mk ?_ rfl rfl rfl rfl

theorem keeps_execPasidUnbind {r0 s : State} (job : Nat) (io : JobIo) (h_s : Keeps r0 s) :
    KeepsR r0 (execPasidUnbind job io s) := by
  unfold execPasidUnbind
  try dsimp only
  repeat' first
    | with_reducible first
        | assumption | apply keeps_modSlice | apply keeps_runMgmt | apply keeps_refuse | apply keeps_answerOk
    | split | intro _ | with_reducible refine keeps_mk ?_ rfl rfl rfl rfl

theorem keeps_execHdmWindowSet {r0 s : State} (job : Nat) (io : JobIo) (h_s : Keeps r0 s) :
    KeepsR r0 (execHdmWindowSet job io s) := by
  unfold execHdmWindowSet
  try dsimp only
  repeat' first
    | with_reducible first
        | assumption | apply keeps_runMgmt | apply keeps_refuse | apply keeps_answerOk
    | split | intro _ | with_reducible refine keeps_mk ?_ rfl rfl rfl rfl

theorem keeps_setAperture {r0 s : State} (n off size : Nat) (h : Keeps r0 s) : Keeps r0 (setAperture s n off size) :=
  h.updMem rfl rfl rfl (fun w => mapWf_filter 0 _ _ w)

theorem keeps_execHdmApertureSet {r0 s : State} (job : Nat) (io : JobIo) (h_s : Keeps r0 s) :
    KeepsR r0 (execHdmApertureSet job io s) := by
  unfold execHdmApertureSet
  try dsimp only
  repeat' first
    | with_reducible first
        | assumption | apply keeps_runMgmt | apply keeps_refuse | apply keeps_answerOk | apply keeps_setAperture
    | split | intro _

theorem keeps_execBiasSet {r0 s : State} (job : Nat) (io : JobIo) (h_s : Keeps r0 s) :
    KeepsR r0 (execBiasSet job io s) := by
  unfold execBiasSet
  try dsimp only
  repeat' first
    | with_reducible first
        | assumption | apply keeps_emit | apply keeps_runMgmt | apply keeps_refuse | apply keeps_answerOk | apply keeps_foldl
    | split | intro _ | with_reducible refine keeps_mk ?_ rfl rfl rfl rfl

theorem keeps_execIdeRequiredSet {r0 s : State} (job : Nat) (io : JobIo) (h_s : Keeps r0 s) :
    KeepsR r0 (execIdeRequiredSet job io s) := by
  unfold execIdeRequiredSet
  try dsimp only
  repeat' first
    | with_reducible first
        | assumption | apply keeps_runMgmt | apply keeps_settle
    | split | intro _ | with_reducible refine keeps_mk ?_ rfl rfl rfl rfl

theorem keeps_execOwnerCertInstall {r0 s : State} (job : Nat) (io : JobIo) (h_s : Keeps r0 s) :
    KeepsR r0 (execOwnerCertInstall job io s) := by
  unfold execOwnerCertInstall
  try dsimp only
  repeat' first
    | with_reducible first
        | assumption | apply keeps_runMgmt | apply keeps_answerOk | apply keeps_withInput
    | split | intro _ | with_reducible refine keeps_mk ?_ rfl rfl rfl rfl

theorem keeps_execDrainBegin {r0 s : State} (job : Nat) (io : JobIo) (h_s : Keeps r0 s) :
    KeepsR r0 (execDrainBegin job io s) := by
  unfold execDrainBegin
  try dsimp only
  repeat' first
    | with_reducible first
        | assumption | apply keeps_setMode | apply keeps_runMgmt | apply keeps_refuse | apply keeps_answerOk
    | split | intro _

theorem keeps_execDrainCancel {r0 s : State} (job : Nat) (io : JobIo) (h_s : Keeps r0 s) :
    KeepsR r0 (execDrainCancel job io s) := by
  unfold execDrainCancel
  try dsimp only
  repeat' first
    | with_reducible first
        | assumption | apply keeps_setMode | apply keeps_runMgmt | apply keeps_refuse | apply keeps_answerOk
    | split | intro _

theorem keeps_execDrained {r0 s : State} (h_s : Keeps r0 s) :
    KeepsR r0 (execDrained s) := by
  unfold execDrained
  try dsimp only
  repeat' first
    | with_reducible first
        | assumption | apply keepsR_doIf
    | split | intro _ | with_reducible refine keeps_mk ?_ rfl rfl rfl rfl

theorem keeps_execMaintEnter {r0 s : State} (job : Nat) (io : JobIo) (h_s : Keeps r0 s) :
    KeepsR r0 (execMaintEnter job io s) := by
  unfold execMaintEnter
  try dsimp only
  repeat' first
    | with_reducible first
        | assumption | apply keeps_setMode | apply keeps_runMgmt | apply keeps_refuse | apply keeps_answerOk
    | split | intro _

theorem keeps_deviceReset {r0 s : State} (h_s : Keeps r0 s) :
    Keeps r0 (deviceReset s) := by
  unfold deviceReset
  try dsimp only
  repeat' first
    | with_reducible first
        | assumption | apply keeps_setMode | apply keeps_bootState
    | split | intro _ | with_reducible refine keeps_mk ?_ rfl rfl rfl rfl

theorem keeps_execDeviceReset {r0 s : State} (job : Nat) (io : JobIo) (h_s : Keeps r0 s) :
    KeepsR r0 (execDeviceReset job io s) := by
  unfold execDeviceReset
  try dsimp only
  repeat' first
    | with_reducible first
        | assumption | apply keeps_runMgmt | apply keeps_refuse | apply keeps_answerOk | apply keeps_deviceReset
    | split | intro _

theorem keeps_commitNext {r0 s : State} (h : Keeps r0 s) : Keeps r0 (commitNext s) := by
  unfold commitNext
  split
  · exact h
  · next k w tl hw =>
    split
    · exact keeps_cerCommitted _ _ h (keeps_commitWrite _ _ _ h)
    · split
      · split
        · next r _ _ =>
          have hr : KeepsR r0 (match r.job with
              | some n => execSlotWriteCommit n true (modWrite s k (fun x => { x with started := true }))
              | none => .next s) := by
            split
            · exact keeps_execSlotWriteCommit _ _ (keeps_modWrite _ _ h)
            · exact keepsR_next h
          split
          · next t ht =>
            have kt := hr _ ht
            split
            · exact keeps_endWrite _ (keeps_opEffect _ h)
            · exact kt
          · exact h
        · exact keeps_endWrite _ h
      · exact keeps_endWrite _ (keeps_foldl h (fun a x ha => keeps_opEffect _ ha) _)

theorem keeps_execGpfRequest {r0 s : State} (h_s : Keeps r0 s) :
    KeepsR r0 (execGpfRequest s) := by
  unfold execGpfRequest
  try dsimp only
  repeat' first
    | with_reducible first
        | assumption | apply keepsR_doIf | apply keeps_emit | apply keeps_writePage | apply keeps_commitNext
        | apply keeps_foldl
    | split | intro _

/-! ### Faults.lean -/

theorem keeps_execFaultDetect {r0 s : State} (src unit info : Nat) (h_s : Keeps r0 s) :
    KeepsR r0 (execFaultDetect src unit info s) := by
  unfold execFaultDetect
  try dsimp only
  repeat' first
    | with_reducible first
        | assumption | apply keepsR_known | apply keepsR_doIf | apply keeps_raiseFault
    | split | intro _

theorem keeps_execFenceActed {r0 s : State} (fu : Nat) (h_s : Keeps r0 s) :
    KeepsR r0 (execFenceActed fu s) := by
  unfold execFenceActed
  try dsimp only
  repeat' first
    | with_reducible first
        | assumption | apply keepsR_known | apply keepsR_doIf | apply keeps_modUnit | apply keeps_actedIn
        | apply keeps_failUnit | apply keeps_failRegion
    | split | intro _ | with_reducible refine keeps_mk ?_ rfl rfl rfl rfl

theorem keeps_execQuietPeriodEnd {r0 s : State} (fu : Nat) (h_s : Keeps r0 s) :
    KeepsR r0 (execQuietPeriodEnd fu s) := by
  unfold execQuietPeriodEnd
  try dsimp only
  repeat' first
    | with_reducible first
        | assumption | apply keepsR_known | apply keepsR_doIf | apply keeps_modUnit | apply keeps_noteRecovery
        | apply keeps_setUnit
    | split | intro _ | with_reducible refine keeps_mk ?_ rfl rfl rfl rfl

theorem keeps_recovered {r0 s : State} (k : Nat) (h_s : Keeps r0 s) :
    Keeps r0 (recovered s k) := by
  unfold recovered
  try dsimp only
  repeat' first
    | with_reducible first
        | assumption | apply keeps_modCell | apply keeps_modBne | apply keeps_modRng | apply keeps_modDom
        | apply keeps_raiseGen
    | split | intro _ | with_reducible refine keeps_mk ?_ rfl rfl rfl rfl

theorem keeps_execRecoveryTestDone {r0 s : State} (fu : Nat) (ok : Bool) (h_s : Keeps r0 s) :
    KeepsR r0 (execRecoveryTestDone fu ok s) := by
  unfold execRecoveryTestDone
  try dsimp only
  repeat' first
    | with_reducible first
        | assumption | apply keepsR_known | apply keepsR_doIf | apply keeps_modUnit | apply keeps_record
        | apply keeps_placeCopies | apply keeps_setUnit | apply keeps_recovered
    | split | intro _ | with_reducible refine keeps_mk ?_ rfl rfl rfl rfl

theorem keeps_execMgmtTakeover {r0 s : State} (h_s : Keeps r0 s) :
    KeepsR r0 (execMgmtTakeover s) := by
  unfold execMgmtTakeover
  try dsimp only
  repeat' first
    | with_reducible first
        | assumption | apply keepsR_doIf | apply keeps_replayJob | apply keeps_forJobs | apply keeps_releaseProc
    | split | intro _ | with_reducible refine keeps_mk ?_ rfl rfl rfl rfl

theorem keeps_execFatalHalt {r0 s : State} (io : JobIo) (h_s : Keeps r0 s) :
    KeepsR r0 (execFatalHalt io s) := by
  unfold execFatalHalt
  try dsimp only
  repeat' first
    | with_reducible first
        | assumption | apply keepsR_doIf | apply keeps_endJob | apply keeps_forJobs | apply keeps_finishWrites
        | apply keeps_discardWrites | apply keeps_enterHalt
    | split | intro _ | with_reducible refine keeps_mk ?_ rfl rfl rfl rfl

theorem keeps_execFaultConfig {r0 s : State} (job : Nat) (x1 : JobIo) (h_s : Keeps r0 s) :
    KeepsR r0 (execFaultConfig job x1 s) := by
  unfold execFaultConfig
  try dsimp only
  repeat' first
    | with_reducible first
        | assumption | apply keeps_stageCommit | apply keeps_runMgmt
    | split | intro _

theorem keeps_execFaultQuery {r0 s : State} (job : Nat) (io : JobIo) (h_s : Keeps r0 s) :
    KeepsR r0 (execFaultQuery job io s) := by
  unfold execFaultQuery
  try dsimp only
  repeat' first
    | with_reducible first
        | assumption | apply keeps_runMgmt | apply keeps_answer
    | split | intro _

theorem keeps_clearChecks {r0 s : State} (h : Nat) (h_s : Keeps r0 s) :
    Keeps r0 (clearChecks s h) := by
  unfold clearChecks
  try dsimp only
  repeat' first
    | with_reducible first
        | assumption
    | split | intro _ | with_reducible refine keeps_mk ?_ rfl rfl rfl rfl

theorem keeps_execFaultClear {r0 s : State} (job : Nat) (io : JobIo) (h_s : Keeps r0 s) :
    KeepsR r0 (execFaultClear job io s) := by
  unfold execFaultClear
  try dsimp only
  repeat' first
    | with_reducible first
        | assumption | apply keeps_modHandler | apply keeps_noteFirst | apply keeps_stageCommit | apply keeps_runMgmt
        | apply keeps_refuse | apply keeps_answerOk | apply keeps_clearChecks
    | split | intro _ | with_reducible refine keeps_mk ?_ rfl rfl rfl rfl

theorem keeps_execFaultInject {r0 s : State} (job : Nat) (io : JobIo) (h_s : Keeps r0 s) :
    KeepsR r0 (execFaultInject job io s) := by
  unfold execFaultInject
  try dsimp only
  repeat' first
    | with_reducible first
        | assumption | apply keeps_raiseFault | apply keeps_runMgmt | apply keeps_answerOk
    | split | intro _

/-! ### Admit.lean -/

theorem keeps_endDesc {r0 s : State} (n q : Nat) (d : Desc) (c : Cpl) (fault : Bool) (h_s : Keeps r0 s) :
    Keeps r0 (endDesc s n q d c fault) := by
  unfold endDesc
  repeat' first
    | with_reducible first
        | assumption | apply keeps_writeCpl
    | split | intro _

theorem keeps_startJob {r0 s : State} (j : Job) (h_s : Keeps r0 s) :
    Keeps r0 (startJob s j) := by
  unfold startJob
  try dsimp only
  repeat' first
    | with_reducible first
        | assumption | apply keeps_raiseVtime
    | split | intro _ | with_reducible refine keeps_mk ?_ rfl rfl rfl rfl

theorem keeps_admitOne {r0 s : State} (n q : Nat) (d : Desc) (label : List Byte) (since slack : Nat) (fault : Bool) (h_s :
    Keeps r0 s) :
    Keeps r0 (admitOne s n q d label since slack fault) := by
  unfold admitOne
  try dsimp only
  repeat' first
    | with_reducible first
        | assumption | apply keeps_endDesc | apply keeps_startJob
    | split | intro _ | with_reducible refine keeps_mk ?_ rfl rfl rfl rfl

theorem keeps_fetchOne {r0 s : State} (n q : Nat) (f : FetchIo) (b : List Byte × List Byte) (h_s : Keeps r0 s) :
    Keeps r0 (fetchOne n q f s b) := by
  unfold fetchOne
  try dsimp only
  repeat' first
    | with_reducible first
        | assumption | apply keeps_modQp | apply keeps_admitOne
    | split | intro _ | with_reducible refine keeps_mk ?_ rfl rfl rfl rfl

theorem keeps_ringRead {r0 s : State} (n q k : Nat) (h_s : Keeps r0 s) :
    Keeps r0 (ringRead s n q k) := by
  unfold ringRead
  try dsimp only
  repeat' first
    | with_reducible first
        | assumption | apply keeps_emit
    | split | intro _

theorem keeps_execDescriptorFetch {r0 s : State} (sl qp : Nat) (f : FetchIo) (h_s : Keeps r0 s) :
    KeepsR r0 (execDescriptorFetch sl qp f s) := by
  unfold execDescriptorFetch
  try dsimp only
  repeat' first
    | with_reducible first
        | assumption | apply keepsR_fault | apply keepsR_known | apply keepsR_doIf | apply keeps_stopQp | apply keeps_fetchOne
        | apply keeps_ringRead | apply keeps_foldl
    | split | intro _

/-! ### Boot.lean -/

theorem keeps_tearWrites {r0 s : State} (w : WriteIo) (h_s : Keeps r0 s) :
    Keeps r0 (tearWrites w s) := by
  unfold tearWrites
  try dsimp only
  repeat' first
    | with_reducible first
        | assumption | apply keeps_writeBank | apply keeps_foldl
    | split | intro _ | with_reducible refine keeps_mk ?_ rfl rfl rfl rfl

theorem keeps_powerLoss {r0 s : State} (w : WriteIo) (h_s : Keeps r0 s) :
    Keeps r0 (powerLoss w s) := by
  unfold powerLoss
  try dsimp only
  repeat' first
    | with_reducible first
        | assumption | apply keeps_finishBegun | apply keeps_tearWrites
    | split | intro _ | with_reducible refine keeps_mk ?_ rfl rfl rfl rfl

theorem keeps_holdReset {r0 s : State} (h_s : Keeps r0 s) :
    Keeps r0 (holdReset s) := by
  unfold holdReset
  try dsimp only
  repeat' first
    | with_reducible first
        | assumption | apply keeps_bootState
    | split | intro _ | with_reducible refine keeps_mk ?_ rfl rfl rfl rfl

theorem keeps_execPowerOnReset {r0 s : State} (w : WriteIo) (h_s : Keeps r0 s) :
    KeepsR r0 (execPowerOnReset w s) := by
  unfold execPowerOnReset
  try dsimp only
  repeat' first
    | with_reducible first
        | assumption | apply keepsR_next | apply keeps_powerLoss | apply keeps_holdReset
    | split | intro _

theorem keeps_execPorRelease {r0 s : State} (h_s : Keeps r0 s) :
    KeepsR r0 (execPorRelease s) := by
  unfold execPorRelease
  try dsimp only
  repeat' first
    | with_reducible first
        | assumption | apply keepsR_doIf
    | split | intro _ | with_reducible refine keeps_mk ?_ rfl rfl rfl rfl

theorem keeps_execResetAssert {r0 s : State} (h_s : Keeps r0 s) :
    KeepsR r0 (execResetAssert s) := by
  unfold execResetAssert
  try dsimp only
  repeat' first
    | with_reducible first
        | assumption | apply keepsR_next
    | split | intro _ | with_reducible refine keeps_mk ?_ rfl rfl rfl rfl

theorem keeps_execResetTakeEffect {r0 s : State} (h_s : Keeps r0 s) :
    KeepsR r0 (execResetTakeEffect s) := by
  unfold execResetTakeEffect
  try dsimp only
  repeat' first
    | with_reducible first
        | assumption | apply keepsR_doIf | apply keeps_bootState
    | split | intro _ | with_reducible refine keeps_mk ?_ rfl rfl rfl rfl

theorem keeps_execResetRelease {r0 s : State} (h_s : Keeps r0 s) :
    KeepsR r0 (execResetRelease s) := by
  unfold execResetRelease
  try dsimp only
  repeat' first
    | with_reducible first
        | assumption | apply keepsR_next
    | split | intro _ | with_reducible refine keeps_mk ?_ rfl rfl rfl rfl

theorem keeps_abandonJob {r0 s : State} (j : Job) (h_s : Keeps r0 s) :
    Keeps r0 (abandonJob s j) := by
  unfold abandonJob
  repeat' first
    | with_reducible first
        | assumption | apply keeps_dropJob | apply keeps_freeEngines
    | split | intro _

theorem keeps_execSupplyWarning {r0 s : State} (rail : Nat) (h_s : Keeps r0 s) :
    KeepsR r0 (execSupplyWarning rail s) := by
  unfold execSupplyWarning
  try dsimp only
  repeat' first
    | with_reducible first
        | assumption | apply keepsR_known | apply keepsR_doIf | apply keeps_forJobs | apply keeps_writePageOf
        | apply keeps_abandonJob
    | split | intro _ | with_reducible refine keeps_mk ?_ rfl rfl rfl rfl

theorem keeps_execSupplyWarningTimeout {r0 s : State} (h_s : Keeps r0 s) :
    KeepsR r0 (execSupplyWarningTimeout s) := by
  unfold execSupplyWarningTimeout
  try dsimp only
  repeat' first
    | with_reducible first
        | assumption | apply keepsR_doIf | apply keeps_powerLoss | apply keeps_holdReset
    | split | intro _

theorem keeps_execSysClkLost {r0 s : State} (h_s : Keeps r0 s) :
    KeepsR r0 (execSysClkLost s) := by
  unfold execSysClkLost
  try dsimp only
  repeat' first
    | with_reducible first
        | assumption | apply keepsR_doIf | apply keeps_raiseFault | apply keeps_foldl
    | split | intro _ | with_reducible refine keeps_mk ?_ rfl rfl rfl rfl

theorem keeps_execHeartbeatTick {r0 s : State} (h_s : Keeps r0 s) :
    KeepsR r0 (execHeartbeatTick s) := by
  unfold execHeartbeatTick
  try dsimp only
  repeat' first
    | with_reducible first
        | assumption | apply keepsR_doIf
    | split | intro _ | with_reducible refine keeps_mk ?_ rfl rfl rfl rfl

theorem keeps_checkRetention {r0 s : State} (h_s : Keeps r0 s) :
    Keeps r0 (checkRetention s) := by
  unfold checkRetention
  repeat' first
    | with_reducible first
        | assumption | apply keeps_record | apply keeps_batLog
    | split | intro _ | with_reducible refine keeps_mk ?_ rfl rfl rfl rfl

theorem keeps_resumeLog {r0 s : State} (h_s : Keeps r0 s) :
    Keeps r0 (resumeLog s) := by
  unfold resumeLog
  try dsimp only
  repeat' first
    | with_reducible first
        | assumption
    | split | intro _ | with_reducible refine keeps_mk ?_ rfl rfl rfl rfl

theorem keeps_takeVote {r0 s : State} (h_s : Keeps r0 s) :
    Keeps r0 (takeVote s) := by
  unfold takeVote
  try dsimp only
  repeat' first
    | with_reducible first
        | assumption | apply keeps_clearLatch
    | split | intro _ | with_reducible refine keeps_mk ?_ rfl rfl rfl rfl

theorem keeps_judgeRoot {r0 s : State} (h_s : Keeps r0 s) :
    Keeps r0 (judgeRoot s) := by
  unfold judgeRoot
  try dsimp only
  repeat' first
    | with_reducible first
        | assumption | apply keeps_zeroizeRoot | apply keeps_setLatch | apply keeps_batLog
    | split | intro _ | with_reducible refine keeps_mk ?_ rfl rfl rfl rfl

theorem keeps_loadRecov {r0 s : State} (h_s : Keeps r0 s) :
    Keeps r0 (loadRecov s) := by
  unfold loadRecov
  try dsimp only
  repeat' first
    | with_reducible first
        | assumption | apply keeps_modDom | apply keeps_modUnit | apply keeps_foldl
    | split | intro _ | with_reducible refine keeps_mk ?_ rfl rfl rfl rfl

theorem keeps_cascadeFailed {r0 s : State} (h_s : Keeps r0 s) :
    Keeps r0 (cascadeFailed s) := by
  unfold cascadeFailed
  try dsimp only
  repeat' first
    | with_reducible first
        | assumption | apply keeps_raiseFault | apply keeps_foldl
    | split | intro _

theorem keeps_loadSettings {r0 s : State} (h_s : Keeps r0 s) :
    Keeps r0 (loadSettings s) := by
  unfold loadSettings
  try dsimp only
  repeat' first
    | with_reducible first
        | assumption | apply keeps_loadRecov
    | split | intro _ | with_reducible refine keeps_mk ?_ rfl rfl rfl rfl

theorem keeps_startRngs {r0 s : State} (h_s : Keeps r0 s) :
    Keeps r0 (startRngs s) := by
  unfold startRngs
  try dsimp only
  repeat' first
    | with_reducible first
        | assumption | apply keeps_modRng | apply keeps_foldl
    | split | intro _ | with_reducible refine keeps_mk ?_ rfl rfl rfl rfl

theorem keeps_drawSeeds {r0 s : State} (h_s : Keeps r0 s) :
    Keeps r0 (drawSeeds s) := by
  unfold drawSeeds
  try dsimp only
  repeat' first
    | with_reducible first
        | assumption | apply keeps_drew' | apply keeps_foldl
    | split | intro _ | with_reducible refine keeps_mk ?_ rfl rfl rfl rfl

theorem keeps_logIntent {r0 : State} {old s : State} (h_old : Keeps r0 old) (h_s : Keeps r0 s) :
    Keeps r0 (logIntent old s) := by
  unfold logIntent
  try dsimp only
  repeat' first
    | with_reducible first
        | assumption | apply keeps_logEvent
    | split | intro _

theorem keeps_rollFault {r0 : State} {old s : State} (h_old : Keeps r0 old) (h_s : Keeps r0 s) :
    Keeps r0 (rollFault old s) := by
  unfold rollFault
  try dsimp only
  repeat' first
    | with_reducible first
        | assumption | apply keeps_raiseFault
    | split | intro _

theorem keeps_startUmbra {r0 s : State} (io : AssayIo) (h_s : Keeps r0 s) :
    Keeps r0 (startUmbra io s) := by
  unfold startUmbra
  try dsimp only
  repeat' first
    | with_reducible first
        | assumption | apply keeps_setMode | apply keeps_healthFail | apply keeps_startupPass | apply keeps_startSlices
        | apply keeps_startRngs | apply keeps_drawSeeds | apply keeps_foldl
    | split | intro _

theorem keeps_startAssay {r0 s : State} (h_s : Keeps r0 s) :
    Keeps r0 (startAssay s) := by
  unfold startAssay
  repeat' first
    | with_reducible first
        | assumption | apply keeps_setMode | apply keeps_startSlices | apply keeps_startRngs
    | split | intro _

theorem keeps_bootRom {r0 s : State} (dead : List Nat) (h_s : Keeps r0 s) :
    Keeps r0 (bootRom dead s) := by
  unfold bootRom
  repeat' first
    | with_reducible first
        | assumption | apply keeps_rollForward | apply keeps_takeVote | apply keeps_judgeRoot
    | split | intro _

theorem keeps_loadStores {r0 s : State} (io : AssayIo) (h_s : Keeps r0 s) :
    Keeps r0 (loadStores io s) := by
  unfold loadStores
  try dsimp only
  repeat' first
    | with_reducible first
        | assumption | apply keeps_modBlock | apply keeps_foldl
    | split | intro _ | with_reducible refine keeps_mk ?_ rfl rfl rfl rfl

theorem keeps_bootGoesOn {r0 : State} {old s : State} (io : AssayIo) (h_old : Keeps r0 old) (h_s : Keeps r0 s) :
    Keeps r0 (bootGoesOn io old s) := by
  unfold bootGoesOn
  try dsimp only
  repeat' first
    | with_reducible first
        | assumption | apply keeps_dropVolBindings | apply keeps_startCopy | apply keeps_cascadeFailed
        | apply keeps_loadSettings | apply keeps_logIntent | apply keeps_rollFault | apply keeps_startUmbra
        | apply keeps_startAssay | apply keeps_loadStores | apply keeps_foldl
    | split | intro _

theorem keeps_bootEnds {r0 : State} {old s : State} (io : AssayIo) (h_old : Keeps r0 old) (h_s : Keeps r0 s) :
    Keeps r0 (bootEnds io old s) := by
  unfold bootEnds
  repeat' first
    | with_reducible first
        | assumption | apply keeps_enterHalt | apply keeps_bootGoesOn
    | split | intro _

theorem keeps_takeImage {r0 s : State} (h_s : Keeps r0 s) :
    Keeps r0 (takeImage s) := by
  unfold takeImage
  repeat' first
    | with_reducible first
        | assumption
    | split | intro _ | with_reducible refine keeps_mk ?_ rfl rfl rfl rfl

theorem keeps_bootDone {r0 s : State} (io : AssayIo) (h_s : Keeps r0 s) :
    Keeps r0 (bootDone io s) := by
  unfold bootDone
  try dsimp only
  repeat' first
    | with_reducible first
        | assumption | apply keeps_checkRetention | apply keeps_resumeLog | apply keeps_bootRom | apply keeps_bootEnds
        | apply keeps_takeImage
    | split | intro _

theorem keeps_execBootEnd {r0 s : State} (io : AssayIo) (h_s : Keeps r0 s) :
    KeepsR r0 (execBootEnd io s) := by
  unfold execBootEnd
  try dsimp only
  repeat' first
    | with_reducible first
        | assumption | apply keepsR_doIf | apply keeps_bootDone
    | split | intro _

theorem keeps_endStartup {r0 s : State} (io : AssayIo) (r : Nat) (h_s : Keeps r0 s) :
    Keeps r0 (endStartup io s r) := by
  unfold endStartup
  try dsimp only
  repeat' first
    | with_reducible first
        | assumption | apply keeps_modRng | apply keeps_settleRng | apply keeps_startupPass
    | split | intro _ | with_reducible refine keeps_mk ?_ rfl rfl rfl rfl

theorem keeps_endRegion {r0 s : State} (io : AssayIo) (r : Nat) (h_s : Keeps r0 s) :
    Keeps r0 (endRegion io s r) := by
  unfold endRegion
  repeat' first
    | with_reducible first
        | assumption | apply keeps_failUnit
    | split | intro _

theorem keeps_endBnes {r0 s : State} (io : AssayIo) (h_s : Keeps r0 s) :
    Keeps r0 (endBnes io s) := by
  unfold endBnes
  try dsimp only
  repeat' first
    | with_reducible first
        | assumption | apply keeps_failUnit | apply keeps_raiseFault | apply keeps_foldl
    | split | intro _

theorem keeps_createRoot {r0 s : State} (h_s : Keeps r0 s) :
    Keeps r0 (createRoot s) := by
  unfold createRoot
  try dsimp only
  repeat' first
    | with_reducible first
        | assumption | apply keeps_drew' | apply keeps_installRoot | apply keeps_callDrbg | apply keeps_reseeded
        | apply keeps_useBlock
    | split | intro _ | with_reducible refine keeps_mk ?_ rfl rfl rfl rfl

theorem keeps_factoryRoot {r0 s : State} (h_s : Keeps r0 s) :
    Keeps r0 (factoryRoot s) := by
  unfold factoryRoot
  repeat' first
    | with_reducible first
        | assumption | apply keeps_createRoot
    | split | intro _

theorem keeps_actOnLost {r0 s : State} (h_s : Keeps r0 s) :
    Keeps r0 (actOnLost s) := by
  unfold actOnLost
  try dsimp only
  repeat' first
    | with_reducible first
        | assumption | apply keeps_withdrawSlot | apply keeps_lostRecord | apply keeps_foldl
    | split | intro _

theorem keeps_reloadEvent {r0 s : State} (i : Nat) (e : EvEnt) (h_s : Keeps r0 s) :
    Keeps r0 (reloadEvent s i e) := by
  unfold reloadEvent
  try dsimp only
  repeat' first
    | with_reducible first
        | assumption
    | split | intro _ | with_reducible refine keeps_mk ?_ rfl rfl rfl rfl

theorem keeps_reloadEvents {r0 s : State} (h_s : Keeps r0 s) :
    Keeps r0 (reloadEvents s) := by
  unfold reloadEvents
  try dsimp only
  repeat' first
    | with_reducible first
        | assumption | apply keeps_reloadEvent | apply keeps_foldl
    | split | intro _

theorem keeps_restoreEpochs {r0 s : State} (h_s : Keeps r0 s) :
    Keeps r0 (restoreEpochs s) := by
  unfold restoreEpochs
  try dsimp only
  repeat' first
    | with_reducible first
        | assumption | apply keeps_modPort | apply keeps_foldl
    | split | intro _ | with_reducible refine keeps_mk ?_ rfl rfl rfl rfl

theorem keeps_endFloor {r0 s : State} (dead : List Nat) (h_s : Keeps r0 s) :
    Keeps r0 (endFloor dead s) := by
  unfold endFloor
  try dsimp only
  repeat' first
    | with_reducible first
        | assumption | apply keeps_raiseFault | apply keeps_raiseFloor
    | split | intro _

theorem keeps_endRemovals {r0 s : State} (h_s : Keeps r0 s) :
    Keeps r0 (endRemovals s) := by
  unfold endRemovals
  try dsimp only
  repeat' first
    | with_reducible first
        | assumption | apply keeps_modSlice | apply keeps_retireSlots | apply keeps_foldl
    | split | intro _ | with_reducible refine keeps_mk ?_ rfl rfl rfl rfl

theorem keeps_prepare {r0 s : State} (io : AssayIo) (h_s : Keeps r0 s) :
    Keeps r0 (prepare io s) := by
  unfold prepare
  try dsimp only
  repeat' first
    | with_reducible first
        | assumption | apply keeps_startLeaves | apply keeps_loadSettings | apply keeps_drawSeeds | apply keeps_factoryRoot
        | apply keeps_actOnLost | apply keeps_reloadEvents | apply keeps_restoreEpochs | apply keeps_endFloor
    | split | intro _

theorem keeps_assayHalt {r0 s : State} (h_s : Keeps r0 s) :
    Keeps r0 (assayHalt s) := by
  unfold assayHalt
  try dsimp only
  repeat' first
    | with_reducible first
        | assumption | apply keeps_failJob | apply keeps_forJobs | apply keeps_enterHalt
    | split | intro _

theorem keeps_assayServes {r0 s : State} (h_s : Keeps r0 s) :
    Keeps r0 (assayServes s) := by
  unfold assayServes
  repeat' first
    | with_reducible first
        | assumption | apply keeps_startWrites | apply keeps_setMode | apply keeps_dropCeremony | apply keeps_umbraWrites
        | apply keeps_umbraClear | apply keeps_endRemovals
    | split | intro _

theorem keeps_assayDone {r0 s : State} (io : AssayIo) (h_s : Keeps r0 s) :
    Keeps r0 (assayDone io s) := by
  unfold assayDone
  try dsimp only
  repeat' first
    | with_reducible first
        | assumption | apply keeps_endStartup | apply keeps_endRegion | apply keeps_endBnes | apply keeps_prepare
        | apply keeps_assayHalt | apply keeps_assayServes | apply keeps_foldl
    | split | intro _

theorem keeps_execAssayEnd {r0 s : State} (io : AssayIo) (h_s : Keeps r0 s) :
    KeepsR r0 (execAssayEnd io s) := by
  unfold execAssayEnd
  try dsimp only
  repeat' first
    | with_reducible first
        | assumption | apply keepsR_doIf | apply keeps_assayDone
    | split | intro _

/-! ### Clock.lean -/

theorem keeps_tickCells {r0 s : State} (k : Nat) (h : Keeps r0 s) : Keeps r0 (tickCells k s) := by
  unfold tickCells
  refine keeps_foldl h ?_ _
  intro a n ha
  try dsimp only
  split
  · exact keeps_modCell _ _ ha
  · exact ha

theorem keeps_refillBlinds {r0 s : State} (h_s : Keeps r0 s) :
    Keeps r0 (refillBlinds s) := by
  unfold refillBlinds
  try dsimp only
  repeat' first
    | with_reducible first
        | assumption | apply keeps_modBne | apply keeps_callDrbg | apply keeps_foldl
    | split | intro _ | with_reducible refine keeps_mk ?_ rfl rfl rfl rfl

/-- A tick keeps all but the time since power-on. -/
theorem keeps_clockTick (s : State) : ∃ u, (u = s.uptime ∨ u = s.uptime + 1) ∧ Keeps { s with uptime := u } (clockTick s) := by
  unfold clockTick
  split
  · exact ⟨s.uptime, .inl rfl, (Keeps.refl s).upd rfl rfl rfl rfl⟩
  · refine ⟨s.uptime + 1, .inr rfl, ?_⟩
    have k : Keeps { s with uptime := s.uptime + 1 }
        { s with uptime := s.uptime + 1, tb := if alive s then tickTime s.tb else s.tb } :=
      (Keeps.refl _).upd rfl rfl rfl rfl
    dsimp only
    split
    · exact keeps_refillBlinds (keeps_tickCells _ k)
    · exact k

/-! ### Interrupts.lean -/

theorem keeps_icWake {r0 s : State} (id : Nat) (h_s : Keeps r0 s) :
    Keeps r0 (icWake s id) := by
  unfold icWake
  try dsimp only
  repeat' first
    | with_reducible first
        | assumption | apply keeps_wakeUnit
    | split | intro _

theorem keeps_icSettle {r0 s : State} (id : Nat) (h_s : Keeps r0 s) :
    Keeps r0 (icSettle s id) := by
  unfold icSettle
  repeat' first
    | with_reducible first
        | assumption | apply keeps_icNotify | apply keeps_icWake
    | split | intro _

theorem keeps_execIcSourceAssert {r0 s : State} (id : Nat) (on : Bool) (h_s : Keeps r0 s) :
    KeepsR r0 (execIcSourceAssert id on s) := by
  unfold execIcSourceAssert
  try dsimp only
  repeat' first
    | with_reducible first
        | assumption | apply keepsR_known | apply keepsR_doIf | apply keeps_modIc | apply keeps_icSettle
    | split | intro _ | with_reducible refine keeps_mk ?_ rfl rfl rfl rfl

theorem keeps_execIcClaim {r0 s : State} (proc : Nat) (h_s : Keeps r0 s) :
    KeepsR r0 (execIcClaim proc s) := by
  unfold execIcClaim
  try dsimp only
  repeat' first
    | with_reducible first
        | assumption | apply keepsR_known | apply keepsR_doIf | apply keeps_emit | apply keeps_modIc | apply keeps_modProc
        | apply keeps_icNotify
    | split | intro _ | with_reducible refine keeps_mk ?_ rfl rfl rfl rfl

theorem keeps_execIcComplete {r0 s : State} (proc id : Nat) (h_s : Keeps r0 s) :
    KeepsR r0 (execIcComplete proc id s) := by
  unfold execIcComplete
  try dsimp only
  repeat' first
    | with_reducible first
        | assumption | apply keepsR_known | apply keepsR_doIf | apply keeps_modIc | apply keeps_modProc
        | apply keeps_raiseFault | apply keeps_icSettle
    | split | intro _ | with_reducible refine keeps_mk ?_ rfl rfl rfl rfl

theorem keeps_execIcSrcEnable {r0 s : State} (id : Nat) (val : W32) (h_s : Keeps r0 s) :
    KeepsR r0 (execIcSrcEnable id val s) := by
  unfold execIcSrcEnable
  try dsimp only
  repeat' first
    | with_reducible first
        | assumption | apply keepsR_known | apply keepsR_doIf | apply keeps_modIc | apply keeps_icSettle
    | split | intro _ | with_reducible refine keeps_mk ?_ rfl rfl rfl rfl

theorem keeps_execIntStormPoll {r0 s : State} (id : Nat) (h_s : Keeps r0 s) :
    KeepsR r0 (execIntStormPoll id s) := by
  unfold execIntStormPoll
  try dsimp only
  repeat' first
    | with_reducible first
        | assumption | apply keepsR_known | apply keepsR_doIf | apply keeps_modIc | apply keeps_icSettle
    | split | intro _ | with_reducible refine keeps_mk ?_ rfl rfl rfl rfl

/-! ### LinkRows.lean -/

theorem keeps_pcieOnly {r0 s : State} (h_s : Keeps r0 s) :
    Keeps r0 (pcieOnly s) := by
  unfold pcieOnly
  repeat' first
    | with_reducible first
        | assumption
    | split | intro _ | with_reducible refine keeps_mk ?_ rfl rfl rfl rfl

theorem keeps_execLinkTraining {r0 s : State} (tr : TrainIo) (h_s : Keeps r0 s) :
    KeepsR r0 (execLinkTraining tr s) := by
  unfold execLinkTraining
  try dsimp only
  repeat' first
    | with_reducible first
        | assumption | apply keepsR_doIf | apply keeps_pcieOnly
    | split | intro _ | with_reducible refine keeps_mk ?_ rfl rfl rfl rfl

theorem keeps_resetFunction {r0 s : State} (h_s : Keeps r0 s) :
    Keeps r0 (resetFunction s) := by
  unfold resetFunction
  repeat' first
    | with_reducible first
        | assumption
    | split | intro _ | with_reducible refine keeps_mk ?_ rfl rfl rfl rfl

theorem keeps_endSessions {r0 s : State} (keys : Bool) (h_s : Keeps r0 s) :
    Keeps r0 (endSessions s keys) := by
  unfold endSessions
  try dsimp only
  repeat' first
    | with_reducible first
        | assumption
    | split | intro _ | with_reducible refine keeps_mk ?_ rfl rfl rfl rfl

theorem keeps_dropHdm {r0 s : State} (h : Keeps r0 s) : Keeps r0 (dropHdm s) := by
  unfold dropHdm
  split
  · exact h.updMem rfl rfl rfl (fun w => w)
  · exact h.updMem rfl rfl rfl (fun _ => rfl)

theorem keeps_execFlr {r0 s : State} (h_s : Keeps r0 s) :
    KeepsR r0 (execFlr s) := by
  unfold execFlr
  try dsimp only
  repeat' first
    | with_reducible first
        | assumption | apply keepsR_doIf | apply keeps_hostResetAll | apply keeps_resetFunction | apply keeps_endSessions
    | split | intro _

theorem keeps_execCxlReset {r0 s : State} (h_s : Keeps r0 s) :
    KeepsR r0 (execCxlReset s) := by
  unfold execCxlReset
  try dsimp only
  repeat' first
    | with_reducible first
        | assumption | apply keepsR_doIf | apply keeps_hostResetAll | apply keeps_endSessions | apply keeps_dropHdm
    | split | intro _

theorem keeps_hotResetState {r0 s : State} (h_s : Keeps r0 s) :
    Keeps r0 (hotResetState s) := by
  unfold hotResetState
  try dsimp only
  repeat' first
    | with_reducible first
        | assumption | apply keeps_hostResetAll | apply keeps_resetFunction | apply keeps_endSessions | apply keeps_dropHdm
    | split | intro _ | with_reducible refine keeps_mk ?_ rfl rfl rfl rfl

theorem keeps_execHotReset {r0 s : State} (h_s : Keeps r0 s) :
    KeepsR r0 (execHotReset s) := by
  unfold execHotReset
  try dsimp only
  repeat' first
    | with_reducible first
        | assumption | apply keepsR_doIf | apply keeps_hotResetState
    | split | intro _

theorem keeps_execPerst {r0 s : State} (h_s : Keeps r0 s) :
    KeepsR r0 (execPerst s) := by
  unfold execPerst
  try dsimp only
  repeat' first
    | with_reducible first
        | assumption | apply keepsR_doIf | apply keeps_hotResetState
    | split | intro _

theorem keeps_execLinkLoss {r0 s : State} (h_s : Keeps r0 s) :
    KeepsR r0 (execLinkLoss s) := by
  unfold execLinkLoss
  try dsimp only
  repeat' first
    | with_reducible first
        | assumption | apply keepsR_doIf | apply keeps_hotResetState
    | split | intro _

theorem keeps_execD3hot {r0 s : State} (on : Bool) (h_s : Keeps r0 s) :
    KeepsR r0 (execD3hot on s) := by
  unfold execD3hot
  try dsimp only
  repeat' first
    | with_reducible first
        | assumption | apply keepsR_doIf
    | split | intro _ | with_reducible refine keeps_mk ?_ rfl rfl rfl rfl

theorem keeps_execHdmDecoderCommit {r0 s : State} (r : DecoderSet) (h_s : Keeps r0 s) :
    KeepsR r0 (execHdmDecoderCommit r s) := by
  unfold execHdmDecoderCommit
  try dsimp only
  repeat' first
    | with_reducible first
        | assumption | apply keepsR_doIf
    | split | intro _ | with_reducible refine keeps_mk ?_ rfl rfl rfl rfl

theorem keeps_toHostBias {r0 s : State} (page : Nat) (h_s : Keeps r0 s) :
    Keeps r0 (toHostBias s page) := by
  unfold toHostBias
  repeat' first
    | with_reducible first
        | assumption
    | split | intro _ | with_reducible refine keeps_mk ?_ rfl rfl rfl rfl

theorem keeps_badLine {r0 s : State} (off : Nat) (h_s : Keeps r0 s) :
    Keeps r0 (badLine s off) := by
  unfold badLine
  try dsimp only
  repeat' first
    | with_reducible first
        | assumption | apply keeps_raiseFault
    | split | intro _

theorem keeps_execHdmAccess {r0 s : State} (addr : Nat) (wr : Option (List Byte)) (h : Keeps r0 s) :
    KeepsR r0 (execHdmAccess addr wr s) := by
  unfold execHdmAccess
  extract_lets off inWin line t gone res
  have ht : Keeps r0 t := keeps_toHostBias _ h
  have hr : Keeps r0 res := by
    unfold res
    split
    · split
      · exact keeps_emit _ ht
      · exact ht
    · generalize apertureOf s off = o
      cases wr <;> cases o <;> dsimp only
      · exact keeps_emit _ h
      · split
        · exact keeps_emit _ ht
        · split
          · exact keeps_emit _ (keeps_badLine _ ht)
          · exact keeps_emit _ ht
      · exact h
      · split
        · exact ht
        · exact keeps_hdmWrite _ _ ht
  exact keepsR_doIf h hr _

theorem keeps_execAtsInvalidate {r0 s : State} (inv : AtsInv) (h_s : Keeps r0 s) :
    KeepsR r0 (execAtsInvalidate inv s) := by
  unfold execAtsInvalidate
  try dsimp only
  repeat' first
    | with_reducible first
        | assumption | apply keepsR_doIf
    | split | intro _ | with_reducible refine keeps_mk ?_ rfl rfl rfl rfl

theorem keeps_execAtsInvalidateComplete {r0 s : State} (tag : Nat) (h_s : Keeps r0 s) :
    KeepsR r0 (execAtsInvalidateComplete tag s) := by
  unfold execAtsInvalidateComplete
  try dsimp only
  repeat' first
    | with_reducible first
        | assumption | apply keepsR_next | apply keepsR_doIf | apply keeps_emit
    | split | intro _ | with_reducible refine keeps_mk ?_ rfl rfl rfl rfl

theorem keeps_execDoeRequest {r0 s : State} (proto : Nat) (body : List Byte) (h_s : Keeps r0 s) :
    KeepsR r0 (execDoeRequest proto body s) := by
  unfold execDoeRequest
  try dsimp only
  repeat' first
    | with_reducible first
        | assumption | apply keepsR_doIf | apply keeps_emit
    | split | intro _

theorem keeps_spdmError {r0 s : State} (code : Nat) (h_s : Keeps r0 s) :
    Keeps r0 (spdmError s code) := by
  unfold spdmError
  repeat' first
    | with_reducible first
        | assumption | apply keeps_emit
    | split | intro _

theorem keeps_execSpdmRequest {r0 s : State} (code : Nat) (body : List Byte) (h_s : Keeps r0 s) :
    KeepsR r0 (execSpdmRequest code body s) := by
  unfold execSpdmRequest
  try dsimp only
  repeat' first
    | with_reducible first
        | assumption | apply keepsR_doIf | apply keeps_emit | apply keeps_spdmError
    | split | intro _ | with_reducible refine keeps_mk ?_ rfl rfl rfl rfl

theorem keeps_execGetCertificate {r0 s : State} (slotId off len : Nat) (h_s : Keeps r0 s) :
    KeepsR r0 (execGetCertificate slotId off len s) := by
  unfold execGetCertificate
  try dsimp only
  repeat' first
    | with_reducible first
        | assumption | apply keepsR_doIf | apply keeps_emit | apply keeps_spdmError
    | split | intro _

theorem keeps_execGetMeasurements {r0 s : State} (index : Nat) (h_s : Keeps r0 s) :
    KeepsR r0 (execGetMeasurements index s) := by
  unfold execGetMeasurements
  try dsimp only
  repeat' first
    | with_reducible first
        | assumption | apply keepsR_doIf | apply keeps_emit | apply keeps_spdmError
    | split | intro _

theorem keeps_modIde {r0 s : State} (n : Nat) (f : IdeStream → IdeStream) (h_s : Keeps r0 s) :
    Keeps r0 (modIde s n f) := by
  unfold modIde
  repeat' first
    | with_reducible first
        | assumption
    | split | intro _ | with_reducible refine keeps_mk ?_ rfl rfl rfl rfl

theorem keeps_execIdeKm {r0 s : State} (stream dir : Nat) (h_s : Keeps r0 s) :
    KeepsR r0 (execIdeKm stream dir s) := by
  unfold execIdeKm
  try dsimp only
  repeat' first
    | with_reducible first
        | assumption | apply keepsR_known | apply keepsR_doIf | apply keeps_emit | apply keeps_modIde
    | split | intro _ | with_reducible refine keeps_mk ?_ rfl rfl rfl rfl

theorem keeps_execKSetGo {r0 s : State} (stream dir : Nat) (h_s : Keeps r0 s) :
    KeepsR r0 (execKSetGo stream dir s) := by
  unfold execKSetGo
  try dsimp only
  repeat' first
    | with_reducible first
        | assumption | apply keepsR_known | apply keepsR_doIf | apply keeps_emit | apply keeps_modIde
    | split | intro _ | with_reducible refine keeps_mk ?_ rfl rfl rfl rfl

theorem keeps_execIdeStreamSecure {r0 s : State} (stream : Nat) (h_s : Keeps r0 s) :
    KeepsR r0 (execIdeStreamSecure stream s) := by
  unfold execIdeStreamSecure
  try dsimp only
  repeat' first
    | with_reducible first
        | assumption | apply keepsR_known | apply keepsR_doIf | apply keeps_modIde
    | split | intro _ | with_reducible refine keeps_mk ?_ rfl rfl rfl rfl

theorem keeps_execSetEndpointId {r0 s : State} (eid : Byte) (h_s : Keeps r0 s) :
    KeepsR r0 (execSetEndpointId eid s) := by
  unfold execSetEndpointId
  try dsimp only
  repeat' first
    | with_reducible first
        | assumption | apply keepsR_doIf | apply keeps_emit
    | split | intro _ | with_reducible refine keeps_mk ?_ rfl rfl rfl rfl

theorem keeps_execGetEndpointId {r0 s : State} (h_s : Keeps r0 s) :
    KeepsR r0 (execGetEndpointId s) := by
  unfold execGetEndpointId
  try dsimp only
  repeat' first
    | with_reducible first
        | assumption | apply keepsR_doIf | apply keeps_emit
    | split | intro _

theorem keeps_execGetMctpVersionSupport {r0 s : State} (h_s : Keeps r0 s) :
    KeepsR r0 (execGetMctpVersionSupport s) := by
  unfold execGetMctpVersionSupport
  try dsimp only
  repeat' first
    | with_reducible first
        | assumption | apply keepsR_doIf | apply keeps_emit
    | split | intro _

theorem keeps_execGetMessageTypeSupport {r0 s : State} (h_s : Keeps r0 s) :
    KeepsR r0 (execGetMessageTypeSupport s) := by
  unfold execGetMessageTypeSupport
  try dsimp only
  repeat' first
    | with_reducible first
        | assumption | apply keepsR_doIf | apply keeps_emit
    | split | intro _

theorem keeps_execGetVendorDefinedMessageSupport {r0 s : State} (h_s : Keeps r0 s) :
    KeepsR r0 (execGetVendorDefinedMessageSupport s) := by
  unfold execGetVendorDefinedMessageSupport
  try dsimp only
  repeat' first
    | with_reducible first
        | assumption | apply keepsR_doIf | apply keeps_emit
    | split | intro _

theorem keeps_execGetHealthTemp {r0 s : State} (h_s : Keeps r0 s) :
    KeepsR r0 (execGetHealthTemp s) := by
  unfold execGetHealthTemp
  try dsimp only
  repeat' first
    | with_reducible first
        | assumption | apply keepsR_doIf | apply keeps_emit
    | split | intro _

theorem keeps_execGetHealthMode {r0 s : State} (h_s : Keeps r0 s) :
    KeepsR r0 (execGetHealthMode s) := by
  unfold execGetHealthMode
  try dsimp only
  repeat' first
    | with_reducible first
        | assumption | apply keepsR_doIf | apply keeps_emit
    | split | intro _

theorem keeps_execGetFaultSummary {r0 s : State} (h_s : Keeps r0 s) :
    KeepsR r0 (execGetFaultSummary s) := by
  unfold execGetFaultSummary
  try dsimp only
  repeat' first
    | with_reducible first
        | assumption | apply keepsR_doIf | apply keeps_emit
    | split | intro _ | with_reducible refine keeps_mk ?_ rfl rfl rfl rfl

theorem keeps_execSidebandUnsupported {r0 s : State} (cmd : Byte) (h_s : Keeps r0 s) :
    KeepsR r0 (execSidebandUnsupported cmd s) := by
  unfold execSidebandUnsupported
  try dsimp only
  repeat' first
    | with_reducible first
        | assumption | apply keepsR_doIf | apply keeps_emit
    | split | intro _

theorem keeps_report {r0 s : State} (i : Nat) (v : Int) (h_s : Keeps r0 s) :
    Keeps r0 (report s i v) := by
  unfold report
  repeat' first
    | with_reducible first
        | assumption
    | split | intro _ | with_reducible refine keeps_mk ?_ rfl rfl rfl rfl

theorem keeps_execTemperatureWarning {r0 s : State} (sensor : Nat) (temp : Int) (h_s : Keeps r0 s) :
    KeepsR r0 (execTemperatureWarning sensor temp s) := by
  unfold execTemperatureWarning
  try dsimp only
  repeat' first
    | with_reducible first
        | assumption | apply keepsR_known | apply keepsR_doIf | apply keeps_smbAlert | apply keeps_logEvent
        | apply keeps_report
    | split | intro _ | with_reducible refine keeps_mk ?_ rfl rfl rfl rfl

theorem keeps_execTemperatureCritical {r0 s : State} (sensor : Nat) (temp : Int) (h_s : Keeps r0 s) :
    KeepsR r0 (execTemperatureCritical sensor temp s) := by
  unfold execTemperatureCritical
  try dsimp only
  repeat' first
    | with_reducible first
        | assumption | apply keepsR_known | apply keepsR_doIf | apply keeps_logEvent | apply keeps_report
    | split | intro _ | with_reducible refine keeps_mk ?_ rfl rfl rfl rfl

theorem keeps_execTemperatureNormal {r0 s : State} (sensor : Nat) (temp : Int) (h_s : Keeps r0 s) :
    KeepsR r0 (execTemperatureNormal sensor temp s) := by
  unfold execTemperatureNormal
  try dsimp only
  repeat' first
    | with_reducible first
        | assumption | apply keepsR_known | apply keepsR_doIf | apply keeps_report
    | split | intro _ | with_reducible refine keeps_mk ?_ rfl rfl rfl rfl

theorem keeps_execHbmHot {r0 s : State} (rgn : Nat) (temp : Int) (h_s : Keeps r0 s) :
    KeepsR r0 (execHbmHot rgn temp s) := by
  unfold execHbmHot
  try dsimp only
  repeat' first
    | with_reducible first
        | assumption | apply keepsR_known | apply keepsR_doIf | apply keeps_report
    | split | intro _ | with_reducible refine keeps_mk ?_ rfl rfl rfl rfl

end Sys2Proof.Laws
end

