-- ==== Sys2Proof/Laws/PerInstr.lean ====
section
/-! SUPPORT. The per-command family Form: a command that is not well formed, since it names a unit that does not exist, is stopped by
name in every state. One lemma per constructor. -/

namespace Sys2Proof.Laws

open Sys2Proof Machine

/-- A command that is not well formed answers the fault noSuchUnit. -/
def Form.Statement (i : Instr) : Prop := i.wf = false → ∀ s : State, exec i s = .fault .noSuchUnit

theorem known_false {p : Bool} (h : p = false) (r : Res) : known p r = .fault .noSuchUnit := by simp [known, h]

theorem runRow_unknown {n : Nat} (h : decide (n < 128) = false) (op : Nat) (f : CellCtx → MicroWord → Cell → WordEnd) (s : State) :
    runRow op f n s = .fault .noSuchUnit := known_false h _

theorem unitKnown_of_number (u : Nat) (h : unitNumber u = false) : unitKnown u = false := by
  unfold unitNumber at h
  unfold unitKnown unitBit
  simp only [Bool.or_eq_false_iff, Bool.and_eq_false_iff, decide_eq_false_iff_not, beq_eq_false_iff_ne] at h
  repeat' split
  all_goals simp
  all_goals omega

theorem Form.powerOnReset (w : WriteIo) : Form.Statement (.powerOnReset w) := fun h => by cases h

theorem Form.porRelease : Form.Statement (.porRelease) := fun h => by cases h

theorem Form.resetAssert : Form.Statement (.resetAssert) := fun h => by cases h

theorem Form.resetTakeEffect : Form.Statement (.resetTakeEffect) := fun h => by cases h

theorem Form.supplyWarning (rail : Nat) : Form.Statement (.supplyWarning rail) := fun h _ => known_false h _

theorem Form.supplyWarningTimeout : Form.Statement (.supplyWarningTimeout) := fun h => by cases h

theorem Form.sysClkLost : Form.Statement (.sysClkLost) := fun h => by cases h

theorem Form.rootSupplySwitch (aux : Bool) : Form.Statement (.rootSupplySwitch aux) := fun h => by cases h

theorem Form.bootEnd (io : AssayIo) : Form.Statement (.bootEnd io) := fun h => by cases h

theorem Form.assayEnd (io : AssayIo) : Form.Statement (.assayEnd io) := fun h => by cases h

theorem Form.heartbeatTick : Form.Statement (.heartbeatTick) := fun h => by cases h

theorem Form.linkTraining (tr : TrainIo) : Form.Statement (.linkTraining tr) := fun h => by cases h

theorem Form.perst : Form.Statement (.perst) := fun h => by cases h

theorem Form.flr : Form.Statement (.flr) := fun h => by cases h

theorem Form.cxlReset : Form.Statement (.cxlReset) := fun h => by cases h

theorem Form.hotReset : Form.Statement (.hotReset) := fun h => by cases h

theorem Form.linkLoss : Form.Statement (.linkLoss) := fun h => by cases h

theorem Form.gpfRequest : Form.Statement (.gpfRequest) := fun h => by cases h

theorem Form.hdmDecoderCommit (base : DecoderSet) : Form.Statement (.hdmDecoderCommit base) := fun h => by cases h

theorem Form.hdmAccess (addr : Nat) (wr : Option (List Byte)) : Form.Statement (.hdmAccess addr wr) := fun h => by cases h

theorem Form.atsInvalidate (inv : AtsInv) : Form.Statement (.atsInvalidate inv) := fun h => by cases h

theorem Form.atsInvalidateComplete (tag : Nat) : Form.Statement (.atsInvalidateComplete tag) := fun h => by cases h

theorem Form.doeRequest (proto : Nat) (body : List Byte) : Form.Statement (.doeRequest proto body) := fun h => by cases h

theorem Form.spdmRequest (code : Nat) (body : List Byte) : Form.Statement (.spdmRequest code body) := fun h => by cases h

theorem Form.getCertificate (slotId : Nat) (off : Nat) (len : Nat) : Form.Statement (.getCertificate slotId off len) := fun h => by cases h

theorem Form.getMeasurements (index : Nat) : Form.Statement (.getMeasurements index) := fun h => by cases h

theorem Form.ideKm (stream : Nat) (dir : Nat) : Form.Statement (.ideKm stream dir) := fun h _ => known_false h _

theorem Form.kSetGo (stream : Nat) (dir : Nat) : Form.Statement (.kSetGo stream dir) := fun h _ => known_false h _

theorem Form.ideStreamSecure (stream : Nat) : Form.Statement (.ideStreamSecure stream) := fun h _ => known_false h _

theorem Form.setEndpointId (eid : Byte) : Form.Statement (.setEndpointId eid) := fun h => by cases h

theorem Form.getEndpointId : Form.Statement (.getEndpointId) := fun h => by cases h

theorem Form.getMctpVersionSupport : Form.Statement (.getMctpVersionSupport) := fun h => by cases h

theorem Form.getMessageTypeSupport : Form.Statement (.getMessageTypeSupport) := fun h => by cases h

theorem Form.getVendorDefinedMessageSupport : Form.Statement (.getVendorDefinedMessageSupport) := fun h => by cases h

theorem Form.getHealthTemp : Form.Statement (.getHealthTemp) := fun h => by cases h

theorem Form.getHealthMode : Form.Statement (.getHealthMode) := fun h => by cases h

theorem Form.getFaultSummary : Form.Statement (.getFaultSummary) := fun h => by cases h

theorem Form.sidebandUnsupported (cmd : Byte) : Form.Statement (.sidebandUnsupported cmd) := fun h => by cases h

theorem Form.bar0BadAccess (wr : Bool) (addr : Nat) (size : Nat) : Form.Statement (.bar0BadAccess wr addr size) := fun h => by cases h

theorem Form.bar0LowHalfRead (addr : HostRead) : Form.Statement (.bar0LowHalfRead addr) := fun h => by cases h

theorem Form.registerWrite (addr : HostAddr) (size val : Nat) : Form.Statement (.registerWrite addr size val) := fun h => by cases h

theorem Form.sqDoorbell (sl : Nat) (qp : Nat) (tail : Nat) : Form.Statement (.sqDoorbell sl qp tail) := fun h _ => known_false h _

theorem Form.cqHeadWrite (sl : Nat) (qp : Nat) (head : Nat) : Form.Statement (.cqHeadWrite sl qp head) := fun h _ => known_false h _

theorem Form.qpEnable (sl : Nat) (qp : Nat) (cfg : Nat) : Form.Statement (.qpEnable sl qp cfg) := fun h _ => known_false h _

theorem Form.qpDisable (sl : Nat) (qp : Nat) : Form.Statement (.qpDisable sl qp) := fun h _ => known_false h _

theorem Form.qpDisableDone (sl : Nat) (qp : Nat) : Form.Statement (.qpDisableDone sl qp) := fun h _ => known_false h _

theorem Form.slNotifyClear (sl : Nat) (mask : Byte) : Form.Statement (.slNotifyClear sl mask) := fun h _ => known_false h _

theorem Form.descriptorFetch (sl : Nat) (qp : Nat) (f : FetchIo) : Form.Statement (.descriptorFetch sl qp f) := fun h _ => known_false h _

theorem Form.dispatchPick (rgn : Nat) (lc : Nat) : Form.Statement (.dispatchPick rgn lc) := fun h _ => known_false h _

theorem Form.blockAssign (job : Nat) : Form.Statement (.blockAssign job) := fun h => by cases h

theorem Form.cellJobStart (cell : Nat) : Form.Statement (.cellJobStart cell) := fun h _ => known_false h _

theorem Form.jobRelease (job : Nat) (io : JobIo) : Form.Statement (.jobRelease job io) := fun h => by cases h

theorem Form.verifyBeforeReleaseDone (job : Nat) (ok : Bool) (io : JobIo) : Form.Statement (.verifyBeforeReleaseDone job ok io) := fun h => by cases h

theorem Form.dualCompare (job : Nat) (ok : Bool) (io : JobIo) : Form.Statement (.dualCompare job ok io) := fun h => by cases h

theorem Form.unassignedBoundExpire (job : Nat) (io : JobIo) : Form.Statement (.unassignedBoundExpire job io) := fun h => by cases h

theorem Form.jobAbandonTimeout (job : Nat) (io : JobIo) : Form.Statement (.jobAbandonTimeout job io) := fun h => by cases h

theorem Form.drained : Form.Statement (.drained) := fun h => by cases h

theorem Form.quiesceComplete (sl : Nat) : Form.Statement (.quiesceComplete sl) := fun h _ => known_false h _

theorem Form.sliceResetDone (sl : Nat) (io : JobIo) : Form.Statement (.sliceResetDone sl io) := fun h _ => known_false h _

theorem Form.sliceRemoveDone (sl : Nat) (io : JobIo) : Form.Statement (.sliceRemoveDone sl io) := fun h _ => known_false h _

theorem Form.keyScrubAfterJobs (handle : W64) : Form.Statement (.keyScrubAfterJobs handle) := fun h => by cases h

theorem Form.deviceQuery (job : Nat) (io : JobIo) : Form.Statement (.deviceQuery job io) := fun h => by cases h

theorem Form.sliceQuery (job : Nat) (io : JobIo) : Form.Statement (.sliceQuery job io) := fun h => by cases h

theorem Form.sliceCreate (job : Nat) (io : JobIo) : Form.Statement (.sliceCreate job io) := fun h => by cases h

theorem Form.sliceConfigure (job : Nat) (io : JobIo) : Form.Statement (.sliceConfigure job io) := fun h => by cases h

theorem Form.sliceActivate (job : Nat) (io : JobIo) : Form.Statement (.sliceActivate job io) := fun h => by cases h

theorem Form.sliceQuiesce (job : Nat) (io : JobIo) : Form.Statement (.sliceQuiesce job io) := fun h => by cases h

theorem Form.sliceReset (job : Nat) (io : JobIo) : Form.Statement (.sliceReset job io) := fun h => by cases h

theorem Form.sliceRemove (job : Nat) (io : JobIo) : Form.Statement (.sliceRemove job io) := fun h => by cases h

theorem Form.pasidBind (job : Nat) (io : JobIo) : Form.Statement (.pasidBind job io) := fun h => by cases h

theorem Form.pasidUnbind (job : Nat) (io : JobIo) : Form.Statement (.pasidUnbind job io) := fun h => by cases h

theorem Form.hdmWindowSet (job : Nat) (io : JobIo) : Form.Statement (.hdmWindowSet job io) := fun h => by cases h

theorem Form.hdmApertureSet (job : Nat) (io : JobIo) : Form.Statement (.hdmApertureSet job io) := fun h => by cases h

theorem Form.biasSet (job : Nat) (io : JobIo) : Form.Statement (.biasSet job io) := fun h => by cases h

theorem Form.ideRequiredSet (job : Nat) (io : JobIo) : Form.Statement (.ideRequiredSet job io) := fun h => by cases h

theorem Form.ownerCertInstall (job : Nat) (io : JobIo) : Form.Statement (.ownerCertInstall job io) := fun h => by cases h

theorem Form.drainBegin (job : Nat) (io : JobIo) : Form.Statement (.drainBegin job io) := fun h => by cases h

theorem Form.drainCancel (job : Nat) (io : JobIo) : Form.Statement (.drainCancel job io) := fun h => by cases h

theorem Form.maintEnter (job : Nat) (io : JobIo) : Form.Statement (.maintEnter job io) := fun h => by cases h

theorem Form.deviceReset (job : Nat) (io : JobIo) : Form.Statement (.deviceReset job io) := fun h => by cases h

theorem Form.keyGenerate (job : Nat) (io : JobIo) : Form.Statement (.keyGenerate job io) := fun h => by cases h

theorem Form.keyQuery (job : Nat) (io : JobIo) : Form.Statement (.keyQuery job io) := fun h => by cases h

theorem Form.keyPublic (job : Nat) (io : JobIo) : Form.Statement (.keyPublic job io) := fun h => by cases h

theorem Form.keyRetire (job : Nat) (io : JobIo) : Form.Statement (.keyRetire job io) := fun h => by cases h

theorem Form.derive (job : Nat) (io : JobIo) : Form.Statement (.derive job io) := fun h => by cases h

theorem Form.epochHandle (job : Nat) (io : JobIo) : Form.Statement (.epochHandle job io) := fun h => by cases h

theorem Form.peerLoad (job : Nat) (io : JobIo) : Form.Statement (.peerLoad job io) := fun h => by cases h

theorem Form.handleRelease (job : Nat) (io : JobIo) : Form.Statement (.handleRelease job io) := fun h => by cases h

theorem Form.cacheControl (job : Nat) (io : JobIo) : Form.Statement (.cacheControl job io) := fun h => by cases h

theorem Form.transportEstablish (job : Nat) (io : JobIo) : Form.Statement (.transportEstablish job io) := fun h => by cases h

theorem Form.transportAccept (job : Nat) (io : JobIo) : Form.Statement (.transportAccept job io) := fun h => by cases h

theorem Form.keyExport (job : Nat) (io : JobIo) : Form.Statement (.keyExport job io) := fun h => by cases h

theorem Form.keyImport (job : Nat) (io : JobIo) : Form.Statement (.keyImport job io) := fun h => by cases h

theorem Form.kemKeygen (job : Nat) (io : JobIo) : Form.Statement (.kemKeygen job io) := fun h => by cases h

theorem Form.kemEncaps (job : Nat) (io : JobIo) : Form.Statement (.kemEncaps job io) := fun h => by cases h

theorem Form.kemDecaps (job : Nat) (io : JobIo) : Form.Statement (.kemDecaps job io) := fun h => by cases h

theorem Form.dhAgree (job : Nat) (io : JobIo) : Form.Statement (.dhAgree job io) := fun h => by cases h

theorem Form.hybridEncaps (job : Nat) (io : JobIo) : Form.Statement (.hybridEncaps job io) := fun h => by cases h

theorem Form.hybridDecaps (job : Nat) (io : JobIo) : Form.Statement (.hybridDecaps job io) := fun h => by cases h

theorem Form.sigKeygen (job : Nat) (io : JobIo) : Form.Statement (.sigKeygen job io) := fun h => by cases h

theorem Form.sign (job : Nat) (io : JobIo) : Form.Statement (.sign job io) := fun h => by cases h

theorem Form.verify (job : Nat) (io : JobIo) : Form.Statement (.verify job io) := fun h => by cases h

theorem Form.statefulCreate (job : Nat) (io : JobIo) : Form.Statement (.statefulCreate job io) := fun h => by cases h

theorem Form.statefulQuery (job : Nat) (io : JobIo) : Form.Statement (.statefulQuery job io) := fun h => by cases h

theorem Form.treeBuildDone (rid : Nat) (part : Nat) : Form.Statement (.treeBuildDone rid part) := fun h => by cases h

theorem Form.digest (job : Nat) (io : JobIo) : Form.Statement (.digest job io) := fun h => by cases h

theorem Form.macGenerate (job : Nat) (io : JobIo) : Form.Statement (.macGenerate job io) := fun h => by cases h

theorem Form.macVerify (job : Nat) (io : JobIo) : Form.Statement (.macVerify job io) := fun h => by cases h

theorem Form.kdf (job : Nat) (io : JobIo) : Form.Statement (.kdf job io) := fun h => by cases h

theorem Form.getRandom (job : Nat) (io : JobIo) : Form.Statement (.getRandom job io) := fun h => by cases h

theorem Form.setNextSecond (job : Nat) (io : JobIo) : Form.Statement (.setNextSecond job io) := fun h => by cases h

theorem Form.setNextSecondTimeout (io : JobIo) : Form.Statement (.setNextSecondTimeout io) := fun h => by cases h

theorem Form.timeQuery (job : Nat) (io : JobIo) : Form.Statement (.timeQuery job io) := fun h => by cases h

theorem Form.timeConfig (job : Nat) (io : JobIo) : Form.Statement (.timeConfig job io) := fun h => by cases h

theorem Form.eventSchedule (job : Nat) (io : JobIo) : Form.Statement (.eventSchedule job io) := fun h => by cases h

theorem Form.eventCancel (job : Nat) (io : JobIo) : Form.Statement (.eventCancel job io) := fun h => by cases h

theorem Form.eventQuery (job : Nat) (io : JobIo) : Form.Statement (.eventQuery job io) := fun h => by cases h

theorem Form.lanePair (job : Nat) (io : JobIo) : Form.Statement (.lanePair job io) := fun h => by cases h

theorem Form.laneUnpair (job : Nat) (io : JobIo) : Form.Statement (.laneUnpair job io) := fun h => by cases h

theorem Form.laneBind (job : Nat) (io : JobIo) : Form.Statement (.laneBind job io) := fun h => by cases h

theorem Form.laneUnbind (job : Nat) (io : JobIo) : Form.Statement (.laneUnbind job io) := fun h => by cases h

theorem Form.laneQuery (job : Nat) (io : JobIo) : Form.Statement (.laneQuery job io) := fun h => by cases h

theorem Form.lanePrefill (job : Nat) (io : JobIo) : Form.Statement (.lanePrefill job io) := fun h => by cases h

theorem Form.laneLoopback (job : Nat) (io : JobIo) : Form.Statement (.laneLoopback job io) := fun h => by cases h

theorem Form.cardQuery (job : Nat) (io : JobIo) : Form.Statement (.cardQuery job io) := fun h => by cases h

theorem Form.ceremonyBegin (job : Nat) (io : JobIo) : Form.Statement (.ceremonyBegin job io) := fun h => by cases h

theorem Form.ceremonyStep (job : Nat) (io : JobIo) : Form.Statement (.ceremonyStep job io) := fun h => by cases h

theorem Form.ceremonyAbort (job : Nat) (io : JobIo) : Form.Statement (.ceremonyAbort job io) := fun h => by cases h

theorem Form.ceremonyQuery (job : Nat) (io : JobIo) : Form.Statement (.ceremonyQuery job io) := fun h => by cases h

theorem Form.ceremonyTimeout (io : JobIo) : Form.Statement (.ceremonyTimeout io) := fun h => by cases h

theorem Form.microLoad (job : Nat) (io : JobIo) : Form.Statement (.microLoad job io) := fun h => by cases h

theorem Form.microUnload (job : Nat) (io : JobIo) : Form.Statement (.microUnload job io) := fun h => by cases h

theorem Form.microQuery (job : Nat) (io : JobIo) : Form.Statement (.microQuery job io) := fun h => by cases h

theorem Form.customerMacroOp (job : Nat) (io : JobIo) : Form.Statement (.customerMacroOp job io) := fun h => by cases h

theorem Form.wdogConfig (job : Nat) (io : JobIo) : Form.Statement (.wdogConfig job io) := fun h => by cases h

theorem Form.faultConfig (job : Nat) (io : JobIo) : Form.Statement (.faultConfig job io) := fun h => by cases h

theorem Form.faultQuery (job : Nat) (io : JobIo) : Form.Statement (.faultQuery job io) := fun h => by cases h

theorem Form.faultClear (job : Nat) (io : JobIo) : Form.Statement (.faultClear job io) := fun h => by cases h

theorem Form.faultInject (job : Nat) (io : JobIo) : Form.Statement (.faultInject job io) := fun h => by cases h

theorem Form.powerForce (job : Nat) (io : JobIo) : Form.Statement (.powerForce job io) := fun h => by cases h

theorem Form.rngTest (job : Nat) (io : JobIo) : Form.Statement (.rngTest job io) := fun h => by cases h

theorem Form.almanacQuery (job : Nat) (io : JobIo) : Form.Statement (.almanacQuery job io) := fun h => by cases h

theorem Form.logRead (job : Nat) (io : JobIo) : Form.Statement (.logRead job io) := fun h => by cases h

theorem Form.lcAdvance (job : Nat) (io : JobIo) : Form.Statement (.lcAdvance job io) := fun h => by cases h

theorem Form.fwUpdate (job : Nat) (io : JobIo) : Form.Statement (.fwUpdate job io) := fun h => by cases h

theorem Form.nop (cell : Nat) : Form.Statement (.nop cell) := fun h s => runRow_unknown h _ _ s

theorem Form.add (cell : Nat) : Form.Statement (.add cell) := fun h s => runRow_unknown h _ _ s

theorem Form.sub (cell : Nat) : Form.Statement (.sub cell) := fun h s => runRow_unknown h _ _ s

theorem Form.addi (cell : Nat) : Form.Statement (.addi cell) := fun h s => runRow_unknown h _ _ s

theorem Form.andOp (cell : Nat) : Form.Statement (.andOp cell) := fun h s => runRow_unknown h _ _ s

theorem Form.orOp (cell : Nat) : Form.Statement (.orOp cell) := fun h s => runRow_unknown h _ _ s

theorem Form.xor (cell : Nat) : Form.Statement (.xor cell) := fun h s => runRow_unknown h _ _ s

theorem Form.shl (cell : Nat) : Form.Statement (.shl cell) := fun h s => runRow_unknown h _ _ s

theorem Form.shr (cell : Nat) : Form.Statement (.shr cell) := fun h s => runRow_unknown h _ _ s

theorem Form.sar (cell : Nat) : Form.Statement (.sar cell) := fun h s => runRow_unknown h _ _ s

theorem Form.mul (cell : Nat) : Form.Statement (.mul cell) := fun h s => runRow_unknown h _ _ s

theorem Form.mulhu (cell : Nat) : Form.Statement (.mulhu cell) := fun h s => runRow_unknown h _ _ s

theorem Form.lds (cell : Nat) : Form.Statement (.lds cell) := fun h s => runRow_unknown h _ _ s

theorem Form.cmp (cell : Nat) : Form.Statement (.cmp cell) := fun h s => runRow_unknown h _ _ s

theorem Form.ld (cell : Nat) : Form.Statement (.ld cell) := fun h s => runRow_unknown h _ _ s

theorem Form.st (cell : Nat) : Form.Statement (.st cell) := fun h s => runRow_unknown h _ _ s

theorem Form.mfc (cell : Nat) : Form.Statement (.mfc cell) := fun h s => runRow_unknown h _ _ s

theorem Form.mtc (cell : Nat) : Form.Statement (.mtc cell) := fun h s => runRow_unknown h _ _ s

theorem Form.cellMsgRead (cell : Nat) : Form.Statement (.cellMsgRead cell) := fun h _ => known_false h _

theorem Form.call (cell : Nat) : Form.Statement (.call cell) := fun h s => runRow_unknown h _ _ s

theorem Form.ret (cell : Nat) : Form.Statement (.ret cell) := fun h s => runRow_unknown h _ _ s

theorem Form.msg (cell : Nat) : Form.Statement (.msg cell) := fun h s => runRow_unknown h _ _ s

theorem Form.pwait (cell : Nat) (core : Option Nat) : Form.Statement (.pwait cell core) := fun h _ => known_false h _

theorem Form.dmain (cell : Nat) : Form.Statement (.dmain cell) := fun h s => runRow_unknown h _ _ s

theorem Form.dmaout (cell : Nat) : Form.Statement (.dmaout cell) := fun h s => runRow_unknown h _ _ s

theorem Form.loadkey (cell : Nat) : Form.Statement (.loadkey cell) := fun h s => runRow_unknown h _ _ s

theorem Form.bnereq (cell : Nat) : Form.Statement (.bnereq cell) := fun h _ => known_false h _

theorem Form.schk (cell : Nat) : Form.Statement (.schk cell) := fun h s => runRow_unknown h _ _ s

theorem Form.hinit (cell : Nat) : Form.Statement (.hinit cell) := fun h s => runRow_unknown h _ _ s

theorem Form.habs (cell : Nat) : Form.Statement (.habs cell) := fun h s => runRow_unknown h _ _ s

theorem Form.hsqz (cell : Nat) : Form.Statement (.hsqz cell) := fun h s => runRow_unknown h _ _ s

theorem Form.gadget (cell : Nat) : Form.Statement (.gadget cell) := fun h s => runRow_unknown h _ _ s

theorem Form.unmask (cell : Nat) : Form.Statement (.unmask cell) := fun h s => runRow_unknown h _ _ s

theorem Form.ntt (cell : Nat) : Form.Statement (.ntt cell) := fun h s => runRow_unknown h _ _ s

theorem Form.intt (cell : Nat) : Form.Statement (.intt cell) := fun h s => runRow_unknown h _ _ s

theorem Form.pmul (cell : Nat) : Form.Statement (.pmul cell) := fun h s => runRow_unknown h _ _ s

theorem Form.pmac (cell : Nat) : Form.Statement (.pmac cell) := fun h s => runRow_unknown h _ _ s

theorem Form.padd (cell : Nat) : Form.Statement (.padd cell) := fun h s => runRow_unknown h _ _ s

theorem Form.psub (cell : Nat) : Form.Statement (.psub cell) := fun h s => runRow_unknown h _ _ s

theorem Form.vld (cell : Nat) : Form.Statement (.vld cell) := fun h s => runRow_unknown h _ _ s

theorem Form.vst (cell : Nat) : Form.Statement (.vst cell) := fun h s => runRow_unknown h _ _ s

theorem Form.vbcast (cell : Nat) : Form.Statement (.vbcast cell) := fun h s => runRow_unknown h _ _ s

theorem Form.vext (cell : Nat) : Form.Statement (.vext cell) := fun h s => runRow_unknown h _ _ s

theorem Form.vadd (cell : Nat) : Form.Statement (.vadd cell) := fun h s => runRow_unknown h _ _ s

theorem Form.vsub (cell : Nat) : Form.Statement (.vsub cell) := fun h s => runRow_unknown h _ _ s

theorem Form.vaddm (cell : Nat) : Form.Statement (.vaddm cell) := fun h s => runRow_unknown h _ _ s

theorem Form.vsubm (cell : Nat) : Form.Statement (.vsubm cell) := fun h s => runRow_unknown h _ _ s

theorem Form.vadds (cell : Nat) : Form.Statement (.vadds cell) := fun h s => runRow_unknown h _ _ s

theorem Form.vsubs (cell : Nat) : Form.Statement (.vsubs cell) := fun h s => runRow_unknown h _ _ s

theorem Form.vmul (cell : Nat) : Form.Statement (.vmul cell) := fun h s => runRow_unknown h _ _ s

theorem Form.vmulhr (cell : Nat) : Form.Statement (.vmulhr cell) := fun h s => runRow_unknown h _ _ s

theorem Form.vrshr (cell : Nat) : Form.Statement (.vrshr cell) := fun h s => runRow_unknown h _ _ s

theorem Form.vsh (cell : Nat) : Form.Statement (.vsh cell) := fun h s => runRow_unknown h _ _ s

theorem Form.vand (cell : Nat) : Form.Statement (.vand cell) := fun h s => runRow_unknown h _ _ s

theorem Form.vor (cell : Nat) : Form.Statement (.vor cell) := fun h s => runRow_unknown h _ _ s

theorem Form.vxor (cell : Nat) : Form.Statement (.vxor cell) := fun h s => runRow_unknown h _ _ s

theorem Form.vcmp (cell : Nat) : Form.Statement (.vcmp cell) := fun h s => runRow_unknown h _ _ s

theorem Form.vcomp (cell : Nat) : Form.Statement (.vcomp cell) := fun h s => runRow_unknown h _ _ s

theorem Form.vdecomp (cell : Nat) : Form.Statement (.vdecomp cell) := fun h s => runRow_unknown h _ _ s

theorem Form.vperm (cell : Nat) : Form.Statement (.vperm cell) := fun h s => runRow_unknown h _ _ s

theorem Form.vgath (cell : Nat) : Form.Statement (.vgath cell) := fun h s => runRow_unknown h _ _ s

theorem Form.vscat (cell : Nat) : Form.Statement (.vscat cell) := fun h s => runRow_unknown h _ _ s

theorem Form.dmaTransferDone (cell : Nat) (io : JobIo) : Form.Statement (.dmaTransferDone cell io) := fun h _ => known_false h _

theorem Form.hashOpDone (cell : Nat) : Form.Statement (.hashOpDone cell) := fun h _ => known_false h _

theorem Form.schkDone (cell : Nat) (ok : Bool) : Form.Statement (.schkDone cell ok) := fun h _ => known_false h _

theorem Form.waitConditionMet (cell : Nat) : Form.Statement (.waitConditionMet cell) := fun h _ => known_false h _

theorem Form.waitTimeout (cell : Nat) : Form.Statement (.waitTimeout cell) := fun h _ => known_false h _

theorem Form.cellTimerExpire (cell : Nat) : Form.Statement (.cellTimerExpire cell) := fun h _ => known_false h _

theorem Form.joblim (cell : Nat) : Form.Statement (.joblim cell) := fun h _ => known_false h _

theorem Form.cellJobAbort (cell : Nat) : Form.Statement (.cellJobAbort cell) := fun h _ => known_false h _

theorem Form.maskReseed (cell : Nat) : Form.Statement (.maskReseed cell) := fun h _ => known_false h _

theorem Form.getParams (cell : Nat) : Form.Statement (.getParams cell) := fun h _ => known_false h _

theorem Form.setResult (cell : Nat) : Form.Statement (.setResult cell) := fun h _ => known_false h _

theorem Form.putKey (cell : Nat) : Form.Statement (.putKey cell) := fun h _ => known_false h _

theorem Form.random (cell : Nat) : Form.Statement (.random cell) := fun h _ => known_false h _

theorem Form.bneRequestStart (blk : Nat) : Form.Statement (.bneRequestStart blk) := fun h _ => known_false h _

theorem Form.bnePublic (blk : Nat) : Form.Statement (.bnePublic blk) := fun h _ => known_false h _

theorem Form.agree (blk : Nat) : Form.Statement (.agree blk) := fun h _ => known_false h _

theorem Form.ephemeralAgree (blk : Nat) : Form.Statement (.ephemeralAgree blk) := fun h _ => known_false h _

theorem Form.ecdsaSign (blk : Nat) : Form.Statement (.ecdsaSign blk) := fun h _ => known_false h _

theorem Form.ecdsaVerify (blk : Nat) : Form.Statement (.ecdsaVerify blk) := fun h _ => known_false h _

theorem Form.eddsaSign (blk : Nat) : Form.Statement (.eddsaSign blk) := fun h _ => known_false h _

theorem Form.eddsaVerify (blk : Nat) : Form.Statement (.eddsaVerify blk) := fun h _ => known_false h _

theorem Form.rsaSign (blk : Nat) : Form.Statement (.rsaSign blk) := fun h _ => known_false h _

theorem Form.rsaVerify (blk : Nat) : Form.Statement (.rsaVerify blk) := fun h _ => known_false h _

theorem Form.rsaKeygen (blk : Nat) : Form.Statement (.rsaKeygen blk) := fun h _ => known_false h _

theorem Form.rsaRebuild (blk : Nat) : Form.Statement (.rsaRebuild blk) := fun h _ => known_false h _

theorem Form.validate (blk : Nat) : Form.Statement (.validate blk) := fun h _ => known_false h _

theorem Form.scalarCheck (blk : Nat) : Form.Statement (.scalarCheck blk) := fun h _ => known_false h _

theorem Form.bneRequestDone (blk : Nat) (io : JobIo) : Form.Statement (.bneRequestDone blk io) := fun h _ => known_false h _

theorem Form.bneSegmentEnd (blk : Nat) : Form.Statement (.bneSegmentEnd blk) := fun h _ => known_false h _

theorem Form.deContextGrant (blk : Nat) : Form.Statement (.deContextGrant blk) := fun h _ => known_false h _

theorem Form.deBlockDone (blk : Nat) (more : Bool) : Form.Statement (.deBlockDone blk more) := fun h _ => known_false h _

theorem Form.deStarvationExpire (blk : Nat) : Form.Statement (.deStarvationExpire blk) := fun h _ => known_false h _

theorem Form.ledgerCommit (rid : Nat) (rb : List Bool) (io : JobIo) : Form.Statement (.ledgerCommit rid rb io) := fun h => by cases h

theorem Form.slotWriteCommit (job : Nat) (ok : Bool) : Form.Statement (.slotWriteCommit job ok) := fun h => by cases h

theorem Form.slotZeroing (idx : Nat) (ok : Bool) : Form.Statement (.slotZeroing idx ok) := fun h _ => known_false h _

theorem Form.progressPageWrite (ok : Bool) : Form.Statement (.progressPageWrite ok) := fun h => by cases h

theorem Form.almanacScrub (pairs : List Nat) (slots : List Nat) : Form.Statement (.almanacScrub pairs slots) := fun h => by cases h

theorem Form.ppsEdge (io : JobIo) : Form.Statement (.ppsEdge io) := fun h => by cases h

theorem Form.ppsWindowClose : Form.Statement (.ppsWindowClose) := fun h => by cases h

theorem Form.ppsRunEnd : Form.Statement (.ppsRunEnd) := fun h => by cases h

theorem Form.slewEnd : Form.Statement (.slewEnd) := fun h => by cases h

theorem Form.holdoverExpired : Form.Statement (.holdoverExpired) := fun h => by cases h

theorem Form.trefQualified (code : Nat) : Form.Statement (.trefQualified code) := fun h => by cases h

theorem Form.trefLost : Form.Statement (.trefLost) := fun h => by cases h

theorem Form.tppsOutSecond : Form.Statement (.tppsOutSecond) := fun h => by cases h

theorem Form.tppsOutFall : Form.Statement (.tppsOutFall) := fun h => by cases h

theorem Form.eventPrepare (ev : Nat) : Form.Statement (.eventPrepare ev) := fun h _ => known_false h _

theorem Form.eventFire (tests : List Bool) : Form.Statement (.eventFire tests) := fun h => by cases h

theorem Form.eventCatchUp (tests : List Bool) : Form.Statement (.eventCatchUp tests) := fun h => by cases h

theorem Form.eventIndexFree (ev : Nat) : Form.Statement (.eventIndexFree ev) := fun h _ => known_false h _

theorem Form.keyCur (port : Nat) (frame : List Byte) : Form.Statement (.keyCur port frame) := fun h _ => known_false h _

theorem Form.keyNext (port : Nat) (frame : List Byte) : Form.Statement (.keyNext port frame) := fun h _ => known_false h _

theorem Form.keyPrev (port : Nat) (frame : List Byte) : Form.Statement (.keyPrev port frame) := fun h _ => known_false h _

theorem Form.ping (port : Nat) (frame : List Byte) : Form.Statement (.ping port frame) := fun h _ => known_false h _

theorem Form.klMissDone (port : Nat) : Form.Statement (.klMissDone port) := fun h _ => known_false h _

theorem Form.klResponseSend (port : Nat) : Form.Statement (.klResponseSend port) := fun h _ => known_false h _

theorem Form.klRekey (port : Nat) : Form.Statement (.klRekey port) := fun h _ => known_false h _

theorem Form.klRxLinkLoss (port : Nat) : Form.Statement (.klRxLinkLoss port) := fun h _ => known_false h _

theorem Form.cardDetectRise (cs : Nat) : Form.Statement (.cardDetectRise cs) := fun h _ => known_false h _

theorem Form.cardDebouncedInsert (cs : Nat) (wp : Bool) : Form.Statement (.cardDebouncedInsert cs wp) := fun h _ => known_false h _

theorem Form.cardIdentify (cs : Nat) (ans : List (List Byte)) : Form.Statement (.cardIdentify cs ans) := fun h _ => known_false h _

theorem Form.cardResponse (cs : Nat) (bytes : List Byte) (wp : Bool) : Form.Statement (.cardResponse cs bytes wp) := fun h _ => known_false h _

theorem Form.cardResponseTimeout (cs : Nat) : Form.Statement (.cardResponseTimeout cs) := fun h _ => known_false h _

theorem Form.cardStatusPoll (cs : Nat) (status : Nat) (wp : Bool) : Form.Statement (.cardStatusPoll cs status wp) := fun h _ => known_false h _

theorem Form.cardBusyTimeout (cs : Nat) : Form.Statement (.cardBusyTimeout cs) := fun h _ => known_false h _

theorem Form.clockMonitorTrip (cell : Nat) (kind : Nat) (w : WriteIo) : Form.Statement (.clockMonitorTrip cell kind w) := fun h _ => known_false h _

theorem Form.loopAlarm (loop : Nat) (kind : Nat) (w : WriteIo) : Form.Statement (.loopAlarm loop kind w) := fun h _ => known_false h _

theorem Form.caseAlarm (sw : Nat) (kind : Nat) (w : WriteIo) : Form.Statement (.caseAlarm sw kind w) := fun h _ => known_false h _

theorem Form.sensorRearm (tsrc : Nat) : Form.Statement (.sensorRearm tsrc) := fun h _ => known_false h _

theorem Form.batteryLoopPulse (opens : List Nat) (shorts : List Nat) : Form.Statement (.batteryLoopPulse opens shorts) := fun h => by cases h

theorem Form.btimeTick : Form.Statement (.btimeTick) := fun h => by cases h

theorem Form.batteryLogCopy : Form.Statement (.batteryLogCopy) := fun h => by cases h

theorem Form.healthTestFailure (rgn : Nat) (kind : Nat) : Form.Statement (.healthTestFailure rgn kind) := fun h _ => known_false h _

theorem Form.rngStartupDone (rgn : Nat) (ok : Bool) : Form.Statement (.rngStartupDone rgn ok) := fun h _ => known_false h _

theorem Form.conditionerBlockReady (rgn : Nat) (raw : BitVec 1024) : Form.Statement (.conditionerBlockReady rgn raw) := fun h _ => known_false h _

theorem Form.drbgAutoReseed (rgn : Nat) : Form.Statement (.drbgAutoReseed rgn) := fun h _ => known_false h _

theorem Form.rngFailureWindowExpire (rgn : Nat) : Form.Statement (.rngFailureWindowExpire rgn) := fun h _ => known_false h _

theorem Form.faultDetect (src : Nat) (unit : Nat) (info : Nat) : Form.Statement (.faultDetect src unit info) :=
  fun h _ => known_false (unitKnown_of_number _ h) _

theorem Form.fenceActed (fu : Nat) : Form.Statement (.fenceActed fu) := fun h _ => known_false h _

theorem Form.quietPeriodEnd (fu : Nat) : Form.Statement (.quietPeriodEnd fu) := fun h _ => known_false h _

theorem Form.recoveryTestDone (fu : Nat) (ok : Bool) : Form.Statement (.recoveryTestDone fu ok) := fun h _ => known_false h _

theorem Form.mgmtTakeover : Form.Statement (.mgmtTakeover) := fun h => by cases h

theorem Form.fatalHalt (io : JobIo) : Form.Statement (.fatalHalt io) := fun h => by cases h

theorem Form.icSourceAssert (id : Nat) (on : Bool) : Form.Statement (.icSourceAssert id on) := fun h _ => known_false h _

theorem Form.icClaim (proc : Nat) : Form.Statement (.icClaim proc) := fun h _ => known_false h _

theorem Form.icComplete (proc : Nat) (id : Nat) : Form.Statement (.icComplete proc id) := fun h _ => known_false h _

theorem Form.icSrcEnable (id : Nat) (val : W32) : Form.Statement (.icSrcEnable id val) := fun h _ => known_false h _

theorem Form.intStormPoll (id : Nat) : Form.Statement (.intStormPoll id) := fun h _ => known_false h _

theorem Form.coreWait (dom : Nat) (target : Nat) : Form.Statement (.coreWait dom target) := fun h _ => known_false h _

theorem Form.pwrCtlEntry (dom : Nat) (target : Nat) : Form.Statement (.pwrCtlEntry dom target) := fun h _ => known_false h _

theorem Form.pwrStatAbortedClear (dom : Nat) : Form.Statement (.pwrStatAbortedClear dom) := fun h _ => known_false h _

theorem Form.domainWake (dom : Nat) (early : Bool) : Form.Statement (.domainWake dom early) := fun h _ => known_false h _

theorem Form.wakeComplete (dom : Nat) : Form.Statement (.wakeComplete dom) := fun h _ => known_false h _

theorem Form.wakeFail (dom : Nat) : Form.Statement (.wakeFail dom) := fun h _ => known_false h _

theorem Form.retentionCheckDone (dom : Nat) (bank : Nat) (ok : Bool) : Form.Statement (.retentionCheckDone dom bank ok) := fun h _ => known_false h _

theorem Form.temperatureWarning (sensor : Nat) (temp : Int) : Form.Statement (.temperatureWarning sensor temp) := fun h _ => known_false h _

theorem Form.temperatureCritical (sensor : Nat) (temp : Int) : Form.Statement (.temperatureCritical sensor temp) := fun h _ => known_false h _

theorem Form.temperatureNormal (sensor : Nat) (temp : Int) : Form.Statement (.temperatureNormal sensor temp) := fun h _ => known_false h _

theorem Form.hbmHot (rgn : Nat) (temp : Int) : Form.Statement (.hbmHot rgn temp) := fun h _ => known_false h _

theorem Form.extest (pins : List Byte) : Form.Statement (.extest pins) := fun h => by cases h

theorem Form.samplePreload (pins : List Byte) : Form.Statement (.samplePreload pins) := fun h => by cases h

theorem Form.clamp : Form.Statement (.clamp) := fun h => by cases h

theorem Form.highz : Form.Statement (.highz) := fun h => by cases h

theorem Form.dbgAccess (req : DbgOp) : Form.Statement (.dbgAccess req) := fun h => by cases h

theorem Form.dbgFuse (off : Nat) (bytes : List Byte) : Form.Statement (.dbgFuse off bytes) := fun h => by cases h

theorem Form.bypass : Form.Statement (.bypass) := fun h => by cases h

theorem Form.resetRelease : Form.Statement (.resetRelease) := fun h => by cases h

theorem Form.klRxLinkUp (port : Nat) : Form.Statement (.klRxLinkUp port) := fun h _ => known_false h _

theorem Form.invalidOpcodeRequest (port : Nat) (frame : List Byte) : Form.Statement (.invalidOpcodeRequest port frame) := fun h _ => known_false h _

theorem Form.reservedOp (cell : Nat) : Form.Statement (.reservedOp cell) := fun h _ => known_false h _

theorem Form.trstAssert : Form.Statement (.trstAssert) := fun h => by cases h

theorem Form.d3hot (on : Bool) : Form.Statement (.d3hot on) := fun h => by cases h

end Sys2Proof.Laws
end

