-- ==== Sys2Proof/Laws/State.lean ====
section
/-! SUPPORT. What each named update of the state leaves of each field, and what it makes of the unit it changes. -/

namespace Sys2Proof.Laws

open Sys2Proof Machine

section
variable (s : State) (n : Nat) (f : Slice → Slice)
@[simp] theorem modSlice_pending : (modSlice s n f).pending = s.pending := rfl
@[simp] theorem modSlice_uptime : (modSlice s n f).uptime = s.uptime := rfl
@[simp] theorem modSlice_freeCtr : (modSlice s n f).freeCtr = s.freeCtr := rfl
@[simp] theorem modSlice_nextJob : (modSlice s n f).nextJob = s.nextJob := rfl
@[simp] theorem modSlice_out : (modSlice s n f).out = s.out := rfl
@[simp] theorem modSlice_supply : (modSlice s n f).supply = s.supply := rfl
@[simp] theorem modSlice_pins : (modSlice s n f).pins = s.pins := rfl
@[simp] theorem modSlice_chip : (modSlice s n f).chip = s.chip := rfl
@[simp] theorem modSlice_link : (modSlice s n f).link = s.link := rfl
@[simp] theorem modSlice_hdm : (modSlice s n f).hdm = s.hdm := rfl
@[simp] theorem modSlice_qps : (modSlice s n f).qps = s.qps := rfl
@[simp] theorem modSlice_jobs : (modSlice s n f).jobs = s.jobs := rfl
@[simp] theorem modSlice_vols : (modSlice s n f).vols = s.vols := rfl
@[simp] theorem modSlice_copies : (modSlice s n f).copies = s.copies := rfl
@[simp] theorem modSlice_scrubs : (modSlice s n f).scrubs = s.scrubs := rfl
@[simp] theorem modSlice_micro : (modSlice s n f).micro = s.micro := rfl
@[simp] theorem modSlice_trees : (modSlice s n f).trees = s.trees := rfl
@[simp] theorem modSlice_regions : (modSlice s n f).regions = s.regions := rfl
@[simp] theorem modSlice_blocks : (modSlice s n f).blocks = s.blocks := rfl
@[simp] theorem modSlice_cells : (modSlice s n f).cells = s.cells := rfl
@[simp] theorem modSlice_alm : (modSlice s n f).alm = s.alm := rfl
@[simp] theorem modSlice_root : (modSlice s n f).root = s.root := rfl
@[simp] theorem modSlice_fuses : (modSlice s n f).fuses = s.fuses := rfl
@[simp] theorem modSlice_tamper : (modSlice s n f).tamper = s.tamper := rfl
@[simp] theorem modSlice_tb : (modSlice s n f).tb = s.tb := rfl
@[simp] theorem modSlice_eph : (modSlice s n f).eph = s.eph := rfl
@[simp] theorem modSlice_ports : (modSlice s n f).ports = s.ports := rfl
@[simp] theorem modSlice_laneKeys : (modSlice s n f).laneKeys = s.laneKeys := rfl
@[simp] theorem modSlice_cards : (modSlice s n f).cards = s.cards := rfl
@[simp] theorem modSlice_cer : (modSlice s n f).cer = s.cer := rfl
@[simp] theorem modSlice_flt : (modSlice s n f).flt = s.flt := rfl
@[simp] theorem modSlice_intc : (modSlice s n f).intc = s.intc := rfl
@[simp] theorem modSlice_power : (modSlice s n f).power = s.power := rfl
@[simp] theorem modSlice_thermal : (modSlice s n f).thermal = s.thermal := rfl
@[simp] theorem modSlice_tap : (modSlice s n f).tap = s.tap := rfl
end

section
variable (s : State) (n q : Nat) (f : Qp → Qp)
@[simp] theorem modQp_pending : (modQp s n q f).pending = s.pending := rfl
@[simp] theorem modQp_uptime : (modQp s n q f).uptime = s.uptime := rfl
@[simp] theorem modQp_freeCtr : (modQp s n q f).freeCtr = s.freeCtr := rfl
@[simp] theorem modQp_nextJob : (modQp s n q f).nextJob = s.nextJob := rfl
@[simp] theorem modQp_out : (modQp s n q f).out = s.out := rfl
@[simp] theorem modQp_supply : (modQp s n q f).supply = s.supply := rfl
@[simp] theorem modQp_pins : (modQp s n q f).pins = s.pins := rfl
@[simp] theorem modQp_chip : (modQp s n q f).chip = s.chip := rfl
@[simp] theorem modQp_link : (modQp s n q f).link = s.link := rfl
@[simp] theorem modQp_hdm : (modQp s n q f).hdm = s.hdm := rfl
@[simp] theorem modQp_slices : (modQp s n q f).slices = s.slices := rfl
@[simp] theorem modQp_jobs : (modQp s n q f).jobs = s.jobs := rfl
@[simp] theorem modQp_vols : (modQp s n q f).vols = s.vols := rfl
@[simp] theorem modQp_copies : (modQp s n q f).copies = s.copies := rfl
@[simp] theorem modQp_scrubs : (modQp s n q f).scrubs = s.scrubs := rfl
@[simp] theorem modQp_micro : (modQp s n q f).micro = s.micro := rfl
@[simp] theorem modQp_trees : (modQp s n q f).trees = s.trees := rfl
@[simp] theorem modQp_regions : (modQp s n q f).regions = s.regions := rfl
@[simp] theorem modQp_blocks : (modQp s n q f).blocks = s.blocks := rfl
@[simp] theorem modQp_cells : (modQp s n q f).cells = s.cells := rfl
@[simp] theorem modQp_alm : (modQp s n q f).alm = s.alm := rfl
@[simp] theorem modQp_root : (modQp s n q f).root = s.root := rfl
@[simp] theorem modQp_fuses : (modQp s n q f).fuses = s.fuses := rfl
@[simp] theorem modQp_tamper : (modQp s n q f).tamper = s.tamper := rfl
@[simp] theorem modQp_tb : (modQp s n q f).tb = s.tb := rfl
@[simp] theorem modQp_eph : (modQp s n q f).eph = s.eph := rfl
@[simp] theorem modQp_ports : (modQp s n q f).ports = s.ports := rfl
@[simp] theorem modQp_laneKeys : (modQp s n q f).laneKeys = s.laneKeys := rfl
@[simp] theorem modQp_cards : (modQp s n q f).cards = s.cards := rfl
@[simp] theorem modQp_cer : (modQp s n q f).cer = s.cer := rfl
@[simp] theorem modQp_flt : (modQp s n q f).flt = s.flt := rfl
@[simp] theorem modQp_intc : (modQp s n q f).intc = s.intc := rfl
@[simp] theorem modQp_power : (modQp s n q f).power = s.power := rfl
@[simp] theorem modQp_thermal : (modQp s n q f).thermal = s.thermal := rfl
@[simp] theorem modQp_tap : (modQp s n q f).tap = s.tap := rfl
end

section
variable (s : State) (n : Nat) (f : Cell → Cell)
@[simp] theorem modCell_pending : (modCell s n f).pending = s.pending := rfl
@[simp] theorem modCell_uptime : (modCell s n f).uptime = s.uptime := rfl
@[simp] theorem modCell_freeCtr : (modCell s n f).freeCtr = s.freeCtr := rfl
@[simp] theorem modCell_nextJob : (modCell s n f).nextJob = s.nextJob := rfl
@[simp] theorem modCell_out : (modCell s n f).out = s.out := rfl
@[simp] theorem modCell_supply : (modCell s n f).supply = s.supply := rfl
@[simp] theorem modCell_pins : (modCell s n f).pins = s.pins := rfl
@[simp] theorem modCell_chip : (modCell s n f).chip = s.chip := rfl
@[simp] theorem modCell_link : (modCell s n f).link = s.link := rfl
@[simp] theorem modCell_hdm : (modCell s n f).hdm = s.hdm := rfl
@[simp] theorem modCell_slices : (modCell s n f).slices = s.slices := rfl
@[simp] theorem modCell_qps : (modCell s n f).qps = s.qps := rfl
@[simp] theorem modCell_jobs : (modCell s n f).jobs = s.jobs := rfl
@[simp] theorem modCell_vols : (modCell s n f).vols = s.vols := rfl
@[simp] theorem modCell_copies : (modCell s n f).copies = s.copies := rfl
@[simp] theorem modCell_scrubs : (modCell s n f).scrubs = s.scrubs := rfl
@[simp] theorem modCell_micro : (modCell s n f).micro = s.micro := rfl
@[simp] theorem modCell_trees : (modCell s n f).trees = s.trees := rfl
@[simp] theorem modCell_regions : (modCell s n f).regions = s.regions := rfl
@[simp] theorem modCell_blocks : (modCell s n f).blocks = s.blocks := rfl
@[simp] theorem modCell_alm : (modCell s n f).alm = s.alm := rfl
@[simp] theorem modCell_root : (modCell s n f).root = s.root := rfl
@[simp] theorem modCell_fuses : (modCell s n f).fuses = s.fuses := rfl
@[simp] theorem modCell_tamper : (modCell s n f).tamper = s.tamper := rfl
@[simp] theorem modCell_tb : (modCell s n f).tb = s.tb := rfl
@[simp] theorem modCell_eph : (modCell s n f).eph = s.eph := rfl
@[simp] theorem modCell_ports : (modCell s n f).ports = s.ports := rfl
@[simp] theorem modCell_laneKeys : (modCell s n f).laneKeys = s.laneKeys := rfl
@[simp] theorem modCell_cards : (modCell s n f).cards = s.cards := rfl
@[simp] theorem modCell_cer : (modCell s n f).cer = s.cer := rfl
@[simp] theorem modCell_flt : (modCell s n f).flt = s.flt := rfl
@[simp] theorem modCell_intc : (modCell s n f).intc = s.intc := rfl
@[simp] theorem modCell_power : (modCell s n f).power = s.power := rfl
@[simp] theorem modCell_thermal : (modCell s n f).thermal = s.thermal := rfl
@[simp] theorem modCell_tap : (modCell s n f).tap = s.tap := rfl
end

section
variable (s : State) (n : Nat) (f : Block → Block)
@[simp] theorem modBlock_pending : (modBlock s n f).pending = s.pending := rfl
@[simp] theorem modBlock_uptime : (modBlock s n f).uptime = s.uptime := rfl
@[simp] theorem modBlock_freeCtr : (modBlock s n f).freeCtr = s.freeCtr := rfl
@[simp] theorem modBlock_nextJob : (modBlock s n f).nextJob = s.nextJob := rfl
@[simp] theorem modBlock_out : (modBlock s n f).out = s.out := rfl
@[simp] theorem modBlock_supply : (modBlock s n f).supply = s.supply := rfl
@[simp] theorem modBlock_pins : (modBlock s n f).pins = s.pins := rfl
@[simp] theorem modBlock_chip : (modBlock s n f).chip = s.chip := rfl
@[simp] theorem modBlock_link : (modBlock s n f).link = s.link := rfl
@[simp] theorem modBlock_hdm : (modBlock s n f).hdm = s.hdm := rfl
@[simp] theorem modBlock_slices : (modBlock s n f).slices = s.slices := rfl
@[simp] theorem modBlock_qps : (modBlock s n f).qps = s.qps := rfl
@[simp] theorem modBlock_jobs : (modBlock s n f).jobs = s.jobs := rfl
@[simp] theorem modBlock_vols : (modBlock s n f).vols = s.vols := rfl
@[simp] theorem modBlock_copies : (modBlock s n f).copies = s.copies := rfl
@[simp] theorem modBlock_scrubs : (modBlock s n f).scrubs = s.scrubs := rfl
@[simp] theorem modBlock_micro : (modBlock s n f).micro = s.micro := rfl
@[simp] theorem modBlock_trees : (modBlock s n f).trees = s.trees := rfl
@[simp] theorem modBlock_regions : (modBlock s n f).regions = s.regions := rfl
@[simp] theorem modBlock_cells : (modBlock s n f).cells = s.cells := rfl
@[simp] theorem modBlock_alm : (modBlock s n f).alm = s.alm := rfl
@[simp] theorem modBlock_root : (modBlock s n f).root = s.root := rfl
@[simp] theorem modBlock_fuses : (modBlock s n f).fuses = s.fuses := rfl
@[simp] theorem modBlock_tamper : (modBlock s n f).tamper = s.tamper := rfl
@[simp] theorem modBlock_tb : (modBlock s n f).tb = s.tb := rfl
@[simp] theorem modBlock_eph : (modBlock s n f).eph = s.eph := rfl
@[simp] theorem modBlock_ports : (modBlock s n f).ports = s.ports := rfl
@[simp] theorem modBlock_laneKeys : (modBlock s n f).laneKeys = s.laneKeys := rfl
@[simp] theorem modBlock_cards : (modBlock s n f).cards = s.cards := rfl
@[simp] theorem modBlock_cer : (modBlock s n f).cer = s.cer := rfl
@[simp] theorem modBlock_flt : (modBlock s n f).flt = s.flt := rfl
@[simp] theorem modBlock_intc : (modBlock s n f).intc = s.intc := rfl
@[simp] theorem modBlock_power : (modBlock s n f).power = s.power := rfl
@[simp] theorem modBlock_thermal : (modBlock s n f).thermal = s.thermal := rfl
@[simp] theorem modBlock_tap : (modBlock s n f).tap = s.tap := rfl
end

section
variable (s : State) (n : Nat) (f : Bne → Bne)
@[simp] theorem modBne_pending : (modBne s n f).pending = s.pending := rfl
@[simp] theorem modBne_uptime : (modBne s n f).uptime = s.uptime := rfl
@[simp] theorem modBne_freeCtr : (modBne s n f).freeCtr = s.freeCtr := rfl
@[simp] theorem modBne_nextJob : (modBne s n f).nextJob = s.nextJob := rfl
@[simp] theorem modBne_out : (modBne s n f).out = s.out := rfl
@[simp] theorem modBne_supply : (modBne s n f).supply = s.supply := rfl
@[simp] theorem modBne_pins : (modBne s n f).pins = s.pins := rfl
@[simp] theorem modBne_chip : (modBne s n f).chip = s.chip := rfl
@[simp] theorem modBne_link : (modBne s n f).link = s.link := rfl
@[simp] theorem modBne_hdm : (modBne s n f).hdm = s.hdm := rfl
@[simp] theorem modBne_slices : (modBne s n f).slices = s.slices := rfl
@[simp] theorem modBne_qps : (modBne s n f).qps = s.qps := rfl
@[simp] theorem modBne_jobs : (modBne s n f).jobs = s.jobs := rfl
@[simp] theorem modBne_vols : (modBne s n f).vols = s.vols := rfl
@[simp] theorem modBne_copies : (modBne s n f).copies = s.copies := rfl
@[simp] theorem modBne_scrubs : (modBne s n f).scrubs = s.scrubs := rfl
@[simp] theorem modBne_micro : (modBne s n f).micro = s.micro := rfl
@[simp] theorem modBne_trees : (modBne s n f).trees = s.trees := rfl
@[simp] theorem modBne_regions : (modBne s n f).regions = s.regions := rfl
@[simp] theorem modBne_cells : (modBne s n f).cells = s.cells := rfl
@[simp] theorem modBne_alm : (modBne s n f).alm = s.alm := rfl
@[simp] theorem modBne_root : (modBne s n f).root = s.root := rfl
@[simp] theorem modBne_fuses : (modBne s n f).fuses = s.fuses := rfl
@[simp] theorem modBne_tamper : (modBne s n f).tamper = s.tamper := rfl
@[simp] theorem modBne_tb : (modBne s n f).tb = s.tb := rfl
@[simp] theorem modBne_eph : (modBne s n f).eph = s.eph := rfl
@[simp] theorem modBne_ports : (modBne s n f).ports = s.ports := rfl
@[simp] theorem modBne_laneKeys : (modBne s n f).laneKeys = s.laneKeys := rfl
@[simp] theorem modBne_cards : (modBne s n f).cards = s.cards := rfl
@[simp] theorem modBne_cer : (modBne s n f).cer = s.cer := rfl
@[simp] theorem modBne_flt : (modBne s n f).flt = s.flt := rfl
@[simp] theorem modBne_intc : (modBne s n f).intc = s.intc := rfl
@[simp] theorem modBne_power : (modBne s n f).power = s.power := rfl
@[simp] theorem modBne_thermal : (modBne s n f).thermal = s.thermal := rfl
@[simp] theorem modBne_tap : (modBne s n f).tap = s.tap := rfl
end

section
variable (s : State) (n : Nat) (f : De → De)
@[simp] theorem modDe_pending : (modDe s n f).pending = s.pending := rfl
@[simp] theorem modDe_uptime : (modDe s n f).uptime = s.uptime := rfl
@[simp] theorem modDe_freeCtr : (modDe s n f).freeCtr = s.freeCtr := rfl
@[simp] theorem modDe_nextJob : (modDe s n f).nextJob = s.nextJob := rfl
@[simp] theorem modDe_out : (modDe s n f).out = s.out := rfl
@[simp] theorem modDe_supply : (modDe s n f).supply = s.supply := rfl
@[simp] theorem modDe_pins : (modDe s n f).pins = s.pins := rfl
@[simp] theorem modDe_chip : (modDe s n f).chip = s.chip := rfl
@[simp] theorem modDe_link : (modDe s n f).link = s.link := rfl
@[simp] theorem modDe_hdm : (modDe s n f).hdm = s.hdm := rfl
@[simp] theorem modDe_slices : (modDe s n f).slices = s.slices := rfl
@[simp] theorem modDe_qps : (modDe s n f).qps = s.qps := rfl
@[simp] theorem modDe_jobs : (modDe s n f).jobs = s.jobs := rfl
@[simp] theorem modDe_vols : (modDe s n f).vols = s.vols := rfl
@[simp] theorem modDe_copies : (modDe s n f).copies = s.copies := rfl
@[simp] theorem modDe_scrubs : (modDe s n f).scrubs = s.scrubs := rfl
@[simp] theorem modDe_micro : (modDe s n f).micro = s.micro := rfl
@[simp] theorem modDe_trees : (modDe s n f).trees = s.trees := rfl
@[simp] theorem modDe_regions : (modDe s n f).regions = s.regions := rfl
@[simp] theorem modDe_cells : (modDe s n f).cells = s.cells := rfl
@[simp] theorem modDe_alm : (modDe s n f).alm = s.alm := rfl
@[simp] theorem modDe_root : (modDe s n f).root = s.root := rfl
@[simp] theorem modDe_fuses : (modDe s n f).fuses = s.fuses := rfl
@[simp] theorem modDe_tamper : (modDe s n f).tamper = s.tamper := rfl
@[simp] theorem modDe_tb : (modDe s n f).tb = s.tb := rfl
@[simp] theorem modDe_eph : (modDe s n f).eph = s.eph := rfl
@[simp] theorem modDe_ports : (modDe s n f).ports = s.ports := rfl
@[simp] theorem modDe_laneKeys : (modDe s n f).laneKeys = s.laneKeys := rfl
@[simp] theorem modDe_cards : (modDe s n f).cards = s.cards := rfl
@[simp] theorem modDe_cer : (modDe s n f).cer = s.cer := rfl
@[simp] theorem modDe_flt : (modDe s n f).flt = s.flt := rfl
@[simp] theorem modDe_intc : (modDe s n f).intc = s.intc := rfl
@[simp] theorem modDe_power : (modDe s n f).power = s.power := rfl
@[simp] theorem modDe_thermal : (modDe s n f).thermal = s.thermal := rfl
@[simp] theorem modDe_tap : (modDe s n f).tap = s.tap := rfl
end

section
variable (s : State) (n : Nat) (f : Region → Region)
@[simp] theorem modRegion_pending : (modRegion s n f).pending = s.pending := rfl
@[simp] theorem modRegion_uptime : (modRegion s n f).uptime = s.uptime := rfl
@[simp] theorem modRegion_freeCtr : (modRegion s n f).freeCtr = s.freeCtr := rfl
@[simp] theorem modRegion_nextJob : (modRegion s n f).nextJob = s.nextJob := rfl
@[simp] theorem modRegion_out : (modRegion s n f).out = s.out := rfl
@[simp] theorem modRegion_supply : (modRegion s n f).supply = s.supply := rfl
@[simp] theorem modRegion_pins : (modRegion s n f).pins = s.pins := rfl
@[simp] theorem modRegion_chip : (modRegion s n f).chip = s.chip := rfl
@[simp] theorem modRegion_link : (modRegion s n f).link = s.link := rfl
@[simp] theorem modRegion_hdm : (modRegion s n f).hdm = s.hdm := rfl
@[simp] theorem modRegion_slices : (modRegion s n f).slices = s.slices := rfl
@[simp] theorem modRegion_qps : (modRegion s n f).qps = s.qps := rfl
@[simp] theorem modRegion_jobs : (modRegion s n f).jobs = s.jobs := rfl
@[simp] theorem modRegion_vols : (modRegion s n f).vols = s.vols := rfl
@[simp] theorem modRegion_copies : (modRegion s n f).copies = s.copies := rfl
@[simp] theorem modRegion_scrubs : (modRegion s n f).scrubs = s.scrubs := rfl
@[simp] theorem modRegion_micro : (modRegion s n f).micro = s.micro := rfl
@[simp] theorem modRegion_trees : (modRegion s n f).trees = s.trees := rfl
@[simp] theorem modRegion_blocks : (modRegion s n f).blocks = s.blocks := rfl
@[simp] theorem modRegion_cells : (modRegion s n f).cells = s.cells := rfl
@[simp] theorem modRegion_alm : (modRegion s n f).alm = s.alm := rfl
@[simp] theorem modRegion_root : (modRegion s n f).root = s.root := rfl
@[simp] theorem modRegion_fuses : (modRegion s n f).fuses = s.fuses := rfl
@[simp] theorem modRegion_tamper : (modRegion s n f).tamper = s.tamper := rfl
@[simp] theorem modRegion_tb : (modRegion s n f).tb = s.tb := rfl
@[simp] theorem modRegion_eph : (modRegion s n f).eph = s.eph := rfl
@[simp] theorem modRegion_ports : (modRegion s n f).ports = s.ports := rfl
@[simp] theorem modRegion_laneKeys : (modRegion s n f).laneKeys = s.laneKeys := rfl
@[simp] theorem modRegion_cards : (modRegion s n f).cards = s.cards := rfl
@[simp] theorem modRegion_cer : (modRegion s n f).cer = s.cer := rfl
@[simp] theorem modRegion_flt : (modRegion s n f).flt = s.flt := rfl
@[simp] theorem modRegion_intc : (modRegion s n f).intc = s.intc := rfl
@[simp] theorem modRegion_power : (modRegion s n f).power = s.power := rfl
@[simp] theorem modRegion_thermal : (modRegion s n f).thermal = s.thermal := rfl
@[simp] theorem modRegion_tap : (modRegion s n f).tap = s.tap := rfl
end

section
variable (s : State) (n : Nat) (f : Rng → Rng)
@[simp] theorem modRng_pending : (modRng s n f).pending = s.pending := rfl
@[simp] theorem modRng_uptime : (modRng s n f).uptime = s.uptime := rfl
@[simp] theorem modRng_freeCtr : (modRng s n f).freeCtr = s.freeCtr := rfl
@[simp] theorem modRng_nextJob : (modRng s n f).nextJob = s.nextJob := rfl
@[simp] theorem modRng_out : (modRng s n f).out = s.out := rfl
@[simp] theorem modRng_supply : (modRng s n f).supply = s.supply := rfl
@[simp] theorem modRng_pins : (modRng s n f).pins = s.pins := rfl
@[simp] theorem modRng_chip : (modRng s n f).chip = s.chip := rfl
@[simp] theorem modRng_link : (modRng s n f).link = s.link := rfl
@[simp] theorem modRng_hdm : (modRng s n f).hdm = s.hdm := rfl
@[simp] theorem modRng_slices : (modRng s n f).slices = s.slices := rfl
@[simp] theorem modRng_qps : (modRng s n f).qps = s.qps := rfl
@[simp] theorem modRng_jobs : (modRng s n f).jobs = s.jobs := rfl
@[simp] theorem modRng_vols : (modRng s n f).vols = s.vols := rfl
@[simp] theorem modRng_copies : (modRng s n f).copies = s.copies := rfl
@[simp] theorem modRng_scrubs : (modRng s n f).scrubs = s.scrubs := rfl
@[simp] theorem modRng_micro : (modRng s n f).micro = s.micro := rfl
@[simp] theorem modRng_trees : (modRng s n f).trees = s.trees := rfl
@[simp] theorem modRng_blocks : (modRng s n f).blocks = s.blocks := rfl
@[simp] theorem modRng_cells : (modRng s n f).cells = s.cells := rfl
@[simp] theorem modRng_alm : (modRng s n f).alm = s.alm := rfl
@[simp] theorem modRng_root : (modRng s n f).root = s.root := rfl
@[simp] theorem modRng_fuses : (modRng s n f).fuses = s.fuses := rfl
@[simp] theorem modRng_tamper : (modRng s n f).tamper = s.tamper := rfl
@[simp] theorem modRng_tb : (modRng s n f).tb = s.tb := rfl
@[simp] theorem modRng_eph : (modRng s n f).eph = s.eph := rfl
@[simp] theorem modRng_ports : (modRng s n f).ports = s.ports := rfl
@[simp] theorem modRng_laneKeys : (modRng s n f).laneKeys = s.laneKeys := rfl
@[simp] theorem modRng_cards : (modRng s n f).cards = s.cards := rfl
@[simp] theorem modRng_cer : (modRng s n f).cer = s.cer := rfl
@[simp] theorem modRng_flt : (modRng s n f).flt = s.flt := rfl
@[simp] theorem modRng_intc : (modRng s n f).intc = s.intc := rfl
@[simp] theorem modRng_power : (modRng s n f).power = s.power := rfl
@[simp] theorem modRng_thermal : (modRng s n f).thermal = s.thermal := rfl
@[simp] theorem modRng_tap : (modRng s n f).tap = s.tap := rfl
end

section
variable (s : State) (n : Nat) (f : Port → Port)
@[simp] theorem modPort_pending : (modPort s n f).pending = s.pending := rfl
@[simp] theorem modPort_uptime : (modPort s n f).uptime = s.uptime := rfl
@[simp] theorem modPort_freeCtr : (modPort s n f).freeCtr = s.freeCtr := rfl
@[simp] theorem modPort_nextJob : (modPort s n f).nextJob = s.nextJob := rfl
@[simp] theorem modPort_out : (modPort s n f).out = s.out := rfl
@[simp] theorem modPort_supply : (modPort s n f).supply = s.supply := rfl
@[simp] theorem modPort_pins : (modPort s n f).pins = s.pins := rfl
@[simp] theorem modPort_chip : (modPort s n f).chip = s.chip := rfl
@[simp] theorem modPort_link : (modPort s n f).link = s.link := rfl
@[simp] theorem modPort_hdm : (modPort s n f).hdm = s.hdm := rfl
@[simp] theorem modPort_slices : (modPort s n f).slices = s.slices := rfl
@[simp] theorem modPort_qps : (modPort s n f).qps = s.qps := rfl
@[simp] theorem modPort_jobs : (modPort s n f).jobs = s.jobs := rfl
@[simp] theorem modPort_vols : (modPort s n f).vols = s.vols := rfl
@[simp] theorem modPort_copies : (modPort s n f).copies = s.copies := rfl
@[simp] theorem modPort_scrubs : (modPort s n f).scrubs = s.scrubs := rfl
@[simp] theorem modPort_micro : (modPort s n f).micro = s.micro := rfl
@[simp] theorem modPort_trees : (modPort s n f).trees = s.trees := rfl
@[simp] theorem modPort_regions : (modPort s n f).regions = s.regions := rfl
@[simp] theorem modPort_blocks : (modPort s n f).blocks = s.blocks := rfl
@[simp] theorem modPort_cells : (modPort s n f).cells = s.cells := rfl
@[simp] theorem modPort_alm : (modPort s n f).alm = s.alm := rfl
@[simp] theorem modPort_root : (modPort s n f).root = s.root := rfl
@[simp] theorem modPort_fuses : (modPort s n f).fuses = s.fuses := rfl
@[simp] theorem modPort_tamper : (modPort s n f).tamper = s.tamper := rfl
@[simp] theorem modPort_tb : (modPort s n f).tb = s.tb := rfl
@[simp] theorem modPort_eph : (modPort s n f).eph = s.eph := rfl
@[simp] theorem modPort_laneKeys : (modPort s n f).laneKeys = s.laneKeys := rfl
@[simp] theorem modPort_cards : (modPort s n f).cards = s.cards := rfl
@[simp] theorem modPort_cer : (modPort s n f).cer = s.cer := rfl
@[simp] theorem modPort_flt : (modPort s n f).flt = s.flt := rfl
@[simp] theorem modPort_intc : (modPort s n f).intc = s.intc := rfl
@[simp] theorem modPort_power : (modPort s n f).power = s.power := rfl
@[simp] theorem modPort_thermal : (modPort s n f).thermal = s.thermal := rfl
@[simp] theorem modPort_tap : (modPort s n f).tap = s.tap := rfl
end

section
variable (s : State) (n : Nat) (f : CardSlot → CardSlot)
@[simp] theorem modCard_pending : (modCard s n f).pending = s.pending := rfl
@[simp] theorem modCard_uptime : (modCard s n f).uptime = s.uptime := rfl
@[simp] theorem modCard_freeCtr : (modCard s n f).freeCtr = s.freeCtr := rfl
@[simp] theorem modCard_nextJob : (modCard s n f).nextJob = s.nextJob := rfl
@[simp] theorem modCard_out : (modCard s n f).out = s.out := rfl
@[simp] theorem modCard_supply : (modCard s n f).supply = s.supply := rfl
@[simp] theorem modCard_pins : (modCard s n f).pins = s.pins := rfl
@[simp] theorem modCard_chip : (modCard s n f).chip = s.chip := rfl
@[simp] theorem modCard_link : (modCard s n f).link = s.link := rfl
@[simp] theorem modCard_hdm : (modCard s n f).hdm = s.hdm := rfl
@[simp] theorem modCard_slices : (modCard s n f).slices = s.slices := rfl
@[simp] theorem modCard_qps : (modCard s n f).qps = s.qps := rfl
@[simp] theorem modCard_jobs : (modCard s n f).jobs = s.jobs := rfl
@[simp] theorem modCard_vols : (modCard s n f).vols = s.vols := rfl
@[simp] theorem modCard_copies : (modCard s n f).copies = s.copies := rfl
@[simp] theorem modCard_scrubs : (modCard s n f).scrubs = s.scrubs := rfl
@[simp] theorem modCard_micro : (modCard s n f).micro = s.micro := rfl
@[simp] theorem modCard_trees : (modCard s n f).trees = s.trees := rfl
@[simp] theorem modCard_regions : (modCard s n f).regions = s.regions := rfl
@[simp] theorem modCard_blocks : (modCard s n f).blocks = s.blocks := rfl
@[simp] theorem modCard_cells : (modCard s n f).cells = s.cells := rfl
@[simp] theorem modCard_alm : (modCard s n f).alm = s.alm := rfl
@[simp] theorem modCard_root : (modCard s n f).root = s.root := rfl
@[simp] theorem modCard_fuses : (modCard s n f).fuses = s.fuses := rfl
@[simp] theorem modCard_tamper : (modCard s n f).tamper = s.tamper := rfl
@[simp] theorem modCard_tb : (modCard s n f).tb = s.tb := rfl
@[simp] theorem modCard_eph : (modCard s n f).eph = s.eph := rfl
@[simp] theorem modCard_ports : (modCard s n f).ports = s.ports := rfl
@[simp] theorem modCard_laneKeys : (modCard s n f).laneKeys = s.laneKeys := rfl
@[simp] theorem modCard_cer : (modCard s n f).cer = s.cer := rfl
@[simp] theorem modCard_flt : (modCard s n f).flt = s.flt := rfl
@[simp] theorem modCard_intc : (modCard s n f).intc = s.intc := rfl
@[simp] theorem modCard_power : (modCard s n f).power = s.power := rfl
@[simp] theorem modCard_thermal : (modCard s n f).thermal = s.thermal := rfl
@[simp] theorem modCard_tap : (modCard s n f).tap = s.tap := rfl
end

section
variable (s : State) (n : Nat) (f : Dom → Dom)
@[simp] theorem modDom_pending : (modDom s n f).pending = s.pending := rfl
@[simp] theorem modDom_uptime : (modDom s n f).uptime = s.uptime := rfl
@[simp] theorem modDom_freeCtr : (modDom s n f).freeCtr = s.freeCtr := rfl
@[simp] theorem modDom_nextJob : (modDom s n f).nextJob = s.nextJob := rfl
@[simp] theorem modDom_out : (modDom s n f).out = s.out := rfl
@[simp] theorem modDom_supply : (modDom s n f).supply = s.supply := rfl
@[simp] theorem modDom_pins : (modDom s n f).pins = s.pins := rfl
@[simp] theorem modDom_chip : (modDom s n f).chip = s.chip := rfl
@[simp] theorem modDom_link : (modDom s n f).link = s.link := rfl
@[simp] theorem modDom_hdm : (modDom s n f).hdm = s.hdm := rfl
@[simp] theorem modDom_slices : (modDom s n f).slices = s.slices := rfl
@[simp] theorem modDom_qps : (modDom s n f).qps = s.qps := rfl
@[simp] theorem modDom_jobs : (modDom s n f).jobs = s.jobs := rfl
@[simp] theorem modDom_vols : (modDom s n f).vols = s.vols := rfl
@[simp] theorem modDom_copies : (modDom s n f).copies = s.copies := rfl
@[simp] theorem modDom_scrubs : (modDom s n f).scrubs = s.scrubs := rfl
@[simp] theorem modDom_micro : (modDom s n f).micro = s.micro := rfl
@[simp] theorem modDom_trees : (modDom s n f).trees = s.trees := rfl
@[simp] theorem modDom_regions : (modDom s n f).regions = s.regions := rfl
@[simp] theorem modDom_blocks : (modDom s n f).blocks = s.blocks := rfl
@[simp] theorem modDom_cells : (modDom s n f).cells = s.cells := rfl
@[simp] theorem modDom_alm : (modDom s n f).alm = s.alm := rfl
@[simp] theorem modDom_root : (modDom s n f).root = s.root := rfl
@[simp] theorem modDom_fuses : (modDom s n f).fuses = s.fuses := rfl
@[simp] theorem modDom_tamper : (modDom s n f).tamper = s.tamper := rfl
@[simp] theorem modDom_tb : (modDom s n f).tb = s.tb := rfl
@[simp] theorem modDom_eph : (modDom s n f).eph = s.eph := rfl
@[simp] theorem modDom_ports : (modDom s n f).ports = s.ports := rfl
@[simp] theorem modDom_laneKeys : (modDom s n f).laneKeys = s.laneKeys := rfl
@[simp] theorem modDom_cards : (modDom s n f).cards = s.cards := rfl
@[simp] theorem modDom_cer : (modDom s n f).cer = s.cer := rfl
@[simp] theorem modDom_flt : (modDom s n f).flt = s.flt := rfl
@[simp] theorem modDom_intc : (modDom s n f).intc = s.intc := rfl
@[simp] theorem modDom_thermal : (modDom s n f).thermal = s.thermal := rfl
@[simp] theorem modDom_tap : (modDom s n f).tap = s.tap := rfl
end

section
variable (s : State) (n : Nat) (f : FltUnit → FltUnit)
@[simp] theorem modUnit_pending : (modUnit s n f).pending = s.pending := rfl
@[simp] theorem modUnit_uptime : (modUnit s n f).uptime = s.uptime := rfl
@[simp] theorem modUnit_freeCtr : (modUnit s n f).freeCtr = s.freeCtr := rfl
@[simp] theorem modUnit_nextJob : (modUnit s n f).nextJob = s.nextJob := rfl
@[simp] theorem modUnit_out : (modUnit s n f).out = s.out := rfl
@[simp] theorem modUnit_supply : (modUnit s n f).supply = s.supply := rfl
@[simp] theorem modUnit_pins : (modUnit s n f).pins = s.pins := rfl
@[simp] theorem modUnit_chip : (modUnit s n f).chip = s.chip := rfl
@[simp] theorem modUnit_link : (modUnit s n f).link = s.link := rfl
@[simp] theorem modUnit_hdm : (modUnit s n f).hdm = s.hdm := rfl
@[simp] theorem modUnit_slices : (modUnit s n f).slices = s.slices := rfl
@[simp] theorem modUnit_qps : (modUnit s n f).qps = s.qps := rfl
@[simp] theorem modUnit_jobs : (modUnit s n f).jobs = s.jobs := rfl
@[simp] theorem modUnit_vols : (modUnit s n f).vols = s.vols := rfl
@[simp] theorem modUnit_copies : (modUnit s n f).copies = s.copies := rfl
@[simp] theorem modUnit_scrubs : (modUnit s n f).scrubs = s.scrubs := rfl
@[simp] theorem modUnit_micro : (modUnit s n f).micro = s.micro := rfl
@[simp] theorem modUnit_trees : (modUnit s n f).trees = s.trees := rfl
@[simp] theorem modUnit_regions : (modUnit s n f).regions = s.regions := rfl
@[simp] theorem modUnit_blocks : (modUnit s n f).blocks = s.blocks := rfl
@[simp] theorem modUnit_cells : (modUnit s n f).cells = s.cells := rfl
@[simp] theorem modUnit_alm : (modUnit s n f).alm = s.alm := rfl
@[simp] theorem modUnit_root : (modUnit s n f).root = s.root := rfl
@[simp] theorem modUnit_fuses : (modUnit s n f).fuses = s.fuses := rfl
@[simp] theorem modUnit_tamper : (modUnit s n f).tamper = s.tamper := rfl
@[simp] theorem modUnit_tb : (modUnit s n f).tb = s.tb := rfl
@[simp] theorem modUnit_eph : (modUnit s n f).eph = s.eph := rfl
@[simp] theorem modUnit_ports : (modUnit s n f).ports = s.ports := rfl
@[simp] theorem modUnit_laneKeys : (modUnit s n f).laneKeys = s.laneKeys := rfl
@[simp] theorem modUnit_cards : (modUnit s n f).cards = s.cards := rfl
@[simp] theorem modUnit_cer : (modUnit s n f).cer = s.cer := rfl
@[simp] theorem modUnit_intc : (modUnit s n f).intc = s.intc := rfl
@[simp] theorem modUnit_power : (modUnit s n f).power = s.power := rfl
@[simp] theorem modUnit_thermal : (modUnit s n f).thermal = s.thermal := rfl
@[simp] theorem modUnit_tap : (modUnit s n f).tap = s.tap := rfl
end

section
variable (s : State) (n : Nat) (f : Handler → Handler)
@[simp] theorem modHandler_pending : (modHandler s n f).pending = s.pending := rfl
@[simp] theorem modHandler_uptime : (modHandler s n f).uptime = s.uptime := rfl
@[simp] theorem modHandler_freeCtr : (modHandler s n f).freeCtr = s.freeCtr := rfl
@[simp] theorem modHandler_nextJob : (modHandler s n f).nextJob = s.nextJob := rfl
@[simp] theorem modHandler_out : (modHandler s n f).out = s.out := rfl
@[simp] theorem modHandler_supply : (modHandler s n f).supply = s.supply := rfl
@[simp] theorem modHandler_pins : (modHandler s n f).pins = s.pins := rfl
@[simp] theorem modHandler_chip : (modHandler s n f).chip = s.chip := rfl
@[simp] theorem modHandler_link : (modHandler s n f).link = s.link := rfl
@[simp] theorem modHandler_hdm : (modHandler s n f).hdm = s.hdm := rfl
@[simp] theorem modHandler_slices : (modHandler s n f).slices = s.slices := rfl
@[simp] theorem modHandler_qps : (modHandler s n f).qps = s.qps := rfl
@[simp] theorem modHandler_jobs : (modHandler s n f).jobs = s.jobs := rfl
@[simp] theorem modHandler_vols : (modHandler s n f).vols = s.vols := rfl
@[simp] theorem modHandler_copies : (modHandler s n f).copies = s.copies := rfl
@[simp] theorem modHandler_scrubs : (modHandler s n f).scrubs = s.scrubs := rfl
@[simp] theorem modHandler_micro : (modHandler s n f).micro = s.micro := rfl
@[simp] theorem modHandler_trees : (modHandler s n f).trees = s.trees := rfl
@[simp] theorem modHandler_regions : (modHandler s n f).regions = s.regions := rfl
@[simp] theorem modHandler_blocks : (modHandler s n f).blocks = s.blocks := rfl
@[simp] theorem modHandler_cells : (modHandler s n f).cells = s.cells := rfl
@[simp] theorem modHandler_alm : (modHandler s n f).alm = s.alm := rfl
@[simp] theorem modHandler_root : (modHandler s n f).root = s.root := rfl
@[simp] theorem modHandler_fuses : (modHandler s n f).fuses = s.fuses := rfl
@[simp] theorem modHandler_tamper : (modHandler s n f).tamper = s.tamper := rfl
@[simp] theorem modHandler_tb : (modHandler s n f).tb = s.tb := rfl
@[simp] theorem modHandler_eph : (modHandler s n f).eph = s.eph := rfl
@[simp] theorem modHandler_ports : (modHandler s n f).ports = s.ports := rfl
@[simp] theorem modHandler_laneKeys : (modHandler s n f).laneKeys = s.laneKeys := rfl
@[simp] theorem modHandler_cards : (modHandler s n f).cards = s.cards := rfl
@[simp] theorem modHandler_cer : (modHandler s n f).cer = s.cer := rfl
@[simp] theorem modHandler_intc : (modHandler s n f).intc = s.intc := rfl
@[simp] theorem modHandler_power : (modHandler s n f).power = s.power := rfl
@[simp] theorem modHandler_thermal : (modHandler s n f).thermal = s.thermal := rfl
@[simp] theorem modHandler_tap : (modHandler s n f).tap = s.tap := rfl
end

section
variable (s : State) (n : Nat) (f : VolEnt → VolEnt)
@[simp] theorem modVol_pending : (modVol s n f).pending = s.pending := rfl
@[simp] theorem modVol_uptime : (modVol s n f).uptime = s.uptime := rfl
@[simp] theorem modVol_freeCtr : (modVol s n f).freeCtr = s.freeCtr := rfl
@[simp] theorem modVol_nextJob : (modVol s n f).nextJob = s.nextJob := rfl
@[simp] theorem modVol_out : (modVol s n f).out = s.out := rfl
@[simp] theorem modVol_supply : (modVol s n f).supply = s.supply := rfl
@[simp] theorem modVol_pins : (modVol s n f).pins = s.pins := rfl
@[simp] theorem modVol_chip : (modVol s n f).chip = s.chip := rfl
@[simp] theorem modVol_link : (modVol s n f).link = s.link := rfl
@[simp] theorem modVol_hdm : (modVol s n f).hdm = s.hdm := rfl
@[simp] theorem modVol_slices : (modVol s n f).slices = s.slices := rfl
@[simp] theorem modVol_qps : (modVol s n f).qps = s.qps := rfl
@[simp] theorem modVol_jobs : (modVol s n f).jobs = s.jobs := rfl
@[simp] theorem modVol_copies : (modVol s n f).copies = s.copies := rfl
@[simp] theorem modVol_scrubs : (modVol s n f).scrubs = s.scrubs := rfl
@[simp] theorem modVol_micro : (modVol s n f).micro = s.micro := rfl
@[simp] theorem modVol_trees : (modVol s n f).trees = s.trees := rfl
@[simp] theorem modVol_regions : (modVol s n f).regions = s.regions := rfl
@[simp] theorem modVol_blocks : (modVol s n f).blocks = s.blocks := rfl
@[simp] theorem modVol_cells : (modVol s n f).cells = s.cells := rfl
@[simp] theorem modVol_alm : (modVol s n f).alm = s.alm := rfl
@[simp] theorem modVol_root : (modVol s n f).root = s.root := rfl
@[simp] theorem modVol_fuses : (modVol s n f).fuses = s.fuses := rfl
@[simp] theorem modVol_tamper : (modVol s n f).tamper = s.tamper := rfl
@[simp] theorem modVol_tb : (modVol s n f).tb = s.tb := rfl
@[simp] theorem modVol_eph : (modVol s n f).eph = s.eph := rfl
@[simp] theorem modVol_ports : (modVol s n f).ports = s.ports := rfl
@[simp] theorem modVol_laneKeys : (modVol s n f).laneKeys = s.laneKeys := rfl
@[simp] theorem modVol_cards : (modVol s n f).cards = s.cards := rfl
@[simp] theorem modVol_cer : (modVol s n f).cer = s.cer := rfl
@[simp] theorem modVol_flt : (modVol s n f).flt = s.flt := rfl
@[simp] theorem modVol_intc : (modVol s n f).intc = s.intc := rfl
@[simp] theorem modVol_power : (modVol s n f).power = s.power := rfl
@[simp] theorem modVol_thermal : (modVol s n f).thermal = s.thermal := rfl
@[simp] theorem modVol_tap : (modVol s n f).tap = s.tap := rfl
end

section
variable (s : State) (n : Nat) (f : Tree → Tree)
@[simp] theorem modTree_pending : (modTree s n f).pending = s.pending := rfl
@[simp] theorem modTree_uptime : (modTree s n f).uptime = s.uptime := rfl
@[simp] theorem modTree_freeCtr : (modTree s n f).freeCtr = s.freeCtr := rfl
@[simp] theorem modTree_nextJob : (modTree s n f).nextJob = s.nextJob := rfl
@[simp] theorem modTree_out : (modTree s n f).out = s.out := rfl
@[simp] theorem modTree_supply : (modTree s n f).supply = s.supply := rfl
@[simp] theorem modTree_pins : (modTree s n f).pins = s.pins := rfl
@[simp] theorem modTree_chip : (modTree s n f).chip = s.chip := rfl
@[simp] theorem modTree_link : (modTree s n f).link = s.link := rfl
@[simp] theorem modTree_hdm : (modTree s n f).hdm = s.hdm := rfl
@[simp] theorem modTree_slices : (modTree s n f).slices = s.slices := rfl
@[simp] theorem modTree_qps : (modTree s n f).qps = s.qps := rfl
@[simp] theorem modTree_jobs : (modTree s n f).jobs = s.jobs := rfl
@[simp] theorem modTree_vols : (modTree s n f).vols = s.vols := rfl
@[simp] theorem modTree_copies : (modTree s n f).copies = s.copies := rfl
@[simp] theorem modTree_scrubs : (modTree s n f).scrubs = s.scrubs := rfl
@[simp] theorem modTree_micro : (modTree s n f).micro = s.micro := rfl
@[simp] theorem modTree_regions : (modTree s n f).regions = s.regions := rfl
@[simp] theorem modTree_blocks : (modTree s n f).blocks = s.blocks := rfl
@[simp] theorem modTree_cells : (modTree s n f).cells = s.cells := rfl
@[simp] theorem modTree_alm : (modTree s n f).alm = s.alm := rfl
@[simp] theorem modTree_root : (modTree s n f).root = s.root := rfl
@[simp] theorem modTree_fuses : (modTree s n f).fuses = s.fuses := rfl
@[simp] theorem modTree_tamper : (modTree s n f).tamper = s.tamper := rfl
@[simp] theorem modTree_tb : (modTree s n f).tb = s.tb := rfl
@[simp] theorem modTree_eph : (modTree s n f).eph = s.eph := rfl
@[simp] theorem modTree_ports : (modTree s n f).ports = s.ports := rfl
@[simp] theorem modTree_laneKeys : (modTree s n f).laneKeys = s.laneKeys := rfl
@[simp] theorem modTree_cards : (modTree s n f).cards = s.cards := rfl
@[simp] theorem modTree_cer : (modTree s n f).cer = s.cer := rfl
@[simp] theorem modTree_flt : (modTree s n f).flt = s.flt := rfl
@[simp] theorem modTree_intc : (modTree s n f).intc = s.intc := rfl
@[simp] theorem modTree_power : (modTree s n f).power = s.power := rfl
@[simp] theorem modTree_thermal : (modTree s n f).thermal = s.thermal := rfl
@[simp] theorem modTree_tap : (modTree s n f).tap = s.tap := rfl
end

section
variable (s : State) (n : Nat) (f : Job → Job)
@[simp] theorem modJob_pending : (modJob s n f).pending = s.pending := rfl
@[simp] theorem modJob_uptime : (modJob s n f).uptime = s.uptime := rfl
@[simp] theorem modJob_freeCtr : (modJob s n f).freeCtr = s.freeCtr := rfl
@[simp] theorem modJob_nextJob : (modJob s n f).nextJob = s.nextJob := rfl
@[simp] theorem modJob_out : (modJob s n f).out = s.out := rfl
@[simp] theorem modJob_supply : (modJob s n f).supply = s.supply := rfl
@[simp] theorem modJob_pins : (modJob s n f).pins = s.pins := rfl
@[simp] theorem modJob_chip : (modJob s n f).chip = s.chip := rfl
@[simp] theorem modJob_link : (modJob s n f).link = s.link := rfl
@[simp] theorem modJob_hdm : (modJob s n f).hdm = s.hdm := rfl
@[simp] theorem modJob_slices : (modJob s n f).slices = s.slices := rfl
@[simp] theorem modJob_qps : (modJob s n f).qps = s.qps := rfl
@[simp] theorem modJob_vols : (modJob s n f).vols = s.vols := rfl
@[simp] theorem modJob_copies : (modJob s n f).copies = s.copies := rfl
@[simp] theorem modJob_scrubs : (modJob s n f).scrubs = s.scrubs := rfl
@[simp] theorem modJob_micro : (modJob s n f).micro = s.micro := rfl
@[simp] theorem modJob_trees : (modJob s n f).trees = s.trees := rfl
@[simp] theorem modJob_regions : (modJob s n f).regions = s.regions := rfl
@[simp] theorem modJob_blocks : (modJob s n f).blocks = s.blocks := rfl
@[simp] theorem modJob_cells : (modJob s n f).cells = s.cells := rfl
@[simp] theorem modJob_alm : (modJob s n f).alm = s.alm := rfl
@[simp] theorem modJob_root : (modJob s n f).root = s.root := rfl
@[simp] theorem modJob_fuses : (modJob s n f).fuses = s.fuses := rfl
@[simp] theorem modJob_tamper : (modJob s n f).tamper = s.tamper := rfl
@[simp] theorem modJob_tb : (modJob s n f).tb = s.tb := rfl
@[simp] theorem modJob_eph : (modJob s n f).eph = s.eph := rfl
@[simp] theorem modJob_ports : (modJob s n f).ports = s.ports := rfl
@[simp] theorem modJob_laneKeys : (modJob s n f).laneKeys = s.laneKeys := rfl
@[simp] theorem modJob_cards : (modJob s n f).cards = s.cards := rfl
@[simp] theorem modJob_cer : (modJob s n f).cer = s.cer := rfl
@[simp] theorem modJob_flt : (modJob s n f).flt = s.flt := rfl
@[simp] theorem modJob_intc : (modJob s n f).intc = s.intc := rfl
@[simp] theorem modJob_power : (modJob s n f).power = s.power := rfl
@[simp] theorem modJob_thermal : (modJob s n f).thermal = s.thermal := rfl
@[simp] theorem modJob_tap : (modJob s n f).tap = s.tap := rfl
end

section
variable (s : State) (j : Job)
@[simp] theorem putJob_pending : (putJob s j).pending = s.pending := rfl
@[simp] theorem putJob_uptime : (putJob s j).uptime = s.uptime := rfl
@[simp] theorem putJob_freeCtr : (putJob s j).freeCtr = s.freeCtr := rfl
@[simp] theorem putJob_nextJob : (putJob s j).nextJob = s.nextJob := rfl
@[simp] theorem putJob_out : (putJob s j).out = s.out := rfl
@[simp] theorem putJob_supply : (putJob s j).supply = s.supply := rfl
@[simp] theorem putJob_pins : (putJob s j).pins = s.pins := rfl
@[simp] theorem putJob_chip : (putJob s j).chip = s.chip := rfl
@[simp] theorem putJob_link : (putJob s j).link = s.link := rfl
@[simp] theorem putJob_hdm : (putJob s j).hdm = s.hdm := rfl
@[simp] theorem putJob_slices : (putJob s j).slices = s.slices := rfl
@[simp] theorem putJob_qps : (putJob s j).qps = s.qps := rfl
@[simp] theorem putJob_vols : (putJob s j).vols = s.vols := rfl
@[simp] theorem putJob_copies : (putJob s j).copies = s.copies := rfl
@[simp] theorem putJob_scrubs : (putJob s j).scrubs = s.scrubs := rfl
@[simp] theorem putJob_micro : (putJob s j).micro = s.micro := rfl
@[simp] theorem putJob_trees : (putJob s j).trees = s.trees := rfl
@[simp] theorem putJob_regions : (putJob s j).regions = s.regions := rfl
@[simp] theorem putJob_blocks : (putJob s j).blocks = s.blocks := rfl
@[simp] theorem putJob_cells : (putJob s j).cells = s.cells := rfl
@[simp] theorem putJob_alm : (putJob s j).alm = s.alm := rfl
@[simp] theorem putJob_root : (putJob s j).root = s.root := rfl
@[simp] theorem putJob_fuses : (putJob s j).fuses = s.fuses := rfl
@[simp] theorem putJob_tamper : (putJob s j).tamper = s.tamper := rfl
@[simp] theorem putJob_tb : (putJob s j).tb = s.tb := rfl
@[simp] theorem putJob_eph : (putJob s j).eph = s.eph := rfl
@[simp] theorem putJob_ports : (putJob s j).ports = s.ports := rfl
@[simp] theorem putJob_laneKeys : (putJob s j).laneKeys = s.laneKeys := rfl
@[simp] theorem putJob_cards : (putJob s j).cards = s.cards := rfl
@[simp] theorem putJob_cer : (putJob s j).cer = s.cer := rfl
@[simp] theorem putJob_flt : (putJob s j).flt = s.flt := rfl
@[simp] theorem putJob_intc : (putJob s j).intc = s.intc := rfl
@[simp] theorem putJob_power : (putJob s j).power = s.power := rfl
@[simp] theorem putJob_thermal : (putJob s j).thermal = s.thermal := rfl
@[simp] theorem putJob_tap : (putJob s j).tap = s.tap := rfl
end

section
variable (s : State) (n : Nat)
@[simp] theorem dropJob_pending : (dropJob s n).pending = s.pending := rfl
@[simp] theorem dropJob_uptime : (dropJob s n).uptime = s.uptime := rfl
@[simp] theorem dropJob_freeCtr : (dropJob s n).freeCtr = s.freeCtr := rfl
@[simp] theorem dropJob_nextJob : (dropJob s n).nextJob = s.nextJob := rfl
@[simp] theorem dropJob_out : (dropJob s n).out = s.out := rfl
@[simp] theorem dropJob_supply : (dropJob s n).supply = s.supply := rfl
@[simp] theorem dropJob_pins : (dropJob s n).pins = s.pins := rfl
@[simp] theorem dropJob_chip : (dropJob s n).chip = s.chip := rfl
@[simp] theorem dropJob_link : (dropJob s n).link = s.link := rfl
@[simp] theorem dropJob_hdm : (dropJob s n).hdm = s.hdm := rfl
@[simp] theorem dropJob_slices : (dropJob s n).slices = s.slices := rfl
@[simp] theorem dropJob_qps : (dropJob s n).qps = s.qps := rfl
@[simp] theorem dropJob_vols : (dropJob s n).vols = s.vols := rfl
@[simp] theorem dropJob_copies : (dropJob s n).copies = s.copies := rfl
@[simp] theorem dropJob_scrubs : (dropJob s n).scrubs = s.scrubs := rfl
@[simp] theorem dropJob_micro : (dropJob s n).micro = s.micro := rfl
@[simp] theorem dropJob_trees : (dropJob s n).trees = s.trees := rfl
@[simp] theorem dropJob_regions : (dropJob s n).regions = s.regions := rfl
@[simp] theorem dropJob_blocks : (dropJob s n).blocks = s.blocks := rfl
@[simp] theorem dropJob_cells : (dropJob s n).cells = s.cells := rfl
@[simp] theorem dropJob_alm : (dropJob s n).alm = s.alm := rfl
@[simp] theorem dropJob_root : (dropJob s n).root = s.root := rfl
@[simp] theorem dropJob_fuses : (dropJob s n).fuses = s.fuses := rfl
@[simp] theorem dropJob_tamper : (dropJob s n).tamper = s.tamper := rfl
@[simp] theorem dropJob_tb : (dropJob s n).tb = s.tb := rfl
@[simp] theorem dropJob_eph : (dropJob s n).eph = s.eph := rfl
@[simp] theorem dropJob_ports : (dropJob s n).ports = s.ports := rfl
@[simp] theorem dropJob_laneKeys : (dropJob s n).laneKeys = s.laneKeys := rfl
@[simp] theorem dropJob_cards : (dropJob s n).cards = s.cards := rfl
@[simp] theorem dropJob_cer : (dropJob s n).cer = s.cer := rfl
@[simp] theorem dropJob_flt : (dropJob s n).flt = s.flt := rfl
@[simp] theorem dropJob_intc : (dropJob s n).intc = s.intc := rfl
@[simp] theorem dropJob_power : (dropJob s n).power = s.power := rfl
@[simp] theorem dropJob_thermal : (dropJob s n).thermal = s.thermal := rfl
@[simp] theorem dropJob_tap : (dropJob s n).tap = s.tap := rfl
end

section
variable (s : State) (o : Out)
@[simp] theorem emit_pending : (emit s o).pending = s.pending := rfl
@[simp] theorem emit_uptime : (emit s o).uptime = s.uptime := rfl
@[simp] theorem emit_freeCtr : (emit s o).freeCtr = s.freeCtr := rfl
@[simp] theorem emit_nextJob : (emit s o).nextJob = s.nextJob := rfl
@[simp] theorem emit_supply : (emit s o).supply = s.supply := rfl
@[simp] theorem emit_pins : (emit s o).pins = s.pins := rfl
@[simp] theorem emit_chip : (emit s o).chip = s.chip := rfl
@[simp] theorem emit_link : (emit s o).link = s.link := rfl
@[simp] theorem emit_hdm : (emit s o).hdm = s.hdm := rfl
@[simp] theorem emit_slices : (emit s o).slices = s.slices := rfl
@[simp] theorem emit_qps : (emit s o).qps = s.qps := rfl
@[simp] theorem emit_jobs : (emit s o).jobs = s.jobs := rfl
@[simp] theorem emit_vols : (emit s o).vols = s.vols := rfl
@[simp] theorem emit_copies : (emit s o).copies = s.copies := rfl
@[simp] theorem emit_scrubs : (emit s o).scrubs = s.scrubs := rfl
@[simp] theorem emit_micro : (emit s o).micro = s.micro := rfl
@[simp] theorem emit_trees : (emit s o).trees = s.trees := rfl
@[simp] theorem emit_regions : (emit s o).regions = s.regions := rfl
@[simp] theorem emit_blocks : (emit s o).blocks = s.blocks := rfl
@[simp] theorem emit_cells : (emit s o).cells = s.cells := rfl
@[simp] theorem emit_alm : (emit s o).alm = s.alm := rfl
@[simp] theorem emit_root : (emit s o).root = s.root := rfl
@[simp] theorem emit_fuses : (emit s o).fuses = s.fuses := rfl
@[simp] theorem emit_tamper : (emit s o).tamper = s.tamper := rfl
@[simp] theorem emit_tb : (emit s o).tb = s.tb := rfl
@[simp] theorem emit_eph : (emit s o).eph = s.eph := rfl
@[simp] theorem emit_ports : (emit s o).ports = s.ports := rfl
@[simp] theorem emit_laneKeys : (emit s o).laneKeys = s.laneKeys := rfl
@[simp] theorem emit_cards : (emit s o).cards = s.cards := rfl
@[simp] theorem emit_cer : (emit s o).cer = s.cer := rfl
@[simp] theorem emit_flt : (emit s o).flt = s.flt := rfl
@[simp] theorem emit_intc : (emit s o).intc = s.intc := rfl
@[simp] theorem emit_power : (emit s o).power = s.power := rfl
@[simp] theorem emit_thermal : (emit s o).thermal = s.thermal := rfl
@[simp] theorem emit_tap : (emit s o).tap = s.tap := rfl
end

section
variable (s : State) (n : Nat)
@[simp] theorem drew'_pending : (drew' s n).pending = s.pending := rfl
@[simp] theorem drew'_uptime : (drew' s n).uptime = s.uptime := rfl
@[simp] theorem drew'_nextJob : (drew' s n).nextJob = s.nextJob := rfl
@[simp] theorem drew'_out : (drew' s n).out = s.out := rfl
@[simp] theorem drew'_supply : (drew' s n).supply = s.supply := rfl
@[simp] theorem drew'_pins : (drew' s n).pins = s.pins := rfl
@[simp] theorem drew'_chip : (drew' s n).chip = s.chip := rfl
@[simp] theorem drew'_link : (drew' s n).link = s.link := rfl
@[simp] theorem drew'_hdm : (drew' s n).hdm = s.hdm := rfl
@[simp] theorem drew'_slices : (drew' s n).slices = s.slices := rfl
@[simp] theorem drew'_qps : (drew' s n).qps = s.qps := rfl
@[simp] theorem drew'_jobs : (drew' s n).jobs = s.jobs := rfl
@[simp] theorem drew'_vols : (drew' s n).vols = s.vols := rfl
@[simp] theorem drew'_copies : (drew' s n).copies = s.copies := rfl
@[simp] theorem drew'_scrubs : (drew' s n).scrubs = s.scrubs := rfl
@[simp] theorem drew'_micro : (drew' s n).micro = s.micro := rfl
@[simp] theorem drew'_trees : (drew' s n).trees = s.trees := rfl
@[simp] theorem drew'_regions : (drew' s n).regions = s.regions := rfl
@[simp] theorem drew'_blocks : (drew' s n).blocks = s.blocks := rfl
@[simp] theorem drew'_cells : (drew' s n).cells = s.cells := rfl
@[simp] theorem drew'_alm : (drew' s n).alm = s.alm := rfl
@[simp] theorem drew'_root : (drew' s n).root = s.root := rfl
@[simp] theorem drew'_fuses : (drew' s n).fuses = s.fuses := rfl
@[simp] theorem drew'_tamper : (drew' s n).tamper = s.tamper := rfl
@[simp] theorem drew'_tb : (drew' s n).tb = s.tb := rfl
@[simp] theorem drew'_eph : (drew' s n).eph = s.eph := rfl
@[simp] theorem drew'_ports : (drew' s n).ports = s.ports := rfl
@[simp] theorem drew'_laneKeys : (drew' s n).laneKeys = s.laneKeys := rfl
@[simp] theorem drew'_cards : (drew' s n).cards = s.cards := rfl
@[simp] theorem drew'_cer : (drew' s n).cer = s.cer := rfl
@[simp] theorem drew'_flt : (drew' s n).flt = s.flt := rfl
@[simp] theorem drew'_intc : (drew' s n).intc = s.intc := rfl
@[simp] theorem drew'_power : (drew' s n).power = s.power := rfl
@[simp] theorem drew'_thermal : (drew' s n).thermal = s.thermal := rfl
@[simp] theorem drew'_tap : (drew' s n).tap = s.tap := rfl
end

section
variable (s : State) 
@[simp] theorem smbAlert_pending : (smbAlert s).pending = s.pending := rfl
@[simp] theorem smbAlert_uptime : (smbAlert s).uptime = s.uptime := rfl
@[simp] theorem smbAlert_freeCtr : (smbAlert s).freeCtr = s.freeCtr := rfl
@[simp] theorem smbAlert_nextJob : (smbAlert s).nextJob = s.nextJob := rfl
@[simp] theorem smbAlert_out : (smbAlert s).out = s.out := rfl
@[simp] theorem smbAlert_supply : (smbAlert s).supply = s.supply := rfl
@[simp] theorem smbAlert_chip : (smbAlert s).chip = s.chip := rfl
@[simp] theorem smbAlert_link : (smbAlert s).link = s.link := rfl
@[simp] theorem smbAlert_hdm : (smbAlert s).hdm = s.hdm := rfl
@[simp] theorem smbAlert_slices : (smbAlert s).slices = s.slices := rfl
@[simp] theorem smbAlert_qps : (smbAlert s).qps = s.qps := rfl
@[simp] theorem smbAlert_jobs : (smbAlert s).jobs = s.jobs := rfl
@[simp] theorem smbAlert_vols : (smbAlert s).vols = s.vols := rfl
@[simp] theorem smbAlert_copies : (smbAlert s).copies = s.copies := rfl
@[simp] theorem smbAlert_scrubs : (smbAlert s).scrubs = s.scrubs := rfl
@[simp] theorem smbAlert_micro : (smbAlert s).micro = s.micro := rfl
@[simp] theorem smbAlert_trees : (smbAlert s).trees = s.trees := rfl
@[simp] theorem smbAlert_regions : (smbAlert s).regions = s.regions := rfl
@[simp] theorem smbAlert_blocks : (smbAlert s).blocks = s.blocks := rfl
@[simp] theorem smbAlert_cells : (smbAlert s).cells = s.cells := rfl
@[simp] theorem smbAlert_alm : (smbAlert s).alm = s.alm := rfl
@[simp] theorem smbAlert_root : (smbAlert s).root = s.root := rfl
@[simp] theorem smbAlert_fuses : (smbAlert s).fuses = s.fuses := rfl
@[simp] theorem smbAlert_tamper : (smbAlert s).tamper = s.tamper := rfl
@[simp] theorem smbAlert_tb : (smbAlert s).tb = s.tb := rfl
@[simp] theorem smbAlert_eph : (smbAlert s).eph = s.eph := rfl
@[simp] theorem smbAlert_ports : (smbAlert s).ports = s.ports := rfl
@[simp] theorem smbAlert_laneKeys : (smbAlert s).laneKeys = s.laneKeys := rfl
@[simp] theorem smbAlert_cards : (smbAlert s).cards = s.cards := rfl
@[simp] theorem smbAlert_cer : (smbAlert s).cer = s.cer := rfl
@[simp] theorem smbAlert_flt : (smbAlert s).flt = s.flt := rfl
@[simp] theorem smbAlert_intc : (smbAlert s).intc = s.intc := rfl
@[simp] theorem smbAlert_power : (smbAlert s).power = s.power := rfl
@[simp] theorem smbAlert_thermal : (smbAlert s).thermal = s.thermal := rfl
@[simp] theorem smbAlert_tap : (smbAlert s).tap = s.tap := rfl
end

@[simp] theorem getSlice_modSlice (s : State) (n : Nat) (f : Slice → Slice) : getSlice (modSlice s n f) n = f (getSlice s n) :=
  mapGet_mod_same _ _ _ _

theorem getSlice_modSlice_other (s : State) {n k : Nat} (f : Slice → Slice) (h : k ≠ n) : getSlice (modSlice s n f) k = getSlice s k :=
  mapGet_mod_other _ _ _ h

@[simp] theorem modSlice_modSlice (s : State) (n : Nat) (f g : Slice → Slice) :
    modSlice (modSlice s n f) n g = modSlice s n (fun x => g (f x)) := by
  simp [modSlice]

@[simp] theorem getCell_modCell (s : State) (n : Nat) (f : Cell → Cell) : getCell (modCell s n f) n = f (getCell s n) :=
  mapGet_mod_same _ _ _ _

theorem getCell_modCell_other (s : State) {n k : Nat} (f : Cell → Cell) (h : k ≠ n) : getCell (modCell s n f) k = getCell s k :=
  mapGet_mod_other _ _ _ h

@[simp] theorem modCell_modCell (s : State) (n : Nat) (f g : Cell → Cell) :
    modCell (modCell s n f) n g = modCell s n (fun x => g (f x)) := by
  simp [modCell]

@[simp] theorem getBlock_modBlock (s : State) (n : Nat) (f : Block → Block) : getBlock (modBlock s n f) n = f (getBlock s n) :=
  mapGet_mod_same _ _ _ _

theorem getBlock_modBlock_other (s : State) {n k : Nat} (f : Block → Block) (h : k ≠ n) : getBlock (modBlock s n f) k = getBlock s k :=
  mapGet_mod_other _ _ _ h

@[simp] theorem modBlock_modBlock (s : State) (n : Nat) (f g : Block → Block) :
    modBlock (modBlock s n f) n g = modBlock s n (fun x => g (f x)) := by
  simp [modBlock]

@[simp] theorem getRegion_modRegion (s : State) (n : Nat) (f : Region → Region) : getRegion (modRegion s n f) n = f (getRegion s n) :=
  mapGet_mod_same _ _ _ _

theorem getRegion_modRegion_other (s : State) {n k : Nat} (f : Region → Region) (h : k ≠ n) : getRegion (modRegion s n f) k = getRegion s k :=
  mapGet_mod_other _ _ _ h

@[simp] theorem modRegion_modRegion (s : State) (n : Nat) (f g : Region → Region) :
    modRegion (modRegion s n f) n g = modRegion s n (fun x => g (f x)) := by
  simp [modRegion]

@[simp] theorem getPort_modPort (s : State) (n : Nat) (f : Port → Port) : getPort (modPort s n f) n = f (getPort s n) :=
  mapGet_mod_same _ _ _ _

theorem getPort_modPort_other (s : State) {n k : Nat} (f : Port → Port) (h : k ≠ n) : getPort (modPort s n f) k = getPort s k :=
  mapGet_mod_other _ _ _ h

@[simp] theorem modPort_modPort (s : State) (n : Nat) (f g : Port → Port) :
    modPort (modPort s n f) n g = modPort s n (fun x => g (f x)) := by
  simp [modPort]

@[simp] theorem getCard_modCard (s : State) (n : Nat) (f : CardSlot → CardSlot) : getCard (modCard s n f) n = f (getCard s n) :=
  mapGet_mod_same _ _ _ _

theorem getCard_modCard_other (s : State) {n k : Nat} (f : CardSlot → CardSlot) (h : k ≠ n) : getCard (modCard s n f) k = getCard s k :=
  mapGet_mod_other _ _ _ h

@[simp] theorem modCard_modCard (s : State) (n : Nat) (f g : CardSlot → CardSlot) :
    modCard (modCard s n f) n g = modCard s n (fun x => g (f x)) := by
  simp [modCard]

@[simp] theorem getDom_modDom (s : State) (n : Nat) (f : Dom → Dom) : getDom (modDom s n f) n = f (getDom s n) :=
  mapGet_mod_same _ _ _ _

theorem getDom_modDom_other (s : State) {n k : Nat} (f : Dom → Dom) (h : k ≠ n) : getDom (modDom s n f) k = getDom s k :=
  mapGet_mod_other _ _ _ h

@[simp] theorem modDom_modDom (s : State) (n : Nat) (f g : Dom → Dom) :
    modDom (modDom s n f) n g = modDom s n (fun x => g (f x)) := by
  simp [modDom]

@[simp] theorem getUnit_modUnit (s : State) (n : Nat) (f : FltUnit → FltUnit) : getUnit (modUnit s n f) n = f (getUnit s n) :=
  mapGet_mod_same _ _ _ _

theorem getUnit_modUnit_other (s : State) {n k : Nat} (f : FltUnit → FltUnit) (h : k ≠ n) : getUnit (modUnit s n f) k = getUnit s k :=
  mapGet_mod_other _ _ _ h

@[simp] theorem modUnit_modUnit (s : State) (n : Nat) (f g : FltUnit → FltUnit) :
    modUnit (modUnit s n f) n g = modUnit s n (fun x => g (f x)) := by
  simp [modUnit]

@[simp] theorem getHandler_modHandler (s : State) (n : Nat) (f : Handler → Handler) : getHandler (modHandler s n f) n = f (getHandler s n) :=
  mapGet_mod_same _ _ _ _

theorem getHandler_modHandler_other (s : State) {n k : Nat} (f : Handler → Handler) (h : k ≠ n) : getHandler (modHandler s n f) k = getHandler s k :=
  mapGet_mod_other _ _ _ h

@[simp] theorem modHandler_modHandler (s : State) (n : Nat) (f g : Handler → Handler) :
    modHandler (modHandler s n f) n g = modHandler s n (fun x => g (f x)) := by
  simp [modHandler]

@[simp] theorem getVol_modVol (s : State) (n : Nat) (f : VolEnt → VolEnt) : getVol (modVol s n f) n = f (getVol s n) :=
  mapGet_mod_same _ _ _ _

theorem getVol_modVol_other (s : State) {n k : Nat} (f : VolEnt → VolEnt) (h : k ≠ n) : getVol (modVol s n f) k = getVol s k :=
  mapGet_mod_other _ _ _ h

@[simp] theorem modVol_modVol (s : State) (n : Nat) (f g : VolEnt → VolEnt) :
    modVol (modVol s n f) n g = modVol s n (fun x => g (f x)) := by
  simp [modVol]

@[simp] theorem getTree_modTree (s : State) (n : Nat) (f : Tree → Tree) : getTree (modTree s n f) n = f (getTree s n) :=
  mapGet_mod_same _ _ _ _

theorem getTree_modTree_other (s : State) {n k : Nat} (f : Tree → Tree) (h : k ≠ n) : getTree (modTree s n f) k = getTree s k :=
  mapGet_mod_other _ _ _ h

@[simp] theorem modTree_modTree (s : State) (n : Nat) (f g : Tree → Tree) :
    modTree (modTree s n f) n g = modTree s n (fun x => g (f x)) := by
  simp [modTree]

end Sys2Proof.Laws
end

