-- ==== Sys2Proof/Machine/Ball.lean ====
section
/-! DEFINITION. The ball map (R515 to R518, R520): the rows and columns of the array, the balls of the signals, and the rail of every other
position. Nothing of it changes with the state. -/

namespace Sys2Proof.Machine

/-- A ball: its row name and its column 1 to 54. -/
structure Ball where
  row : String
  col : Nat
  deriving DecidableEq, Repr

/-- The letters of a row name. -/
def rowLetters : List String := ["A", "B", "C", "D", "E", "F", "G", "H", "J", "K", "L", "M", "N", "P", "T", "U", "V", "W", "Y"]

/-- The 54 rows from the A1 corner, A of index 1 and BU of index 54 (R515). -/
def ballRows : List String := (rowLetters ++ rowLetters.map ("A" ++ ·) ++ rowLetters.map ("B" ++ ·)).take 54

/-- The row of an index counted from 1. -/
def rowName (k : Nat) : String := ballRows.getD (k - 1) ""

/-- Single signals and the pairs outside the lane groups (R516). -/
def singleBalls : List (String × Ball) :=
  [("RESET#", ⟨"AD", 7⟩), ("FAULT#", ⟨"AD", 9⟩), ("ALERT#", ⟨"AD", 11⟩), ("SMBCLK", ⟨"AD", 13⟩), ("SMBDAT", ⟨"AD", 15⟩),
   ("SMBALERT#", ⟨"AD", 17⟩), ("TPPS_IN", ⟨"AD", 19⟩), ("TREF_IN", ⟨"AD", 21⟩), ("TPPS_OUT", ⟨"AD", 23⟩), ("CASE_SW0", ⟨"AA", 35⟩),
   ("CASE_SW1", ⟨"AB", 35⟩), ("VBAT", ⟨"AA", 37⟩), ("VBAT", ⟨"AB", 37⟩), ("TCK", ⟨"AF", 1⟩), ("TMS", ⟨"AF", 3⟩), ("TDI", ⟨"AF", 5⟩)] ++
  [("TDO", ⟨"AF", 7⟩), ("TRST#", ⟨"AF", 9⟩), ("SYS_CLK_P", ⟨"AF", 11⟩), ("SYS_CLK_N", ⟨"AF", 12⟩), ("TDIODE0_P", ⟨"AF", 14⟩),
   ("TDIODE0_N", ⟨"AF", 15⟩), ("TDIODE1_P", ⟨"AF", 17⟩), ("TDIODE1_N", ⟨"AF", 18⟩), ("PERST#", ⟨"BN", 15⟩), ("CXL_REFCLK_P", ⟨"BU", 15⟩),
   ("CXL_REFCLK_N", ⟨"BU", 16⟩)]

/-- Leg `neg` (0 P, 1 N) of CXL lane `n` (R517). -/
def cxlBall (tx : Bool) (n neg : Nat) : Ball := ⟨if tx then "BU" else "BP", 19 + 4 * n + neg⟩

/-- Leg `neg` of pair `k` of key-lane port `n`: 0 to 3 the data, 4 the clock, 5 the frame pair (R517). -/
def laneBall (tx : Bool) (n k neg : Nat) : Ball :=
  ⟨(if tx then ["A", "E", "J"] else ["C", "G", "L"]).getD (n / 3) "", 1 + 18 * (n % 3) + 3 * k + neg⟩

/-- Signal `i` of card slot `n`: CLK, CMD, DAT0 to DAT3, DET#, WP, PWREN (R517). -/
def cardBall (n i : Nat) : Ball := ⟨"V", 1 + 10 * n + i⟩

/-- TLOOPn_OUT and TLOOPn_IN (R517). -/
def loopBall (out : Bool) (n : Nat) : Ball := ⟨if out then "AA" else "AB", 1 + 2 * n⟩

/-- Every signal ball (R516, R517). -/
def signalBalls : List Ball :=
  singleBalls.map (fun e => e.2) ++
  (List.range 2).flatMap (fun d =>
    (List.range 8).flatMap (fun n => (List.range 2).map (cxlBall (d == 0) n)) ++
    (List.range 8).flatMap (fun n => (List.range 6).flatMap (fun k => (List.range 2).map (laneBall (d == 0) n k))) ++
    (List.range 16).map (loopBall (d == 0))) ++
  (List.range 4).flatMap (fun n => (List.range 9).map (cardBall n))

/-- The rails of the power balls. -/
inductive Rail where
  | vss | core | sram | hbm | vddql | io | cxlL | cxlH | aux
  deriving DecidableEq, Repr

/-- The rail of the position in row `r` (index counted from 1) and column `c`, where no signal lies (R518, R520). -/
def railAt (r c : Nat) : Rail :=
  let name := rowName r
  if 26 ≤ r ∧ r ≤ 47 then (if (r + c) % 2 = 0 then (if 10 ≤ c ∧ c ≤ 45 then .core else .sram) else .vss)
  else if name = "M" ∨ name = "P" then .hbm
  else if name = "N" ∨ name = "T" then .vddql
  else if name = "D" ∨ name = "H" then (if c % 2 = 1 then .io else .vss)
  else if name = "BK" then (if c % 2 = 1 then .cxlL else .vss)
  else if name = "BM" then (if c % 2 = 1 then .cxlH else .vss)
  else if name = "AE" then (if c ≤ 8 then .aux else .vss)
  else .vss

end Sys2Proof.Machine
end

