-- ==== Sys2Proof/Tests/Slice0.lean ====
section
/-! SUPPORT. Small checks of the model: the well-formedness smoke, one step of every family against the spec's words and
worked examples, and for every statement of the certificates states and operands that meet its hypotheses. -/

namespace Sys2Proof.Tests

open Sys2Proof.Machine

-- One theorem after another: each kernel evaluation in a thread of its own would need its own stack.
set_option Elab.async false

/-! ### Well-formedness: an ill-formed term for each check, and the boundary that passes -/

theorem test_wf_slice : (Instr.slNotifyClear 64 1).wf = false ∧ (Instr.slNotifyClear 63 1).wf = true := by decide
theorem test_wf_queue_pair : (Instr.qpDisable 64 0).wf = false ∧ (Instr.qpDisable 0 4).wf = false ∧
    (Instr.qpDisable 63 3).wf = true := by decide
theorem test_wf_region : (Instr.dispatchPick 4 0).wf = false ∧ (Instr.dispatchPick 0 3).wf = false ∧
    (Instr.dispatchPick 3 2).wf = true := by decide
theorem test_wf_cell : (Instr.add 128).wf = false ∧ (Instr.add 127).wf = true := by decide
theorem test_wf_block : (Instr.bneSegmentEnd 16).wf = false ∧ (Instr.bneSegmentEnd 15).wf = true := by decide
theorem test_wf_stream : (Instr.ideKm 3 0).wf = false ∧ (Instr.ideKm 0 2).wf = false ∧ (Instr.ideKm 2 1).wf = true := by decide
theorem test_wf_rail : (Instr.supplyWarning 4).wf = false ∧ (Instr.supplyWarning 3).wf = true := by decide
theorem test_wf_unit : (Instr.faultDetect 1 0x94 0).wf = false ∧ (Instr.faultDetect 1 0xC6 0).wf = false ∧
    (Instr.faultDetect 1 0xE8 0).wf = false ∧ (Instr.faultDetect 1 0x93 0).wf = true ∧ (Instr.faultDetect 1 0xE7 0).wf = true := by decide
theorem test_wf_slot : (Instr.slotZeroing 262144 true).wf = false ∧ (Instr.slotZeroing 262143 true).wf = true := by decide

/-- A command that names a unit that does not exist stops with its own fault (assumption 6). -/
theorem test_no_such_cell : (match exec (.add 128) State.reset with | .fault .noSuchUnit => true | _ => false) = true := by decide +kernel

/-! ### A device in service -/

/-- A job input of nothing. -/
def io0 : JobIo := JobIo.quiet

/-- The device in SERVICE and OWNED with its link up. -/
def up : State :=
  { State.reset with
    chip := { State.reset.chip with mode := .service, lc := .owned }
    link := { State.reset.link with up := true, cxl := true, busMaster := true, atsEn := true } }

/-- The same, with random bits at hand in every region. -/
def upRng : State := (List.range 4).foldl (fun s r => modRng s r (fun x => { x with src := 2, drbg := 1, seedSrc := r })) up

/-! ### Microwords -/

/-- A word with its two parity bits (R202). -/
def mw (op a b c imm cond next : Nat) : MicroWord :=
  let hi := op * 2 ^ 42 + a * 2 ^ 37 + b * 2 ^ 32 + c * 2 ^ 27 + imm * 2 ^ 18 + cond * 2 ^ 14 + next * 4
  let p1 := b2n (parityOf hi 47 24)
  let p0 := b2n (parityOf (hi + 2 * p1) 23 1)
  BitVec.ofNat 48 (hi + 2 * p1 + p0)

/-- Cell 5 stands at word `w`, at address 0x100. -/
def onWord (w : MicroWord) (f : Cell → Cell) : State :=
  modCell up 5 (fun c => f { c with pc := 0x100, store := [(0x100, w)] })

/-- X[1] is 2^64 - 1 and X[2] is 1. -/
def ones (c : Cell) : Cell := setX (setX c 1 (BitVec.ofNat 64 (2 ^ 64 - 1)) 0) 2 1 0

/-- Two registers with the bytes 0x0FF0 and 0x00FF, V[2] of 16-bit elements of 1. -/
def vecs (c : Cell) : Cell := setV (setV { c with vmod := 3329 } 1 (BitVec.ofNat 128 3328) 0) 2 (BitVec.ofNat 128 1) 0

/-- The example of chapter 07: VADDM V3, V1, V2 at 0xC04 is 0xB86110043015. -/
theorem test_word_of_the_spec : mw 0x2E 3 1 2 1 0 0xC05 = 0xB86110043015 ∧ wParityOk 0xB86110043015 = true ∧
    wOp 0xB86110043015 = 0x2E ∧ wA 0xB86110043015 = 3 ∧ wB 0xB86110043015 = 1 ∧ wC 0xB86110043015 = 2 ∧
    wImm 0xB86110043015 = 1 ∧ wCond 0xB86110043015 = 0 ∧ wNext 0xB86110043015 = 0xC05 := by decide +kernel

/-- A word with one bit flipped fails a check. -/
theorem test_flipped_bit : wParityOk 0xB86110043014 = false ∧ wParityOk 0xB86110043011 = false ∧
    wParityOk 0x386110043015 = false := by decide +kernel

/-- The cell after a step on `w`. -/
def after (i : Instr) (w : MicroWord) (f : Cell → Cell) (p : Cell → Bool) : Bool :=
  match exec i (onWord w f) with
  | .next t => p (getCell t 5)
  | _ => false

theorem test_add_wraps : after (.add 5) (mw 1 3 1 2 0 0 0x101) ones
    (fun c => getX c 3 == 0 && c.z && !c.n && c.c && c.pc == 0x101) = true := by decide +kernel
theorem test_sub_borrow : after (.sub 5) (mw 2 3 2 1 0 0 0x101) ones (fun c => getX c 3 == 2 && !c.c && !c.z) = true := by decide +kernel
theorem test_addi_negative : after (.addi 5) (mw 3 3 2 0 0x1FF 0 0x101) ones (fun c => getX c 3 == 0 && c.z && c.c) = true := by decide +kernel
theorem test_mulhu : after (.mulhu 5) (mw 0x0B 3 1 1 0 0 0x101) ones
    (fun c => getX c 3 == BitVec.ofNat 64 (2 ^ 64 - 2)) = true := by decide +kernel
theorem test_sar : after (.sar 5) (mw 0x09 3 1 0 4 0 0x101) ones (fun c => getX c 3 == BitVec.ofNat 64 (2 ^ 64 - 1) && c.n) = true := by decide +kernel
theorem test_lds : after (.lds 5) (mw 0x0C 2 0 0 0x0FF 0 0x101) ones (fun c => getX c 2 == 0x2FF) = true := by decide +kernel
theorem test_cmp_equal : after (.cmp 5) (mw 0x0D 0 1 1 0 0 0x101) ones (fun c => c.z && c.c && getX c 3 == 0) = true := by decide +kernel
theorem test_or_with_source_as_destination : after (.orOp 5) (mw 5 2 1 2 0 0 0x101) ones
    (fun c => getX c 2 == BitVec.ofNat 64 (2 ^ 64 - 1)) = true := by decide +kernel
theorem test_tagged_add_takes_the_tag : after (.add 5) (mw 1 3 1 2 0 0 0x101) (fun c => setX (setX c 1 5 2) 2 1 0)
    (fun c => getX c 3 == 6 && tagX c 3 == 2 && !c.z) = true := by decide +kernel
theorem test_two_shares_meet : after (.add 5) (mw 1 3 1 2 0 0 0x101) (fun c => setX (setX c 1 5 2) 2 1 1)
    (fun c => getX c 3 == 0 && c.mCause != 0) = true := by decide +kernel
theorem test_vaddm : after (.vaddm 5) (mw 0x2E 3 1 2 1 0 0x101) vecs (fun c => getV c 3 == 0) = true := by decide +kernel
theorem test_vsubm : after (.vsubm 5) (mw 0x2F 3 2 1 1 0 0x101) vecs (fun c => getV c 3 == 2) = true := by decide +kernel
theorem test_vsubm_lifts : after (.vsubm 5) (mw 0x2F 3 0 2 1 0 0x101) vecs (fun c => getV c 3 == 3328) = true := by decide +kernel
theorem test_vcomp_of_fips203 : after (.vcomp 5) (mw 0x3A 3 1 0 5 0 0x101) (fun c => setV (vecs c) 1 1665 0)
    (fun c => getV c 3 == 1) = true := by decide +kernel
theorem test_store_then_load : after (.st 5) (mw 0x0F 0 0 1 1 0 0x101) ones
    (fun c => cread c 8 8 == List.replicate 8 255 && cread c 0 8 == List.replicate 8 0) = true := by decide +kernel
theorem test_misaligned_load_faults : after (.ld 5) (mw 0x0E 3 2 0 0 0 0x101) ones
    (fun c => c.fValid && c.fKind == 3 && c.fAddr == 1 && c.pc == 0x100 || c.mCause != 0) = true := by decide +kernel
theorem test_ntt_then_intt : nttInv 3329 (nttFwd 3329 (1 :: 2 :: List.replicate 254 0)) = 1 :: 2 :: List.replicate 254 0 := by
  decide +kernel
theorem test_cond_z_and_nz : after (.add 5) (mw 1 3 1 2 0 1 0x102) ones (fun c => c.pc == 0x102) = true ∧
    after (.add 5) (mw 1 3 1 2 0 2 0x102) ones (fun c => c.pc == 0x103) = true := by decide +kernel

/-! ### Witnesses: microwords -/

/-- Every one of these conditions holds. -/
def holds (l : List Bool) : Bool := l.all id

/-- The word is ready on cell 5 of the state made for it. -/
def wordReady (w : MicroWord) (f : Cell → Cell) : Bool := wordAt (onWord w f) 5 w

/-- The cell of that state. -/
def onCell (w : MicroWord) (f : Cell → Cell) : Cell := getCell (onWord w f) 5

theorem meets_scalar_arithmetic :
    (∀ op ∈ [1, 2, 0x0A, 0x0B], let w := mw op 15 1 2 0 0 0x101
      wordReady w ones = true ∧ wOp w = op ∧ formRRR w = true ∧ tagX (onCell w ones) 1 = 0 ∧ tagX (onCell w ones) 2 = 0) ∧
    (let w := mw 1 3 1 2 0 0 0x101
     let f := fun c => setX (setX c 1 5 2) 2 1 0
     wordReady w f = true ∧ formRRR w = true ∧ joinTag (tagX (onCell w f) 1) (tagX (onCell w f) 2) = some 2) ∧
    (let w := mw 3 3 1 0 0x1FF 0 0x101
     wordReady w ones = true ∧ wOp w = 3 ∧ reg (wA w) = true ∧ reg (wB w) = true ∧ wC w = 0 ∧ tagX (onCell w ones) 1 = 0) ∧
    (let w := mw 0x0D 0 15 2 0 0 0x101
     wordReady w ones = true ∧ wOp w = 0x0D ∧ wA w = 0 ∧ reg (wB w) = true ∧ reg (wC w) = true ∧ wImm w = 0 ∧
       tagX (onCell w ones) 15 = 0 ∧ tagX (onCell w ones) 2 = 0) := by decide +kernel

theorem meets_scalar_logic :
    (∀ op ∈ [4, 5, 6], let w := mw op 15 1 2 0 0 0x101
      wordReady w ones = true ∧ wOp w = op ∧ formRRR w = true ∧ oneTag (tagX (onCell w ones) 1) (tagX (onCell w ones) 2) = some 0 ∧
        joinTag (tagX (onCell w ones) 1) (tagX (onCell w ones) 2) = some 0) ∧
    (∀ op ∈ [7, 8, 9], (let w := mw op 3 1 0 63 0 0x101
      wordReady w ones = true ∧ wOp w = op ∧ formShift w = true ∧ oneTag (tagX (onCell w ones) 1) (shiftTag (onCell w ones) w) = some 0) ∧
      (let w := mw op 3 1 2 0x100 0 0x101
      wordReady w ones = true ∧ wOp w = op ∧ formShift w = true ∧ oneTag (tagX (onCell w ones) 1) (shiftTag (onCell w ones) w) = some 0)) ∧
    (let w := mw 0x0C 15 0 0 0x1FF 0 0x101
     wordReady w ones = true ∧ wOp w = 0x0C ∧ reg (wA w) = true ∧ wB w = 0 ∧ wC w = 0 ∧ tagX (onCell w ones) 15 = 0) := by
  decide +kernel

theorem meets_cell_registers :
    holds [wordReady (mw 0 0 0 0 0 0 0x101) id, wOp (mw 0 0 0 0 0 0 0x101) = 0] ∧
    (∀ k ∈ [0, 0x1C, 0x1FF], let w := mw 0x10 15 0 0 k 0 0x101
      holds [wordReady w id, wOp w = 0x10, reg (wA w), wB w = 0, wC w = 0, wImm w = k]) ∧
    (let w := mw 0x11 0 1 0 0x0A 0 0x101
     holds [wordReady w ones, wOp w = 0x11, wA w = 0, reg (wB w), wC w = 0, tagX (onCell w ones) 1 = 0, !custPc (onCell w ones)]) ∧
    (let w := mw 0x14 0 1 0 0 0 0x101
     holds [wordReady w ones, wOp w = 0x14, wA w = 0, reg (wB w), wC w = 0, wImm w = 0, tagX (onCell w ones) 1 = 0]) ∧
    (∀ op ∈ [0x26, 0x27, 0x3F], holds [wordReady (mw op 0 0 0 0 0 0x101) id, wOp (mw op 0 0 0 0 0 0x101) = op]) := by
  decide +kernel

theorem meets_call_and_return :
    (let w := mw 0x12 2 1 1 0 0 0xC00
     let f := fun c : Cell => { c with stack := List.replicate 7 0 }
     holds [wordReady w f, wOp w = 0x12, bits w.toNat 41 39 = 0, wImm w = 0, (onCell w f).stack.length < 8, !custPc (onCell w f)]) ∧
    (let w := mw 0x13 0 0 0 0 0 0
     let f := fun c : Cell => { c with stack := [0x200] }
     holds [wordReady w f, wOp w = 0x13, wA w = 0, wB w = 0, wC w = 0, wNext w = 0, wImm w = 0, (onCell w f).stack = [0x200],
       transferOk (onCell w f) 0x200]) ∧
    (let w := mw 0x13 0 0 0 1 0 0
     holds [wordReady w id, wOp w = 0x13, wA w = 0, wB w = 0, wC w = 0, wNext w = 0, wImm w = 1,
       transferOk (onCell w id) (onCell w id).fPc]) := by decide +kernel

theorem meets_pwait : ∀ target ∈ [1, 4],
    let w := mw 0x15 0 0 0 0 15 0x101
    holds [wordReady w id, wOp w = 0x15, wA w = 0, wB w = 0, wC w = 0, wImm w = 0, !custPc (onCell w id), (onCell w id).job = none,
      regionKeeps (onWord w id) 5, !(getDom (onWord w id) 5).forced, !(getDom (onWord w id) 5).failed, 1 ≤ target, target ≤ 4] := by
  decide +kernel

/-- X[1] is a line address of scratch. -/
def based (c : Cell) : Cell := setX (setX c 1 0xFFC0 0) 2 7 0

theorem meets_loads_and_stores :
    (let w := mw 0x0E 3 1 0 7 0 0x101
     let c := onCell w based
     holds [wordReady w based, wOp w = 0x0E, reg (wA w), reg (wB w), wC w = 0, tagX c 1 = 0, eaScalar c w = 0xFFF8,
       accessKind c (eaScalar c w) 8 = 0]) ∧
    (let w := mw 0x0F 0 1 2 7 0 0x101
     let c := onCell w based
     holds [wordReady w based, wOp w = 0x0F, wA w = 0, reg (wB w), reg (wC w), tagX c 1 = 0, storeTagOk c 0xFFF8 (tagX c 2),
       eaScalar c w = 0xFFF8, accessKind c 0xFFF8 8 = 0]) ∧
    (∀ op ∈ [0x28, 0x29], let w := mw op 3 1 0 0x1FC 0 0x101
     let c := onCell w based
     holds [wordReady w based, wOp w = op, reg (wA w), reg (wB w), wC w = 0, tagX c 1 = 0, eaVector c w = 0xFFB0,
       storeTagOk c 0xFFB0 (tagV c 3), accessKind c 0xFFB0 16 = 0]) ∧
    (∀ op ∈ [0x3D, 0x3E], ∀ e ∈ [0, 1, 2, 3], let w := mw op 3 1 2 e 0 0x101
     let c := onCell w based
     holds [wordReady w based, wOp w = op, formVVV w, tagX c 1 = 0, tagV c 2 = 0,
       (eaElems c w).all (fun x => accessKind c x (elemW e / 8) == 0), joinTags c (eaElems c w) = some 0,
       (eaElems c w).all (fun x => storeTagOk c x (tagV c 3))]) := by decide +kernel

/-! #### Ports -/

/-- A job of slice 1 on cell 5, with one key of a 64-byte value and all pages of the window mapped. -/
def cellJob : Job :=
  { id := 1, slice := 1, qp := 0, lc := 1, pos := .running 5, region := 0, block := 0, unit := 5, replays := 0, checkFails := 0, keys := [
      { handle := 0, kind := 1, alg := 0x0C01, policy := 0, depth := 0, parent := 0, label := [], created := 0, rooted := false,
        src := .value (List.replicate 64 7) }],
    cfg := SliceCfg.dflt, since := 0, slack := 0, dual := false, res := none, released := none, relFlags := 0, reserved := none, leaf := none, writes := 0,
    saved := [], image := [], parked := false, avoid := none, waitFrom := 0, second := none, spared := 0, got := 0, twin := none, vals := none,
    waitedLong := false, jumped := false,
    desc := ⟨0x0300, 1, 0, 0, 0, 256, 256, 0, List.replicate 24 0⟩ }

/-- That job runs on cell 5, which stands at `w`. -/
def onJob (w : MicroWord) (f : Cell → Cell) : State :=
  { onWord w (fun c => f { c with job := some 1, pages := (List.range 64).map (fun i => (i, true)) }) with jobs := [cellJob] }

/-- X[1] = 0, X[2] = 64 and X[3] = 64. -/
def ports (c : Cell) : Cell := setX (setX c 2 64 0) 3 64 0

theorem meets_transfers : ∀ op ∈ [0x16, 0x17], ∀ st ∈ (if op = 0x16 then [0, 4] else [1, 4]),
    let w := mw op 1 2 3 st 0 0x101
    let s := onJob w ports
    let c := getCell s 5
    let k := cellCtx s 5
    holds [wordAt s 5 w, wOp w = op, dmaForm c w (op == 0x17), c.dma.length < 8, 64 + 64 ≤ streamExtent k st,
      (rangeProbe 0 64 ++ windowProbe st 64 64).all (fun x => accessKind c x 1 == 0),
      dmaTagsOk c ⟨if op = 0x16 then 0 else 1, st, 64, 0, 64⟩ (custPc c)] := by decide +kernel

theorem meets_loadkey :
    let w := mw 0x18 1 4 5 0 0 0x101
    let s := onJob w (fun c => { ports c with maskLevel := shareMask 64 })
    let c := getCell s 5
    let k := cellCtx s 5
    holds [wordAt s 5 w, wOp w = 0x18, reg (wA w), reg (wB w), reg (wC w), wImm w = 0, tagX c 1 = 0, tagX c 4 = 0, k.keyLens = [64], (getX c 4).toNat < 2,
      (getX c 4).toNat < k.keyLens.length, (getX c 1).toNat + 64 ≤ 0x4000,
      (shareLines 0 64).all (fun p => storeTagOk c p.1 p.2), c.dma.length < 8,
      shareMask (k.keyLens.getD 0 0) ≤ c.maskLevel] := by decide +kernel

theorem meets_bnereq :
    let w := mw 0x19 0 2 0 0 0 0x101
    let s := onJob w ports
    let c := getCell s 5
    let k := cellCtx s 5
    holds [wordAt s 5 w, wOp w = 0x19, wA w = 0, reg (wB w), wC w = 0, wImm w = 0, tagX c 2 = 0,
      (rangeProbe (0x100000 + 64) 32).all (fun x => accessKind c x 1 == 0), k.bneRoom, c.job.bind (getJob s) = some cellJob,
      bneFor s 0 = some 0, bneRoom s 0, (getCell (cellGoes s 5 w { c with bnePend := c.bnePend + 1 }) 5).bnePend = 1] := by
  decide +kernel

/-- The pool holds what a share check draws, whatever that is. -/
theorem meets_share_check :
    let w := mw 0x1A 0 0 0 0 0 0x101
    let f := fun c : Cell => { c with maskLevel := Config.checkMask.val }
    holds [wordReady w f, wOp w = 0x1A, wA w = 0, wB w = 0, wC w = 0, wImm w = 0] = true ∧
      Config.checkMask.val ≤ (onCell w f).maskLevel := ⟨by decide +kernel, Nat.le_refl _⟩

theorem meets_hash_words :
    (∀ f ∈ [0, 7, 0x103, 0x107], let w := mw 0x1B 0 0 0 f 0 0x101
     holds [wordReady w id, wOp w = 0x1B, (onCell w id).hash.busy = none, wA w = 0, wB w = 0, wC w = 0, bits (wImm w) 7 4 = 0,
       wImm w % 16 < 8, !bit (wImm w) 8 || 3 ≤ wImm w % 16]) ∧
    (∀ r ∈ [8, 168], let w := mw 0x1B 0 1 0 8 0 0x101
     let f := fun c => setX c 1 (BitVec.ofNat 64 r) 0
     holds [wordReady w f, wOp w = 0x1B, (onCell w f).hash.busy = none, wA w = 0, wC w = 0, reg (wB w), wImm w % 16 = 8,
       bits (wImm w) 7 4 = 0, tagX (onCell w f) 1 = 0, (getX (onCell w f) 1).toNat = r]) ∧
    (let w := mw 0x1C 0 2 3 0 0 0x101
     let c := onCell w ports
     holds [wordReady w ports, wOp w = 0x1C, c.hash.busy = none, wA w = 0, reg (wB w), reg (wC w), wImm w = 0, tagX c 2 = 0, tagX c 3 = 0,
       (rangeProbe 64 64).all (fun x => accessKind c x 1 == 0), (linesOf 64 64).all (fun l => tagAt c l == 0)]) ∧
    (let w := mw 0x1D 2 0 3 0 0 0x101
     let c := onCell w ports
     holds [wordReady w ports, wOp w = 0x1D, c.hash.busy = none, !c.hash.masked, wB w = 0, reg (wA w), reg (wC w), wImm w = 0,
       tagX c 2 = 0, tagX c 3 = 0, (rangeProbe 64 64).all (fun x => accessKind c x 1 == 0)]) ∧
    (∀ op ∈ [0x1C, 0x1D], let w := mw op 2 2 3 0 0 0x101
     let v := mw op (if op = 0x1C then 0 else 2) (if op = 0x1C then 2 else 0) 3 0 0 0x101
     let f := fun c => { ports c with hash := { c.hash with func := 3, masked := true }, lt := [(1, 1), (257, 2), (513, 3)] }
     let c := onCell v f
     holds [wordReady v f, wOp w = op, c.hash.busy = none, c.hash.masked, 64 + 64 ≤ 0x4000,
       (shareLines 64 64).all (fun p => tagAt c p.1 == p.2), (shareLines 64 64).all (fun p => storeTagOk c p.1 p.2)]) := by decide +kernel

/-! #### Vectors -/

theorem meets_vector_arithmetic :
    (∀ op ∈ [0x2C, 0x2D, 0x2E, 0x2F, 0x38, 0x32, 0x36, 0x30, 0x31, 0x37, 0x39], ∀ e ∈ [0, 3], let w := mw op 15 1 2 e 0 0x101
      let c := onCell w vecs
      holds [wordReady w vecs, reg (wA w), reg (wB w), reg (wC w), wOp w = op, wImm w / 4 = 0, bits (wImm w) 4 2 < 6,
        joinTag (tagV c 1) (tagV c 2) = some 0, oneTag (tagV c 1) (tagV c 2) = some 0, tagV c 1 = 0, tagV c 2 = 0]) ∧
    (∀ e ∈ [1, 2], let w := mw 0x33 3 1 2 e 0 0x101
      holds [wordReady w vecs, wOp w = 0x33, wImm w / 4 = 0, wImm w % 4 = e, tagV (onCell w vecs) 1 = 0, tagV (onCell w vecs) 2 = 0]) ∧
    (∀ op ∈ [0x30, 0x31], let w := mw op 3 1 2 7 0 0x101
      holds [wordReady w vecs, wOp w = op, wImm w / 8 = 0, bit (wImm w) 2]) ∧
    (let w := mw 0x39 3 1 2 (5 * 4 + 1) 0 0x101
     holds [wordReady w vecs, wOp w = 0x39, wImm w / 32 = 0, bits (wImm w) 4 2 = 5]) := by decide +kernel

theorem meets_vector_moves :
    (∀ op ∈ [0x2A, 0x2B, 0x35], let w := mw op 3 1 0 3 0 0x101
      holds [wordReady w vecs, wOp w = op, reg (wA w), reg (wB w), wC w = 0, wImm w / 4 = 0, wImm w / 64 = 0]) ∧
    (∀ sh ∈ [0, 15], let w := mw 0x34 3 1 0 (0x100 + 4 * sh + 1) 0 0x101
      holds [wordReady w vecs, wOp w = 0x34, wC w = 0, bits (wImm w) 7 2 < elemW (wImm w), tagV (onCell w vecs) 1 = 0]) ∧
    (∀ op ∈ [0x3A, 0x3B], ∀ d ∈ [1, 12], let w := mw op 3 1 0 (4 * d + 1) 0 0x101
      holds [wordReady w vecs, wOp w = op, formComp w, wC w = 0, tagV (onCell w vecs) 1 = 0, (onCell w vecs).vmod ≠ 0,
        (onCell w (fun c => { vecs c with vmod := 0 })).vmod = 0]) ∧
    (let w := mw 0x3C 3 1 2 0 0 0x101
     holds [wordReady w vecs, wOp w = 0x3C, reg (wA w), reg (wB w), reg (wC w), wImm w / 4 = 0, tagV (onCell w vecs) 2 = 0]) := by
  decide +kernel

/-- A full mask pool. -/
def pool (c : Cell) : Cell := { vecs c with maskLevel := 16384 }

theorem meets_gadgets :
    (∀ f ∈ [0, 1, 2, 3, 4, 5, 6, 7],
      let w := mw 0x1E (if f ≤ 5 then 4 else 0) 1 (if f = 1 ∨ f = 7 then 2 else 0) (64 * f + (if f = 4 then 4 else 0) + (if f = 5 ∨ f = 6 then 2 else 1)) 0 0x101
      holds [wordReady w pool, wOp w = 0x1E, gadgetForm w, gadgetMask f ≤ (onCell w pool).maskLevel, bits (wImm w) 8 6 = f,
        (onCell w pool).vmod ≠ 0, wordReady w (fun c => { pool c with vmod := 0 })]) ∧
    (∀ e ∈ [0, 7], let w := mw 0x1F 15 4 0 e 0 0x101
      holds [wordReady w pool, wOp w = 0x1F, reg (wA w), wB w ≤ 4, wC w = 0, wImm w / 8 = 0, !custPc (onCell w pool),
        bit (wImm w) 2 = (e == 7), (onCell w pool).vmod ≠ 0, wordReady w (fun c => { pool c with vmod := 0 })]) := by decide +kernel

/-! #### Polynomials -/

/-- X[1] = 0, X[2] = 0x400 and X[3] = 0xC000. -/
def polys (c : Cell) : Cell := { setX (setX c 2 0x400 0) 3 0xC000 0 with puq := 3 }

theorem meets_polynomials : ∀ im ∈ [0, 1, 2, 3, 0x10], ∀ op ∈ (if im = 3 then [0x24, 0x25, 0x22, 0x23] else [0x20, 0x21, 0x22, 0x23, 0x24, 0x25]),
    let w := mw op 1 2 (if op < 0x22 then 0 else 3) im 0 0x101
    let c := onCell w polys
    let k := polyN w
    holds [wordReady w polys, wOp w = op, reg (wA w), reg (wB w), reg (wC w), tagX c 1 = 0, tagX c 2 = 0, tagX c 3 = 0,
      polyForm c w (op < 0x22) (op == 0x22 || op == 0x23), 0x400 % 4 = 0, 0xC000 + 4 * k ≤ 0x10000, polyTag c 0x400 k = some 0,
      polyTag c 0xC000 k = some 0, polyTag c 0 k = some 0, polyStoreOk c 0 k 0, inBank 3 0xC000 k, bit (wImm w) 4 = (im == 0x10)] ∧
    (im = 0x10 → holds [inBank 0 0 k, inBank 0 0x400 k,
      (List.range 3).all (fun i => polyTag c (0x400 + i * 0x4000) k == some 0 && polyStoreOk c (i * 0x4000) k 0)]) := by decide +kernel

/-- One flipped bit at the word a cell fetches. -/
theorem meets_bad_word : ∀ op ∈ [0, 0x2E, 0x3E],
    let w := mw op 3 1 2 1 0 0x101 ^^^ 4
    holds [cellRuns (onWord w id) 5, !gateEntry (getCell (onWord w id) 5).pc, mapGet 0 (getCell (onWord w id) 5).store 0x100 = w,
      !wParityOk w, wOp w = op] := by decide +kernel

/-- COND 0 and an ordinary NEXT, for the frames of scalar words and of stores. -/
theorem meets_frames : ∀ op ∈ [1, 2, 3, 4, 5, 6, 7, 8, 9, 0x0A, 0x0B, 0x0C, 0x0D, 0x0F, 0x29],
    let w := mw op 3 1 2 0 0 0x101
    holds [wCond w = 0, wNext w ≠ 1, !custPc (onCell w id)] := by decide +kernel

/-! ### Witnesses: Partas commands -/

/-- Parameter bytes 40 to 63 from fields (offset, size, value). -/
def params (l : List (Nat × Nat × Nat)) : List Byte :=
  l.foldl (fun b e => (b.take (e.1 - 40) ++ leBytes e.2.1 e.2.2 ++ b.drop (e.1 - 40 + e.2.1))) (List.replicate 24 0)

/-- A job of S00 on a management core. -/
def mgJob (op : Nat) (p : List (Nat × Nat × Nat)) : Job :=
  { cellJob with
    slice := 0, lc := 0, pos := .running unitMgmt, unit := unitMgmt, region := 255, block := 255, keys := [],
    desc := ⟨op, 0, 0, 0, 0, 0, 65536, 0, params p⟩ }

/-- The device with that job. -/
def mg (j : Job) : State := { upRng with jobs := [j], nextJob := 2 }

/-- The same, with the slice states S03 CONFIGURED, S04 ACTIVE, S05 QUIESCING and S06 RESETTING. -/
def mgSlices (j : Job) : State :=
  { mg j with
    slices := [(3, { Slice.absent with state := .configured }), (4, { Slice.absent with state := .active, apSize := 2 }),
      (5, { Slice.absent with state := .quiescing }), (6, { Slice.absent with state := .resetting })] }

/-- A leaf record of an LMS key in slot 7. -/
def leaf7 : Leaf :=
  { slot := 7, gen := 2, alg := 0x0901, levels := 2, lower := 0x01, slice := 0, total := 1024, highWater := 1024, nextAtCommit := 0,
    burned := 0, batch := 1024 }

/-- The device holds a root (of zeros) and this ledger record. -/
def withRec (s : State) (rid : Nat) (p : Payload) : State :=
  { s with
    root := { s.root with keysLoaded := true },
    alm := { s.alm with pairs := mapSet Pair.blank s.alm.pairs rid { a := .written 1 p (List.replicate 32 0), b := .blank } } }

/-- A key of the slot. -/
def slotKey (i g : Nat) : KeyRef :=
  { handle := 0, kind := 0, alg := 0x0901, policy := 0, depth := 0, parent := 0, label := [], created := 0, rooted := false,
    src := .slot i g }

/-- An open event of S00 at index 0. -/
def event0 : EvRec := EvRec.fresh 0 0 { kind := 1, flags := 2, instant := 5000000000, arg0 := 0, arg1 := 0, arg2 := 0, cookie := 0 }

/-- A ceremony that began in SERVICE. -/
def cer0 : Ceremony :=
  { kind := 2, m := 2, n := 3, x := 1, timeout := 600, fromMode := .service, stepsDone := 0, stepsTotal := 3, waitFrom := 0, shares := [],
    written := [], newM := 0, newEpoch := 0, ownerHash := [], stepJob := none, step := none, firstJob := 0 }

theorem meets_queries :
    (∀ op ∈ [0x0100, 0x0101, 0x0201, 0x0701, 0x0804, 0x0900, 0x0904, 0x0A02, 0x0B21, 0x0B50, 0x0B51],
      let j := mgJob op []
      holds [mgmtAt (mg j) 1 op j, !otherCeremonyJob (mg j) j, (mg j).cer = none, (unitBit (j.desc.pn 44 2)).isSome]) ∧
    (let j := mgJob 0x0101 [(40, 1, 63)]
     holds [mgmtAt (mgSlices j) 1 0x0101 j, j.desc.pb 40 = 63]) ∧
    (let j := mgJob 0x0101 [(40, 1, 4)]
     holds [mgmtAt (mgSlices j) 1 0x0101 j, (getSlice (mgSlices j) 4).state ≠ .absent]) ∧
    (let j := { mgJob 0x0404 [] with keys := [slotKey 7 2] }
     let s := withRec (mg j) 17408 (.leaf leaf7)
     holds [mgmtAt s 1 0x0404 j, j.key0.src = .slot 7 2, leafFor s 7 2 = some (17408, leaf7)]) ∧
    (let j := mgJob 0x0712 []
     let s := { mg j with eph := { (mg j).eph with events := [(0, some event0)] } }
     holds [mgmtAt s 1 0x0712 j, findEvent s 0 0 = some event0]) ∧
    (let j := mgJob 0x0904 []
     let s := { mg j with cer := some cer0, chip := { (mg j).chip with mode := .ceremony } }
     holds [mgmtAt s 1 0x0904 j, !otherCeremonyJob s j, s.cer = some cer0]) := by decide +kernel

/-- A legal configuration block. -/
def cfgBytes : List Byte := SliceCfg.dflt.bytes

/-- The job with that input. -/
def withInput (j : Job) (b : List Byte) : Job := { j with desc := { j.desc with inLen := b.length } }

theorem meets_slice_blocks :
    (let j := withInput (mgJob 0x0102 [(40, 1, 63)]) cfgBytes
     let s := mgSlices j
     holds [mgmtAt s 1 0x0102 j, (getSlice s 63).state = .absent, s.chip.lc ≠ .blank, s.chip.lc ≠ .sealed, inputIs j { io0 with input := cfgBytes } cfgBytes,
       cfgOk cfgBytes, quotaOk s 63 (SliceCfg.ofBytes cfgBytes)]) ∧
    (∀ n ∈ [3, 4], let j := withInput (mgJob 0x0103 [(40, 1, n)]) cfgBytes
     let s := mgSlices j
     holds [mgmtAt s 1 0x0103 j, (getSlice s n).state ≠ .absent, inputIs j { io0 with input := cfgBytes } cfgBytes, cfgOk cfgBytes,
       (SliceCfg.ofBytes cfgBytes).fixed = (getSlice s n).cfg.fixed, quotaOk s n (SliceCfg.ofBytes cfgBytes)]) := by decide +kernel

theorem meets_slice_states :
    (∀ n ∈ [3, 4], let j := mgJob 0x0104 [(40, 1, n)]
     holds [mgmtAt (mgSlices j) 1 0x0104 j, (getSlice (mgSlices j) n).state = (if n = 3 then .configured else .active)]) ∧
    (∀ n ∈ [4, 5], let j := mgJob 0x0105 [(40, 1, n)]
     holds [mgmtAt (mgSlices j) 1 0x0105 j, (getSlice (mgSlices j) n).state = (if n = 4 then .active else .quiescing)]) ∧
    (∀ op ∈ [0x0106, 0x0107], let j := mgJob op [(40, 1, 4)]
     let s := mgSlices j
     holds [mgmtAt s 1 op j, !j.parked, !isResetJob s j, (getSlice s 4).state ≠ .absent, (getSlice s 4).state ≠ .resetting,
       j.desc.pb 40 ≠ 0]) ∧
    (∀ n ∈ [3, 4, 5], let j := mgJob 0x0108 [(40, 1, n), (41, 1, 7), (44, 4, 0xFFFFF)]
     let s := mgSlices j
     holds [mgmtAt s 1 0x0108 j, pasidTarget (getSlice s n), !pasidTaken s n (BitVec.ofNat 20 (j.desc.pn 44 4))]) ∧
    (let j := mgJob 0x0109 [(40, 1, 4), (41, 1, 7)]
     let s := mgSlices j
     holds [mgmtAt s 1 0x0109 j, pasidTarget (getSlice s 4), !pasidUsed s 4 (j.desc.pb 41)]) := by decide +kernel

theorem meets_device_commands :
    (let j := mgJob 0x010A [(44, 4, 448)]
     holds [mgmtAt (mg j) 1 0x010A j, !(mg j).hdm.committed]) ∧
    (let j := mgJob 0x010B [(40, 1, 4), (44, 4, 0), (48, 4, 2)]
     let s := { mgSlices j with hdm := { (mgSlices j).hdm with size := 8 } }
     holds [mgmtAt s 1 0x010B j, (getSlice s 4).state ≠ .absent, 4 * (j.desc.pn 44 4 + 2) ≤ s.hdm.size,
       s.slices.all (fun e => e.1 == 4 || e.2.apSize == 0), hbmUse s 4 - 2 * 1024 + 2 * 1024 ≤ (getSlice s 4).cfg.hbmGib * 1024]) ∧
    (∀ b ∈ [0, 1], let j := mgJob 0x010C [(40, 1, 4), (41, 1, b), (44, 4, 1023), (48, 4, 1)]
     let s := { mgSlices j with link := { (mgSlices j).link with cacheEn := true } }
     holds [mgmtAt s 1 0x010C j, j.desc.pn 44 4 + j.desc.pn 48 4 ≤ (getSlice s 4).apSize * 512, j.desc.pb 41 = b, s.link.cacheEn]) ∧
    (let j := mgJob 0x010D [(41, 1, 1)]
     holds [mgmtAt (mg j) 1 0x010D j]) ∧
    (let j := withInput (mgJob 0x010E []) [1, 2, 3]
     holds [mgmtAt (mg j) 1 0x010E j, inputIs j { io0 with input := [1, 2, 3] } [1, 2, 3]]) := by decide +kernel

/-- The device in another mode. -/
def inMode (s : State) (m : Mode) : State := { s with chip := { s.chip with mode := m } }

theorem meets_mode_commands :
    (∀ m ∈ [Mode.service, .maintenance], let j := mgJob 0x0110 []
     holds [mgmtAt (inMode (mg j) m) 1 0x0110 j, !decide (overtaken (inMode (mg j) m))]) ∧
    (∀ m ∈ [Mode.drain, .service], let j := mgJob 0x0111 []
     holds [mgmtAt (inMode (mg j) m) 1 0x0111 j, !decide (overtaken (inMode (mg j) m))]) ∧
    (let j := { mgJob 0x0112 [] with saved := [[1]] }
     let s := inMode (mg j) .drain
     holds [mgmtAt s 1 0x0112 j, s.chip.mode = .drain, s.chip.lc = .owned, j.sawDrained, !overtaken s]) ∧
    (let j := mgJob 0x0113 []
     holds [mgmtAt (inMode (mg j) .maintenance) 1 0x0113 j, !overtaken (inMode (mg j) .maintenance)]) := by decide +kernel

/-- A job with a key of the value given. -/
def withKey (j : Job) (v : List Byte) (kind : Nat) : Job :=
  { j with keys := [{ slotKey 0 0 with kind, alg := 0x0C01, src := .value v }] }

/-- A handle of slot 7 in S00. -/
def slotEntry (st : Nat) : Payload := .slots [(7, { SlotEnt.free with gen := 2, state := st, alg := 0x0C01 })]

theorem meets_key_management :
    (∀ st ∈ [1, 3], let j := { mgJob 0x0203 [] with desc := { (mgJob 0x0203 []).desc with keyHandle := slotHandle (withRec up (ridSlot 7) (slotEntry 1)) 7 } }
     let s := withRec (mg j) (ridSlot 7) (slotEntry st)
     holds [mgmtAt s 1 0x0203 j, hIndex j.desc.keyHandle = 7, (slotEnt s 7).state = st]) ∧
    (let l := leBytes 2 0x0100 ++ leBytes 2 0x0C01 ++ List.replicate 28 0
     let j := withInput (withKey (mgJob 0x0204 [(40, 2, 0x0C01)]) (List.replicate 32 1) 1) l
     let m := l.drop 2
     let k := withInput (withKey (mgJob 0x0204 [(40, 2, 0x0C01)]) (List.replicate 32 1) 1) m
     holds [mgmtAt (mg j) 1 0x0204 j, inputIs j { io0 with input := l } l, labelOk j.desc.alg l, keysResolve (mg j) j,
       mgmtAt (mg k) 1 0x0204 k, inputIs k { io0 with input := m } m, !labelOk k.desc.alg m]) ∧
    (∀ e ∈ [4, 5, 6, 2 ^ 64 - 1], let j := { withKey (mgJob 0x0205 [(40, 8, e)]) (List.replicate 32 1) 1 with saved := [leBytes 8 6] }
     let e := if j.desc.pn 40 8 = 2 ^ 64 - 1 then 6 - 1 else j.desc.pn 40 8
     holds [mgmtAt (mg j) 1 0x0205 j, leNat (j.saved.headD []) = 6, 6 ≤ e + 2, e ≤ 6, epochExists j.cfg e, keysResolve (mg j) j]) ∧
    (let j := mgJob 0x0207 []
     holds [mgmtAt (mg j) 1 0x0207 j]) ∧
    (∀ a ∈ [0, 1, 2, 3], let j := withKey (mgJob 0x0208 [(40, 1, a)]) [1] 1
     holds [mgmtAt (mg j) 1 0x0208 j, j.desc.pb 40 = a, keysResolve (mg j) j, !keyInUse (mg j) j.desc.keyHandle j.id]) ∧
    (let j := mgJob 0x0208 [(40, 1, 3)]
     let k := { withKey (mgJob 0x0300 []) [] 1 with id := 2, pos := .waiting }
     let s := { mg j with jobs := [j, k] }
     holds [mgmtAt s 1 0x0208 j, keyInUse s j.desc.keyHandle j.id]) := by decide +kernel

/-- A job with opcode, parameters and position, on region 0 and block 0. -/
def enJob (op : Nat) (p : List (Nat × Nat × Nat)) (pos : JobPos) : Job :=
  { mgJob op p with pos, unit := 5, region := 0, block := 0 }

/-- The input given whole. -/
def ioOf (b : List Byte) : JobIo := { io0 with input := b }

/-- A contiguous input given whole is delivered as it is. -/
theorem input_given (j : Job) (b : List Byte) (h : j.desc.sgl = false) : inputIs (withInput j b) (ioOf b) b = true := by
  have e : (withInput j b).desc.sgl = false := h
  have f : padTo b.length b = b := by simp [padTo, sub]
  have g : (ioOf b).stops (withInput j b).desc.inLen = none := rfl
  have k : jobInput (withInput j b) (ioOf b) = ⟨stOk, b.length, padTo b.length b⟩ := by
    simp only [jobInput, jobInputTo, e, g]; rfl
  simp [inputIs, k, f]

theorem byteAt_zeros (n k : Nat) : byteAt (List.replicate n 0#8) k = 0 := by
  simp only [byteAt, List.getD_eq_getElem?_getD, List.getElem?_replicate]; split <;> rfl

theorem mlkem_zeros (a n : Nat) : mlkemKeyOk a (List.replicate n 0#8) = true := by
  simp [mlkemKeyOk, byteAt_zeros]

/-- Public keys of zeros. -/
theorem zero_key (a n : Nat) (h : pubLen a = n) (f : famOf a = some .mlkem) : pubStatus a (List.replicate n 0#8) = stOk := by
  simp only [pubStatus, f, List.length_replicate, h, mlkem_zeros, ne_eq, not_true_eq_false, if_false, if_true]

theorem zero_hybrid (n : Nat) (h : pubLen 0x0D01 = n) : pubStatus 0x0D01 (List.replicate n 0#8) = stOk := by
  have f : famOf 0x0D01 = some .hybrid := by decide +kernel
  simp only [pubStatus, f, List.length_replicate, h, List.take_replicate, mlkem_zeros, ne_eq, not_true_eq_false, if_false, if_true]

/-- A ledger leaf and a tree that is ready below it. -/
def withTree (s : State) : State :=
  { withRec s 17408 (.leaf leaf7) with trees := [(17408, { Tree.none with topReady := true, lowerReady := true, next := 1023 })] }

theorem meets_key_generation :
    (let j := enJob 0x0200 [(40, 2, 0x0101)] (.running 5)
     holds [onCellAt (mg j) 1 0x0200 j, !bneFam j.alg, famOf j.desc.alg ≠ some .hybrid, jobDrbg (mg j) j = some 0]) ∧
    (let j := enJob 0x0200 [(40, 2, 0x0D02)] (.running 5)
     holds [onCellAt (mg j) 1 0x0200 j, !bneFam j.alg, famOf j.desc.alg = some .hybrid, cellAndBne (mg j) j, jobDrbg (mg j) j = some 0]) ∧
    (∀ a ∈ [0x0601, 0x0403], let j := enJob 0x0200 [(40, 2, a)] (.block 0)
     holds [engineAt (mg j) 1 0x0200 j, atBne (mg j) j, bneFam j.alg, jobDrbg (mg j) j = some 0]) ∧
    (∀ op ∈ [0x0300, 0x0400], (let j := enJob op [(if op = 0x0300 then (48, 2, 0x0103) else (40, 2, 0x0703))] (.running 5)
     holds [onCellAt (mg j) 1 op j, !bneFam j.alg, famOf j.desc.alg ≠ some .hybrid, jobDrbg (mg j) j = some 0]) ∧
     (let j := enJob op [(if op = 0x0300 then (48, 2, 0x0502) else (40, 2, 0x0504))] (.block 0)
     holds [engineAt (mg j) 1 op j, atBne (mg j) j, bneFam j.alg, famOf j.desc.alg ≠ some .rsa, jobDrbg (mg j) j = some 0])) ∧
    (let j := enJob 0x0403 [(40, 2, 0x0901)] (.running 5)
     holds [onCellAt (mg j) 1 0x0403 j, jobDrbg (mg j) j = some 0]) := by decide +kernel

theorem meets_key_public :
    (let j := withKey (mgJob 0x0202 []) (List.replicate 32 1) 2
     holds [mgmtAt (mg j) 1 0x0202 j, j.key0.kind = 2, keysResolve (mg j) j]) ∧
    (∀ a ∈ [0x0101, 0x0D01], let j := { enJob 0x0202 [] (.running 5) with keys := [{ slotKey 0 0 with kind := 1, alg := a, src := .value [1] }] }
     holds [onCellAt (mg j) 1 0x0202 j, keysResolve (mg j) j, j.key0.kind ≠ 2, !bneFam j.alg, pubDigestOk (keysHeld (mg j) j) j.key0 []]) ∧
    (let j := { enJob 0x0202 [] (.block 0) with keys := [{ slotKey 0 0 with kind := 1, alg := 0x0401, src := .value [1] }] }
     holds [engineAt (mg j) 1 0x0202 j, keysResolve (mg j) j, j.key0.kind ≠ 2, atBne (mg j) j, bneFam j.alg, famOf j.alg ≠ some .rsa]) := by
  decide +kernel

/-- An HSS public key of one level: LMS_SHA256_M32_H5 with LMOTS_SHA256_N32_W2. -/
def lmsKey : List Byte := [0, 0, 0, 1, 0, 0, 0, 5, 0, 0, 0, 2] ++ List.replicate 48 0

theorem meets_peers_and_transport :
    (let b := lmsKey
     let j := withInput (enJob 0x0206 [(40, 2, 0x0901)] (.running 5)) b
     holds [onCellAt (mg j) 1 0x0206 j, inputIs j (ioOf b) b, !bneFam j.alg, pubStatus j.desc.alg b = stOk]) ∧
    (let b := [0, 0]
     let j := withInput (enJob 0x0206 [(40, 2, 0x0401)] (.block 0)) b
     holds [engineAt (mg j) 1 0x0206 j, inputIs j (ioOf b) b, bneFam j.alg, atBne (mg j) j]) ∧
    (let b := [0, 0]
     let j := withKey (withInput (enJob 0x020A [] (.running 5)) b) [1] 1
     holds [onCellAt (mg j) 1 0x020A j, inputIs j (ioOf b) b, keysResolve (mg j) j]) ∧
    (let j := withKey (enJob 0x020B [] (.running 5)) [1] 1
     holds [onCellAt (mg j) 1 0x020B j, keysResolve (mg j) j]) := by decide +kernel

theorem meets_establish :
    let b : List Byte := List.replicate 1568 0
    let j := withInput (enJob 0x0209 [] (.running 5)) b
    holds [onCellAt (mg j) 1 0x0209 j, j.keys = [], jobDrbg (mg j) j = some 0] = true ∧ inputIs j (ioOf b) b = true ∧
      pubStatus 0x0103 b = stOk := by
  refine ⟨?_, input_given _ _ rfl, zero_key _ _ (by decide +kernel) (by decide +kernel)⟩
  simp only [withInput, List.length_replicate]; decide +kernel

theorem meets_encaps :
    let b : List Byte := List.replicate 800 0
    let j := withInput (enJob 0x0301 [(48, 2, 0x0101)] (.running 5)) b
    holds [onCellAt (mg j) 1 0x0301 j, j.keys = [], jobDrbg (mg j) j = some 0] = true ∧ inputIs j (ioOf b) b = true ∧
      pubStatus 0x0101 b = stOk := by
  refine ⟨?_, input_given _ _ rfl, zero_key _ _ (by decide +kernel) (by decide +kernel)⟩
  simp only [withInput, List.length_replicate]; decide +kernel

theorem meets_hybrid_encaps : ∀ du ∈ [true, false],
    let b : List Byte := List.replicate 1216 0
    let j := withInput { enJob 0x0304 [(48, 2, 0x0D01)] (.running 5) with dual := du, second := if du then some 13 else none } b
    holds [engineAt (mg j) 1 0x0304 j, j.keys = [], twoBnes (mg j) j, jobDrbg (mg j) j = some 0] = true ∧
      inputIs j (ioOf b) b = true ∧ pubStatus 0x0D01 b = stOk := by
  intro du _
  refine ⟨?_, input_given _ _ (by cases du <;> decide +kernel), zero_hybrid _ (by decide +kernel)⟩
  simp only [withInput, List.length_replicate]; cases du <;> decide +kernel

theorem meets_kem :
    (let j := withKey (enJob 0x0301 [] (.running 5)) [1] 2
     holds [onCellAt (mg j) 1 0x0301 j, j.keys ≠ [], keysResolve (mg j) j, jobDrbg (keysHeld (mg j) j) j = some 0]) ∧
    (let j := withKey (enJob 0x0304 [] (.running 5)) [1] 2
     holds [engineAt (mg j) 1 0x0304 j, j.keys ≠ [], keysResolve (mg j) j, twoBnes (mg j) j, jobDrbg (keysHeld (mg j) j) j = some 0]) ∧
    (∀ op ∈ [0x0302, 0x0305], let j := withKey (withInput (enJob op [] (.running 5)) [1, 2]) [1] 1
     holds [onCellAt (mg j) 1 op j, inputIs j (ioOf [1, 2]) [1, 2], keysResolve (mg j) j, cellAndBne (mg j) j]) ∧
    (let j := withKey (withInput (enJob 0x0303 [] (.block 0)) [1, 2]) [1] 1
     holds [engineAt (mg j) 1 0x0303 j, inputIs j (ioOf [1, 2]) [1, 2], keysResolve (mg j) j, atBne (mg j) j]) := by decide +kernel

theorem meets_signatures :
    (let j := { withInput (enJob 0x0401 [] (.running 5)) [1, 2] with keys := [{ slotKey 0 0 with alg := 0x0701, kind := 1, src := .value [1] }] }
     holds [onCellAt (mg j) 1 0x0401 j, inputIs j (ioOf [1, 2]) [1, 2], keysResolve (mg j) j, !bneFam j.alg, !famIn j.alg [.lms, .xmss],
       jobDrbg (keysHeld (mg j) j) j = some 0]) ∧
    (let j := { withInput (enJob 0x0401 [] (.block 0)) [1, 2] with keys := [{ slotKey 0 0 with alg := 0x0503, kind := 1, src := .value [1] }] }
     holds [engineAt (mg j) 1 0x0401 j, inputIs j (ioOf [1, 2]) [1, 2], keysResolve (mg j) j, bneFam j.alg, atBne (mg j) j]) ∧
    (let j := withInput (enJob 0x0402 [(40, 2, 0x0503)] (.block 0)) [1, 2]
     holds [engineAt (mg j) 1 0x0402 j, inputIs j (ioOf [1, 2]) [1, 2], j.keys = [], bneFam j.alg, atBne (mg j) j]) := by decide +kernel

theorem meets_verification :
    let j := { withInput (enJob 0x0402 [(40, 2, 0x0901)] (.running 5)) [1, 2] with keys := [{ slotKey 0 0 with alg := 0x0901, kind := 2, src := .value lmsKey }] }
    holds [onCellAt (mg j) 1 0x0402 j, inputIs j (ioOf [1, 2]) [1, 2], keysResolve (mg j) j, !bneFam j.alg, j.keys ≠ [],
      pubDigestOk (keysHeld (mg j) j) j.key0 lmsKey] ∧
    (∀ a ∈ [0x0701, 0x0801, 0x0A01, 0x0B01], (verdict a 0 0 0 [1] [] [1] [2]).1 = stOk) ∧ (verdict 0x0901 0 0 0 lmsKey [] [1] [2]).1 = stOk ∧
    pubStatus 0x0901 lmsKey = stOk := by decide +kernel

/-- The unsigned half of a stateful signature: an LMS key of slot 7 whose record has been read. -/
def statefulJob : Job := { withInput (enJob 0x0401 [] (.running 5)) [1, 2] with keys := [slotKey 7 2] }

theorem meets_stateful_signature :
    let s := withTree (mg statefulJob)
    holds [onCellAt s 1 0x0401 statefulJob, inputIs statefulJob (ioOf [1, 2]) [1, 2], !bneFam statefulJob.alg, famIn statefulJob.alg [.lms, .xmss],
      leafFor s 7 2 = some (17408, leaf7), (getTree s 17408).topReady, (getTree s 17408).next < leaf7.total, lowerOk s 17408 leaf7,
      !(getTree s 17408).startCommit, (getTree s 17408).next < leaf7.highWater] := by decide +kernel

theorem meets_tree_builds :
    (let s := withRec (mg (mgJob 0x0100 [])) 17408 (.leaf leaf7)
     holds [leafOf s 17408 = some leaf7, serving s, !noRegion s, !(getTree s 17408).topReady]) ∧
    (let s := { withTree (mg (mgJob 0x0100 [])) with trees := [(17408, { Tree.none with topReady := true })] }
     holds [leafOf s 17408 = some leaf7, (getTree s 17408).topReady, !leaf7.single, !(getTree s 17408).lowerReady]) ∧
    (let s := withTree (mg (mgJob 0x0100 []))
     holds [leafOf s 17408 = some leaf7, (getTree s 17408).lowerReady, !leaf7.single, !(getTree s 17408).nextReady,
       2 ^ leaf7.bottom ≤ 2 * ((getTree s 17408).next % 2 ^ leaf7.bottom)]) := by decide +kernel

/-- The digest engine of block 0 holds context 3 for the job, which waits for its input. -/
def onDe (j : Job) : State :=
  modDe (mg j) 0 (fun d => { d with ctx := [(3, some (newCtx ⟨1, false, 0, 0, 0, false, 0⟩ 0))] })

theorem meets_digests :
    ∀ op ∈ [0x0500, 0x0501, 0x0502, 0x0503], ∀ dest ∈ [0, 1],
    let j := withKey (withInput (enJob op [(50, 1, dest)] (.running 0x90)) [1, 2]) [1] 1
    holds [engineAt (onDe j) 1 op j, inputIs j (ioOf [1, 2]) [1, 2], deHolds (onDe j) j, keysResolve (onDe j) j, j.desc.pb 50 = dest,
      j.keys ≠ []] := by decide +kernel

theorem meets_random_commands :
    (∀ pr ∈ [0, 1], let j := mgJob 0x0600 [(40, 1, pr), (44, 4, 1)]
     let s := modRng (mg j) 0 (fun x => { x with blocks := [List.replicate 48 1] })
     holds [mgmtAt s 1 0x0600 j, servingDrbg s 0 = some 0, j.desc.pb 40 % 2 = pr, hasBlock s (rngOf s 0).seedSrc]) ∧
    (∀ k ∈ [0, 1], let j := mgJob 0x0B40 [(40, 1, 3), (41, 1, k)]
     holds [mgmtAt (mg j) 1 0x0B40 j, j.desc.pb 41 = k]) := by decide +kernel

/-- The timebase set and REFERENCED at second 100. -/
def timed (s : State) : State := { s with tb := { s.tb with set := true, time := 100 * secNs, cond := .referenced, tref := 1, win := 101 } }

/-- A volatile and a durable NOTIFY, half a second later. -/
def noteSpec (flags : Nat) : List Byte := [6, BitVec.ofNat 8 flags] ++ List.replicate 6 0 ++ leBytes 8 (100 * secNs + secNs / 2) ++
  List.replicate 8 0 ++ leBytes 8 1 ++ List.replicate 16 0

theorem meets_time_commands :
    (let j := mgJob 0x0700 []
     holds [mgmtAt (mg j) 1 0x0700 j, !j.parked, serving (mg j)]) ∧
    (let j := mgJob 0x0702 []
     holds [mgmtAt (mg j) 1 0x0702 j]) := by decide +kernel

theorem meets_schedule : ∀ fl ∈ [0, 2],
    let j := { withInput (mgJob 0x0710 []) (noteSpec fl) with saved := [leBytes 8 (100 * secNs)] }
    let s := timed (mg j)
    let t := modJob s j.id (fun x => { x with reserved := none })
    holds [mgmtAt s 1 0x0710 j, inputIs j (ioOf (noteSpec fl)) (noteSpec fl), scheduleStatus t 0 (leNat (j.saved.headD [])) (noteSpec fl) = (stOk, 0),
      freeEvent t = some 0, (EvSpec.ofBytes (noteSpec fl)).durable = (fl == 2)] := by decide +kernel

theorem meets_cancel : ∀ fl ∈ [0, 2],
    let j := { mgJob 0x0711 [] with saved := [leBytes 8 4999000000] }
    let v := { event0 with spec := { event0.spec with flags := fl } }
    let s := { mg j with eph := { (mg j).eph with events := [(0, some v)] } }
    holds [mgmtAt s 1 0x0711 j, findEvent s 0 0 = some v, v.isOpen, leNat (j.saved.headD []) + 1000000 ≤ v.spec.instant, v.spec.durable = (fl == 2)] := by
  decide +kernel

/-- S00 has base 0 bound to a handle of slot 7. -/
def bound (s : State) : State :=
  withRec (withRec s (ridImage 0) (.image { seq := 0, digest := [], bindings := [(0, mkHandle 0 0 7 2)] })) (ridSlot 7) (slotEntry 1)

theorem meets_lane_commands :
    (∀ op ∈ [0x0801, 0x0806], let j := mgJob op [(40, 1, 7)]
     holds [mgmtAt (mg j) 1 op j]) ∧
    (let j := mgJob 0x0802 [(40, 1, 7)]
     holds [mgmtAt (mg j) 1 0x0802 j, bindingOf (mg j) 0 7 = 0]) ∧
    (let j := mgJob 0x0803 [(40, 1, 0)]
     holds [mgmtAt (bound (mg j)) 1 0x0803 j, bindingOf (bound (mg j)) 0 0 ≠ 0]) := by decide +kernel

theorem meets_ceremony_begin :
    (∀ k ∈ [2, 6], let j := { mgJob 0x0901 [(40, 1, k), (41, 1, 2), (42, 1, 3), (43, 1, 1)] with saved := [[1]] }
     let s := withRec (inMode (mg j) (if k = 2 then .service else .drain)) 1 (.custodian { epoch := 0, m := 2, rootCheck := [], rootId := [], created := 0, cards := [] })
     holds [mgmtAt s 1 0x0901 j, !otherCeremonyJob s j, s.cer = none, kindLcOk k s.chip.lc, kindModeOk k s.chip.mode (byteAt (j.saved.headD []) 0 == 1),
       inputIs j io0 [], s.chip.mode ≠ .umbra, limitsOk s k (j.desc.pb 41) (j.desc.pb 42) (j.desc.pb 43)]) ∧
    (let j := { mgJob 0x0901 [(40, 1, 1), (41, 1, 2), (42, 1, 3)] with saved := [[0]] }
     let s := { mg j with chip := { (mg j).chip with lc := .sealed } }
     holds [mgmtAt s 1 0x0901 j, !otherCeremonyJob s j, s.cer = none, kindLcOk 1 s.chip.lc, kindModeOk 1 s.chip.mode false, inputIs j io0 [],
       s.chip.mode ≠ .umbra, limitsOk s 1 2 3 0]) := by decide +kernel

/-- A READY card with a good certificate in slot 0. -/
def readyCard (s : State) : State :=
  { s with cards := [(0, { CardSlot.empty with state := 4, det := true, certOk := true, cardId := [1], ceremoniesLeft := 5, writesLeft := 5 })] }

theorem meets_ceremony_steps :
    (let j := mgJob 0x0902 [(40, 1, 0)]
     let s := readyCard { inMode (mg j) .ceremony with cer := some { cer0 with stepsDone := 2, kind := 3 } }
     holds [mgmtAt s 1 0x0902 j, !j.parked, !otherCeremonyJob s j, !exclusive s, (getCard s 0).state = 4,
       refuseReason s { cer0 with stepsDone := 2, kind := 3 } (getCard s 0) false = 0, !nextIsWrite { cer0 with stepsDone := 2, kind := 3 }]) ∧
    (let j := mgJob 0x0902 [(40, 1, 0xFF)]
     let c := { cer0 with kind := 7, m := 0 }
     let s := { inMode (mg j) .ceremony with cer := some c }
     holds [mgmtAt s 1 0x0902 j, !otherCeremonyJob s j, c.stepsDone = 0, s.jobs.all (fun k => decide (c.firstJob ≤ k.id)), c.kind = 7, c.m = 0]) ∧
    (let j := mgJob 0x0903 []
     let s := { inMode (mg j) .ceremony with cer := some cer0 }
     holds [mgmtAt s 1 0x0903 j, s.cer ≠ none, !otherCeremonyJob s j]) ∧
    (let j := { mgJob 0x0902 [] with parked := true }
     let c := { cer0 with stepJob := some 1 }
     let s := { inMode (mg j) .ceremony with cer := some c, uptime := 600 * 10 ^ 9 }
     holds [alive s, s.chip.mode = .ceremony, c.waitFrom + c.timeout * 10 ^ 9 ≤ s.uptime, c.step = none, !j.isReleased,
       (getJob (retractWrite (retractWrite s 1 1) 0 1) 1).isSome]) := by decide +kernel

theorem meets_service_commands :
    (∀ op ∈ [0x0A01, 0x0B10, 0x0B23], let j := mgJob op []
     holds [mgmtAt (mg j) 1 op j]) ∧
    (∀ n ∈ [0, 1, 2], let j := mgJob 0x0B20 [(40, 1, n)]
     holds [mgmtAt (mg j) 1 0x0B20 j, j.desc.pb 40 = n]) ∧
    (∀ n ∈ [0, 1], let j := mgJob 0x0B22 [(40, 1, n), (44, 2, 5)]
     let s := modUnit (mg j) 5 (fun x => { x with state := .failed })
     holds [mgmtAt s 1 0x0B22 j, unitBit 5 = some 5, (getUnit s 5).state = .failed]) ∧
    (∀ n ∈ [0, 1, 2], let j := mgJob 0x0B30 [(40, 1, if n = 1 then 1 else 0), (41, 1, if n = 2 then 2 else 0), (44, 2, if n = 2 then 159 else 5)]
     let s := modDom (mg j) 5 (fun d => { d with state := 4 })
     holds [mgmtAt s 1 0x0B30 j, n = 0 → j.desc.pb 41 < (getDom s 5).state, n = 2 → 128 ≤ j.desc.pn 44 2, domKind 159 ≠ 2]) := by decide +kernel

theorem meets_customer_macro : ∀ m ∈ [0, 63],
    let j := enJob (0x0AC0 + m) [] (.running 5)
    let s := modCell (mg j) 5 (fun c => { c with job := some 1 })
    holds [engineAt s 1 (0x0AC0 + m) j, j.onCell, (getCell s j.unit).job = some j.id, (getCell s j.unit).macroOp < 0xC0, !(getCell s j.unit).halted,
      cellServes s j.unit] := by decide +kernel

theorem meets_life_cycle_commands : ∀ p ∈ [(0, 1), (0, 5), (1, 5), (4, 5)],
    let j := mgJob 0x0B60 [(40, 1, p.2)]
    let s := { mg j with chip := { (mg j).chip with lc := if p.1 = 0 then .blank else if p.1 = 1 then .factory else .returned } }
    holds [mgmtAt s 1 0x0B60 j, intentOf s = none, s.chip.lc.code = p.1, lcAdvanceOk p.1 p.2] := by decide +kernel

/-- A one-byte firmware image with SEQ 1. -/
def fwImage : List Byte :=
  [0x46, 0x59, 0x46, 0x57, 1, 0, 0, 0] ++ leBytes 4 1 ++ leBytes 4 1 ++ List.replicate 16 0 ++ sha384 [9] ++ List.replicate 8112 0 ++ [9]

/-- A customer image of one word, NOP with NEXT 1, with one entry. -/
def microImage : List Byte :=
  [0x46, 0x59, 0x55, 0x43, 1, 0, 1, 0] ++ leBytes 4 1 ++ List.replicate 4 0 ++ (leBytes 2 0xC00 ++ [1] ++ List.replicate 13 0) ++
    List.replicate 1008 0 ++ leBytes 8 (mw 0 0 0 0 0 0 1).toNat ++ List.replicate 7219 0

theorem micro_length : microImage.length = 8267 := by
  simp only [microImage, List.length_append, List.length_replicate, List.length_cons, List.length_nil]; decide +kernel

theorem fw_length : fwImage.length = 8193 := by
  simp only [fwImage, List.length_append, List.length_replicate, List.length_cons, List.length_nil]; decide +kernel

theorem meets_micro_load :
    let j := withInput (mgJob 0x0A00 []) microImage
    let s := { mg j with chip := { (mg j).chip with lc := .factory } }
    mgmtAt s 1 0x0A00 j = true ∧ inputIs j (ioOf microImage) microImage = true ∧ imgCheck s 0 microImage = none := by
  refine ⟨?_, input_given _ _ (by decide +kernel), ?_⟩
  · simp only [withInput, micro_length]; decide +kernel
  · simp only [withInput, micro_length, imgCheck, imgHeaderOk]; decide +kernel

theorem meets_fw_update :
    let j := withInput (mgJob 0x0B61 []) fwImage
    let s := { mg j with chip := { (mg j).chip with lc := .factory } }
    holds [mgmtAt s 1 0x0B61 j, s.jobs.all (fun k => decide (j.id ≤ k.id)), j.desc.inLen = 8192 + fieldLe fwImage 12 4,
      imageReason s s.chip.lc fwImage = 0, imageSeq (runningImage s) < imageSeq fwImage, (ioOf fwImage).storeOk] = true ∧
    inputIs j (ioOf fwImage) fwImage = true := by
  refine ⟨?_, input_given _ _ (by decide +kernel)⟩
  simp only [withInput, fw_length]; decide +kernel
/-- An exported AES key. -/
def blob : List Byte :=
  let h := blobHeader 0x0C01 0 0 32
  h ++ kwpWrap (blobKey (List.replicate 32 1) h) (List.replicate 32 9)

theorem meets_import :
    let j := withKey (withInput (enJob 0x020C [] (.running 5)) blob) (List.replicate 32 1) 1
    holds [onCellAt (mg j) 1 0x020C j, inputIs j (ioOf blob) blob, keysResolve (mg j) j, blobHeaderOk blob,
      kwpUnwrap (blobKey (List.replicate 32 1) (blob.take 24)) (blob.drop 24) = some (List.replicate 32 9), seedLen (fieldLe blob 6 2) = 32,
      importStatus j (fieldLe blob 6 2) (fieldLe blob 8 2 &&& j.desc.pn 42 2) = stOk, famOf (fieldLe blob 6 2) ≠ some .nist,
      fieldLe blob 6 2 ≠ 0x0D02] := by decide +kernel

/-- Slot 7 holds an AES key of S00, written as R322 says. -/
def sealedSlot (s : State) : State :=
  let t := withRec s (ridSlot 7) (slotEntry 1)
  { t with alm := { t.alm with slots := [(7, slotRecord t 0 7 2 0x0C01 0 0 0 (List.replicate 32 9) [])] } }

/-- Its record checks out and its seed unwraps. -/
theorem sealed_seed : (slotSeed (bound (sealedSlot upRng)) 7).isSome = true := by decide +kernel

/-- Jobs do not touch it. -/
theorem sealed_seed_of (s : State) (l : List Job) (k : Nat) : slotSeed { s with jobs := l, nextJob := k } 7 = slotSeed s 7 := rfl

theorem meets_lane_pair :
    let j := { mgJob 0x0800 [(40, 1, 7)] with desc := { (mgJob 0x0800 [(40, 1, 7)]).desc with keyHandle := mkHandle 0 0 7 2 } }
    let s := { bound (sealedSlot upRng) with jobs := [j], nextJob := 2 }
    holds [mgmtAt s 1 0x0800 j, hIndex j.desc.keyHandle = 7] = true ∧ (slotSeed s 7).isSome = true := by
  refine ⟨by decide +kernel, ?_⟩
  rw [sealed_seed_of]; exact sealed_seed

theorem meets_lane_prefill :
    let j := mgJob 0x0805 [(40, 1, 0), (48, 4, 1)]
    let s := { bound (sealedSlot upRng) with jobs := [j], nextJob := 2 }
    holds [mgmtAt s 1 0x0805 j, laneBase s 0 0 = some { handle := mkHandle 0 0 7 2, kind := 2, src := .slot 7 2 }] = true ∧
      (keyValue s (.slot 7 2)).isSome = true := by
  refine ⟨by decide +kernel, ?_⟩
  show (slotSeed { bound (sealedSlot upRng) with jobs := _, nextJob := _ } 7).isSome = true
  rw [sealed_seed_of]; exact sealed_seed

/-! ### Witnesses: engines, cells and the host side -/

/-- A request of job 1. -/
def req (func alg : Nat) : BneReq :=
  { job := 1, cell := none, func, sel := 0, alg, mode := 0, hash := 0, lc := 1, inOff := 0, inLen := 0, outOff := 0, outCap := 0,
    bad := false, input := [], slice := 1, handle := 0, key := [], pub := [], ctx := [], sig := [], salt := 0, blkOff := 0, adj := 0, rnd := [],
    age := 0, twin := false, spoilt := false, blind := [] }

/-- Block 15 with that engine. -/
def withBne (f : Bne → Bne) : State := modBne upRng 15 f

/-- A full blinding buffer holds what any request needs, whatever that is. -/
theorem blind_fits (r : BneReq) : blindNeed r ≤ 4096 := by
  have h := (Config.blindBytes r.alg r.func).isLt
  unfold blindNeed; split <;> (try split) <;> omega

theorem meets_bne_start :
    (let r := req 10 0x0601
     let s := withBne (fun e => { e with queue := [r], blind := 4096 })
     holds [serving s, bneServes s 15, blockAwake s 15, (getBlock s 15).bne.run = none, (getBlock s 15).bne.blind = 4096, bneSlack (getBlock s 15).bne, bneNext (fun _ => true) [r] = some r, r.long]) ∧
    (∀ f ∈ [1, 4], let r := req f 0x0401
     let s := withBne (fun e => { e with queue := [r], blind := 4096 })
     holds [serving s, bneServes s 15, blockAwake s 15, (getBlock s 15).bne.run = none, (getBlock s 15).bne.blind = 4096, bneSlack (getBlock s 15).bne, bneNext (fun _ => true) [r] = some r, !r.long, !r.hashes]) ∧
    (let r := req 6 0x0503
     let s := withBne (fun e => { e with queue := [r], blind := 4096 })
     holds [serving s, bneServes s 15, blockAwake s 15, (getBlock s 15).bne.run = none, (getBlock s 15).bne.blind = 4096, bneSlack (getBlock s 15).bne, bneNext (fun _ => true) [r] = some r, !r.long, r.hashes, !r.refused]) ∧
    (let r := req 10 0x0601
     let q := req 1 0x0401
     let s := withBne (fun e => { e with queue := [q], blind := 4096, long := some r, paused := true })
     holds [bneServes s 15, blockAwake s 15, bneSlack (getBlock s 15).bne, bneNext (fun x => !x.long && decide (x.lc ≤ 1)) [q] = some q]) := by decide +kernel

theorem meets_bne_functions :
    (∀ f ∈ [1, 2, 3, 4, 5, 6, 7, 8, 9, 10, 11, 12, 13], let r := req f 0x0401
     let s := withBne (fun e => { e with run := some r, hashed := some [] })
     holds [serving s, bneServes s 15, (getBlock s 15).bne.run = some r, (getBlock s 15).bne.res = none, r.func = f, blockAwake s 15,
       (getBlock s 15).bne.hashed.isSome, (getBlock s 15).bne.till0 ≤ s.uptime]) ∧
    (∀ f ∈ [8, 10, 11], let r := req f 0x0604
     let s := withBne (fun e => { e with long := some r })
     holds [serving s, bneServes s 15, blockAwake s 15, (getBlock s 15).bne.run = none, (getBlock s 15).bne.long = some r, !r.hashes,
       (getBlock s 15).bne.longRes = none, !(getBlock s 15).bne.paused, (getBlock s 15).bne.till1 ≤ s.uptime]) ∧
    (let x : BneRes := ⟨0, 0, 0, [], true⟩
     let s := withBne (fun e => { e with run := some (req 1 0x0401), res := some x })
     let t := withBne (fun e => { e with long := some (req 10 0x0601), longRes := some x })
     holds [bneServes s 15, bneServes t 15, (getBlock s 15).bne.res = some x, (getBlock t 15).bne.longRes = some x, !(getBlock t 15).bne.paused]) ∧
    (let j := enJob 0x0200 [] (.onBne 15)
     let s := { withBne (fun e => { e with long := some (req 10 0x0601) }) with jobs := [j] }
     holds [bneServes s 15, (getBlock s 15).bne.run = none, getJob s 1 = some j, !squashDue s j]) := by decide +kernel

/-- A requester of the digest engine. -/
def deReq (bne : Bool) : DeReq := ⟨1, bne, 0, 0, 1, false, 0⟩

theorem meets_digest_engine :
    (let j := { mgJob 0x0500 [] with pos := .block 15 }
     let s := modDe (mg j) 15 (fun d => { d with waiting := [deReq false] })
     let d := (getBlock s 15).de
     holds [blockServes s 15, blockAwake s 15, ungated s, serving s, deNext (d.waiting.filter (deWaits s 15)) = some (deReq false), deFree d 0 = some 3,
       getJob s 1 = some j, keysResolve s j]) ∧
    (let j := { mgJob 0x0401 [] with pos := .onBne 15 }
     let s := modBne (modDe (mg j) 15 (fun d => { d with waiting := [deReq true] })) 15 (fun e => { e with run := some (req 6 0x0503) })
     holds [blockServes s 15, deNext ((getBlock s 15).de.waiting.filter (deWaits s 15)) = some (deReq true), deFree (getBlock s 15).de 0 = some 3]) ∧
    (∀ b ∈ [true, false], ∀ m ∈ [[], List.replicate 64 0], let j := { mgJob 0x0500 [] with res := some (JobRes.done [] 0) }
     let c := (newCtx (deReq b) 0).load [digestPlan 1 32 [] [] m] 0
     let s := modDe (mg j) 15 (fun d => { d with running := some 3, ctx := [(3, some c)] })
     let t := deCopyAll s 15
     holds [blockServes s 15, blockAwake s 15, ungated s, (getBlock t 15).de.running = some 3, deCtx (getBlock t 15).de 3 = some c,
       getJob t 1 = some j, !squashDue t j, j.res.isSome, c.plans ≠ [], (c.step.plans = []) = (m = [])]) ∧
    (let s := deCopyAll upRng 15
     holds [blockServes upRng 15, blockAwake upRng 15, (getBlock s 15).de.running = none]) ∧
    (let c := { newCtx (deReq false) 0 with ready := true }
     let s := { modDe upRng 15 (fun d => { d with ctx := [(2, some c)] }) with uptime := 655360 }
     holds [blockServes s 15, deBest (getBlock s 15).de (fun n x => some n != (getBlock s 15).de.running && decide (x.waitFrom + 655360 ≤ s.uptime)) = some 2]) := by
  decide +kernel

/-- Cell 127 changed. -/
def cell127 (f : Cell → Cell) : State := modCell upRng 127 f

theorem meets_cell_transfers :
    (∀ k ∈ [0, 1, 2], ∀ st ∈ [4], let s := cell127 (fun c => { c with dma := [⟨k, st, 0, 0, 64⟩] })
     holds [ungated s, !(getCell s 127).halted, (getCell s 127).dma = [⟨k, st, 0, 0, 64⟩], k ≠ 0 ∨ st ≠ 0]) ∧
    (let j := withInput (enJob 0x0300 [] (.running 127)) [1, 2]
     let s := { cell127 (fun c => { c with job := some 1, dma := [⟨0, 0, 0, 0, 2⟩] }) with jobs := [j] }
     holds [(getCell s 127).dma = [⟨0, 0, 0, 0, 2⟩], Machine.cellJob s 127 = some j, (jobInputTo j (ioOf [1, 2]) 2).status = stOk]) ∧
    (∀ q ∈ [true, false], ∀ due ∈ [0, 5], let s := cell127 (fun c => { c with hash := { c.hash with busy := some (q, 0, 64), due } })
     holds [!(getCell s 127).halted, (getCell s 127).hash.busy = some (q, 0, 64), (getCell s 127).hash.due = due,
       (due ≤ (getCell s 127).maskLevel) = (due = 0)]) ∧
    (∀ e ∈ [true, false], ∀ good ∈ [true, false], let s := cell127 (fun c => { c with schk := true, ending := e, schkOk := good })
     holds [!(getCell s 127).halted, (getCell s 127).schk, (getCell s 127).ending = e, (getCell s 127).schkOk = good]) := by decide +kernel

theorem meets_cell_waits :
    (let w := mw 0 0 0 0 0 9 0x101
     let s := cell127 (fun c => { c with pc := 0x100, store := [(0x100, w)], hold := true })
     let c := getCell s 127
     holds [!c.halted, c.hold, !c.ending, mapGet 0 c.store c.pc = w, 8 ≤ wCond w, condHolds c (wCond w), transferOk c (wNext w)]) ∧
    (let s := cell127 (fun c => { c with wd := 2 ^ c.wdogExp, stalled := true })
     holds [!(getCell s 127).halted, 2 ^ (getCell s 127).wdogExp ≤ (getCell s 127).wd, (getCell s 127).stalled]) ∧
    (let s := cell127 (fun c => { c with wd := 2 ^ c.wdogExp, job := some 1, pc := 4 })
     holds [(getCell s 127).job.isSome, gateEntry (getCell s 127).pc, !(getCell s 127).hold]) ∧
    (∀ t ∈ [0, 2], let s := cell127 (fun c => { c with timer := t })
     holds [!(getCell s 127).halted, (getCell s 127).timer ≤ 2, !(getCell s 127).hold]) ∧
    (let s := cell127 (fun c => { c with job := some 1, pc := 0xC00, jobLim := 0 })
     holds [!(getCell s 127).halted, (getCell s 127).job ≠ none, custPc (getCell s 127), (getCell s 127).jobLim = 0]) ∧
    (let j := { enJob 0x0300 [] (.running 127) with slice := 6 }
     let s := { cell127 (fun c => { c with job := some 1 }) with jobs := [j], slices := [(6, { Slice.absent with state := .resetting })] }
     holds [(getCell s 127).job.bind (getJob s) = some j, squashDue s j]) ∧
    (let s := cell127 (fun c => { c with maskOut := 2 ^ 20 })
     holds [2 ^ 20 ≤ (getCell s 127).maskOut, servingDrbg s (127 / 32) = some 3]) := by decide +kernel

/-- A customer job at gate `a` of cell 5, with X[1] and X[2] as given. -/
def gate (a x1 x2 : Nat) (f : Cell → Cell) : State :=
  { modCell upRng 5 (fun c => f (setX (setX { c with pc := a, stack := [0xC10], job := some 1 } 1 (BitVec.ofNat 64 x1) 0) 2 (BitVec.ofNat 64 x2) 0)) with
    jobs := [{ cellJob with keys := [{ slotKey 0 0 with policy := polDerive }] }] }

theorem meets_gates :
    (∀ a ∈ [4, 8], let s := gate a 0 0 id
     holds [(getCell s 5).stack = [0xC10], atGate s 5 a]) ∧
    (let s := gate 0x0C (0x0C02 * 2 ^ 48 + 65535) 64 (fun c => { c with lt := [(1, 1), (257, 2), (513, 3)] })
     let c := getCell s 5
     let a := (getX c 1).toNat
     holds [atGate s 5 0x0C, (getX c 2).toNat = 64, sharesTagged c 64, c.putKey = none, bits a 31 0 = 65535, bits a 63 48 = 0x0C02,
       (c.job.bind (getJob s)).isSome, childPolOk polDerive (bits a 47 32), polOk (bits a 63 48) (bits a 47 32)]) ∧
    (∀ n ∈ [1, 4096], let s := gate 0x10 0 n id
     holds [atGate s 5 0x10, (getX (getCell s 5) 2).toNat = n, servingDrbg s 0 = some 0,
       [0, n - 1].all (fun x => accessKind (getCell s 5) x 1 == 0)]) := by decide +kernel

theorem meets_register_accesses :
    holds [bar0Up up, cfgUp up, (readReg up 0xF08000).any (fun x => x.1 == 64), 0xF00000 % 4 = 0, 0xF00000 % 8 = 0, 0xF08000 % 8 = 0] ∧
    holds [(readReg up 0xF00000).any (fun x => x.1 != 64), (readReg up 0xF08004).isNone, 0xF08004 % 4 = 0] ∧
    (let s := { up with chip := { up.chip with lowLatch := [(0xF08000, some 1)] } }
     holds [bar0Up s, (readReg s 0xF08000).any (fun x => x.1 == 64), (readReg s 0xF08004).isNone,
       mapGet none s.chip.lowLatch 0xF08000 = some 1]) ∧
    ((3 ≠ 4 ∧ 3 ≠ 8) ∨ 0 % 3 ≠ 0) ∧ ((8 ≠ 4 ∧ 8 ≠ 8) ∨ 12 % 8 ≠ 0) ∧ 63 < 64 := by decide +kernel

/-- Slice 4 ACTIVE with PASID index 7 bound and queue pair 3 as given. -/
def withQp (f : Qp → Qp) : State :=
  modQp { up with slices := [(4, { Slice.absent with state := .active, pasids := [(7, .noPrefix)] })] } 4 3 f

/-- An enabled ring of 64 entries. -/
def ring (p : Qp) : Qp := { p with enable := true, depth := 6, pasidIdx := 7 }

theorem meets_queue_pairs :
    holds [bar0Up (withQp ring), slServes (withQp ring) 4, (getQp (withQp ring) 4 3).entries = 64, (getQp (withQp ring) 4 3).enable,
      !(getQp (withQp ring) 4 3).stopped, !(getQp (withQp id) 4 3).enable] ∧
    (∀ e ∈ [6, 12], holds [bits (1 + 2 * e + 32 * 7) 4 1 = e, bits (1 + 2 * e + 32 * 7) 7 5 = 7, (1 + 2 * e + 32 * 7).testBit 0,
      mapGet PasidBind.unbound (getSlice (withQp id) 4).pasids 7 ≠ .unbound, (getSlice (withQp id) 4).state = .active]) ∧
    holds [bits (1 + 2 * 5) 4 1 < 6, 12 < bits (1 + 2 * 13) 4 1, mapGet PasidBind.unbound (getSlice (withQp id) 4).pasids 0 = .unbound] ∧
    holds [(63 + 64 - 0) % 64 ≤ (63 + 64 - 0) % 64, (0 + 64 - 0) % 64 < (1 + 64 - 0) % 64] ∧
    holds [(getQp (withQp (fun p => { ring p with draining := true })) 4 3).draining, !qpBusy (withQp ring) 4 3] := by decide +kernel

theorem meets_dispatch :
    (let j := { mgJob 0x0300 [(48, 2, 0x0101)] with pos := .waiting, lc := 0, slice := 4 }
     let s := mg j
     holds [serving s, pickUpTo s 3 2 = some j, regionRoom s 3 2]) ∧
    (∀ op ∈ [0x0300, 0x0500], let j := { mgJob op [(48, 2, 0x0101)] with pos := .region 3, lc := 1, region := 3 }
     let s := mg j
     holds [serving s, regionOnline s 3, getJob s 1 = some j, (chooseBlock s j 3).isSome, j.kind = (if op = 0x0500 then 2 else 4)]) ∧
    (let j := { mgJob 0x0300 [(48, 2, 0x0101)] with pos := .block 15, lc := 0, region := 3, block := 15 }
     let s := mg j
     let t := modDom s 127 (fun d => { d with state := 2 })
     holds [serving s, cellFree s 127, domAwake s 127, blockAwake s 15, nextFor s 127 = some j, !secondOn s j 127, keysResolve s j,
       cellFree t 127, nextFor t 127 = some j, !domAwake t 127]) ∧
    (∀ du ∈ [true, false], let j := { mgJob 0x0301 [] with
       pos := .staged true, unit := 126, region := 3, block := 15, lc := 0, dual := du, res := some (JobRes.done [] 0) }
     let c := if du then 119 else 127
     let s := mg j
     holds [cellFree s c, nextFor s c = some j, domAwake s c, blockAwake s (c / 8), secondOn s j c]) ∧
    (let s := withQp (fun p => { ring p with sqTail := 63, sqHead := 60 })
     holds [fetches s 4 3, fetchCount s 4 3 = 3]) := by decide +kernel

theorem meets_release :
    (∀ du ∈ [true, false], let j := { mgJob 0x0301 [] with pos := .staged true, second := some 3, dual := du, res := some (JobRes.done [] 0) }
     holds [serving (mg j), getJob (mg j) 1 = some j, j.res.isSome, j.desc.opcode ≠ 0x0304]) ∧
    (let j := { mgJob 0x0304 [] with
       pos := .staged true, second := some 3, dual := true, twin := some [1], saved := [[], [], [], [1]], res := some (JobRes.done [] 0) }
     holds [getJob (mg j) 1 = some j, j.desc.opcode = 0x0304, j.twin = some (j.saved.getD 3 [])]) ∧
    (let j := { mgJob 0x0301 [] with pos := .staged false, slice := 6, res := some (JobRes.done [] 0) }
     holds [getJob (mgSlices j) 1 = some j, squashDue (mgSlices j) j, !isResetJob (mgSlices j) j]) ∧
    (let j := { mgJob 0x0301 [] with pos := .staged false, res := some (JobRes.done [] 0) }
     holds [serving (mg j), getJob (mg j) 1 = some j, !squashDue (mg j) j, !ideHold (mg j), banksChecked (mg j) j, (mg j).link.up]) := by decide +kernel

theorem meets_job_limits :
    (let j := { mgJob 0x0300 [] with pos := .waiting, lc := 0 }
     let s := (List.range 4).foldl (fun s r => modUnit s (144 + r) (fun x => { x with state := .fenced })) { mg j with uptime := 12001 }
     holds [getJob s 1 = some j, serving s, noRegion s, !j.isReleased, lateJob s j]) ∧
    (let j := { mgJob 0x0300 [] with lc := 0 }
     let s := { mg j with uptime := 12000 + 8000000000 }
     holds [getJob s 1 = some j, ungated s, !j.isReleased, !writeBegun s j, j.since + jobBound j + 8000000000 ≤ s.uptime]) ∧
    (∀ e ∈ [true, false], let s := { up with scrubs := [⟨5, 1, e⟩] }
     holds [alive s, s.scrubs.filter (fun w => w.handle == 5 && scrubDue s w) = [⟨5, 1, e⟩]]) := by decide +kernel

theorem meets_slice_events :
    (let s := inMode up .drain
     holds [slicesRun s, s.chip.mode = .drain, s.jobs = [], noWrites s]) ∧
    (let s := { up with slices := [(63, { Slice.absent with state := .quiescing })] }
     holds [slicesRun s, (getSlice s 63).state = .quiescing, outstanding s 63 = 0, recIdle s 63]) ∧
    (∀ p ∈ [SliceState.active, .quiescing], ∀ jb ∈ [none, some 1],
     let r : ResetRec := ⟨p, jb, false, false⟩
     let j := { mgJob 0x0106 [(40, 1, 63)] with parked := true }
     let s := { mg j with slices := [(63, { Slice.absent with state := .resetting, resetRec := some r })] }
     holds [slicesRun s, (getSlice s 63).state = .resetting, (getSlice s 63).resetRec = some r, slicesJobsDone s 63, recIdle s 63]) ∧
    (let r : ResetRec := ⟨.active, some 1, true, false⟩
     let j := { mgJob 0x0107 [(40, 1, 63)] with parked := true }
     let s := withRec { mg j with slices := [(63, { Slice.absent with state := .resetting, resetRec := some r })] } (ridSlice 63)
       (.slice ⟨.active, SliceCfg.dflt, true⟩)
     holds [slicesRun s, (getSlice s 63).resetRec = some r, slicesJobsDone s 63, recIdle s 63, (sliceRecOf s 63).any (fun e => e.removal),
       (getJob s 1).isSome]) := by decide +kernel

/-- The window committed, with 1 GiB of slice 4 at its start. -/
def hdmUp : State :=
  { up with
    hdm := { up.hdm with size := 8, committed := true, base := 0x100000000, span := 8 },
    slices := [(4, { Slice.absent with state := .active, apSize := 1, hbmKey := some 1 })] }

theorem meets_link_and_window :
    holds [alive up, up.link.up, hdmUp.link.up, hdmUp.link.cxl, hdmUp.hdm.committed, !hdmUp.chip.d3hot, !hdmUp.chip.viral] ∧
    holds [({ hdmUp with hdm := { hdmUp.hdm with committed := false } }).link.cxl, 0 < hdmUp.hdm.size] ∧
    (∀ off ∈ [0, 2 ^ 30 - 64], holds [apertureOf hdmUp off = some 4, off < hdmUp.hdm.span * 2 ^ 28, regionOnline hdmUp (off / 4096 % 4),
      (getSlice hdmUp 4).hbmKey.isSome, !mapGet false hdmUp.hdm.poison (off / 64)]) ∧
    (∀ off ∈ [0, 2 ^ 30 - 64], let s := { hdmUp with slices := [(4, { Slice.absent with state := .configured, apSize := 1 })] }
      holds [apertureOf s off = some 4, (getSlice s 4).hbmKey.isNone]) ∧
    (let s := { hdmUp with hdm := { hdmUp.hdm with poison := [(3, true)] } }
     holds [apertureOf s 200 = some 4, mapGet false s.hdm.poison (200 / 64)]) ∧
    (∀ off ∈ [2 ^ 30, 8 * 2 ^ 28 - 64], holds [apertureOf hdmUp off = none, off < hdmUp.hdm.span * 2 ^ 28]) ∧
    holds [hdmUp.link.atsEn, hdmUp.link.ats.length < 32, 0 < 8 ∧ 8 ≤ hdmUp.hdm.size ∧ 0x100000000 % 2 ^ 28 = 0,
      ([⟨7, none, 0, 4096⟩, ⟨9, none, 0, 4096⟩] : List AtsInv).find? (fun x => x.tag == 9) = some ⟨9, none, 0, 4096⟩, hdmUp.jobs = []] := by decide +kernel

/-- Stream 2 keyed both ways in an open session. -/
def keyed : State :=
  { up with link := { up.link with spdm := true, cert1 := [1], ide := [(2, { IdeStream.none with configured := true, keys := 15 })] } }

theorem meets_attestation :
    holds [alive keyed, keyed.link.up, keyed.chip.mode ≠ .boot, keyed.chip.lc = .owned, keyed.link.spdm, keyed.link.cxl, keyed.link.cert1 ≠ [],
      (mapGet IdeStream.none keyed.link.ide 2).keys.testBit 1, (mapGet IdeStream.none keyed.link.ide 2).keys = 15] ∧
    (∀ l ∈ [Lc.blank, .scrapped], alive { up with chip := { up.chip with lc := l } } = true) ∧ alive (inMode up .boot) = true ∧
    sub [1, 1, 1, 1] 0 4 = [1, 1, 1, 1] ∧ sub [1, 1, 1, 2] 0 4 ≠ [1, 1, 1, 1] := by decide +kernel

theorem meets_sideband_and_sensors :
    holds [sideUp up, alive up, up.chip.lc ≠ .scrapped, alive { up with chip := { up.chip with lc := .scrapped } }, (getHandler up 0).first = none] ∧
    (∀ k ∈ [0, 4, 5, 8], holds [warnLimit k < warnLimit k + 1, critLimit k < critLimit k + 1, !mapGet false up.thermal.warning k,
      !mapGet false up.thermal.critical k, critLimit k - hysteresis - 1 < critLimit k - hysteresis]) ∧
    (let s := raiseFault up 0x22 0x90 0
     holds [alive s, (getHandler s 0).first.isSome]) := by decide +kernel

/-! ### Witnesses: resets, tamper, power, the Almanac, time -/

theorem meets_resets :
    holds [({ up with supply := { up.supply with por := true } }).supply.por, alive up] ∧
    (let s := { up with supply := { up.supply with resetWaiting := true, resetLow := true } }
     holds [ungated s, s.supply.resetWaiting, noneBegun s]) ∧
    (let s := { up with supply := { up.supply with warnedAt := some 0 }, uptime := 10000 }
     holds [alive s, s.supply.warnedAt = some 0, 0 + 10000 ≤ s.uptime]) ∧
    holds [ungated (inMode up .boot), ungated (inMode up .assay), !(inMode up .assay).flt.fatal, up.chip.mode ≠ .halt] := by decide +kernel

/-- Every loop and switch enrolled, from the fuses. -/
def fused (s : State) : State := { s with fuses := (List.range 24).map (fun i => (0x2F0 + i, 0xFF)), root := { s.root with lcHeld := 3 } }

theorem meets_tamper :
    (∀ x ∈ [true, false], let s := { up with tamper := { up.tamper with src := if x then [(159, ⟨true, 0⟩)] else [] }, uptime := 5 }
     holds [alive s, s.chip.lc ≠ .scrapped, (getDom s 127).state = 0, (mapGet TmpSrc.armed s.tamper.src 159).tripped = x, s.uptime < 1000000000]) ∧
    holds [alive (fused up), enrolled (fused up) up.chip.lc.code 0, enrolled (fused up) up.chip.lc.code 15, enrolled (fused up) up.chip.lc.code 16,
      enrolled (fused up) up.chip.lc.code 17, enrolled (fused up) (fused up).root.lcHeld 0, enrolled (fused up) (fused up).root.lcHeld 17] ∧
    (let s := { up with tamper := { up.tamper with src := [(0, ⟨true, 0⟩)] }, uptime := 1000000000 }
     holds [(mapGet TmpSrc.armed s.tamper.src 0).tripped, (mapGet TmpSrc.armed s.tamper.src 0).lastAt + 1000000000 ≤ s.uptime]) ∧
    (let s := { fused up with supply := { up.supply with onAux := false } }
     holds [!s.supply.onAux, s.supply.vbat]) ∧
    holds [up.supply.onAux, (timed up).tb.set, !up.tb.set, alive up, up.chip.mode ≠ .boot, up.chip.mode ≠ .halt] := by decide +kernel

/-- Domain `d` changed. -/
def domUp (d : Nat) (f : Dom → Dom) : State := modDom upRng d f

theorem meets_power_domains :
    (let s := (List.range 32).foldl (fun s c => modDom s c (fun x => { x with state := 2 })) upRng
     let t := (List.range 4).foldl (fun s b => modDom s (128 + b) (fun x => { x with state := 2 })) s
     holds [alive t, mayEnter t 144 1, domKind 144 = 2, mayEnter s 128 2, domKind 128 = 1, (getBlock s 0).bne = Bne.idle, (getBlock s 0).de = De.idle]) ∧
    (∀ d ∈ [148, 159], holds [alive upRng, mayEnter upRng d 1, domKind d = 3 ∨ (domKind d = 4 ∧ !(portEnt upRng (d - 152)).paired)]) ∧
    (∀ d ∈ [127, 128, 147, 159], ∀ st ∈ [3, 4], let s := domUp d (fun x => { x with state := st, waking := some 0 })
     holds [alive s, (getDom s d).waking = some 0, (wakeLimit d st).any (fun l => decide (s.uptime < 0 + l))]) ∧
    (∀ d ∈ [5], let s := { domUp d (fun x => { x with state := 3, waking := some 0 }) with uptime := 1600 }
     holds [alive s, (getDom s d).waking = some 0, wakeLimit d 3 = some 1600, 0 + 1600 ≤ s.uptime]) ∧
    (∀ e ∈ [(127, 3), (127, 0), (128, 33), (128, 0), (147, 63)], let s := domUp e.1 (fun x => { x with checks := [e.2] })
     holds [alive s, (getDom s e.1).checks.contains e.2]) ∧
    (let s := domUp 159 (fun x => { x with checks := [0] })
     holds [(getDom s 159).checks.contains 0, domKind 159 ≠ 1, domKind 159 ≠ 2]) := by decide +kernel

theorem meets_almanac :
    (let s := { up with alm := { up.alm with writes := [(2, { WriteQ.none with started := true })] } }
     let t := { inMode s .ceremony with cer := some cer0, uptime := 600 * 10 ^ 9 }
     holds [alive s, (mapGet WriteQ.none s.alm.writes 2).started, !holdsRelease s (reqJobs (mapGet WriteQ.none s.alm.writes 2).reqs), !timeoutDue s,
       !holdsRelease t (reqJobs (mapGet WriteQ.none t.alm.writes 2).reqs), timeoutDue t]) ∧
    (∀ jb ∈ [true, false], let j := { mgJob 0x0200 [] with res := some { JobRes.done [] 0 with slot := some ⟨7, 0x0C01, 0, 0, [], [], none⟩ } }
     let s0 := { up with jobs := if jb then [j] else [] }
     let s := { s0 with alm := { s0.alm with writes := [(2 ^ 20 + 7, { WriteQ.none with started := true, reqs := [⟨some 1, .slotWrite 7 []⟩] })] } }
     holds [alive s, slotWriteOf s 1 = some (2 ^ 20 + 7, .slotWrite 7 []), !holdsRelease s [1], (getJob (endWrite (opEffect s (.slotWrite 7 [])) (2 ^ 20 + 7)) 1).isSome = jb,
       (getJob (endWrite s (2 ^ 20 + 7)) 1).isSome = jb]) ∧
    (let s := withRec up (ridSlot 262143) (.slots [(15, { SlotEnt.free with state := 2 })])
     holds [alive s, (slotEnt s 262143).state = 2, s.chip.mode = .service, !slotEntPending s 262143, s.scrubs = []]) ∧
    (let s := { up with trees := [(17408, { Tree.none with dirty := true })] }
     holds [alive s, pageKeys s ≠ []]) ∧
    (let s := withRec up 64431 (.slots [])
     holds [alive s, rootPresent s, s.chip.mode = .service, viewRec s 64431 ≠ .empty, viewRec s 64431 ≠ .lost,
       mapGet WriteQ.none s.alm.writes 64431 = WriteQ.none]) := by decide +kernel

theorem meets_timebase :
    (let s := { timed up with tb := { (timed up).tb with time := 101 * secNs } }
     holds [alive s, s.chip.mode ≠ .boot, edgeAccepted s]) ∧
    (let s := { up with tb := { up.tb with runEdge := some 0 }, uptime := 999950000 }
     holds [extendsRun s, !edgeAccepted s]) ∧
    holds [!edgeAccepted up, !extendsRun up] ∧
    (let s := { timed up with tb := { (timed up).tb with time := 101 * secNs + 50000 } }
     holds [s.tb.set, (s.tb.win : Int) * 1000000000 + 50000 ≤ winPhase s]) ∧
    (let s := { up with tb := { up.tb with runEdge := some 0 }, uptime := 1000050001 }
     holds [s.tb.runEdge = some 0, 0 + 1000050000 < s.uptime]) ∧
    (∀ m ∈ [0, 1, 2], let s := { timed up with tb := { (timed up).tb with slew := some 0, slewMiss := m } }
     holds [s.tb.slew = some 0, s.tb.tref ≠ 0, s.tb.slewMiss = m]) := by decide +kernel

theorem meets_holdover :
    (let s := { timed up with tb := { (timed up).tb with cond := .holdover, hold := 14400 * secNs } }
     holds [s.tb.cond = .holdover, !s.tb.expired, (settings s).budget * secNs ≤ s.tb.hold]) ∧
    holds [up.tb.tref = 0, (timed up).tb.tref ≠ 0, (timed up).tb.cond = .referenced] ∧
    (∀ m ∈ [1, 2], let s := { timed up with tb := { (timed up).tb with cond := .holdover, missRun := m } }
     holds [s.tb.tref ≠ 0, s.tb.cond = .holdover, s.tb.missRun = m]) ∧
    (let s := { timed up with tb := { (timed up).tb with cond := .untimed } }
     holds [s.tb.tref ≠ 0, s.tb.cond = .untimed]) ∧
    holds [tppsOn (timed up), (timed up).tb.time % secNs = 0] ∧
    (let s := { timed up with pins := { up.pins with tppsOut := true }, tb := { (timed up).tb with time := 100 * secNs + 100000000 } }
     holds [s.pins.tppsOut, 100000000 ≤ s.tb.time % secNs]) := by decide +kernel

/-- Event 65535 of S04, a NOTIFY at second 101 in state `st`. -/
def withEvent (st kind t : Nat) (f : EvRec → EvRec) : State :=
  { timed up with
    eph := { up.eph with events := [(65535, some (f { EvRec.fresh 65535 4 ⟨kind, 0, 101 * secNs, 0, 0, 0, 0⟩ with state := st }))] },
    tb := { (timed up).tb with time := t } }

theorem meets_events :
    (let s := withEvent 0 1 (101 * secNs - 1000000) id
     holds [alive s, (mapGet none s.eph.events 65535).isSome, eventsFire s, s.tb.set, 101 * secNs ≤ s.tb.time + 1000000]) ∧
    (let s := { withEvent 2 6 0 id with uptime := 60 * secNs }
     holds [(mapGet none s.eph.events 65535).any (fun v => !v.isOpen && decide (v.endedAt + 60 * secNs ≤ s.uptime) && !heldActivation s v)]) ∧
    (let s := withEvent 0 6 (101 * secNs) id
     holds [alive s, s.chip.mode ≠ .boot, s.tb.set,
       ((eventList s).filter (fun e => (e.2.state == 0 || e.2.state == 1) && e.2.spec.instant == s.tb.time)).length = 1]) ∧
    (∀ st ∈ [0, 5], let s := withEvent st 6 (102 * secNs) id
     holds [alive s, (overdue s).length = 1]) := by decide +kernel

/-- Port 7 paired to slice 4. -/
def lane (f : Port → Port) : State :=
  modPort (withRec { upRng with slices := [(4, { Slice.absent with state := .active, cfg := { SliceCfg.dflt with ports := 128 } })] } 2
    (.settings { Settings.dflt with ports := [(7, { PortEnt.none with paired := true })] })) 7 (fun p => f { p with seals := some ([], []), linkUp := true, credits := 16 })

theorem meets_lanes :
    holds [alive (lane id), portOn (lane id) 7] ∧
    (∀ op ∈ [0, 1, 2, 3, 4, 5, 15], rqOp [BitVec.ofNat 8 (16 * op), 0, 0, 0, 0, 0, 0, 0, 0] = op) ∧
    (let s := lane (fun p => { p with pendingMiss := [⟨1, 0, 0, 0, 0⟩], nonce := 2 ^ 28 - 2 })
     holds [alive s, portOn s 7, (getPort s 7).pendingMiss = [⟨1, 0, 0, 0, 0⟩], (getPort s 7).seals.isSome, (getPort s 7).nonce + 1 < 2 ^ 28,
       (List.range 8).all (fun k => k == 7 || !portOn s k)]) ∧
    (∀ f ∈ [TxFrame.sealed [1] true, .nak 1 1 true], let s := lane (fun p => { p with tx := [f] })
     holds [portOn s 7, (getPort s 7).tx = [f]]) ∧
    (let s := lane (fun p => { p with nonce := 2 ^ 28 - 2 ^ 16 })
     holds [portOn s 7, (getPort s 7).seals.isSome, !(getPort s 7).rekey, 2 ^ 28 - 2 ^ 16 ≤ (getPort s 7).nonce, (portSlice s 7) = some 4,
       !meridianAhead s 4]) := by decide +kernel

/-- Card slot 3 changed. -/
def card3 (f : CardSlot → CardSlot) : State := { up with cards := [(3, f CardSlot.empty)] }

theorem meets_cards :
    holds [alive (card3 (fun c => { c with det := true })), cardsServed up, !cardsServed (inMode up .boot), (getCard up 3).state ≤ 1] ∧
    (let s := { card3 (fun c => { c with state := 2 }) with uptime := 10000000 }
     holds [cardsServed s, (getCard s 3).state = 2, (getCard s 3).since + 10000000 ≤ s.uptime]) ∧
    (let s := { card3 (fun c => { c with state := 5, rate := 2, cmd := some (1, 0) }) with uptime := 1280 }
     holds [cardsServed s, (getCard s 3).cmd.isSome, !(getCard s 3).busy, 3 ≤ (getCard s 3).state,
       128 * cardPeriod (getCard s 3) ≤ 10 * (s.uptime - (getCard s 3).since)]) ∧
    (let s := { card3 (fun c => { c with state := 5, busy := true }) with uptime := 10000001 }
     holds [cardsServed s, (getCard s 3).busy, (getCard s 3).since + 20000 ≤ s.uptime, (getCard s 3).since + 10000000 < s.uptime, (stepOn s 3).isNone]) ∧
    (let p : CardStep := ⟨3, false, 1, 0, none, none, false, [], [], [], [], 0⟩
     let s := { card3 (fun c => { c with state := 5, busy := true }) with
       uptime := 10000001, jobs := [mgJob 0x0902 []],
       cer := some { cer0 with stepJob := some 1, step := some p } }
     holds [(getCard s 3).busy, (stepOn s 3).isSome]) := by decide +kernel

/-- Alternating two-bit samples: no run of 41, no value 792 times. -/
def rawBits : BitVec 1024 := BitVec.ofNat 1024 ((List.range 1024).foldl (fun a i => a + (i % 2) * 2 ^ i) 0)

theorem meets_random_bits :
    (∀ st ∈ [1, 2, 3], let s := modRng up 3 (fun x => { x with src := st })
     holds [alive s, s.chip.mode ≠ .boot, (rngOf s 3).src = st]) ∧
    (let s := modRng upRng 3 (fun x => { x with turn := 3 })
     holds [(rngOf s 3).src = 2, healthy rawBits, ((List.range 4).map (fun i => ((rngOf s 3).turn + 1 + i) % 4)).all (fun m => !waitsFor s 3 m)]) ∧
    (let s := modRng upRng 3 (fun x => { x with drbg := 2, seedSrc := 3 })
     holds [waitsFor s 3 3]) ∧
    (∀ c ∈ [0, 2 ^ 20], let s := { modRng upRng 3 (fun x => { x with calls := c }) with uptime := if c = 0 then 10 ^ 9 else 0 }
     holds [(rngOf s 3).drbg = 1, 2 ^ 20 ≤ (rngOf s 3).calls || (rngOf s 3).seededAt + 10 ^ 9 ≤ s.uptime]) := by decide +kernel

/-- Unit `k` changed. -/
def unitUp (k : Nat) (f : FltUnit → FltUnit) : State := modUnit upRng k f

theorem meets_faults :
    (∀ e ∈ [(0x22, 0x90), (0x07, 0x7F), (0x3D, 0xC4), (0x36, 0xC0)], holds [alive up, unitKnown e.2, srcUnitOk e.1 e.2, up.chip.mode ≠ .halt]) ∧
    (∀ k ∈ [0, 144, 147, 173], let s := unitUp k (fun x => { x with state := .fenced, acting := true })
     let t := { s with flt := { s.flt with recov := { s.flt.recov with limit := 0 } } }
     holds [(getUnit s k).state = .fenced, (getUnit s k).acting, recoveries s (unitNo k) < s.flt.recov.limit, t.flt.recov.limit ≤ recoveries t (unitNo k)]) ∧
    (let s := { unitUp 173 (fun x => { x with state := .fenced, quietFrom := some 0 }) with uptime := 250000000 }
     holds [(getUnit s 173).state = .fenced, !(getUnit s 173).acting, quietOver s (getUnit s 173), s.chip.mode = .service]) ∧
    (let s := unitUp 173 (fun x => { x with state := .recovering })
     holds [(getUnit s 173).state = .recovering]) ∧
    (let s := unitUp 172 (fun x => { x with state := .fenced })
     holds [s.chip.activeMgmt = 0, !unitOnline s 172, unitOnline s 173]) ∧
    (let s := { up with flt := { up.flt with fatal := true } }
     holds [alive s, s.flt.fatal, s.chip.mode ≠ .halt]) := by decide +kernel

/-- Source `id` changed. -/
def srcUp (id : Nat) (f : IcSrc → IcSrc) : State := modIc up id f

theorem meets_interrupts :
    (∀ id ∈ [1, 177, 291], holds [alive up, id < 1023, icExists id]) ∧ holds [!icEdge 1, icEdge 177, !(getIc up 1).asserted] ∧
    (let s := srcUp 1 (fun x => { x with enable := true, asserted := true, state := .pending, priority := 7, targets := 1 })
     holds [(icBest s 0 s.intc.src).any (fun e => e.1 == 1), icBest s 20 s.intc.src = none]) ∧
    (∀ st ∈ [IcState.idle, .active, .activePending], let s := srcUp 1 (fun x => { x with state := st, proc := 21 })
     holds [(getIc s 1).state = st, (getIc s 1).proc = 21, !(getIc s 1).asserted, !icEdge 1]) ∧
    (∀ c ∈ [1022, 1023], let s := srcUp 1 (fun x => { x with state := .active, proc := 21, asserted := true, count := c })
     holds [(getIc s 1).asserted, (getIc s 1).count = c, (getIc s 1).state = .active]) ∧
    (let s := { srcUp 1 (fun x => { x with storm := true }) with uptime := 1000000 }
     holds [(getIc s 1).storm, (getIc s 1).polled + 1000000 ≤ s.uptime]) := by decide +kernel

theorem meets_test_port :
    (let s := { up with tap := { up.tap with voted := true }, chip := { up.chip with lc := .blank } }
     holds [alive s, tapOk (tapColumn s) 0x00, tapOk (tapColumn s) 0x01, tapOk (tapColumn s) 0x02, tapOk (tapColumn s) 0x03, tapOk (tapColumn s) 0x40,
       tapOk (tapColumn s) 0x41]) ∧
    (let s := { up with tap := { up.tap with voted := true }, chip := { up.chip with lc := .scrapped } }
     holds [alive s, !tapOk (tapColumn s) 0x00, !tapOk (tapColumn s) 0x01, !tapOk (tapColumn s) 0x02, !tapOk (tapColumn s) 0x03,
       !tapOk (tapColumn s) 0x40, !tapOk (tapColumn s) 0x41]) ∧
    (∀ e ∈ [(0x10, 9), (0x198, 144)], dbgFields.any (fun f => decide (f.1 ≤ e.1) && decide (e.1 + e.2 ≤ f.1 + f.2)) = true) ∧
    dbgFields.any (fun f => decide (f.1 ≤ 0x300) && decide (0x300 + 1 ≤ f.1 + f.2)) = false := by decide +kernel

/-! ### Witnesses: the machine as a whole -/

theorem meets_step : up.pending = [] ∧ (alive up && !tickDue up.tb) = true ∧ (let s := { timed up with tb := { (timed up).tb with steerAcc := 1000000000 } }
    (alive s && tickDue s.tb) = true) ∧ mapWf 0 State.reset.fuses = true ∧ mapWf 0 State.reset.hdm.mem = true ∧
    (∃ t, step State.reset = .next t) ∧ (∃ t, exec .heartbeatTick up = .next t) ∧ fusesHold [] State.reset :=
  ⟨rfl, by decide +kernel, by decide +kernel, rfl, rfl, ⟨_, rfl⟩, ⟨_, rfl⟩, fun a => by show (0 : Byte) &&& _ = 0; simp⟩

/-- A descriptor of S00 that no rule before check 4 refuses. -/
def query : Desc := ⟨0x0100, 2, 0, 0, 0, 0, 64, 0, List.replicate 24 0⟩

theorem meets_umbra :
    (∀ m ∈ [Mode.umbra, .service], let s := inMode up m
     holds [opDefined s 0 query, firstBad ((40, usesKey2 s 0 query && query.opcode == 0x020B && (key2 s 0 query).2.any (fun r => r.alg != 0x0C01)) ::
       (255, query.opcode == 0x0204 && ([] : List Byte) != [] && !labelOk query.alg []) :: check2 s 0 query (key1 s 0 query).2) = none, firstBad (check3 query) = none, !check4 s 0 query (key1 s 0 query).2]) := by decide +kernel

/-! ### One step of the other families -/

/-- What a step leaves. -/
def gives (i : Instr) (s : State) (p : State → Bool) : Bool :=
  match exec i s with
  | .next t => p t
  | _ => false

/-- R92: an 8-byte access at 4 is ignored and counted. -/
theorem test_bad_access : gives (.bar0BadAccess true 4 8) up (fun t => t.chip.hostErr == 1 && t.out.isEmpty) = true ∧
    gives (.bar0BadAccess false 4 8) up (fun t => t.out == [.readData (List.replicate 8 0)]) = true := by decide +kernel

/-- R93: reading the low half latches the high half. -/
theorem test_low_half : gives (.bar0LowHalfRead ⟨⟨false, 0xF08000⟩, 4⟩) { up with link := { up.link with msixPend := [0, 63] } }
    (fun t => t.out == [.readData [1, 0, 0, 0]] && t.chip.lowLatch == [(0xF08000, some 0x80000000)]) = true := by decide +kernel

theorem test_notify_clear : gives (.slNotifyClear 63 0x81) { up with slices := [(63, { Slice.absent with notify := 0xC1 })] }
    (fun t => (getSlice t 63).notify == 0x40) = true := by decide +kernel

/-- R125: a tail inside the ring, and one outside. -/
theorem test_doorbell : gives (.sqDoorbell 4 3 63) (withQp ring) (fun t => (getQp t 4 3).sqTail == 63 && !(getQp t 4 3).stopped) = true ∧
    gives (.sqDoorbell 4 3 64) (withQp ring) (fun t => (getQp t 4 3).stopped && (getQp t 4 3).cause == 1) = true := by decide +kernel

/-- R128, R72: an undefined opcode completes at admission; the reserved opcode 0x0000 is E_OPCODE. -/
theorem test_fetch_refuses : gives (.descriptorFetch 4 3 { descs := [List.replicate 64 0], labels := [], fault := false, cplFault := false, latency := 400 })
    (withQp (fun p => { ring p with sqTail := 1 })) (fun t => (getQp t 4 3).sqHead == 1 && (getQp t 4 3).cqTail == 1 && t.jobs.isEmpty) = true := by
  decide +kernel

theorem test_query_completes : gives (.deviceQuery 1 io0) (mg (mgJob 0x0100 [])) (fun t => t.jobs.isEmpty && !t.out.isEmpty) = true := by
  decide +kernel

theorem test_mode_change : gives (.drainBegin 1 io0) (mg (mgJob 0x0110 [])) (fun t => t.chip.mode == .drain && t.jobs.isEmpty) = true := by
  decide +kernel

theorem test_slice_activate : gives (.sliceActivate 1 io0) (mgSlices (mgJob 0x0104 [(40, 1, 3)]))
    (fun t => (getSlice t 3).state == .configured && (mapGet WriteQ.none t.alm.writes (ridSlice 3)).reqs.length == 1) = true := by decide +kernel

/-- R96, R110: bytes written to the window read back, and an unlisted byte reads 0. -/
theorem test_window : gives (.hdmAccess (0x100000000 + 64) (some [1, 0, 3])) hdmUp
    (fun t => bytesGet t.hdm.mem 64 4 == [1, 0, 3, 0] && t.hdm.mem == [(64, 1), (66, 3)]) = true := by decide +kernel

theorem test_flr_drops_the_rings : gives .flr (withQp ring) (fun t => !(getQp t 4 3).enable) = true := by decide +kernel

theorem test_set_endpoint : gives (.setEndpointId 9) up (fun t => t.out == [.sideband [1, 0, 9]] && t.chip.eid == 9) = true := by decide +kernel

/-- R527: a junction at 110.125 degrees is above the warning limit of a cell sensor. -/
theorem test_warning : gives (.temperatureWarning 0 881) up (fun t => t.pins.smbAlertN && t.alm.log.length == 1) = true ∧
    gives (.temperatureWarning 0 880) up (fun t => !t.pins.smbAlertN && t.alm.log.isEmpty) = true := by decide +kernel

/-- R491: an edge makes a source pending; a claim with nothing pending answers 0. -/
theorem test_interrupts : gives (.icSourceAssert 177 true) up (fun t => (getIc t 177).state == .pending) = true ∧
    gives (.icClaim 0) up (fun t => t.out == [.readData [0, 0, 0, 0]]) = true := by decide +kernel

/-- R448: a debug write sets fuse bits and clears none. -/
theorem test_fuses : gives (.dbgFuse 0x10 [0x0F])
    { up with fuses := [(0x10, 0xF0)], chip := { up.chip with lc := .blank }, tap := { up.tap with voted := true } }
    (fun t => byteGet t.fuses 0x10 == 0xFF) = true := by decide +kernel

theorem test_bypass_when_refused : gives (.extest [1]) { up with tap := { up.tap with voted := true } } (fun t => t.tap.instr == 0xFF && t.out.isEmpty) = true := by
  decide +kernel

/-- R402: a receive link that drops is down until it comes up. -/
theorem test_lane_link : gives (.klRxLinkLoss 7) (lane id) (fun t => !(getPort t 7).linkUp) = true := by decide +kernel

/-- Chapter 15's request frame: its CRC-8, the nibbles of the data pairs, and the frame pair of both worked examples. -/
theorem test_request_frame : rqCrcOk [0x10, 0xC7, 0x30, 0x00, 0x0A, 0x2F, 0x01, 0xF4, 0xDA] = true ∧
    (List.range 4).map (fun p => laneBit [0x10, 0xC7, 0x30, 0x00, 0x0A, 0x2F, 0x01, 0xF4] 0 p) = [false, false, false, true] ∧
    (List.range 4).map (fun p => laneBit [0x10, 0xC7, 0x30, 0x00, 0x0A, 0x2F, 0x01, 0xF4] 3 p) = [false, true, true, true] ∧
    (List.range 16).map (laneMark (some 0xDA)) = [true, true, false, true, false, false, false, false, true, true, false, true, true, false, true, false] ∧
    rqCrcOk [0x10, 0x01, 0x30, 0x00, 0x00, 0x01, 0x00, 0x02, 0xF3] = true := by decide +kernel

/-- R85: vendor 0x1F4D and device 0x4128. -/
theorem test_config_space : gives (.bar0LowHalfRead ⟨⟨true, 0⟩, 4⟩) up (fun t => t.out == [.readData [0x4D, 0x1F, 0x28, 0x41]]) = true := by decide +kernel

/-- R111: without CXL the window is gone. -/
theorem test_pcie_only : gives (.linkTraining ⟨false, 16, 5, false, true, true⟩) hdmUp (fun t => t.link.up && !t.link.cxl && !t.hdm.committed) = true := by
  decide +kernel

/-- R226: a share check that finds a sum other than 0 is machine check 3, and R227: a hash operation waits for its mask units. -/
theorem test_share_check : gives (.schkDone 127 false) (cell127 (fun c => { c with schk := true, schkOk := true }))
    (fun t => (getCell t 127).mCause == 3) = true ∧
    gives (.hashOpDone 127) (cell127 (fun c => { c with maskLevel := 4, hash := { c.hash with busy := some (false, 0, 8), due := 300 } }))
    (fun t => (getCell t 127).hash.due == 296 && (getCell t 127).hash.busy.isSome && (getCell t 127).maskLevel == 0) = true := by decide +kernel

/-- R27: a dual execution takes its second cell in another block. -/
theorem test_second_cell : gives (.cellJobStart 119) (mg { mgJob 0x0301 [] with
      pos := .staged true, unit := 126, region := 3, block := 15, lc := 0, dual := true, res := some (JobRes.done [] 0) })
    (fun t => (getJob t 1).any (fun j => j.second == some 119 && j.unit == 126) && (getCell t 119).job == some 1) = true := by decide +kernel

theorem test_card_insert : gives (.cardDebouncedInsert 3 true) up (fun t => (getCard t 3).state == 2 && (getCard t 3).wp && (getCard t 3).pwren) = true := by
  decide +kernel

/-- R513: a repetition failure in service counts and restarts the source. -/
theorem test_health_failure : gives (.healthTestFailure 3 1) upRng (fun t => (rngOf t 3).rct == 1 && (rngOf t 3).src == 3) = true := by decide +kernel

theorem test_heartbeat : gives .heartbeatTick up (fun t => t.chip.heartbeat == 1) = true ∧
    gives .heartbeatTick (inMode up .halt) (fun t => t.chip.heartbeat == 0) = true := by decide +kernel

/-- R434: the battery log takes an entry for a pulse that was lost. -/
theorem test_battery_log : gives (.batteryLoopPulse [15] []) { fused up with supply := { up.supply with onAux := false } }
    (fun t => t.root.batLog.length == 1) = true := by decide +kernel

theorem test_loop_alarm : gives (.loopAlarm 15 1 ⟨[], [], [], [], false, false⟩) (fused up) (fun t => t.chip.mode == .umbra) = true := by decide +kernel

theorem test_domain_wake : gives (.domainWake 5 false) (modDom upRng 5 (fun d => { d with state := 3 })) (fun t => (getDom t 5).waking == some 0) = true := by
  decide +kernel

theorem test_reset_waits : gives .resetAssert up (fun t => t.supply.resetLow && t.supply.resetWaiting) = true := by decide +kernel

theorem test_step_takes_the_front :
    (match step { up with pending := [.heartbeatTick, .heartbeatTick] } with
     | .next t => t.pending.length == 1 && t.chip.heartbeat == 1
     | _ => false) = true := by decide +kernel

theorem test_idle_step_counts : (match step State.reset with | .next t => t.uptime == 1 && t.pending.isEmpty | _ => false) = true := by decide +kernel

theorem test_no_word_spells_a_command : decodeTableWord 48 0 = none ∧ (State.reset.withFetchWord 48 0).pending = [] := by decide

/-- FIPS 202: SHA3-256 of the empty string begins A7 FF C6 F8. -/
theorem test_sha3 : (sha3_256 []).take 4 = [0xA7, 0xFF, 0xC6, 0xF8] := by decide +kernel

/-- FIPS 197, appendix C.3. -/
theorem test_aes : aesEncrypt sboxTable (aesKeys sboxTable ((List.range 32).map (BitVec.ofNat 8)))
    (leNat ((List.range 16).map (fun i => BitVec.ofNat 8 (17 * i)))) =
    leNat [0x8E, 0xA2, 0xB7, 0xCA, 0x51, 0x67, 0x45, 0xBF, 0xEA, 0xFC, 0x49, 0x90, 0x4B, 0x49, 0x60, 0x89] := by decide +kernel

/-! ### The ball map, against the examples of R517 -/

theorem test_ball_kl2_txc : laneBall true 2 4 0 = ⟨"A", 49⟩ ∧ laneBall true 2 4 1 = ⟨"A", 50⟩ := by decide
theorem test_ball_kl7_rxf : laneBall false 7 5 0 = ⟨"L", 34⟩ := by decide

end Sys2Proof.Tests
end

/-! SUPPORT. The accesses of BAR0 and of configuration space (R85, R92, R93), and the clock of an empty queue. -/

namespace Sys2Proof.Proofs

open Sys2Proof Machine Laws

/-! ### Guards -/

/-- A row whose guard holds answers its effect. -/
theorem doIf_of_guard {p : Bool} (h : p = true) (s t : State) : doIf s p t = .next t := by
  simp [doIf, h]

/-- A command that names an existing unit answers what its row does. -/
theorem known_of_exists {p : Bool} (h : p = true) (r : Res) : known p r = r := by
  simp [known, h]

/-! ### What a read of BAR0 returns and latches (R93) -/

section
variable {s : State} {a k v : Nat}

theorem read4_of_reg (h : readReg s a = some (k, v)) : read4 s a = v % 2 ^ 32 := by
  simp [read4, h]

theorem read4_of_latched {w : W32} (h : readReg s a = none) (hlow : readReg s (a - 4) = some (64, v))
    (hw : mapGet none s.chip.lowLatch (a - 4) = some w) : read4 s a = w.toNat := by
  simp [read4, h, hlow, hw]

theorem latchAfter_of_wide (h : readReg s a = some (64, v)) :
    latchAfter s a = mapSet none s.chip.lowLatch a (some (BitVec.ofNat 32 (v / 2 ^ 32))) := by
  simp [latchAfter, h]

/-- A read at any other place takes the latch of the register that begins 4 below. -/
theorem latchAfter_of_not_wide (h : ∀ v, readReg s a ≠ some (64, v)) :
    latchAfter s a = if 4 ≤ a then mapErase s.chip.lowLatch (a - 4) else s.chip.lowLatch := by
  unfold latchAfter
  split
  next v hv => exact absurd hv (h v)
  next => rfl

theorem read8_of_wide (h : readReg s a = some (64, v)) : read8 s a = v := by
  simp [read8, h]

end

/-! ### What an access answers -/

section
variable {s : State} {addr : Nat}

/-- R92: an access of a bad size or alignment is counted, and a read answers zeros. -/
theorem exec_bar0BadAccess (hup : bar0Up s = true) (wr : Bool) {size : Nat}
    (hbad : (size ≠ 4 ∧ size ≠ 8) ∨ addr % size ≠ 0) :
    let t := { s with chip := { s.chip with hostErr := BitVec.ofNat 16 (satInc 0xFFFF s.chip.hostErr.toNat) } }
    exec (.bar0BadAccess wr addr size) s = .next (if wr then t else emit t (.readData (List.replicate size 0))) :=
  doIf_of_guard (by simpa [hup] using hbad) _ _

/-- An aligned 4-byte read of BAR0 answers `read4` and leaves the latches of `latchAfter`. -/
theorem exec_bar0Read4 (hup : bar0Up s = true) (ha : addr % 4 = 0) :
    exec (.bar0LowHalfRead ⟨⟨false, addr⟩, 4⟩) s =
      .next (emit { s with chip := { s.chip with lowLatch := latchAfter s addr } } (.readData (leBytes 4 (read4 s addr)))) :=
  doIf_of_guard (by simp [hup, ha]) _ _

/-- An aligned 8-byte read of BAR0 answers `read8` and leaves the latches as they were. -/
theorem exec_bar0Read8 (hup : bar0Up s = true) (ha : addr % 8 = 0) :
    exec (.bar0LowHalfRead ⟨⟨false, addr⟩, 8⟩) s = .next (emit s (.readData (leBytes 8 (read8 s addr)))) :=
  doIf_of_guard (by simp [hup, ha]) _ _

theorem exec_registerWrite4 (hup : bar0Up s = true) (ha : addr % 4 = 0) (val : Nat) :
    exec (.registerWrite ⟨false, addr⟩ 4 val) s = .next (writeReg s addr (val % 2 ^ 32)) :=
  doIf_of_guard (by simp [hup, ha]) _ _

theorem exec_registerWrite8 (hup : bar0Up s = true) (ha : addr % 8 = 0) (val : Nat) :
    exec (.registerWrite ⟨false, addr⟩ 8 val) s =
      .next (writeReg (writeReg s addr (val % 2 ^ 32)) (addr + 4) (val / 2 ^ 32 % 2 ^ 32)) :=
  doIf_of_guard (by simp [hup, ha]) _ _

theorem exec_cfgRead (hup : cfgUp s = true) (ha : addr % 4 = 0) :
    exec (.bar0LowHalfRead ⟨⟨true, addr⟩, 4⟩) s = .next (emit s (.readData (leBytes 4 (cfgWord s addr)))) :=
  doIf_of_guard (by simp [hup, ha]) _ _

theorem exec_cfgWrite (hup : cfgUp s = true) (ha : addr % 4 = 0) (val : Nat) :
    exec (.registerWrite ⟨true, addr⟩ 4 val) s = .next (writeCfgWord s addr (val % 2 ^ 32)) :=
  doIf_of_guard (by simp [hup, ha]) _ _

theorem exec_slNotifyClear (hup : bar0Up s = true) {sl : Nat} (hsl : sl < 64) (mask : Byte) :
    exec (.slNotifyClear sl mask) s = .next (modSlice s sl (fun x => { x with notify := x.notify &&& ~~~mask })) :=
  calc exec (.slNotifyClear sl mask) s
      = doIf s (bar0Up s) (modSlice s sl (fun x => { x with notify := x.notify &&& ~~~mask })) :=
        known_of_exists (decide_eq_true hsl) _
    _ = .next (modSlice s sl (fun x => { x with notify := x.notify &&& ~~~mask })) := doIf_of_guard hup _ _

end

/-- Settles O25: each access meets the guard of its row; a 4-byte read is then told apart by the register that begins at its
place, or else 4 below it. -/
theorem registerAccessesComplete : Obligations.RegisterAccessesComplete := by
  intro s hup
  refine ⟨fun wr addr size hbad => exec_bar0BadAccess hup wr hbad, fun addr ha => ⟨?wide, ?narrow, ?high⟩, ?whole,
    fun addr val ha => exec_registerWrite4 hup ha val, fun addr val ha => exec_registerWrite8 hup ha val,
    fun addr val hcfg ha => ⟨exec_cfgRead hcfg ha, exec_cfgWrite hcfg ha val⟩,
    fun sl mask hsl => exec_slNotifyClear hup hsl mask⟩
  case wide =>
    intro v hv
    rw [exec_bar0Read4 hup ha, read4_of_reg hv, latchAfter_of_wide hv]
  case narrow =>
    intro k v hv hk
    have not_wide : ∀ w, readReg s addr ≠ some (64, w) := by simp [hv, hk]
    rw [exec_bar0Read4 hup ha, read4_of_reg hv, latchAfter_of_not_wide not_wide]
  case high =>
    intro v h h4 hnone hlow hlatch
    have not_wide : ∀ w, readReg s addr ≠ some (64, w) := by simp [hnone]
    rw [exec_bar0Read4 hup ha, read4_of_latched hnone hlow hlatch, latchAfter_of_not_wide not_wide, if_pos h4]
  case whole =>
    intro addr v ha hv
    rw [exec_bar0Read8 hup ha, read8_of_wide hv]

/-! ### The clock (log entry 2) -/

theorem step_of_empty {s : State} (h : s.pending = []) : step s = .next (clockTick s) := by
  simp [step, h]

theorem clockTick_pending (s : State) : (clockTick s).pending = s.pending := by
  obtain ⟨u, -, kept⟩ := keeps_clockTick s
  exact kept.pending

/-- A tick that the steering adds moves the timebase alone (R357). -/
theorem clockTick_of_due {s : State} (halive : alive s = true) (hdue : tickDue s.tb = true) :
    clockTick s = { s with tb := tickOnce { s.tb with steerAcc := s.tb.steerAcc - 1000000000 } } := by
  simp [clockTick, halive, hdue]

/-- The cells and the blinding buffers run within the nanosecond that was counted. -/
theorem clockTick_uptime_of_not_due {s : State} (h : alive s = false ∨ tickDue s.tb = false) :
    (clockTick s).uptime = s.uptime + 1 := by
  have not_due : (alive s && tickDue s.tb) = false := by simpa [or_iff_not_imp_left] using h
  have clocked (t : State) : (refillBlinds (tickCells (cyclesAt s.uptime) t)).uptime = t.uptime :=
    (keeps_refillBlinds (keeps_tickCells _ (Keeps.refl t))).uptime
  simp only [clockTick, not_due, Bool.false_eq_true, if_false]
  split
  · rw [clocked]
  · rfl

/-- Settles O48: the step is `clockTick`, which counts a nanosecond unless the timebase is owed one. -/
theorem emptyQueueLetsTimePass : Obligations.EmptyQueueLetsTimePass := fun s hempty =>
  ⟨step_of_empty hempty, (clockTick_pending s).trans hempty, clockTick_uptime_of_not_due, clockTick_of_due⟩

end Sys2Proof.Proofs

/-! SUPPORT. The path of an admitted job (R17 to R28, R124 to R136): fetch, dispatch, start, the checks before release and the
release; and the key encapsulation and agreement commands (R165 to R169). -/

namespace Sys2Proof.Proofs

open Sys2Proof Machine Laws

/-! ### Seeds and public keys of a command -/

/-- R148: a cell draws the whole seed of a family that is not hybrid. -/
theorem cellSeed_of {s : State} {j : Job} {r : Nat} (hr : jobDrbg s j = some r) (hf : famOf j.desc.alg ≠ some .hybrid)
    (io : JobIo) (f : State → List Byte → State) :
    cellSeed s j io f =
      f (drawn s r (seedLen j.desc.alg)) (newSeed j.desc.alg (drawnBytes s r (seedLen j.desc.alg))) := by
  unfold cellSeed
  rw [if_neg hf, withDraw_of hr]

/-- R148: the BNE makes the public key of a drawn scalar. -/
theorem bneSeed_of {s : State} {j : Job} {r : Nat} (hr : jobDrbg s j = some r) (hf : famOf j.desc.alg ≠ some .rsa)
    (io : JobIo) :
    bneSeed s j io =
      let seed := newSeed j.desc.alg (drawnBytes s r (seedLen j.desc.alg))
      askWith (drawn s r (seedLen j.desc.alg)) j [seed] (jobReq j 1 j.desc.alg seed [] []) := by
  unfold bneSeed
  rw [withDraw_of hr, if_neg hf]

/-- R165: without a key handle the peer's public key is the input, once it passes its check; no cached form is used. -/
theorem withPeer_of_input {s : State} {j : Job} {io : JobIo} {pk : List Byte} (hk : j.keys = [])
    (hin : inputIs j io pk = true) (hpk : pubStatus j.desc.alg pk = stOk) (f : State → List Byte → List FormUse → State) :
    withPeer s j io f = withRead s j (f s pk []) := by
  simp [withPeer, hk, engineInput_of hin, hpk]

/-- R165: with a key handle it is the value of the job's key. -/
theorem withPeer_of_key {s : State} {j : Job} (hk : j.keys ≠ []) (hres : keysResolve s j = true) (io : JobIo)
    (f : State → List Byte → List FormUse → State) :
    withPeer s j io f =
      f (keysHeld s j) ((keyValues s j).headD []) (formUse j false ((keyValues s j).headD [])) := by
  simp [withPeer, hk, withKeys_of hres]

/-! ### Key encapsulation and agreement (R165 to R169) -/

section
variable {s : State} {job : Nat} {j : Job}

/-- KEM_KEYGEN in a cell keeps the seed of `cellSeed`. -/
theorem exec_kemKeygen_cell (hj : onCellAt s job 0x0300 j = true) (hf : bneFam j.alg = false) (io : JobIo) :
    exec (.kemKeygen job io) s = .next (cellSeed s j io (fun t seed => keepKem t j seed)) :=
  runCellBne_cell hj hf _ _

/-- KEM_KEYGEN on a BNE passes on the seed of `bneSeed`. -/
theorem exec_kemKeygen_bne (hj : engineAt s job 0x0300 j = true) (hb : atBne s j = true) (hf : bneFam j.alg = true)
    (io : JobIo) : exec (.kemKeygen job io) s = .next (bneSeed s j io) :=
  runCellBne_bne hj hb hf _ _

/-- What KEM_ENCAPS stages for a public key, once its randomness is drawn (R166, R168). -/
def encapsulated (j : Job) (r : Nat) (t : State) (pk : List Byte) (forms : List FormUse) : State :=
  let e := encaps j.alg pk (drawnBytes t r (encapsRnd j.alg))
  stage (drawn t r (encapsRnd j.alg)) j { secretResult j e.1 e.2 (formHit t forms) with forms } j.dual

/-- What HYBRID_ENCAPS asks of the BNEs for a public key, with its ML-KEM half done in the cell (R165, R168). -/
def hybridAsked (j : Job) (r : Nat) (t : State) (pk : List Byte) (forms : List FormUse) : State :=
  let p := hybridParts j.alg
  let d := drawnBytes t r (32 + seedLen p.2)
  let e := encaps p.1 (pk.take (pubLen p.1)) (d.take 32)
  let q := jobReq j 3 p.2 [] (pk.drop (pubLen p.1)) (d.drop 32)
  askTwin (askWith (drawn t r (32 + seedLen p.2)) j [e.1, e.2, leBytes 1 (formHit t forms)] q) j q

theorem exec_kemEncaps_input {r : Nat} {io : JobIo} {pk : List Byte} (hj : onCellAt s job 0x0301 j = true)
    (hr : jobDrbg s j = some r) (hk : j.keys = []) (hin : inputIs j io pk = true) (hpk : pubStatus j.desc.alg pk = stOk) :
    exec (.kemEncaps job io) s = .next (withRead s j (encapsulated j r s pk [])) := by
  refine (runCell_of_onCellAt hj _).trans ?_
  rw [withPeer_of_input hk hin hpk, withDraw_of hr]
  rfl

theorem exec_kemEncaps_key {r : Nat} (hj : onCellAt s job 0x0301 j = true) (hr : jobDrbg (keysHeld s j) j = some r)
    (hk : j.keys ≠ []) (hres : keysResolve s j = true) (io : JobIo) :
    exec (.kemEncaps job io) s = .next (encapsulated j r (keysHeld s j) ((keyValues s j).headD [])
      (formUse j false ((keyValues s j).headD []))) := by
  refine (runCell_of_onCellAt hj _).trans ?_
  rw [withPeer_of_key hk hres, withDraw_of hr]
  rfl

theorem exec_hybridEncaps_input {r : Nat} {io : JobIo} {pk : List Byte} (hj : engineAt s job 0x0304 j = true)
    (hb : twoBnes s j = true) (hr : jobDrbg s j = some r) (hk : j.keys = []) (hin : inputIs j io pk = true)
    (hpk : pubStatus j.desc.alg pk = stOk) :
    exec (.hybridEncaps job io) s = .next (withRead s j (hybridAsked j r s pk [])) := by
  refine (runEngine_of_engineAt hj hb _).trans ?_
  rw [withPeer_of_input hk hin hpk, withDraw_of hr]
  rfl

theorem exec_hybridEncaps_key {r : Nat} (hj : engineAt s job 0x0304 j = true) (hb : twoBnes s j = true)
    (hr : jobDrbg (keysHeld s j) j = some r) (hk : j.keys ≠ []) (hres : keysResolve s j = true) (io : JobIo) :
    exec (.hybridEncaps job io) s = .next (hybridAsked j r (keysHeld s j) ((keyValues s j).headD [])
      (formUse j false ((keyValues s j).headD []))) := by
  refine (runEngine_of_engineAt hj hb _).trans ?_
  rw [withPeer_of_key hk hres, withDraw_of hr]
  rfl

/-- A command on its input and the values of its keys reads the one and holds the others. -/
theorem engineInput_withKeys_of {io : JobIo} {b : List Byte} (hin : inputIs j io b = true)
    (hres : keysResolve s j = true) (f : List Byte → State → List (List Byte) → State) :
    engineInput s j io (fun i => withKeys s j (f i)) = withRead s j (f b (keysHeld s j) (keyValues s j)) := by
  rw [engineInput_of hin, withKeys_of hres]

end

/-- Settles O14: each command stands on its unit, and its draw, its input and its keys are at hand; the encapsulations take their
public key from the input or from the job's key. -/
theorem kemCommandsComplete : Obligations.KemCommandsComplete := by
  intro s job io j
  refine ⟨fun r hr => ⟨?cellKey, ?bneKey, fun pk hin hk hpk => ⟨?encapsInput, ?hybridInput⟩⟩,
    fun r hr hk hres => ⟨?encapsKey, ?hybridKey⟩, fun b hin hres => ⟨?decaps, ?agree, ?hybridDecaps⟩⟩
  case cellKey =>
    intro hj hb hf
    rw [exec_kemKeygen_cell hj hb, cellSeed_of hr hf]
  case bneKey =>
    intro hj hb hfam hf
    rw [exec_kemKeygen_bne hj hb hfam, bneSeed_of hr hf]
  case encapsInput => exact fun hj => exec_kemEncaps_input hj hr hk hin hpk
  case hybridInput => exact fun hj hb => exec_hybridEncaps_input hj hb hr hk hin hpk
  case encapsKey => exact fun hj => exec_kemEncaps_key hj hr hk hres io
  case hybridKey => exact fun hj hb => exec_hybridEncaps_key hj hb hr hk hres io
  case decaps =>
    intro hj
    exact (runCell_of_onCellAt hj _).trans (congrArg _ (engineInput_withKeys_of hin hres _))
  case agree =>
    intro hj hb
    exact (runEngine_of_engineAt hj hb _).trans (congrArg _ (engineInput_withKeys_of hin hres _))
  case hybridDecaps =>
    intro hj hb
    exact (runEngine_of_engineAt hj hb _).trans (congrArg _ (engineInput_withKeys_of hin hres _))

/-! ### Fetch, dispatch and start (R17 to R19, R124 to R135) -/

/-- R135: the job picked is placed in the region R18 chooses, while the queue has room. -/
theorem exec_dispatchPick {s : State} {r lc : Nat} {j : Job} (hs : serving s = true) (hr : r < 4) (hlc : lc < 3)
    (hpick : pickUpTo s r lc = some j) (hroom : regionRoom s r lc = true) :
    exec (.dispatchPick r lc) s = .next (putJob (jumpOthers s j) (placeJob (jumpOthers s j) { j with
      waitedLong := j.waitedLong || decide (j.waitFrom + 100000 < s.uptime) })) := by
  refine (known_of_exists (by simp [hr, hlc]) _).trans ?_
  rw [hpick]
  exact doIf_of_guard (by simp [hs, hroom]) _ _

/-- The state once a block has taken a job of its region: the job stands in the block, and the work woke both (R19, R74). -/
def inBlock (s : State) (j : Job) (r b : Nat) : State :=
  putJob (wakeUnit false (wakeUnit false s (148 + r)) (128 + b)) { j with pos := .block b, block := b }

/-- R19: the block chosen takes the job; a digest job asks its engine for a context. -/
theorem exec_blockAssign {s : State} {job r b : Nat} {j : Job} (hs : serving s = true) (hr : r < 4)
    (hon : regionOnline s r = true) (hget : getJob s job = some j) (hpos : j.pos = .region r)
    (hb : chooseBlock s j r = some b) :
    exec (.blockAssign job) s = .next (if j.kind = 2 then askDe (inBlock s j r b) j b else inBlock s j r b) := by
  change execBlockAssign job s = _
  simp only [execBlockAssign, hget, hpos, hb]
  exact doIf_of_guard (by simp [hs, hr, hon]) _ _

/-- R19: a free cell is woken, or takes the second execution of the job that is next, or the job itself with its keys (R333). -/
theorem exec_cellJobStart {s : State} {c : Nat} {j : Job} (hs : serving s = true) (hc : c < 128) (hfree : cellFree s c = true)
    (hnext : nextFor s c = some j) :
    exec (.cellJobStart c) s = .next
      (if !(domAwake s c && blockAwake s (c / 8)) then wakeUnit false s c
       else if secondOn s j c then takeSecond s j c
       else withKeys s j (fun t vs => cellTakes t { j with vals := some vs } c)) := by
  refine (known_of_exists (decide_eq_true hc) _).trans ?_
  rw [hnext]
  exact doIf_of_guard (by simp [hs, hfree]) _ _

/-- R124, R127: a queue pair that fetches reads its descriptors, and is stopped or admits them one after another. -/
theorem exec_descriptorFetch {s : State} {n q : Nat} (hn : n < 64) (hq : q < 4) (hf : fetches s n q = true) (f : FetchIo) :
    exec (.descriptorFetch n q f) s = .next
      (if f.fault then stopQp (ringRead s n q (fetchCount s n q)) n q 5
       else ((List.range (fetchCount s n q)).map (fun i => (padTo 64 (f.descs.getD i []), f.labels.getD i []))).foldl
         (fetchOne n q f) (ringRead s n q (fetchCount s n q))) :=
  (known_of_exists (by simp [hn, hq]) _).trans (doIf_of_guard hf _ _)

/-- Settles O27: each row meets its guard; a start is then told apart by what is awake and by whether the cell is the job's
second, and a fetch by whether its read failed. -/
theorem fetchDispatchAndStartComplete : Obligations.FetchDispatchAndStartComplete := by
  refine ⟨fun s hs => ⟨fun r lc j hr hlc hpick hroom => exec_dispatchPick hs hr hlc hpick hroom, ?assign, ?start⟩, ?fetch⟩
  case assign =>
    intro job r j b hr hon hget hpos hb
    have assigned := exec_blockAssign hs hr hon hget hpos hb
    exact ⟨fun hk => by rw [assigned, if_neg hk]; rfl, fun hk => by rw [assigned, if_pos hk]; rfl⟩
  case start =>
    intro c j hc hfree hnext
    have started := exec_cellJobStart hs hc hfree hnext
    refine ⟨fun hdom hblk => ⟨fun hsec => ?_, fun hfirst hres => ?_⟩, fun hasleep => ?_⟩
    · simpa [hdom, hblk, hsec] using started
    · simpa [hdom, hblk, hfirst, withKeys_of hres] using started
    · have asleep : (!(domAwake s c && blockAwake s (c / 8))) = true := by
        rcases hasleep with h | h <;> simp [h]
      rw [started, if_pos asleep]
  case fetch =>
    intro s n q f hn hq hf
    have fetched := exec_descriptorFetch hn hq hf f
    exact ⟨fun hfault => by rw [fetched, if_pos hfault], fun hok => by rw [fetched, hok, if_neg Bool.false_ne_true]⟩

/-! ### Checks before release and release (R20 to R28) -/

section
variable {s : State} {job : Nat} {j : Job} {r : JobRes}

/-- A job whose second cell found its result good: the engines are free and the guarantee is noted (R25, R27, R131). -/
def checkPassed (s : State) (j : Job) (r : JobRes) (flag : Nat) : State :=
  putJob (freeEngines s j.id) { j with
    pos := .staged false, second := none, twin := none, res := some { r with guarantee := r.guarantee + flag } }

/-- The end of a check, by what its second cell answers and by whether a read of the input differed from the first. -/
theorem endCheck_of {dual : Bool} (hs : serving s = true) (hget : getJob s job = some j) (hres : j.res = some r)
    (hpos : j.pos = .staged true) (hsec : j.second.isSome = true) (hdual : j.dual = dual) (flag : Nat) (ok : Bool) :
    endCheck s job dual flag ok =
      .next (if ok && !r.spoilt then checkPassed s j r flag else failCheck s j dual) := by
  simp only [endCheck, hget, hres]
  exact doIf_of_guard (by simp [hs, hpos, hsec, hdual]) _ _

/-- R25: the check of a signature is the one that gives flag 1. -/
theorem exec_verifyBeforeReleaseDone (ok : Bool) (io : JobIo) :
    exec (.verifyBeforeReleaseDone job ok io) s = endCheck s job false 1 ok := rfl

theorem exec_dualCompare_of_plain (hget : getJob s job = some j) (hop : j.desc.opcode ≠ 0x0304) (ok : Bool) (io : JobIo) :
    exec (.dualCompare job ok io) s = endCheck s job true 2 ok := by
  change execDualCompare job ok io s = _
  simp only [execDualCompare, hget, if_neg hop]

/-- R168: the classical parts of a hybrid encapsulation are compared as the BNEs left them. -/
theorem exec_dualCompare_of_hybrid (hget : getJob s job = some j) (hop : j.desc.opcode = 0x0304) {y : List Byte}
    (htwin : j.twin = some y) (ok : Bool) (io : JobIo) :
    exec (.dualCompare job ok io) s = endCheck s job true 2 (ok && y == j.saved.getD 3 []) := by
  change execDualCompare job ok io s = _
  simp only [execDualCompare, hget, if_pos hop, htwin]

/-- R20, R91, R505: a staged result that nothing holds is released. -/
theorem exec_jobRelease (hs : serving s = true) (hget : getJob s job = some j) (hres : j.res = some r)
    (hpos : j.pos = .staged false) (hstays : squashDue s j = false ∨ isResetJob s j = true) (hide : ideHold s = false)
    (hbanks : banksChecked s j = true) (hout : j.ofEvent = true ∨ s.link.up = true) (io : JobIo) :
    exec (.jobRelease job io) s = .next (releaseJob s j r io) := by
  have stays : ¬ (squashDue s j && !isResetJob s j) = true := by
    rcases hstays with h | h <;> simp [h]
  change execJobRelease job io s = _
  simp only [execJobRelease, hget, hres, if_neg stays]
  exact doIf_of_guard (by simp [hs, hpos, hide, hbanks, hout]) _ _

/-- R139: a job of a slice that is being reset stops at its release point. -/
theorem exec_jobRelease_of_squash (hs : serving s = true) (hget : getJob s job = some j) (hres : j.res = some r)
    (hpos : j.pos = .staged false) (hsq : squashDue s j = true) (hnot : isResetJob s j = false) (io : JobIo) :
    exec (.jobRelease job io) s = .next (failJob s j eAborted 0 io.cplFault) := by
  change execJobRelease job io s = _
  simp only [execJobRelease, hget, hres, hsq, hnot, Bool.not_false, Bool.and_self, if_true]
  exact doIf_of_guard (by simp [hs, hpos]) _ _

end

/-- Settles O28: a check that ends reads the verdict of its second cell, the read that spoilt a result and, in a hybrid
encapsulation, what the two BNEs left. -/
theorem releaseRowsComplete : Obligations.ReleaseRowsComplete := by
  intro s job j r io hs hget hid hres
  subst hid
  refine ⟨fun hpos hsec => ?checks, fun hpos hstays hide hbanks hout =>
    exec_jobRelease hs hget hres hpos hstays hide hbanks hout io,
    fun hpos hsq hnot => exec_jobRelease_of_squash hs hget hres hpos hsq hnot io⟩
  case checks =>
    have passes {dual ok : Bool} (hdual : j.dual = dual) (flag : Nat) (h : (ok && !r.spoilt) = true) :
        endCheck s j.id dual flag ok = .next (checkPassed s j r flag) := by
      rw [endCheck_of hs hget hres hpos hsec hdual, if_pos h]
    have fails {dual ok : Bool} (hdual : j.dual = dual) (flag : Nat) (h : (ok && !r.spoilt) = false) :
        endCheck s j.id dual flag ok = .next (failCheck s j dual) := by
      rw [endCheck_of hs hget hres hpos hsec hdual, h, if_neg Bool.false_ne_true]
    refine ⟨fun hdual => ⟨fun hsp => ?verified, fun ok hbad => ?refuted⟩, fun hdual hop hsp => ⟨?agree, ?differ⟩,
      fun y hdual hop hsp htwin => ⟨fun hy => ?bothAgree, fun hy => ?bnesDiffer, ?cellsDiffer⟩⟩
    case verified =>
      exact (exec_verifyBeforeReleaseDone true io).trans (passes hdual 1 (by simp [hsp]))
    case refuted =>
      have bad : (ok && !r.spoilt) = false := by rcases hbad with h | h <;> simp [h]
      exact (exec_verifyBeforeReleaseDone ok io).trans (fails hdual 1 bad)
    case agree => exact (exec_dualCompare_of_plain hget hop true io).trans (passes hdual 2 (by simp [hsp]))
    case differ => exact (exec_dualCompare_of_plain hget hop false io).trans (fails hdual 2 (by simp))
    case bothAgree =>
      exact (exec_dualCompare_of_hybrid hget hop htwin true io).trans (passes hdual 2 (by simp [hsp, hy]))
    case bnesDiffer =>
      have unequal : (y == j.saved.getD 3 []) = false := beq_eq_false_iff_ne.2 hy
      exact (exec_dualCompare_of_hybrid hget hop htwin true io).trans (fails hdual 2 (by rw [unequal]; rfl))
    case cellsDiffer => exact (exec_dualCompare_of_hybrid hget hop htwin false io).trans (fails hdual 2 (by simp))

end Sys2Proof.Proofs

/-! SUPPORT. The codes a descriptor is refused with (R17, R57, R131, R141, R151, R325, R371). -/

namespace Sys2Proof.Proofs

open Sys2Proof Machine Laws

/-! ### What check 6 says of the objects a descriptor names -/

/-- The statuses of handles, slots and events. -/
def objectStatuses : List Nat := [stOk, eHandle, eSlotCorrupt, eSlotUsed]

/-- R141, R325: a handle is good, names nothing, or names a slot or a key that is corrupt. -/
theorem findKey_status (s : State) (n : Nat) (h : W64) : (findKey s n h).1 ∈ objectStatuses := by
  by_cases bad : hSlice h ≠ n ∨ kindRange (hKind h) ≤ hIndex h
  · simp [findKey, if_pos bad, objectStatuses]
  by_cases slot : hKind h = 0
  · simp only [findKey, if_neg bad, if_pos slot]
    split_ifs <;> simp [objectStatuses]
  · simp only [findKey, if_neg bad, if_neg slot]
    cases volOf s h with
    | none => simp [objectStatuses]
    | some e => cases hc : e.corrupt <;> simp [hc, objectStatuses]

theorem keyNamed_status (s : State) (n op : Nat) (h : W64) : (keyNamed s n op h).1 ∈ objectStatuses := by
  unfold keyNamed
  split
  · simp [objectStatuses]
  · dsimp only
    split
    · simp [objectStatuses]
    · exact findKey_status s n h

theorem key1_status (s : State) (n : Nat) (d : Desc) : (key1 s n d).1 ∈ objectStatuses := by
  unfold key1
  split
  · exact keyNamed_status s n d.opcode d.keyHandle
  · simp [objectStatuses]

theorem key2_status (s : State) (n : Nat) (d : Desc) : (key2 s n d).1 ∈ objectStatuses := by
  unfold key2
  split
  · split
    · simp [objectStatuses]
    · exact findKey_status s n d.handle2
  · simp [objectStatuses]

theorem slotStatus_status (s : State) (i : Nat) : slotStatus s i ∈ objectStatuses := by
  unfold slotStatus
  split_ifs <;> simp [objectStatuses]

/-- The first error of a list of outcomes is one of its outcomes. -/
theorem firstErr_mem {l : List (Nat × Nat)} {e : Nat × Nat} (h : firstErr l = some e) : e ∈ l := by
  have picked : ∀ x, firstErr l = some x → x ∈ l := by
    unfold firstErr
    refine List.foldlRecOn (motive := fun a => ∀ x, a = some x → x ∈ l) _ _ (by simp) ?_
    intro a ih y hy x hx
    have hyl : y ∈ l := (List.mem_filter.1 hy).1
    cases a with
    | none => exact Option.some.inj hx ▸ hyl
    | some m =>
      dsimp only at hx
      split at hx
      · exact Option.some.inj hx ▸ hyl
      · exact ih x hx
  exact picked e h

/-- Check 6 refuses with the status of an object that the descriptor names. -/
theorem check6_status {s : State} {n : Nat} {d : Desc} {e : Nat × Nat} (h : check6 s n d = some e) :
    e.2 ∈ objectStatuses := by
  have hmem := firstErr_mem h
  simp only [List.mem_cons, List.not_mem_nil, or_false] at hmem
  rcases hmem with rfl | rfl | rfl | rfl
  · exact key1_status s n d
  · exact key2_status s n d
  · dsimp only
    split
    · exact slotStatus_status s (d.pn 44 4)
    · simp [objectStatuses]
  · dsimp only
    split <;> simp [objectStatuses]

/-! ### How admission refuses -/

/-- The code of check 4 (R57). -/
def modeRefusal (s : State) : Nat := if s.chip.mode = .umbra then eUmbra else eMode

/-- The codes of checks 1, 2, 3, 5 and 7 (R17). -/
def fixedRefusals : List Nat := [eOpcode, eParam, eAlign, eQuota, ePolicy]

/-- Check 4 refuses with the code of the mode, check 6 with the status of an object, every other check with a code of its own. -/
theorem admission_refused {s : State} {n : Nat} {d : Desc} {label : List Byte} {st det : Nat}
    (h : admission s n d label = .refused st det) :
    (st = modeRefusal s ∧ det = checkDetail 4 255) ∨ st ∈ fixedRefusals ∨ st ∈ objectStatuses := by
  have fixed {code o : Nat} (hcode : code ∈ fixedRefusals) (h : Verdict.refused code o = .refused st det) :
      (st = modeRefusal s ∧ det = checkDetail 4 255) ∨ st ∈ fixedRefusals ∨ st ∈ objectStatuses :=
    .inr (.inl ((Verdict.refused.inj h).1 ▸ hcode))
  dsimp only [admission] at h
  split at h
  · exact fixed (by decide) h
  split at h
  · exact fixed (by decide) h
  split at h
  · exact fixed (by decide) h
  split at h
  · obtain ⟨hst, hdet⟩ := Verdict.refused.inj h
    exact .inl ⟨hst.symm, hdet.symm⟩
  split at h
  · exact fixed (by decide) h
  split at h
  next e he => exact .inr (.inr ((Verdict.refused.inj h).1 ▸ check6_status he))
  split at h
  · exact fixed (by decide) h
  · nomatch h

/-- A descriptor that passes checks 1 to 3 and fails check 4 is refused with the code of the mode. -/
theorem admission_of_check4_failed {s : State} {n : Nat} {d : Desc} {label : List Byte} (h1 : opDefined s n d = true)
    (h2 : firstBad ((40, usesKey2 s n d && d.opcode == 0x020B && (key2 s n d).2.any (fun r => r.alg != 0x0C01)) ::
      (255, d.opcode == 0x0204 && label != [] && !labelOk d.alg label) :: check2 s n d (key1 s n d).2) = none)
    (h3 : firstBad (check3 d) = none) (h4 : check4 s n d (key1 s n d).2 = false) :
    admission s n d label = .refused (modeRefusal s) (checkDetail 4 255) := by
  simp [admission, h1, h2, h3, h4, modeRefusal]

/-- Settles O60: only check 4 refuses with one of the two codes, and the mode chooses between them. -/
theorem umbraNamesItsRefusal : Obligations.UmbraNamesItsRefusal := by
  intro s n d label
  refine ⟨fun st det href hst => ?named, fun h1 h2 h3 h4 => ?failed⟩
  case named =>
    rcases admission_refused href with ⟨hcode, hdet⟩ | hother | hobject
    · exact ⟨hdet, hcode⟩
    · rcases hst with rfl | rfl <;> exact absurd hother (by decide)
    · rcases hst with rfl | rfl <;> exact absurd hobject (by decide)
  case failed =>
    have refused := admission_of_check4_failed h1 h2 h3 h4
    exact ⟨fun hm => by rw [refused, modeRefusal, if_pos hm], fun hm => by rw [refused, modeRefusal, if_neg hm]⟩

end Sys2Proof.Proofs

/-! SUPPORT. The commands of the device and its modes (R51 to R60, R89 to R98), ceremonies (R422 to R425), job limits, the ends of slice
resets and removals (R72, R117, R139, R160, R482), and resets, supplies and starts (R42 to R45, R94, R511, R512, R526). -/

namespace Sys2Proof.Proofs

open Sys2Proof Machine Laws

/-! ### The window, bias, IDE and certificate commands (R89, R91, R95, R96, R98) -/

section
variable {s : State} {job : Nat} {j : Job}

/-- R95: the size changes while the decoder is not committed. -/
theorem exec_hdmWindowSet (hj : mgmtAt s job 0x010A j = true)
    (hfree : s.hdm.committed = false ∨ j.desc.pn 44 4 = s.hdm.size) (io : JobIo) :
    exec (.hdmWindowSet job io) s = .next (answerOk { s with hdm := { s.hdm with size := j.desc.pn 44 4 } } j io) := by
  have allowed : ¬ (s.hdm.committed = true ∧ j.desc.pn 44 4 ≠ s.hdm.size) := by
    rcases hfree with h | h <;> simp [h]
  exact (runMgmt_of_mgmtAt hj _).trans (congrArg _ (if_neg allowed))

/-- R96: an aperture within the window that meets no other, or an empty one, within the slice's HBM. -/
theorem exec_hdmApertureSet (hj : mgmtAt s job 0x010B j = true) (hx : (getSlice s (j.desc.pb 40)).state ≠ .absent)
    (hroom : j.desc.pn 48 4 = 0 ∨ (4 * (j.desc.pn 44 4 + j.desc.pn 48 4) ≤ s.hdm.size ∧ ∀ e ∈ s.slices, e.1 ≠ j.desc.pb 40 →
      0 < e.2.apSize → rangesMeet (j.desc.pn 44 4) (j.desc.pn 48 4) e.2.apOff e.2.apSize = false))
    (hquota : hbmUse s (j.desc.pb 40) - (getSlice s (j.desc.pb 40)).apSize * 1024 + j.desc.pn 48 4 * 1024 ≤
      (getSlice s (j.desc.pb 40)).cfg.hbmGib * 1024) (io : JobIo) :
    exec (.hdmApertureSet job io) s = .next (answerOk (setAperture s (j.desc.pb 40) (j.desc.pn 44 4) (j.desc.pn 48 4)) j io) := by
  have fits : ¬ (0 < j.desc.pn 48 4 ∧ (s.hdm.size < 4 * (j.desc.pn 44 4 + j.desc.pn 48 4) ∨
      s.slices.any (fun e => e.1 != j.desc.pb 40 && decide (0 < e.2.apSize) &&
        rangesMeet (j.desc.pn 44 4) (j.desc.pn 48 4) e.2.apOff e.2.apSize) = true)) := by
    rintro ⟨hpos, hbad⟩
    obtain ⟨hin, hapart⟩ := hroom.resolve_left (Nat.pos_iff_ne_zero.1 hpos)
    rcases hbad with hout | hmeet
    · omega
    · obtain ⟨e, he, hmeets⟩ := List.any_eq_true.1 hmeet
      simp only [Bool.and_eq_true, bne_iff_ne, decide_eq_true_eq] at hmeets
      obtain ⟨⟨hother, hsize⟩, hmeets⟩ := hmeets
      exact Bool.false_ne_true ((hapart e he hother hsize).symm.trans hmeets)
  refine (runMgmt_of_mgmtAt hj _).trans (congrArg _ ?_)
  exact (if_neg hx).trans ((if_neg fits).trans (if_neg (Nat.not_lt.2 hquota)))

/-- R98: pages of the aperture go to host bias, or to device bias while CXL.cache is enabled. -/
theorem exec_biasSet (hj : mgmtAt s job 0x010C j = true)
    (hin : j.desc.pn 44 4 + j.desc.pn 48 4 ≤ (getSlice s (j.desc.pb 40)).apSize * 512)
    (hown : j.desc.pb 41 = 0 ∨ s.link.cacheEn = true) (io : JobIo) :
    let x := getSlice s (j.desc.pb 40)
    let a := j.desc.pn 44 4
    let z := j.desc.pn 48 4
    exec (.biasSet job io) s = .next (answerOk
      (if j.desc.pb 41 = 0 then { s with hdm := { s.hdm with
          devBias := mapFilter (fun p _ => !(decide (x.apOff * 512 + a ≤ p) && decide (p < x.apOff * 512 + a + z))) s.hdm.devBias } }
       else ((List.range z).map (fun k => x.apOff * 512 + a + k)).foldl
        (fun y p => emit { y with hdm := { y.hdm with devBias := mapSet false y.hdm.devBias p true } } (.ack 3 p)) s) j io) := by
  have owned : ¬ (j.desc.pb 41 ≠ 0 ∧ (!s.link.cacheEn) = true) := by
    rcases hown with h | h <;> simp [h]
  refine (runMgmt_of_mgmtAt hj _).trans (congrArg _ ?_)
  exact (if_neg (Nat.not_lt.2 hin)).trans (if_neg owned)

theorem exec_ideRequiredSet (hj : mgmtAt s job 0x010D j = true) (io : JobIo) :
    exec (.ideRequiredSet job io) s =
      .next (settle { s with link := { s.link with ideReq := j.desc.pb 41 == 1 } } j io (JobRes.done [] 0)) :=
  runMgmt_of_mgmtAt hj _

theorem exec_ownerCertInstall (hj : mgmtAt s job 0x010E j = true) {io : JobIo} {b : List Byte} (hin : inputIs j io b = true) :
    exec (.ownerCertInstall job io) s = .next (withRead s j (answerOk { s with link := { s.link with cert1 := b } } j io)) :=
  (runMgmt_of_mgmtAt hj _).trans (congrArg _ (withInput_of hin _))

/-! ### The commands that change the mode (R51 to R53, R60, R76) -/

/-- DRAIN begins in SERVICE alone. -/
theorem exec_drainBegin (hj : mgmtAt s job 0x0110 j = true) (io : JobIo) :
    exec (.drainBegin job io) s = .next
      (if s.chip.mode = .service ∧ ¬ overtaken s then answerOk (setMode s .drain 7 0x0110 0) j io else refuse s j io eMode) :=
  runMgmt_of_mgmtAt hj _

/-- DRAIN is left for SERVICE. -/
theorem exec_drainCancel (hj : mgmtAt s job 0x0111 j = true) (io : JobIo) :
    exec (.drainCancel job io) s = .next
      (if s.chip.mode = .drain ∧ ¬ overtaken s then answerOk (setMode s .service 7 0x0111 0) j io else refuse s j io eMode) :=
  runMgmt_of_mgmtAt hj _

theorem exec_maintEnter (hj : mgmtAt s job 0x0112 j = true) (hmode : s.chip.mode = .drain) (hlc : s.chip.lc = .owned)
    (hdrained : j.sawDrained = true) (hfirst : ¬ overtaken s) (io : JobIo) :
    exec (.maintEnter job io) s = .next (answerOk (setMode s .maintenance 7 0x0112 0) j io) :=
  (runMgmt_of_mgmtAt hj _).trans (congrArg _ (if_pos ⟨hmode, hlc, hdrained, hfirst⟩))

/-- R60: the completion is written before the reset. -/
theorem exec_deviceReset (hj : mgmtAt s job 0x0113 j = true)
    (hmode : s.chip.mode = .maintenance ∨ (s.chip.mode = .drain ∧ j.sawDrained = true)) (hfirst : ¬ overtaken s) (io : JobIo) :
    exec (.deviceReset job io) s = .next (deviceReset (answerOk s j io)) :=
  (runMgmt_of_mgmtAt hj _).trans (congrArg _ (if_pos ⟨hmode, hfirst⟩))

end

/-- Settles O11: each command stands ready, and passes the conditions of its row. -/
theorem deviceCommandsComplete : Obligations.DeviceCommandsComplete := by
  intro s job io j
  refine ⟨fun hj hfree => exec_hdmWindowSet hj hfree io, fun hj hx hroom hquota => exec_hdmApertureSet hj hx hroom hquota io,
    fun hj hin => ⟨?hostBias, ?deviceBias⟩, fun hj => exec_ideRequiredSet hj io, fun hj b hin => exec_ownerCertInstall hj hin,
    fun hj => ⟨?drains, ?stays⟩, fun hj => ⟨?serves, ?notInDrain⟩,
    fun hj hmode hlc hdrained hfirst => exec_maintEnter hj hmode hlc hdrained hfirst io,
    fun hj hmode hfirst => exec_deviceReset hj hmode hfirst io⟩
  case hostBias =>
    intro hto
    exact (exec_biasSet hj hin (.inl hto) io).trans (by rw [if_pos hto])
  case deviceBias =>
    intro hto hcache
    exact (exec_biasSet hj hin (.inr hcache) io).trans (by rw [if_neg hto])
  case drains => exact fun hmode hfirst => (exec_drainBegin hj io).trans (congrArg _ (if_pos ⟨hmode, hfirst⟩))
  case stays => exact fun hmode => (exec_drainBegin hj io).trans (congrArg _ (if_neg (fun h => hmode h.1)))
  case serves => exact fun hmode hfirst => (exec_drainCancel hj io).trans (congrArg _ (if_pos ⟨hmode, hfirst⟩))
  case notInDrain => exact fun hmode => (exec_drainCancel hj io).trans (congrArg _ (if_neg (fun h => hmode h.1)))

/-! ### Ceremonies (R47, R48, R50, R79, R422 to R425) -/

section
variable {s : State} {job : Nat} {j : Job} {c : Ceremony}

/-- R47, R312, R424: a ceremony that may begin draws the root of TAKE_OWNERSHIP first. -/
theorem exec_ceremonyBegin (hj : mgmtAt s job 0x0901 j = true) (halone : otherCeremonyJob s j = false) (hfirst : ¬ overtaken s)
    (hnone : s.cer = none) (hlc : kindLcOk (j.desc.pb 40) s.chip.lc = true)
    (hmode : kindModeOk (j.desc.pb 40) s.chip.mode (byteAt (j.saved.headD []) 0 == 1) = true) {io : JobIo} {b : List Byte}
    (hin : inputIs j io b = true) (htok : s.chip.mode = .umbra → tokenStatus s (j.desc.pb 40) b = stOk)
    (hlim : limitsOk s (j.desc.pb 40) (j.desc.pb 41) (j.desc.pb 42) (j.desc.pb 43) = true) :
    exec (.ceremonyBegin job io) s = .next (withRead s j
      (if j.desc.pb 40 = 1 then withFreshRoot s j io
          (fun t => startCeremony { t with tamper := { t.tamper with staged := some (survey io.tests) } } j io b)
       else startCeremony s j io b)) := by
  have first : ¬ (otherCeremonyJob s j || overtaken s) = true := by simp [halone, hfirst]
  have lcOk : ¬ (!kindLcOk (j.desc.pb 40) s.chip.lc) = true := by simp [hlc]
  have modeOk : ¬ (s.cer.isSome || !kindModeOk (j.desc.pb 40) s.chip.mode (byteAt (j.saved.headD []) 0 == 1)) = true := by
    rw [hnone, hmode]
    exact Bool.false_ne_true
  have token : (if s.chip.mode = .umbra then tokenStatus s (j.desc.pb 40) b else stOk) = stOk := by
    split
    next hm => exact htok hm
    next => rfl
  have within : ¬ (!limitsOk s (j.desc.pb 40) (j.desc.pb 41) (j.desc.pb 42) (j.desc.pb 43)) = true := by simp [hlim]
  refine (runMgmt_of_mgmtAt hj _).trans (congrArg _ ?_)
  rw [if_neg first, if_neg lcOk, if_neg modeOk, withInput_of hin, if_neg (not_not.2 token), if_neg within]

/-- R48: the first step of an exclusive ceremony waits for the jobs admitted before the ceremony. -/
theorem step_not_held (hgo : exclusive s = false ∨ c.stepsDone ≠ 0 ∨ ∀ k ∈ s.jobs, c.firstJob ≤ k.id) :
    ¬ (exclusive s = true ∧ c.stepsDone = 0 ∧ s.jobs.any (fun k => decide (k.id < c.firstJob)) = true) := by
  rintro ⟨hex, hdone, holder⟩
  obtain ⟨k, hk, hold⟩ := List.any_eq_true.1 holder
  rcases hgo with h | h | h
  · exact Bool.false_ne_true (h.symm.trans hex)
  · exact h hdone
  · exact absurd (of_decide_eq_true hold) (Nat.not_lt.2 (h k hk))

/-- R424: an UNLOCK or SCRAP that needs no shares takes a step without a card. -/
def cardless (c : Ceremony) : Bool := (c.kind == 5 || c.kind == 7) && c.m == 0

theorem cardless_iff : cardless c = true ↔ (c.kind = 5 ∨ c.kind = 7) ∧ c.m = 0 := by simp [cardless]

/-- R424: a step that nothing holds up runs with the card it names, or without one. -/
theorem exec_ceremonyStep (hj : mgmtAt s job 0x0902 j = true) (hnew : j.parked = false) (hcer : s.cer = some c)
    (halone : otherCeremonyJob s j = false) (hgo : exclusive s = false ∨ c.stepsDone ≠ 0 ∨ ∀ k ∈ s.jobs, c.firstJob ≤ k.id)
    (hslot : (j.desc.pb 40 == 0xFF) = cardless c) (io : JobIo) :
    exec (.ceremonyStep job io) s = .next
      (if cardless c then concludeStep (modCer (putJob s { j with parked := true }) (fun d => { d with stepJob := some j.id }))
          { c with stepJob := some j.id } false [] 0
       else cardStep s j io c (j.desc.pb 40)) := by
  have named : ¬ ((j.desc.pb 40 == 0xFF) != cardless c) = true := by simp [hslot]
  refine (runMgmt_of_mgmtAt hj _).trans (congrArg _ ?_)
  simp only [hnew, hcer, halone, if_neg (step_not_held hgo), Bool.false_eq_true, if_false]
  exact if_neg named

/-- R415, R424: a step with a card that may serve. -/
theorem cardStep_of_ready {io : JobIo} {cs : Nat} (hcard : (getCard s cs).state = 4)
    (hwhy : refuseReason s c (getCard s cs) (nextIsWrite c) = 0) (hwp : nextIsWrite c = false ∨ io.wp = false) :
    cardStep s j io c cs = beginCardStep (if cardHere (getCard s cs) then
      modCard s cs (fun x => { x with life := lifeState s x.mfgTime, wp := io.wp }) else s) j io c cs (nextIsWrite c) := by
  have writable : (nextIsWrite c && io.wp) = false := by rcases hwp with h | h <;> simp [h]
  simp [cardStep, hcard, hwhy, writable]

theorem exec_ceremonyAbort (hj : mgmtAt s job 0x0903 j = true) (hcer : s.cer ≠ none) (halone : otherCeremonyJob s j = false)
    (hfirst : ¬ overtaken s) (io : JobIo) :
    exec (.ceremonyAbort job io) s = .next (answerOk (abortCeremony s 0x0903) j io) := by
  have runs : ¬ (s.cer.isNone || otherCeremonyJob s j || overtaken s) = true := by simpa [halone, hfirst] using hcer
  exact (runMgmt_of_mgmtAt hj _).trans (congrArg _ (if_neg runs))

/-- R76, R79: the time-out stands while neither the step's commit nor a transition of a higher rank has come first. -/
theorem timeoutDue_of (hcer : s.cer = some c) (halive : alive s = true) (hmode : s.chip.mode = .ceremony)
    (hlate : c.waitFrom + c.timeout * 10 ^ 9 ≤ s.uptime) (hfirst : ¬ overtaken s) (hpos : ∀ p, c.step = some p → p.pos < 31)
    (hopen : ∀ k, c.stepJob = some k → ∀ x, getJob s k = some x → x.isReleased = false) : timeoutDue s = true := by
  have unreleased : c.stepJob.any (fun k => (getJob s k).any (fun j => j.isReleased)) = false := by
    simpa [Option.any_eq_false] using hopen
  have uncommitted : c.step.any (fun p => decide (31 ≤ p.pos)) = false := by
    simpa [Option.any_eq_false] using hpos
  simpa [timeoutDue, hcer, unreleased, uncommitted, halive, hmode, hfirst] using hlate

/-- R50: the requests of the running step are taken back. -/
def stepRetracted (s : State) (c : Ceremony) : State :=
  match c.stepJob with
  | some k => retractWrite (retractWrite s 1 k) 0 k
  | none => s

/-- R50: the time-out takes the running step with it. -/
theorem ceremonyTimesOut_of (hcer : s.cer = some c) (io : JobIo) :
    (c.stepJob.bind (getJob (stepRetracted s c)) = none → ceremonyTimesOut io s = abortCeremony (stepRetracted s c) 0) ∧
    (∀ x, c.stepJob.bind (getJob (stepRetracted s c)) = some x → ceremonyTimesOut io s = abortCeremony
      (settle (modCer (stepRetracted s c) (fun d => { d with stepJob := none, step := none })) x io (JobRes.status0 eAborted 0)) 0) := by
  cases hk : c.stepJob with
  | none => simp [ceremonyTimesOut, stepRetracted, hcer, hk]
  | some k =>
    simp only [ceremonyTimesOut, stepRetracted, hcer, hk, Option.bind_some]
    exact ⟨fun h => by rw [h], fun x h => by rw [h]⟩

end

/-- Settles O19: a ceremony begins by its kind, a step runs with or without a card, and a time-out ends the step that runs first. -/
theorem ceremonyCommandsComplete : Obligations.CeremonyCommandsComplete := by
  intro s job io j
  refine ⟨fun hj halone hfirst hnone hlc hmode b hin htok hlim => ⟨?begins, ?takesOwnership⟩,
    fun c hj hnew hcer halone hgo => ⟨?cardless, ?withCard⟩,
    fun hj hcer halone hfirst => exec_ceremonyAbort hj hcer halone hfirst io,
    fun c hcer halive hmode hlate hfirst hpos hopen => ?timesOut⟩
  case begins =>
    intro hkind
    rw [exec_ceremonyBegin hj halone hfirst hnone hlc hmode hin htok hlim, if_neg hkind]
  case takesOwnership =>
    intro hkind
    rw [exec_ceremonyBegin hj halone hfirst hnone hlc hmode hin htok hlim, if_pos hkind]
  case cardless =>
    intro hkind hm hslot
    have none_taken : cardless c = true := cardless_iff.2 ⟨hkind, hm⟩
    rw [exec_ceremonyStep hj hnew hcer halone hgo (by rw [hslot, none_taken]; rfl), if_pos none_taken]
  case withCard =>
    intro hkind hslot hcard hwhy hwp
    have taken : cardless c = false := Bool.eq_false_iff.2 (mt cardless_iff.1 hkind)
    rw [exec_ceremonyStep hj hnew hcer halone hgo (by rw [taken]; exact beq_eq_false_iff_ne.2 hslot), taken,
      if_neg Bool.false_ne_true, cardStep_of_ready hcard hwhy hwp]
  case timesOut =>
    have due := timeoutDue_of hcer halive hmode hlate hfirst hpos hopen
    have ended : exec (.ceremonyTimeout io) s = .next (ceremonyTimesOut io s) := doIf_of_guard due _ _
    obtain ⟨idle, running⟩ := ceremonyTimesOut_of hcer io
    exact ⟨fun h => ended.trans (congrArg _ (idle h)), fun x h => ended.trans (congrArg _ (running x h))⟩

/-! ### Limits of jobs and scrubs that wait (R72, R160, R334, R482) -/

section
variable {s : State} {job : Nat} {j : Job}

theorem exec_unassignedBoundExpire (hget : getJob s job = some j) (hs : serving s = true) (hno : noRegion s = true)
    (hopen : j.isReleased = false) (hlate : lateJob s j = true)
    (hwait : j.pos = .waiting ∨ (j.onChip = true ∧ j.res = none ∧ j.needsRegion = true)) (io : JobIo) :
    exec (.unassignedBoundExpire job io) s = .next (failJob s j eRetryExhausted 0 io.cplFault) := by
  have unassigned : (j.pos == .waiting || (j.onChip && j.res.isNone && j.needsRegion)) = true := by
    rcases hwait with h | ⟨h1, h2, h3⟩
    · simp [h]
    · simp [h1, h2, h3]
  change execUnassignedBoundExpire job io s = _
  simp only [execUnassignedBoundExpire, hget]
  exact doIf_of_guard (by simp [hs, hno, hopen, hlate, unassigned]) _ _

theorem exec_jobAbandonTimeout (hget : getJob s job = some j) (hs : ungated s = true) (hopen : j.isReleased = false)
    (hwrite : writeBegun s j = false) (hlate : j.since + jobBound j + 8000000000 ≤ s.uptime) (io : JobIo) :
    exec (.jobAbandonTimeout job io) s = .next (dropStepOf (failJob s j eRetryExhausted 0 io.cplFault) j.id) := by
  change execJobAbandonTimeout job io s = _
  simp only [execJobAbandonTimeout, hget]
  exact doIf_of_guard (by simp [hs, hopen, hwrite, hlate]) _ _

end

/-- A scrub that is due and not for the expanded entry alone erases the key. -/
theorem exec_keyScrubAfterJobs {s : State} {h : W64} (halive : alive s = true)
    (hdue : s.scrubs.filter (fun w => w.handle == h && scrubDue s w) ≠ []) :
    let due := s.scrubs.filter (fun w => w.handle == h && scrubDue s w)
    let t := { s with scrubs := s.scrubs.filter (fun w => !(w.handle == h && scrubDue s w)) }
    exec (.keyScrubAfterJobs h) s = .next
      (if due.any (fun w => !w.expOnly) then scrubKey (scrubLane t (hSlice h) (· == h)) h
       else filterExpanded t (fun e => e.handle != h)) := by
  have waits : (!(s.scrubs.filter (fun w => w.handle == h && scrubDue s w)).isEmpty) = true := by
    simpa only [Bool.not_eq_true', List.isEmpty_eq_false_iff] using hdue
  exact doIf_of_guard (by rw [halive, waits]; rfl) _ _

/-- Settles O29: each limit meets the guard of its row, and a scrub that is due erases what its waits ask for. -/
theorem jobLimitsComplete : Obligations.JobLimitsComplete := by
  intro s
  refine ⟨fun job j io hget hs hno hopen hlate hwait => exec_unassignedBoundExpire hget hs hno hopen hlate hwait io,
    fun job j io hget hs hopen hwrite hlate => exec_jobAbandonTimeout hget hs hopen hwrite hlate io, ?scrub⟩
  case scrub =>
    intro h halive due t hdue
    have scrubbed := exec_keyScrubAfterJobs halive hdue
    exact ⟨fun hkey => scrubbed.trans (congrArg _ (if_pos hkey)),
      fun hentry => scrubbed.trans (congrArg _ (if_neg (by rw [hentry]; exact Bool.false_ne_true)))⟩

/-! ### Drain, quiescing, reset and removal of slices (R51, R115, R117, R139) -/

section
variable {s : State} {n : Nat}

theorem exec_drained (hs : slicesRun s = true) (hmode : s.chip.mode = .drain) (hjobs : s.jobs = []) (hwrites : noWrites s = true) :
    exec .drained s = .next { s with chip := { s.chip with drained := true } } :=
  doIf_of_guard (by simp [hs, hmode, hjobs, hwrites]) _ _

theorem exec_quiesceComplete (hs : slicesRun s = true) (hn : n < 64) (hstate : (getSlice s n).state = .quiescing)
    (hjobs : outstanding s n = 0) (hrec : recIdle s n = true) :
    exec (.quiesceComplete n) s =
      .next (saveSlice (notifyState (modSlice s n (fun x => { x with state := .configured })) n) n) :=
  (known_of_exists (decide_eq_true hn) _).trans (doIf_of_guard (by simp [hs, hstate, hjobs, hrec]) _ _)

/-- Steps 5 and 6 of R139: the slice is scrubbed, its rings are reset, and the state it goes back to is recorded and notified. -/
def sliceReset (s : State) (n : Nat) (r : ResetRec) : State :=
  let st := if r.prior = .quiescing then SliceState.configured else r.prior
  let t := resetQps (modSlice (scrubSlice s n) n (fun y => { y with state := st, resetRec := none })) n false
  notifyReset (notifyState (if r.prior = .quiescing then saveSlice t n else t) n) n

/-- The command that asked for the end of a reset or removal, if its job is still there, is answered. -/
def answerAsker (s : State) (r : ResetRec) (io : JobIo) : State :=
  match r.job.bind (getJob s) with
  | some j => answerOk s j io
  | none => s

theorem answerAsker_of_none {r : ResetRec} (h : r.job.bind (getJob s) = none) (io : JobIo) : answerAsker s r io = s := by
  simp only [answerAsker, h]

theorem answerAsker_of_some {r : ResetRec} {j : Job} (h : r.job.bind (getJob s) = some j) (io : JobIo) :
    answerAsker s r io = answerOk s j io := by
  simp only [answerAsker, h]

/-- Step 6 of R139: then a removal that waited begins (R138). -/
theorem exec_sliceResetDone {r : ResetRec} (hs : slicesRun s = true) (hn : n < 64) (hstate : (getSlice s n).state = .resetting)
    (hrec : (getSlice s n).resetRec = some r) (hstays : r.removal = false) (hjobs : slicesJobsDone s n = true)
    (hidle : recIdle s n = true) (io : JobIo) :
    exec (.sliceResetDone n io) s =
      .next (nextRemoval (answerAsker (sliceReset s n r) r io) n (getSlice s n).removeWaits) := by
  refine (known_of_exists (decide_eq_true hn) _).trans ?_
  simp only [hrec]
  exact doIf_of_guard (by simp [hs, hstate, hstays, hjobs, hidle]) _ _

/-- Steps 5 and 7 of R139: the slots are retired, and once none is left the slice becomes ABSENT. -/
theorem exec_sliceRemoveDone {r : ResetRec} (hs : slicesRun s = true) (hn : n < 64) (hstate : (getSlice s n).state = .resetting)
    (hrec : (getSlice s n).resetRec = some r) (hgoes : r.removal = true) (hjobs : slicesJobsDone s n = true)
    (hidle : recIdle s n = true) (hintent : (sliceRecOf s n).any (fun e => e.removal) = true) (io : JobIo) :
    let w := retireSlots (scrubSlice s n) n
    exec (.sliceRemoveDone n io) s =
      .next (if (ownSlots s n).isEmpty then answerAsker (notifyState (removeSlice w n) n) r io else w) := by
  refine (known_of_exists (decide_eq_true hn) _).trans ?_
  simp only [hrec]
  exact doIf_of_guard (by simp [hs, hstate, hgoes, hjobs, hidle, hintent]) _ _

end

/-- Settles O30: each row meets its guard; the ends of a reset and of a removal are then told apart by the command that waits for
them, and a removal by the slots that are left. -/
theorem sliceEventsComplete : Obligations.SliceEventsComplete := by
  intro s hs
  refine ⟨fun hmode hjobs hwrites => exec_drained hs hmode hjobs hwrites,
    fun n hn hstate hjobs hrec => exec_quiesceComplete hs hn hstate hjobs hrec,
    fun n r io hn hstate hrec hjobs hidle => ⟨?resetAlone, ?resetAnswered, fun hgoes hintent => ?removal⟩⟩
  case resetAlone =>
    intro hstays hnone
    have silent : answerAsker (sliceReset s n r) r io = sliceReset s n r := answerAsker_of_none hnone io
    rw [exec_sliceResetDone hs hn hstate hrec hstays hjobs hidle, silent]
    rfl
  case resetAnswered =>
    intro j hstays hsome
    have answered : answerAsker (sliceReset s n r) r io = answerOk (sliceReset s n r) j io := answerAsker_of_some hsome io
    rw [exec_sliceResetDone hs hn hstate hrec hstays hjobs hidle, answered]
    rfl
  case removal =>
    have removed := exec_sliceRemoveDone hs hn hstate hrec hgoes hjobs hidle hintent io
    refine ⟨fun hslots => ?slotsLeft, fun hslots hnone => ?goneAlone, fun j hslots hsome => ?goneAnswered⟩
    case slotsLeft => exact removed.trans (congrArg _ (if_neg (by simpa using hslots)))
    case goneAlone => exact removed.trans (congrArg _ ((if_pos (by simp [hslots])).trans (answerAsker_of_none hnone io)))
    case goneAnswered => exact removed.trans (congrArg _ ((if_pos (by simp [hslots])).trans (answerAsker_of_some hsome io)))

/-! ### Resets, supplies and starts (R42 to R45, R94, R343, R511, R512, R526) -/

section
variable {s : State}

theorem exec_resetTakeEffect (hs : ungated s = true) (hwait : s.supply.resetWaiting = true) (hwrites : noneBegun s = true) :
    let t := bootState s (if s.supply.resetLow then 2 else 3)
    exec .resetTakeEffect s = .next { t with supply := { t.supply with resetHeld := s.supply.resetLow } } :=
  doIf_of_guard (by simp [hs, hwait, hwrites]) _ _

theorem exec_supplyWarning {rail : Nat} (hrail : rail < 4) (hs : ungated s = true) :
    let t := forJobs (fun j => !j.isReleased) abandonJob { s with supply := { s.supply with warnedAt := some s.uptime } }
    exec (.supplyWarning rail) s = .next (writePageOf (risingHighWater t) t true) :=
  (known_of_exists (decide_eq_true hrail) _).trans (doIf_of_guard hs _ _)

theorem exec_supplyWarningTimeout {t0 : Nat} (halive : alive s = true) (hwarned : s.supply.warnedAt = some t0)
    (hlate : t0 + 10000 ≤ s.uptime) : exec .supplyWarningTimeout s = .next (holdReset (powerLoss (allBegun s) s)) :=
  doIf_of_guard (by simp [halive, hwarned, hlate]) _ _

/-- R16: what befalls each of the four regions in turn. -/
theorem foldl_regions {α : Type} (f : α → Nat → α) (a : α) : (List.range 4).foldl f a = f (f (f (f a 0) 1) 2) 3 := rfl

/-- R16, R511: every region's PLL loses lock. -/
theorem exec_sysClkLost (halive : alive s = true) :
    exec .sysClkLost s = .next
      (raiseFault (raiseFault (raiseFault (raiseFault { s with supply := { s.supply with sysClk := false } }
        0x22 0x90 0) 0x22 0x91 0) 0x22 0x92 0) 0x22 0x93 0) :=
  (doIf_of_guard halive _ _).trans (congrArg _ (foldl_regions _ _))

theorem exec_bootEnd (hs : ungated s = true) (hmode : s.chip.mode = .boot) (io : AssayIo) :
    exec (.bootEnd io) s = .next (bootDone io s) :=
  doIf_of_guard (by simp [hs, hmode]) _ _

theorem exec_assayEnd (hs : ungated s = true) (hmode : s.chip.mode = .assay) (hsound : s.flt.fatal = false) (io : AssayIo) :
    exec (.assayEnd io) s = .next (assayDone io s) :=
  doIf_of_guard (by simp [hs, hmode, hsound]) _ _

theorem exec_heartbeatTick (halive : alive s = true) (hmode : s.chip.mode ≠ .halt) :
    exec .heartbeatTick s = .next { s with chip := { s.chip with heartbeat := s.chip.heartbeat + 1 } } :=
  doIf_of_guard (by simp [halive, hmode]) _ _

end

/-- Settles O35: POWER_ON_RESET and the edges of RESET# act in every state; the other rows meet their guards. -/
theorem resetAndSupplyRowsComplete : Obligations.ResetAndSupplyRowsComplete := by
  intro s
  refine ⟨fun w => rfl, fun hpor => doIf_of_guard hpor _ _, rfl, rfl, fun hs hwait hwrites => exec_resetTakeEffect hs hwait hwrites,
    fun rail hrail hs => exec_supplyWarning hrail hs, fun t0 halive hwarned hlate => exec_supplyWarningTimeout halive hwarned hlate,
    fun halive => exec_sysClkLost halive, fun io hs hmode => exec_bootEnd hs hmode io,
    fun io hs hmode hsound => exec_assayEnd hs hmode hsound io, fun halive hmode => exec_heartbeatTick halive hmode⟩

/-! ### The state right after a power-on reset (R42, R94, R533) -/

/-- R94: CHIP_ID. -/
theorem reset_chipId : ∃ v, readReg State.reset 0 = some (32, v) ∧ v / 2 ^ 8 = 0x4128B1 :=
  ⟨regChipId State.reset, rfl, by decide⟩

/-- Settles O49: the single fields stand in the definition of the state, units read their value of reset from empty tables, and CHIP_ID
reads its constant. -/
theorem resetLeavesBoot : Obligations.ResetLeavesBoot :=
  ⟨rfl, rfl, rfl, rfl, rfl, rfl, rfl, rfl, rfl, rfl, rfl, rfl, rfl, rfl, rfl, rfl, rfl,
    fun _ => rfl, fun _ _ => ⟨rfl, rfl, rfl, rfl, rfl, rfl⟩, fun _ => rfl, fun _ => rfl, fun _ => rfl,
    fun _ _ => ⟨rfl, rfl, rfl⟩, fun _ => rfl, reset_chipId⟩

end Sys2Proof.Proofs

/-! SUPPORT. What every command keeps (Laws/Keeps.lean), the canonical form of the two memories (R95, R96, R448), and the frame of a host
write to the HDM window (R95, R96, R98). -/

namespace Sys2Proof.Proofs

open Sys2Proof Machine Laws

/-! ### What every command keeps -/

/-- From a state that is kept, every command leads to one that is. -/
theorem keepsR_exec {r s : State} (h : Keeps r s) (i : Instr) : KeepsR r (exec i s) := by
  unfold exec
  cases i with
  | powerOnReset w => exact keeps_execPowerOnReset w h
  | porRelease => exact keeps_execPorRelease h
  | resetAssert => exact keeps_execResetAssert h
  | resetTakeEffect => exact keeps_execResetTakeEffect h
  | supplyWarning rail => exact keeps_execSupplyWarning rail h
  | supplyWarningTimeout => exact keeps_execSupplyWarningTimeout h
  | sysClkLost => exact keeps_execSysClkLost h
  | rootSupplySwitch aux => exact keeps_execRootSupplySwitch aux h
  | bootEnd io => exact keeps_execBootEnd io h
  | assayEnd io => exact keeps_execAssayEnd io h
  | heartbeatTick => exact keeps_execHeartbeatTick h
  | linkTraining tr => exact keeps_execLinkTraining tr h
  | perst => exact keeps_execPerst h
  | flr => exact keeps_execFlr h
  | cxlReset => exact keeps_execCxlReset h
  | hotReset => exact keeps_execHotReset h
  | linkLoss => exact keeps_execLinkLoss h
  | gpfRequest => exact keeps_execGpfRequest h
  | hdmDecoderCommit base => exact keeps_execHdmDecoderCommit base h
  | hdmAccess addr wr => exact keeps_execHdmAccess addr wr h
  | atsInvalidate inv => exact keeps_execAtsInvalidate inv h
  | atsInvalidateComplete tag => exact keeps_execAtsInvalidateComplete tag h
  | doeRequest proto body => exact keeps_execDoeRequest proto body h
  | spdmRequest code body => exact keeps_execSpdmRequest code body h
  | getCertificate slotId off len => exact keeps_execGetCertificate slotId off len h
  | getMeasurements index => exact keeps_execGetMeasurements index h
  | ideKm stream dir => exact keeps_execIdeKm stream dir h
  | kSetGo stream dir => exact keeps_execKSetGo stream dir h
  | ideStreamSecure stream => exact keeps_execIdeStreamSecure stream h
  | setEndpointId eid => exact keeps_execSetEndpointId eid h
  | getEndpointId => exact keeps_execGetEndpointId h
  | getMctpVersionSupport => exact keeps_execGetMctpVersionSupport h
  | getMessageTypeSupport => exact keeps_execGetMessageTypeSupport h
  | getVendorDefinedMessageSupport => exact keeps_execGetVendorDefinedMessageSupport h
  | getHealthTemp => exact keeps_execGetHealthTemp h
  | getHealthMode => exact keeps_execGetHealthMode h
  | getFaultSummary => exact keeps_execGetFaultSummary h
  | sidebandUnsupported cmd => exact keeps_execSidebandUnsupported cmd h
  | bar0BadAccess wr addr size => exact keeps_execBar0BadAccess wr addr size h
  | bar0LowHalfRead addr => exact keeps_execBar0LowHalfRead addr h
  | registerWrite addr size val => exact keeps_execRegisterWrite addr size val h
  | sqDoorbell sl qp tail => exact keeps_execSqDoorbell sl qp tail h
  | cqHeadWrite sl qp head => exact keeps_execCqHeadWrite sl qp head h
  | qpEnable sl qp cfg => exact keeps_execQpEnable sl qp cfg h
  | qpDisable sl qp => exact keeps_execQpDisable sl qp h
  | qpDisableDone sl qp => exact keeps_execQpDisableDone sl qp h
  | slNotifyClear sl mask => exact keeps_execSlNotifyClear sl mask h
  | descriptorFetch sl qp f => exact keeps_execDescriptorFetch sl qp f h
  | dispatchPick rgn lc => exact keeps_execDispatchPick rgn lc h
  | blockAssign job => exact keeps_execBlockAssign job h
  | cellJobStart cell => exact keeps_execCellJobStart cell h
  | jobRelease job io => exact keeps_execJobRelease job io h
  | verifyBeforeReleaseDone job ok io => exact keeps_execVerifyBeforeReleaseDone job ok io h
  | dualCompare job ok io => exact keeps_execDualCompare job ok io h
  | unassignedBoundExpire job io => exact keeps_execUnassignedBoundExpire job io h
  | jobAbandonTimeout job io => exact keeps_execJobAbandonTimeout job io h
  | drained => exact keeps_execDrained h
  | quiesceComplete sl => exact keeps_execQuiesceComplete sl h
  | sliceResetDone sl io => exact keeps_execSliceResetDone sl io h
  | sliceRemoveDone sl io => exact keeps_execSliceRemoveDone sl io h
  | keyScrubAfterJobs handle => exact keeps_execKeyScrubAfterJobs handle h
  | deviceQuery job io => exact keeps_execDeviceQuery job io h
  | sliceQuery job io => exact keeps_execSliceQuery job io h
  | sliceCreate job io => exact keeps_execSliceCreate job io h
  | sliceConfigure job io => exact keeps_execSliceConfigure job io h
  | sliceActivate job io => exact keeps_execSliceActivate job io h
  | sliceQuiesce job io => exact keeps_execSliceQuiesce job io h
  | sliceReset job io => exact keeps_execSliceReset job io h
  | sliceRemove job io => exact keeps_execSliceRemove job io h
  | pasidBind job io => exact keeps_execPasidBind job io h
  | pasidUnbind job io => exact keeps_execPasidUnbind job io h
  | hdmWindowSet job io => exact keeps_execHdmWindowSet job io h
  | hdmApertureSet job io => exact keeps_execHdmApertureSet job io h
  | biasSet job io => exact keeps_execBiasSet job io h
  | ideRequiredSet job io => exact keeps_execIdeRequiredSet job io h
  | ownerCertInstall job io => exact keeps_execOwnerCertInstall job io h
  | drainBegin job io => exact keeps_execDrainBegin job io h
  | drainCancel job io => exact keeps_execDrainCancel job io h
  | maintEnter job io => exact keeps_execMaintEnter job io h
  | deviceReset job io => exact keeps_execDeviceReset job io h
  | keyGenerate job io => exact keeps_execKeyGenerate job io h
  | keyQuery job io => exact keeps_execKeyQuery job io h
  | keyPublic job io => exact keeps_execKeyPublic job io h
  | keyRetire job io => exact keeps_execKeyRetire job io h
  | derive job io => exact keeps_execDerive job io h
  | epochHandle job io => exact keeps_execEpochHandle job io h
  | peerLoad job io => exact keeps_execPeerLoad job io h
  | handleRelease job io => exact keeps_execHandleRelease job io h
  | cacheControl job io => exact keeps_execCacheControl job io h
  | transportEstablish job io => exact keeps_execTransportEstablish job io h
  | transportAccept job io => exact keeps_execTransportAccept job io h
  | keyExport job io => exact keeps_execKeyExport job io h
  | keyImport job io => exact keeps_execKeyImport job io h
  | kemKeygen job io => exact keeps_execKemKeygen job io h
  | kemEncaps job io => exact keeps_execKemEncaps job io h
  | kemDecaps job io => exact keeps_execKemDecaps job io h
  | dhAgree job io => exact keeps_execDhAgree job io h
  | hybridEncaps job io => exact keeps_execHybridEncaps job io h
  | hybridDecaps job io => exact keeps_execHybridDecaps job io h
  | sigKeygen job io => exact keeps_execSigKeygen job io h
  | sign job io => exact keeps_execSign job io h
  | verify job io => exact keeps_execVerify job io h
  | statefulCreate job io => exact keeps_execStatefulCreate job io h
  | statefulQuery job io => exact keeps_execStatefulQuery job io h
  | treeBuildDone rid part => exact keeps_execTreeBuildDone rid part h
  | digest job io => exact keeps_execDigest job io h
  | macGenerate job io => exact keeps_execMacGenerate job io h
  | macVerify job io => exact keeps_execMacVerify job io h
  | kdf job io => exact keeps_execKdf job io h
  | getRandom job io => exact keeps_execGetRandom job io h
  | setNextSecond job io => exact keeps_execSetNextSecond job io h
  | setNextSecondTimeout io => exact keeps_execSetNextSecondTimeout io h
  | timeQuery job io => exact keeps_execTimeQuery job io h
  | timeConfig job io => exact keeps_execTimeConfig job io h
  | eventSchedule job io => exact keeps_execEventSchedule job io h
  | eventCancel job io => exact keeps_execEventCancel job io h
  | eventQuery job io => exact keeps_execEventQuery job io h
  | lanePair job io => exact keeps_execLanePair job io h
  | laneUnpair job io => exact keeps_execLaneUnpair job io h
  | laneBind job io => exact keeps_execLaneBind job io h
  | laneUnbind job io => exact keeps_execLaneUnbind job io h
  | laneQuery job io => exact keeps_execLaneQuery job io h
  | lanePrefill job io => exact keeps_execLanePrefill job io h
  | laneLoopback job io => exact keeps_execLaneLoopback job io h
  | cardQuery job io => exact keeps_execCardQuery job io h
  | ceremonyBegin job io => exact keeps_execCeremonyBegin job io h
  | ceremonyStep job io => exact keeps_execCeremonyStep job io h
  | ceremonyAbort job io => exact keeps_execCeremonyAbort job io h
  | ceremonyQuery job io => exact keeps_execCeremonyQuery job io h
  | ceremonyTimeout io => exact keeps_execCeremonyTimeout io h
  | microLoad job io => exact keeps_execMicroLoad job io h
  | microUnload job io => exact keeps_execMicroUnload job io h
  | microQuery job io => exact keeps_execMicroQuery job io h
  | customerMacroOp job io => exact keeps_execCustomerMacroOp job io h
  | wdogConfig job io => exact keeps_execWdogConfig job io h
  | faultConfig job io => exact keeps_execFaultConfig job io h
  | faultQuery job io => exact keeps_execFaultQuery job io h
  | faultClear job io => exact keeps_execFaultClear job io h
  | faultInject job io => exact keeps_execFaultInject job io h
  | powerForce job io => exact keeps_execPowerForce job io h
  | rngTest job io => exact keeps_execRngTest job io h
  | almanacQuery job io => exact keeps_execAlmanacQuery job io h
  | logRead job io => exact keeps_execLogRead job io h
  | lcAdvance job io => exact keeps_execLcAdvance job io h
  | fwUpdate job io => exact keeps_execFwUpdate job io h
  | nop cell => exact keeps_execNop cell h
  | add cell => exact keeps_execAdd cell h
  | sub cell => exact keeps_execSub cell h
  | addi cell => exact keeps_execAddi cell h
  | andOp cell => exact keeps_execAndOp cell h
  | orOp cell => exact keeps_execOrOp cell h
  | xor cell => exact keeps_execXor cell h
  | shl cell => exact keeps_execShl cell h
  | shr cell => exact keeps_execShr cell h
  | sar cell => exact keeps_execSar cell h
  | mul cell => exact keeps_execMul cell h
  | mulhu cell => exact keeps_execMulhu cell h
  | lds cell => exact keeps_execLds cell h
  | cmp cell => exact keeps_execCmp cell h
  | ld cell => exact keeps_execLd cell h
  | st cell => exact keeps_execSt cell h
  | mfc cell => exact keeps_execMfc cell h
  | mtc cell => exact keeps_execMtc cell h
  | cellMsgRead cell => exact keeps_execCellMsgRead cell h
  | call cell => exact keeps_execCall cell h
  | ret cell => exact keeps_execRet cell h
  | msg cell => exact keeps_execMsg cell h
  | pwait cell core => exact keeps_execPwait cell core h
  | dmain cell => exact keeps_execDmain cell h
  | dmaout cell => exact keeps_execDmaout cell h
  | loadkey cell => exact keeps_execLoadkey cell h
  | bnereq cell => exact keeps_execBnereq cell h
  | schk cell => exact keeps_execSchk cell h
  | hinit cell => exact keeps_execHinit cell h
  | habs cell => exact keeps_execHabs cell h
  | hsqz cell => exact keeps_execHsqz cell h
  | gadget cell => exact keeps_execGadget cell h
  | unmask cell => exact keeps_execUnmask cell h
  | ntt cell => exact keeps_execNtt cell h
  | intt cell => exact keeps_execIntt cell h
  | pmul cell => exact keeps_execPmul cell h
  | pmac cell => exact keeps_execPmac cell h
  | padd cell => exact keeps_execPadd cell h
  | psub cell => exact keeps_execPsub cell h
  | vld cell => exact keeps_execVld cell h
  | vst cell => exact keeps_execVst cell h
  | vbcast cell => exact keeps_execVbcast cell h
  | vext cell => exact keeps_execVext cell h
  | vadd cell => exact keeps_execVadd cell h
  | vsub cell => exact keeps_execVsub cell h
  | vaddm cell => exact keeps_execVaddm cell h
  | vsubm cell => exact keeps_execVsubm cell h
  | vadds cell => exact keeps_execVadds cell h
  | vsubs cell => exact keeps_execVsubs cell h
  | vmul cell => exact keeps_execVmul cell h
  | vmulhr cell => exact keeps_execVmulhr cell h
  | vrshr cell => exact keeps_execVrshr cell h
  | vsh cell => exact keeps_execVsh cell h
  | vand cell => exact keeps_execVand cell h
  | vor cell => exact keeps_execVor cell h
  | vxor cell => exact keeps_execVxor cell h
  | vcmp cell => exact keeps_execVcmp cell h
  | vcomp cell => exact keeps_execVcomp cell h
  | vdecomp cell => exact keeps_execVdecomp cell h
  | vperm cell => exact keeps_execVperm cell h
  | vgath cell => exact keeps_execVgath cell h
  | vscat cell => exact keeps_execVscat cell h
  | dmaTransferDone cell io => exact keeps_execDmaTransferDone cell io h
  | hashOpDone cell => exact keeps_execHashOpDone cell h
  | schkDone cell ok => exact keeps_execSchkDone cell ok h
  | waitConditionMet cell => exact keeps_execWaitConditionMet cell h
  | waitTimeout cell => exact keeps_execWaitTimeout cell h
  | cellTimerExpire cell => exact keeps_execCellTimerExpire cell h
  | joblim cell => exact keeps_execJoblim cell h
  | cellJobAbort cell => exact keeps_execCellJobAbort cell h
  | maskReseed cell => exact keeps_execMaskReseed cell h
  | getParams cell => exact keeps_execGetParams cell h
  | setResult cell => exact keeps_execSetResult cell h
  | putKey cell => exact keeps_execPutKey cell h
  | random cell => exact keeps_execRandom cell h
  | bneRequestStart blk => exact keeps_execBneRequestStart blk h
  | bnePublic blk => exact keeps_execBnePublic blk h
  | agree blk => exact keeps_execAgree blk h
  | ephemeralAgree blk => exact keeps_execEphemeralAgree blk h
  | ecdsaSign blk => exact keeps_execEcdsaSign blk h
  | ecdsaVerify blk => exact keeps_execEcdsaVerify blk h
  | eddsaSign blk => exact keeps_execEddsaSign blk h
  | eddsaVerify blk => exact keeps_execEddsaVerify blk h
  | rsaSign blk => exact keeps_execRsaSign blk h
  | rsaVerify blk => exact keeps_execRsaVerify blk h
  | rsaKeygen blk => exact keeps_execRsaKeygen blk h
  | rsaRebuild blk => exact keeps_execRsaRebuild blk h
  | validate blk => exact keeps_execValidate blk h
  | scalarCheck blk => exact keeps_execScalarCheck blk h
  | bneRequestDone blk io => exact keeps_execBneRequestDone blk io h
  | bneSegmentEnd blk => exact keeps_execBneSegmentEnd blk h
  | deContextGrant blk => exact keeps_execDeContextGrant blk h
  | deBlockDone blk more => exact keeps_execDeBlockDone blk more h
  | deStarvationExpire blk => exact keeps_execDeStarvationExpire blk h
  | ledgerCommit rid rb io => exact keeps_execLedgerCommit rid rb io h
  | slotWriteCommit job ok => exact keeps_execSlotWriteCommit job ok h
  | slotZeroing idx ok => exact keeps_execSlotZeroing idx ok h
  | progressPageWrite ok => exact keeps_execProgressPageWrite ok h
  | almanacScrub pairs slots => exact keeps_execAlmanacScrub pairs slots h
  | ppsEdge io => exact keeps_execPpsEdge io h
  | ppsWindowClose => exact keeps_execPpsWindowClose h
  | ppsRunEnd => exact keeps_execPpsRunEnd h
  | slewEnd => exact keeps_execSlewEnd h
  | holdoverExpired => exact keeps_execHoldoverExpired h
  | trefQualified code => exact keeps_execTrefQualified code h
  | trefLost => exact keeps_execTrefLost h
  | tppsOutSecond => exact keeps_execTppsOutSecond h
  | tppsOutFall => exact keeps_execTppsOutFall h
  | eventPrepare ev => exact keeps_execEventPrepare ev h
  | eventFire tests => exact keeps_execEventFire tests h
  | eventCatchUp tests => exact keeps_execEventCatchUp tests h
  | eventIndexFree ev => exact keeps_execEventIndexFree ev h
  | keyCur port frame => exact keeps_execKeyCur port frame h
  | keyNext port frame => exact keeps_execKeyNext port frame h
  | keyPrev port frame => exact keeps_execKeyPrev port frame h
  | ping port frame => exact keeps_execPing port frame h
  | klMissDone port => exact keeps_execKlMissDone port h
  | klResponseSend port => exact keeps_execKlResponseSend port h
  | klRekey port => exact keeps_execKlRekey port h
  | klRxLinkLoss port => exact keeps_execKlRxLinkLoss port h
  | cardDetectRise cs => exact keeps_execCardDetectRise cs h
  | cardDebouncedInsert cs wp => exact keeps_execCardDebouncedInsert cs wp h
  | cardIdentify cs ans => exact keeps_execCardIdentify cs ans h
  | cardResponse cs bytes wp => exact keeps_execCardResponse cs bytes wp h
  | cardResponseTimeout cs => exact keeps_execCardResponseTimeout cs h
  | cardStatusPoll cs status wp => exact keeps_execCardStatusPoll cs status wp h
  | cardBusyTimeout cs => exact keeps_execCardBusyTimeout cs h
  | clockMonitorTrip cell kind w => exact keeps_execClockMonitorTrip cell kind w h
  | loopAlarm loop kind w => exact keeps_execLoopAlarm loop kind w h
  | caseAlarm sw kind w => exact keeps_execCaseAlarm sw kind w h
  | sensorRearm tsrc => exact keeps_execSensorRearm tsrc h
  | batteryLoopPulse opens shorts => exact keeps_execBatteryLoopPulse opens shorts h
  | btimeTick => exact keeps_execBtimeTick h
  | batteryLogCopy => exact keeps_execBatteryLogCopy h
  | healthTestFailure rgn kind => exact keeps_execHealthTestFailure rgn kind h
  | rngStartupDone rgn ok => exact keeps_execRngStartupDone rgn ok h
  | conditionerBlockReady rgn raw => exact keeps_execConditionerBlockReady rgn raw h
  | drbgAutoReseed rgn => exact keeps_execDrbgAutoReseed rgn h
  | rngFailureWindowExpire rgn => exact keeps_execRngFailureWindowExpire rgn h
  | faultDetect src unit info => exact keeps_execFaultDetect src unit info h
  | fenceActed fu => exact keeps_execFenceActed fu h
  | quietPeriodEnd fu => exact keeps_execQuietPeriodEnd fu h
  | recoveryTestDone fu ok => exact keeps_execRecoveryTestDone fu ok h
  | mgmtTakeover => exact keeps_execMgmtTakeover h
  | fatalHalt io => exact keeps_execFatalHalt io h
  | icSourceAssert id on => exact keeps_execIcSourceAssert id on h
  | icClaim proc => exact keeps_execIcClaim proc h
  | icComplete proc id => exact keeps_execIcComplete proc id h
  | icSrcEnable id val => exact keeps_execIcSrcEnable id val h
  | intStormPoll id => exact keeps_execIntStormPoll id h
  | coreWait dom target => exact keeps_execCoreWait dom target h
  | pwrCtlEntry dom target => exact keeps_execPwrCtlEntry dom target h
  | pwrStatAbortedClear dom => exact keeps_execPwrStatAbortedClear dom h
  | domainWake dom early => exact keeps_execDomainWake dom early h
  | wakeComplete dom => exact keeps_execWakeComplete dom h
  | wakeFail dom => exact keeps_execWakeFail dom h
  | retentionCheckDone dom bank ok => exact keeps_execRetentionCheckDone dom bank ok h
  | temperatureWarning sensor temp => exact keeps_execTemperatureWarning sensor temp h
  | temperatureCritical sensor temp => exact keeps_execTemperatureCritical sensor temp h
  | temperatureNormal sensor temp => exact keeps_execTemperatureNormal sensor temp h
  | hbmHot rgn temp => exact keeps_execHbmHot rgn temp h
  | extest pins => exact keeps_execExtest pins h
  | samplePreload pins => exact keeps_execSamplePreload pins h
  | clamp => exact keeps_execClamp h
  | highz => exact keeps_execHighz h
  | dbgAccess req => exact keeps_execDbgAccess req h
  | dbgFuse off bytes => exact keeps_execDbgFuse off bytes h
  | bypass => exact keeps_execBypass h
  | resetRelease => exact keeps_execResetRelease h
  | klRxLinkUp port => exact keeps_execKlRxLinkUp port h
  | invalidOpcodeRequest port frame => exact keeps_execInvalidOpcodeRequest port frame h
  | reservedOp cell => exact keeps_execReservedOp cell h
  | trstAssert => exact keeps_execTrstAssert h
  | d3hot on => exact keeps_execD3hot on h

/-! ### The canonical form of the fuse array and of the HDM window -/

/-- A step keeps both memories canonical, whether it takes a command from the queue or lets time pass. -/
theorem step_keeps_mapWf {s t : State} (hstep : step s = .next t) :
    (mapWf 0 s.fuses = true → mapWf 0 t.fuses = true) ∧ (mapWf 0 s.hdm.mem = true → mapWf 0 t.hdm.mem = true) := by
  cases hqueue : s.pending with
  | nil =>
    obtain ⟨u, -, kept⟩ := keeps_clockTick s
    obtain rfl : clockTick s = t := by simpa [step_of_empty hqueue] using hstep
    exact ⟨kept.fuseWf, kept.memWf⟩
  | cons c rest =>
    rw [step, hqueue] at hstep
    have kept := keepsR_exec (Keeps.refl { s with pending := rest }) c t hstep
    exact ⟨kept.fuseWf, kept.memWf⟩

/-- Settles O51: what `Keeps` says of the two memories, for every command and for the clock. -/
theorem memoriesStayCanonical : Obligations.MemoriesStayCanonical :=
  fun _ _ hfuses hmem hstep => (step_keeps_mapWf hstep).imp (· hfuses) (· hmem)

/-- Settles O50: both memories list nothing at reset. -/
theorem memoriesAreCanonicalAtReset : Obligations.MemoriesAreCanonicalAtReset := ⟨rfl, rfl⟩

/-! ### What an access to the window answers (R95, R96, R98, R110) -/

/-- The window serves the address: the decoder is committed and decodes it, and no state of link or device stops host traffic. -/
def windowServes (s : State) (addr : Nat) : Bool :=
  alive s && s.link.up && s.link.cxl && s.hdm.committed && !s.chip.d3hot &&
    (decide (s.hdm.base.toNat ≤ addr) && decide (addr - s.hdm.base.toNat < s.hdm.span * 2 ^ 28))

/-- The line at an offset is lost: its region is not ONLINE, or the slice of its aperture holds no key. -/
def lineGone (s : State) (off n : Nat) : Bool := !regionOnline s (off / 4096 % 4) || (getSlice s n).hbmKey.isNone

/-- What the line at an offset of the aperture of slice `n` answers once its page is in host bias. -/
def lineAnswer (s : State) (off n : Nat) : Option (List Byte) → State
  | none =>
    let t := toHostBias s (off / 2 ^ 21)
    if lineGone s off n then emit t .poison
    else if mapGet false s.hdm.poison (off / 64) then emit (badLine t off) .poison
    else emit t (.readData (bytesGet s.hdm.mem (64 * (off / 64)) 64))
  | some b =>
    let t := toHostBias s (off / 2 ^ 21)
    if lineGone s off n then t else hdmWrite t off (b.take (64 - off % 64))

/-- What an access answers where no aperture holds the offset: zeros, and nothing is written. -/
def outsideAnswer (s : State) : Option (List Byte) → State
  | none => emit s (.readData (List.replicate 64 0))
  | some _ => s

/-- What an access answers under Viral: poison, and nothing is written. -/
def viralAnswer (s : State) (off : Nat) : Option (List Byte) → State
  | none => emit (toHostBias s (off / 2 ^ 21)) .poison
  | some _ => toHostBias s (off / 2 ^ 21)

section
variable {s : State} {addr : Nat}

theorem exec_hdmAccess_unserved (h : windowServes s addr = false) (wr : Option (List Byte)) :
    exec (.hdmAccess addr wr) s = .next s :=
  congrArg Host.Outcome.next (if_neg (Bool.eq_false_iff.1 h))

theorem exec_hdmAccess_viral (h : windowServes s addr = true) (hv : s.chip.viral = true) (wr : Option (List Byte)) :
    exec (.hdmAccess addr wr) s = .next (viralAnswer s (addr - s.hdm.base.toNat) wr) := by
  cases wr <;> exact (doIf_of_guard h _ _).trans (congrArg _ (if_pos hv))

theorem exec_hdmAccess_outside (h : windowServes s addr = true) (hv : s.chip.viral = false)
    (ha : apertureOf s (addr - s.hdm.base.toNat) = none) (wr : Option (List Byte)) :
    exec (.hdmAccess addr wr) s = .next (outsideAnswer s wr) := by
  cases wr <;> exact (doIf_of_guard h _ _).trans (congrArg _ ((if_neg (Bool.eq_false_iff.1 hv)).trans (by rw [ha]; rfl)))

theorem exec_hdmAccess_line {n : Nat} (h : windowServes s addr = true) (hv : s.chip.viral = false)
    (ha : apertureOf s (addr - s.hdm.base.toNat) = some n) (wr : Option (List Byte)) :
    exec (.hdmAccess addr wr) s = .next (lineAnswer s (addr - s.hdm.base.toNat) n wr) := by
  cases wr <;> exact (doIf_of_guard h _ _).trans (congrArg _ ((if_neg (Bool.eq_false_iff.1 hv)).trans (by rw [ha]; rfl)))

end

/-! ### The frame of a host write to the window -/

/-- A key whose entries all pass the filter reads as before. -/
theorem mapGet_filter_of_kept {α : Type} (d : α) {p : Nat → α → Bool} {k : Nat} (hk : ∀ v, p k v = true) (m : FMap α) :
    mapGet d (mapFilter p m) k = mapGet d m k := by
  induction m with
  | nil => rfl
  | cons e m ih =>
    obtain ⟨k', v⟩ := e
    by_cases h : k' = k
    · subst h; simp [mapFilter, mapGet, hk]
    · by_cases hp : p k' v <;> simp [mapFilter, mapGet, hp, h, ih]

/-- From `s` to `t`, a write of `len` bytes at offset `off` changes the window alone, and there the written bytes of one line, the poison
of that line and the bias of its page. -/
structure WindowFrame (s : State) (off len : Nat) (t : State) : Prop where
  rest : t = { s with hdm := t.hdm }
  bytes : ∀ a, (a < off ∨ off + len ≤ a ∨ a / 64 ≠ off / 64) → byteGet t.hdm.mem a = byteGet s.hdm.mem a
  poison : ∀ l, l ≠ off / 64 → mapGet false t.hdm.poison l = mapGet false s.hdm.poison l
  bias : ∀ p, p ≠ off / 2 ^ 21 → mapGet false t.hdm.devBias p = mapGet false s.hdm.devBias p
  size : t.hdm.size = s.hdm.size
  committed : t.hdm.committed = s.hdm.committed
  base : t.hdm.base = s.hdm.base
  span : t.hdm.span = s.hdm.span

namespace WindowFrame

variable {s t : State} {off len : Nat}

theorem refl (s : State) (off len : Nat) : WindowFrame s off len s :=
  ⟨rfl, fun _ _ => rfl, fun _ _ => rfl, fun _ _ => rfl, rfl, rfl, rfl, rfl⟩

/-- R98: the page of the access goes to host bias. -/
theorem toHostBias (s : State) (off len : Nat) : WindowFrame s off len (toHostBias s (off / 2 ^ 21)) :=
  { refl s off len with
    rest := rfl
    bias := fun _ hp => mapGet_erase_other false _ hp }

/-- The bytes stored are those that lie within the line of the offset. -/
theorem hdmWrite {b : List Byte} (h : WindowFrame s off b.length t) :
    WindowFrame s off b.length (hdmWrite t off (b.take (64 - off % 64))) where
  rest := by rw [Machine.hdmWrite, h.rest]
  bytes a ha := by
    refine (byteGet_bytesSet_other _ _ _ _ ?_).trans (h.bytes a ha)
    rw [List.length_take]
    omega
  poison l hl := by
    refine (mapGet_filter_of_kept false (fun _ => ?_) _).trans (h.poison l hl)
    rw [List.length_take, Bool.or_eq_true, decide_eq_true_eq, decide_eq_true_eq]
    omega
  bias := h.bias
  size := h.size
  committed := h.committed
  base := h.base
  span := h.span

end WindowFrame

/-- A write in an aperture flips the page, and stores its bytes unless the line is gone. -/
theorem WindowFrame.lineAnswer (s : State) (off n : Nat) (b : List Byte) :
    WindowFrame s off b.length (Proofs.lineAnswer s off n (some b)) := by
  unfold Proofs.lineAnswer
  dsimp only
  split
  · exact .toHostBias _ _ _
  · exact .hdmWrite (.toHostBias _ _ _)

/-- Whatever a host write meets, the state it answers is within the frame. -/
theorem exec_hdmAccess_frame (s : State) (addr : Nat) (b : List Byte) :
    ∃ t, exec (.hdmAccess addr (some b)) s = .next t ∧ WindowFrame s (addr - s.hdm.base.toNat) b.length t := by
  cases h : windowServes s addr with
  | false => exact ⟨s, exec_hdmAccess_unserved h _, .refl _ _ _⟩
  | true =>
    cases hv : s.chip.viral with
    | true => exact ⟨_, exec_hdmAccess_viral h hv _, .toHostBias _ _ _⟩
    | false =>
      cases ha : apertureOf s (addr - s.hdm.base.toNat) with
      | none => exact ⟨s, exec_hdmAccess_outside h hv ha _, .refl _ _ _⟩
      | some n => exact ⟨_, exec_hdmAccess_line h hv ha _, .lineAnswer _ _ _ _⟩

/-- Settles O59: the frame of the write, part by part. -/
theorem hdmWritesChangeTheirBytesOnly : Obligations.HdmWritesChangeTheirBytesOnly := by
  intro s addr b
  obtain ⟨t, ht, frame⟩ := exec_hdmAccess_frame s addr b
  exact ⟨t, ht, frame.rest, frame.bytes, frame.poison, frame.bias, frame.size, frame.committed, frame.base, frame.span⟩

end Sys2Proof.Proofs

/-! SUPPORT. The attachment (chapter 03): link and host-side resets, the HDM window and translations, DOE, SPDM and IDE, the SMBus
sideband, and the temperature sensors. -/

namespace Sys2Proof.Proofs

open Sys2Proof Machine Laws

/-! ### Link training and host-side resets (R81 to R83, R104, R105, R109, R111) -/

section
variable {s : State}

/-- R82, R83: the state once the link has trained, before PCIe-only mode takes its window away. -/
def trained (s : State) (tr : TrainIo) : State :=
  let cxl := tr.offersCxl && decide (3 ≤ tr.rate)
  { s with link := { s.link with
    up := true, cxl, speed := tr.rate, width := widest tr.lanes, cacheEn := tr.cache && cxl, busMaster := tr.busMaster, atsEn := tr.ats } }

theorem exec_linkTraining (hs : alive s = true) {tr : TrainIo} (hlanes : 1 ≤ tr.lanes) (hrate : 1 ≤ tr.rate) (hmax : tr.rate ≤ 5) :
    exec (.linkTraining tr) s =
      .next (if tr.offersCxl && decide (3 ≤ tr.rate) then trained s tr else pcieOnly (trained s tr)) :=
  doIf_of_guard (by simp [hs, hlanes, hrate, hmax]) _ _

theorem exec_linkLoss (hs : alive s = true) (hup : s.link.up = true) : exec .linkLoss s = .next (hotResetState s) :=
  doIf_of_guard (by simp [hs, hup]) _ _

theorem exec_d3hot (hs : alive s = true) (hup : s.link.up = true) (on : Bool) :
    exec (.d3hot on) s = .next { s with chip := { s.chip with d3hot := on } } :=
  doIf_of_guard (by simp [hs, hup]) _ _

end

/-- Settles O31: each row meets its guard; training is then told apart by the mode of the link. -/
theorem linkAndHostResetsComplete : Obligations.LinkAndHostResetsComplete := by
  intro s hs
  refine ⟨fun tr hlanes hrate hmax => ⟨fun hcxl => ?cxl, fun hcxl => ?pcie⟩, doIf_of_guard hs _ _, doIf_of_guard hs _ _,
    doIf_of_guard hs _ _, doIf_of_guard hs _ _, fun hup => ⟨exec_linkLoss hs hup, exec_d3hot hs hup⟩⟩
  case cxl => exact (exec_linkTraining hs hlanes hrate hmax).trans (congrArg _ (if_pos hcxl))
  case pcie => exact (exec_linkTraining hs hlanes hrate hmax).trans (congrArg _ (if_neg (Bool.eq_false_iff.1 hcxl)))

/-! ### The decoder, the window and translations (R95, R96, R98, R102, R110) -/

section
variable {s : State}

theorem exec_decoderCommit (hs : alive s = true) (hup : s.link.up = true) (hcxl : s.link.cxl = true) {base size : Nat}
    (hfree : s.hdm.committed = false) (hpos : 0 < size) (hfits : size ≤ s.hdm.size) (hbase : base % 2 ^ 28 = 0) :
    exec (.hdmDecoderCommit ⟨true, base, size, 1⟩) s =
      .next { s with hdm := { s.hdm with committed := true, base := BitVec.ofNat 64 base, span := size } } := by
  have placed : (!s.hdm.committed) = true ∧ 1 = 1 ∧ 0 < size ∧ size ≤ s.hdm.size ∧ base % 2 ^ 28 = 0 :=
    ⟨by simp [hfree], rfl, hpos, hfits, hbase⟩
  exact (doIf_of_guard (by simp [hs, hup, hcxl]) _ _).trans (congrArg _ (if_pos placed))

theorem exec_decoderUncommit (hs : alive s = true) (hup : s.link.up = true) (hcxl : s.link.cxl = true) (base size ways : Nat) :
    exec (.hdmDecoderCommit ⟨false, base, size, ways⟩) s = .next { s with hdm := { s.hdm with committed := false } } :=
  doIf_of_guard (by simp [hs, hup, hcxl]) _ _

theorem lineGone_iff {off n : Nat} :
    lineGone s off n = true ↔ regionOnline s (off / 4096 % 4) = false ∨ (getSlice s n).hbmKey.isSome = false := by
  simp [lineGone]

theorem lineAnswer_of_gone {off n : Nat} (h : lineGone s off n = true) (wr : Option (List Byte)) :
    lineAnswer s off n wr = viralAnswer s off wr := by
  cases wr <;> exact if_pos h

theorem lineAnswer_write {off n : Nat} (h : ¬ lineGone s off n = true) (b : List Byte) :
    lineAnswer s off n (some b) = hdmWrite (toHostBias s (off / 2 ^ 21)) off (b.take (64 - off % 64)) :=
  if_neg h

theorem lineAnswer_read_bad {off n : Nat} (h : ¬ lineGone s off n = true) (hbad : mapGet false s.hdm.poison (off / 64) = true) :
    lineAnswer s off n none = emit (badLine (toHostBias s (off / 2 ^ 21)) off) .poison :=
  (if_neg h).trans (if_pos hbad)

theorem lineAnswer_read_good {off n : Nat} (h : ¬ lineGone s off n = true) (hgood : mapGet false s.hdm.poison (off / 64) = false) :
    lineAnswer s off n none =
      emit (toHostBias s (off / 2 ^ 21)) (.readData (bytesGet s.hdm.mem (64 * (off / 64)) 64)) :=
  (if_neg h).trans (if_neg (Bool.eq_false_iff.1 hgood))

theorem exec_atsInvalidate (hs : alive s = true) (hup : s.link.up = true) (hats : s.link.atsEn = true) (hroom : s.link.ats.length < 32)
    (inv : AtsInv) : exec (.atsInvalidate inv) s = .next { s with link := { s.link with ats := s.link.ats ++ [inv] } } :=
  doIf_of_guard (by simp [hs, hup, hats, hroom]) _ _

theorem exec_atsInvalidateComplete (hs : alive s = true) {tag : Nat} {v : AtsInv}
    (hfound : s.link.ats.find? (fun x => x.tag == tag) = some v) (hdone : ∀ j ∈ s.jobs, dmaUses s v j = false) :
    exec (.atsInvalidateComplete tag) s =
      .next (emit { s with link := { s.link with ats := s.link.ats.erase v } } (.ack 1 tag)) := by
  change execAtsInvalidateComplete tag s = _
  simp only [execAtsInvalidateComplete, hfound]
  have none_uses : s.jobs.any (dmaUses s v) = false := List.any_eq_false.2 fun j hj => Bool.eq_false_iff.1 (hdone j hj)
  exact doIf_of_guard (by simp [hs, none_uses]) _ _

end

/-- Settles O32: a served access is told apart by Viral, by the aperture, and by whether its line is there. -/
theorem hdmAndTranslationRowsComplete : Obligations.HdmAndTranslationRowsComplete := by
  intro s hs
  refine ⟨fun base size hup hcxl => ⟨exec_decoderCommit hs hup hcxl, exec_decoderUncommit hs hup hcxl base size⟩,
    fun addr hup hcxl hcom hd0 hlow hhigh => ?window, fun inv hup hats hroom => exec_atsInvalidate hs hup hats hroom inv,
    fun tag v hfound hdone => exec_atsInvalidateComplete hs hfound hdone⟩
  case window =>
    have served : windowServes s addr = true := by
      simp only [windowServes, hs, hup, hcxl, hcom, hd0, decide_eq_true hlow, decide_eq_true hhigh, Bool.not_false, Bool.and_self]
    refine ⟨fun hv => ?viral, fun hv ha => ?outside, fun n hv ha hgone => ?gone, fun n hv ha hon hkey => ?there⟩
    case viral => exact ⟨exec_hdmAccess_viral served hv none, fun b => exec_hdmAccess_viral served hv (some b)⟩
    case outside => exact ⟨exec_hdmAccess_outside served hv ha none, fun b => exec_hdmAccess_outside served hv ha (some b)⟩
    case gone =>
      have lost := fun wr => (exec_hdmAccess_line served hv ha wr).trans (congrArg _ (lineAnswer_of_gone (lineGone_iff.2 hgone) wr))
      exact ⟨lost none, fun b => lost (some b)⟩
    case there =>
      have answers := exec_hdmAccess_line served hv ha
      have kept : ¬ lineGone s (addr - s.hdm.base.toNat) n = true := by simp [lineGone_iff, hon, hkey]
      exact ⟨fun hbad => (answers none).trans (congrArg _ (lineAnswer_read_bad kept hbad)),
        fun hgood => (answers none).trans (congrArg _ (lineAnswer_read_good kept hgood)),
        fun b => (answers (some b)).trans (congrArg _ (lineAnswer_write kept b))⟩

/-! ### DOE and SPDM (R87, R88) -/

section
variable {s : State}

theorem exec_doeRequest_boot (hs : alive s = true) (hup : s.link.up = true) (hmode : s.chip.mode = .boot) (p : Nat) (body : List Byte) :
    exec (.doeRequest p body) s = .next (emit s (.spdm 0xFF [])) :=
  (doIf_of_guard (by simp [hs, hup]) _ _).trans (congrArg _ (if_pos hmode))

/-- What the mailbox answers to a protocol it serves. -/
def doeAnswer (s : State) (p : Nat) (body : List Byte) : State :=
  if p = 0 then emit s (.spdm 0x100 [BitVec.ofNat 8 (byteAt body 0)])
  else if p = 3 then emit s (.spdm 0x103 (leBytes 8 s.hdm.base.toNat ++ leBytes 8 (s.hdm.size * 2 ^ 28) ++
    leBytes 4 400 ++ leBytes 4 300 ++ leBytes 4 25))
  else emit s (.spdm (0x100 + p) (stdBytes .spdm [body] 16))

theorem exec_doeRequest (hs : alive s = true) (hup : s.link.up = true) (hmode : s.chip.mode ≠ .boot) {p : Nat}
    (hlc : p = 0 ∨ s.chip.lc ≠ .scrapped) (body : List Byte) : exec (.doeRequest p body) s = .next (doeAnswer s p body) := by
  have allowed : ¬ (p ≠ 0 ∧ s.chip.lc = .scrapped) := fun ⟨h0, hscrapped⟩ => hlc.elim h0 (· hscrapped)
  refine (doIf_of_guard (by simp [hs, hup]) _ _).trans (congrArg _ ((if_neg hmode).trans ((if_neg allowed).trans ?_)))
  unfold doeAnswer
  split
  · rfl
  · rfl
  next h0 h3 => rw [if_neg h0, if_neg h3]

theorem doeServes_of (hs : alive s = true) (hup : s.link.up = true) (hmode : s.chip.mode ≠ .boot) (hlc : s.chip.lc ≠ .scrapped) :
    doeServes s false = true := by
  simp [doeServes, hs, hup, hmode, hlc]

theorem exec_negotiateAlgorithms (h : doeServes s false = true) (body : List Byte) :
    exec (.spdmRequest 0xE3 body) s =
      .next (if sub body 0 4 = [1, 1, 1, 1] then emit s (.spdm 0x63 [1, 1, 1, 1]) else spdmError s 1) :=
  (doIf_of_guard h _ _).trans (congrArg _ (by simp only [beq_iff_eq]))

theorem exec_finish (h : doeServes s false = true) (body : List Byte) :
    exec (.spdmRequest 0xE5 body) s =
      .next (if s.chip.lc = .blank then spdmError s 1
        else emit { s with link := { s.link with spdm := true } } (.spdm 0x65 [])) :=
  doIf_of_guard h _ _

/-! ### Certificates and measurements (R89, R90) -/

theorem exec_getCertificate_blank (h : doeServes s false = true) (hlc : s.chip.lc = .blank) (k off len : Nat) :
    exec (.getCertificate k off len) s = .next (spdmError s 1) :=
  (doIf_of_guard h _ _).trans (congrArg _ (if_pos hlc))

theorem exec_getCertificate_slot0 (h : doeServes s false = true) (hlc : s.chip.lc ≠ .blank) (off len : Nat) :
    exec (.getCertificate 0 off len) s = .next (emit s (.spdm 0x02 ((certSlot0 s (off + len)).drop off))) :=
  (doIf_of_guard h _ _).trans (congrArg _ (if_neg hlc))

theorem exec_getCertificate_slot1 (h : doeServes s false = true) (hlc : s.chip.lc = .owned) (hcert : s.link.cert1 ≠ []) (off len : Nat) :
    exec (.getCertificate 1 off len) s = .next (emit s (.spdm 0x02 ((s.link.cert1.drop off).take len))) := by
  have hblank : s.chip.lc ≠ .blank := by simp [hlc]
  have installed : 1 = 1 ∧ s.chip.lc = .owned ∧ s.link.cert1 ≠ [] := ⟨rfl, hlc, hcert⟩
  exact (doIf_of_guard h _ _).trans (congrArg _ ((if_neg hblank).trans (if_pos installed)))

theorem exec_getMeasurements (h : doeServes s false = true) (i : Nat) :
    exec (.getMeasurements i) s =
      .next (if 1 ≤ i ∧ i ≤ 5 then emit s (.spdm 0x60 (measurement s i)) else spdmError s 1) :=
  doIf_of_guard h _ _

/-! ### IDE and Global Persistent Flush (R86, R91) -/

theorem exec_ideKm (h : doeServes s false = true) {n d : Nat} (hn : n < 3) (hd : d < 2) (hspdm : s.link.spdm = true)
    (hcxl : n ≠ 2 ∨ s.link.cxl = true) :
    exec (.ideKm n d) s =
      .next (emit (modIde s n (fun x => { x with configured := true, keys := x.keys ||| 2 ^ d })) (.ack 2 (2 * n + d))) :=
  (known_of_exists (by simp [hn, hd]) _).trans (doIf_of_guard (by simp [h, hspdm, hcxl]) _ _)

theorem exec_kSetGo (h : doeServes s false = true) {n d : Nat} (hn : n < 3) (hd : d < 2) (hspdm : s.link.spdm = true)
    (hkeys : (mapGet IdeStream.none s.link.ide n).keys.testBit d = true) :
    exec (.kSetGo n d) s = .next (emit (modIde s n (fun x => { x with keys := x.keys ||| 2 ^ (2 + d) })) (.ack 3 (2 * n + d))) :=
  (known_of_exists (by simp [hn, hd]) _).trans (doIf_of_guard (by simp [h, hspdm, hkeys]) _ _)

theorem exec_ideStreamSecure (hs : alive s = true) (hup : s.link.up = true) {n : Nat} (hn : n < 3)
    (hconf : (mapGet IdeStream.none s.link.ide n).configured = true) (hkeys : (mapGet IdeStream.none s.link.ide n).keys = 15) :
    exec (.ideStreamSecure n) s = .next (modIde s n (fun y => { y with secure := true })) :=
  (known_of_exists (decide_eq_true hn) _).trans (doIf_of_guard (by simp [hs, hup, hconf, hkeys]) _ _)

theorem exec_gpfRequest (hs : alive s = true) (hup : s.link.up = true) :
    exec .gpfRequest s = .next (emit (writePage
      ((List.range (8 + 4 * s.alm.writes.length)).foldl (fun x _ => commitNext x) s) true) (.ack 0 0)) :=
  doIf_of_guard (by simp [hs, hup]) _ _

end

/-- Settles O33: the mailbox is told apart by mode and protocol, the SPDM rows by the life cycle and by what the request offers. -/
theorem attestationAndIdeRowsComplete : Obligations.AttestationAndIdeRowsComplete := by
  intro s hs hup
  refine ⟨fun body => ⟨fun hmode p => exec_doeRequest_boot hs hup hmode p body, fun hmode => ?discovery,
      fun hmode hlc => ⟨?cdat, fun p h0 h3 => ?secured⟩⟩, fun hmode hlc => ?sessions,
    fun n hn hconf hkeys => exec_ideStreamSecure hs hup hn hconf hkeys, exec_gpfRequest hs hup⟩
  case discovery => exact exec_doeRequest hs hup hmode (.inl rfl) body
  case cdat => exact exec_doeRequest hs hup hmode (.inr hlc) body
  case secured =>
    exact (exec_doeRequest hs hup hmode (.inr hlc) body).trans (congrArg _ ((if_neg h0).trans (if_neg h3)))
  case sessions =>
    have serves := doeServes_of hs hup hmode hlc
    refine ⟨fun body => ⟨doIf_of_guard serves _ _, doIf_of_guard serves _ _, fun hoffer => ?agreed, fun hoffer => ?otherAlgorithms,
        doIf_of_guard serves _ _, doIf_of_guard serves _ _, fun hblank => ?finishBlank, fun hblank => ?finish,
        doIf_of_guard serves _ _⟩,
      fun off len => ⟨fun hblank k => exec_getCertificate_blank serves hblank k off len,
        fun hblank => exec_getCertificate_slot0 serves hblank off len,
        fun howned hcert => exec_getCertificate_slot1 serves howned hcert off len⟩,
      fun i => ⟨fun hlow hhigh => ?measured, fun hout => ?noMeasurement⟩,
      fun n d hn hd hspdm => ⟨exec_ideKm serves hn hd hspdm, exec_kSetGo serves hn hd hspdm⟩⟩
    case agreed => exact (exec_negotiateAlgorithms serves body).trans (congrArg _ (if_pos hoffer))
    case otherAlgorithms => exact (exec_negotiateAlgorithms serves body).trans (congrArg _ (if_neg hoffer))
    case finishBlank => exact (exec_finish serves body).trans (congrArg _ (if_pos hblank))
    case finish => exact (exec_finish serves body).trans (congrArg _ (if_neg hblank))
    case measured => exact (exec_getMeasurements serves i).trans (congrArg _ (if_pos ⟨hlow, hhigh⟩))
    case noMeasurement => exact (exec_getMeasurements serves i).trans (congrArg _ (if_neg (by omega)))

/-! ### The SMBus sideband (R112 to R114, R474) -/

section
variable {s : State}

theorem sideServes_of (hup : sideUp s = true) (hlc : s.chip.lc ≠ .scrapped) : sideServes s = true := by
  simp [sideServes, hup, hlc]

theorem exec_getHealthMode (hup : sideUp s = true) :
    exec .getHealthMode s = .next (emit s (.sideband ([2] ++
      (if s.chip.lc = .scrapped then leBytes 4 (regChipId s) ++ [0, 0, 0, 0]
       else leBytes 4 (regChipMode s) ++ leBytes 4 (regChipCond s))))) :=
  doIf_of_guard hup _ _

theorem exec_getFaultSummary_some (h : sideServes s = true) {r : FaultRec} (hfirst : (getHandler s 0).first = some r) :
    exec .getFaultSummary s = .next (emit { s with pins := { s.pins with smbAlertN := false } }
      (.sideband ([3] ++ r.bytes ++ leBytes 4 (getHandler s 0).count))) :=
  (doIf_of_guard h _ _).trans (by rw [hfirst])

theorem exec_getFaultSummary_none (h : sideServes s = true) (hfirst : (getHandler s 0).first = none) :
    exec .getFaultSummary s = .next (emit { s with pins := { s.pins with smbAlertN := false } }
      (.sideband ([3] ++ List.replicate 32 0 ++ leBytes 4 (getHandler s 0).count))) :=
  (doIf_of_guard h _ _).trans (by rw [hfirst])

theorem exec_sidebandUnsupported (h : sideServes s = true) {cmd : Byte} (h1 : cmd ≠ 1) (h2 : cmd ≠ 2) (h3 : cmd ≠ 3) :
    exec (.sidebandUnsupported cmd) s = .next (emit s (.sideband [cmd, 5])) := by
  have other : (cmd == 1 || cmd == 2 || cmd == 3) = false := by
    rw [beq_eq_false_iff_ne.2 h1, beq_eq_false_iff_ne.2 h2, beq_eq_false_iff_ne.2 h3]; rfl
  exact doIf_of_guard (by rw [h, other]; rfl) _ _

end

/-! ### The temperature sensors (R527, R528) -/

section
variable {s : State} {k : Nat} {v : Int}

theorem exec_temperatureWarning (hs : alive s = true) (hk : k < 9) (hv : warnLimit k < v)
    (hnew : mapGet false s.thermal.warning k = false) :
    let t := report s k v
    exec (.temperatureWarning k v) s = .next (logEvent (smbAlert { t with thermal := { t.thermal with
      warning := mapSet false t.thermal.warning k true } }) 0xA0 0x0301 0 (tempData k v)) :=
  (known_of_exists (decide_eq_true hk) _).trans (doIf_of_guard (by simp [hs, hv, hnew]) _ _)

theorem exec_temperatureCritical (hs : alive s = true) (hk : k < 9) (hv : critLimit k < v)
    (hnew : mapGet false s.thermal.critical k = false) :
    let t := report s k v
    exec (.temperatureCritical k v) s = .next (logEvent { t with
      thermal := { t.thermal with critical := mapSet false t.thermal.critical k true },
      pins := { t.pins with alertN := true } } 0xA0 0x0302 0 (tempData k v)) :=
  (known_of_exists (decide_eq_true hk) _).trans (doIf_of_guard (by simp [hs, hv, hnew]) _ _)

/-- A sensor that has fallen below its critical limit lets go of what it has fallen below. -/
def cooled (s : State) (k : Nat) (v : Int) : State :=
  let t := report s k v
  { t with
    thermal := { t.thermal with
      warning := if v < warnLimit k - hysteresis then mapErase s.thermal.warning k else s.thermal.warning
      critical := mapErase s.thermal.critical k
      hot := if 5 ≤ k ∧ v ≤ 680 then mapErase s.thermal.hot (k - 5) else s.thermal.hot },
    pins := { t.pins with alertN := s.pins.alertN && !(mapErase s.thermal.critical k).isEmpty } }

theorem exec_temperatureNormal (hs : alive s = true) (hk : k < 9) (hv : v < critLimit k - hysteresis) :
    exec (.temperatureNormal k v) s = .next (cooled s k v) :=
  (known_of_exists (decide_eq_true hk) _).trans (doIf_of_guard (by simp [hs, hv]) _ _)

/-- ALERT# deasserts once no sensor is left above its critical limit. -/
theorem cooled_alertN_of_none (h : mapErase s.thermal.critical k = []) : (cooled s k v).pins.alertN = false := by
  simp [cooled, h]

theorem cooled_alertN_of_some (h : mapErase s.thermal.critical k ≠ []) : (cooled s k v).pins.alertN = s.pins.alertN := by
  simp [cooled, h]

theorem exec_hbmHot {r : Nat} (hs : alive s = true) (hr : r < 4) (hv : 680 < v) :
    let t := report s (5 + r) v
    exec (.hbmHot r v) s = .next { t with thermal := { t.thermal with hot := mapSet false t.thermal.hot r true } } :=
  (known_of_exists (decide_eq_true hr) _).trans (doIf_of_guard (by simp [hs, hv]) _ _)

end

/-- Settles O34: the sideband is told apart by the life cycle and by the recorded fault, a cooled sensor by the limits it fell below. -/
theorem sidebandAndTemperatureComplete : Obligations.SidebandAndTemperatureComplete := by
  refine ⟨fun s hup => ⟨fun hlc => ?serving, fun hlc => ?scrapped⟩,
    fun s hs => ⟨fun k v hk hv hnew => exec_temperatureWarning hs hk hv hnew,
    fun k v hk hv hnew => exec_temperatureCritical hs hk hv hnew, fun k v hk hv => ?normal, fun r v hr hv => exec_hbmHot hs hr hv⟩⟩
  case serving =>
    have serves := sideServes_of hup hlc
    exact ⟨fun eid => doIf_of_guard serves _ _, doIf_of_guard serves _ _, doIf_of_guard serves _ _, doIf_of_guard serves _ _,
      doIf_of_guard serves _ _, doIf_of_guard serves _ _, (exec_getHealthMode hup).trans (by rw [if_neg hlc, List.append_assoc]),
      fun r hfirst => exec_getFaultSummary_some serves hfirst, fun hfirst => exec_getFaultSummary_none serves hfirst,
      fun cmd h1 h2 h3 => exec_sidebandUnsupported serves h1 h2 h3⟩
  case scrapped => exact (exec_getHealthMode hup).trans (by rw [if_pos hlc, List.append_assoc])
  case normal =>
    exact ⟨cooled s k v, exec_temperatureNormal hs hk hv, mapGet_set_same none s.thermal.temp k (some v), rfl, fun hw => if_pos hw,
      fun hw => if_neg (Int.not_lt.2 hw), cooled_alertN_of_none, cooled_alertN_of_some, fun h5 h85 => if_pos ⟨h5, h85⟩,
      fun hother => if_neg (by omega), rfl⟩

end Sys2Proof.Proofs

/-! SUPPORT. The queries of management (R122, R150, R191, R244, R349, R367, R373, R391, R422, R478) and the commands of slices (R115 to
R121, R138, R139); the registers of a queue pair (R124 to R127); and what happens in a cell beside its words (R204 to R234). -/

namespace Sys2Proof.Proofs

open Sys2Proof Machine Laws

/-! ### The records that queries answer -/

@[simp] theorem length_leBytes (n v : Nat) : (leBytes n v).length = n := by
  induction n generalizing v with
  | zero => rfl
  | succ n ih => simp [leBytes, ih]

section
variable {s : State} {job : Nat} {j : Job}

theorem exec_deviceQuery (hj : mgmtAt s job 0x0100 j = true) (io : JobIo) :
    ∃ out, exec (.deviceQuery job io) s = .next (answer s j io (JobRes.done out 0)) ∧
      out.take 12 = leBytes 4 (regChipMode s) ++ leBytes 4 (regChipCond s) ++ leBytes 4 (regChipLink s) :=
  ⟨_, runMgmt_of_mgmtAt hj _, by simp [List.take_append, List.take_of_length_le]⟩

/-- R122: the record of a slice that exists begins with its block and its state. -/
theorem exec_sliceQuery (hj : mgmtAt s job 0x0101 j = true) (io : JobIo) :
    let x := getSlice s (j.desc.pb 40)
    ∃ out, exec (.sliceQuery job io) s = .next (answer s j io (JobRes.done out 0)) ∧
      (x.state ≠ .absent → ∃ rest, out = x.cfg.bytes ++ leBytes 1 x.state.code ++ rest) := by
  refine ⟨_, runMgmt_of_mgmtAt hj _, fun hx => ?_⟩
  rw [if_neg hx]
  constructor
  simp only [List.append_assoc]
  rfl

/-- R150, R325: a record of a slot that passes the first steps of its check lets the command go on. -/
theorem slotRead_of_headerOk (h : ∀ i g, j.key0.src = .slot i g → j.key0.kind = 0 → slotHeaderOk s i = true) (t : State) :
    slotRead s j t = t := by
  unfold slotRead
  split
  next i g hsrc hkind => exact if_pos (h i g hsrc hkind)
  next => rfl

theorem exec_keyQuery (hj : mgmtAt s job 0x0201 j = true)
    (hslot : ∀ i g, j.key0.src = .slot i g → j.key0.kind = 0 → slotHeaderOk s i = true) (io : JobIo) :
    exec (.keyQuery job io) s = .next (answer s j io (JobRes.done (keyRecord s j.key0) 0)) :=
  (runMgmt_of_mgmtAt hj _).trans (congrArg _ (slotRead_of_headerOk hslot _))

/-- R191: BUILD is a free value of the model (log entry 28). -/
theorem exec_statefulQuery (hj : mgmtAt s job 0x0404 j = true) {i g rid : Nat} {l : Leaf} (hsrc : j.key0.src = .slot i g)
    (hleaf : leafFor s i g = some (rid, l)) (io : JobIo) :
    ∃ mid, exec (.statefulQuery job io) s = .next (answer (drew' s 1) j io (JobRes.done
      (leBytes 8 j.key0.handle.toNat ++ leBytes 2 l.alg ++ leBytes 1 l.levels ++ mid ++ leBytes 8 l.total ++
        leBytes 8 (getTree s rid).next ++ leBytes 8 l.highWater ++ leBytes 8 (getTree s rid).burned) 0)) := by
  constructor
  refine (runMgmt_of_mgmtAt hj _).trans ?_
  simp only [hsrc, hleaf]
  rw [List.append_assoc _ _ [0, 0, 0], List.append_assoc _ _ (_ ++ [0, 0, 0])]

theorem exec_eventQuery (hj : mgmtAt s job 0x0712 j = true) {v : EvRec} (hv : findEvent s j.slice (j.desc.pn 40 4) = some v)
    (io : JobIo) : exec (.eventQuery job io) s = .next (answer s j io (JobRes.done (eventRecord s v) 0)) := by
  refine (runMgmt_of_mgmtAt hj _).trans ?_
  simp only [hv]

/-- R391: the ALG bytes are free values of the model (log entry 16). -/
theorem exec_laneQuery (hj : mgmtAt s job 0x0804 j = true) (io : JobIo) :
    let p := j.desc.pb 40
    ∃ rest, exec (.laneQuery job io) s = .next (answer (drew' s 14) j io (JobRes.done
      (leBytes 4 (regKlStat s p) ++ leBytes 4 (regKlGen s p) ++ leBytes 4 (regKlNonce s p) ++ leBytes 4 (regKlNak s p) ++ rest) 0)) := by
  constructor
  refine (runMgmt_of_mgmtAt hj _).trans ?_
  simp only [List.append_assoc]
  rfl

theorem exec_cardQuery (hj : mgmtAt s job 0x0900 j = true) (halone : otherCeremonyJob s j = false) (io : JobIo) :
    let n := j.desc.pb 40
    ∃ rest, exec (.cardQuery job io) s = .next (answer s j io (JobRes.done
      (padTo 64 (leBytes 4 (regCardSlot s n) ++ leBytes 4 (regCardLife s n) ++ rest)) 0)) := by
  constructor
  refine (runMgmt_of_mgmtAt hj _).trans ?_
  simp only [halone, Bool.false_eq_true, if_false, List.append_assoc]
  rfl

theorem exec_ceremonyQuery_none (hj : mgmtAt s job 0x0904 j = true) (halone : otherCeremonyJob s j = false) (hcer : s.cer = none)
    (io : JobIo) : exec (.ceremonyQuery job io) s = .next (answer s j io (JobRes.done (padTo 32 []) 0)) := by
  refine (runMgmt_of_mgmtAt hj _).trans ?_
  simp only [halone, hcer, Bool.false_eq_true, if_false]

theorem exec_ceremonyQuery_some (hj : mgmtAt s job 0x0904 j = true) (halone : otherCeremonyJob s j = false) {c : Ceremony}
    (hcer : s.cer = some c) (io : JobIo) :
    ∃ rest, exec (.ceremonyQuery job io) s = .next (answer s j io (JobRes.done (padTo 32 (leBytes 1 c.kind ++ rest)) 0)) := by
  constructor
  refine (runMgmt_of_mgmtAt hj _).trans ?_
  simp only [halone, hcer, Bool.false_eq_true, if_false, List.append_assoc]
  rfl

theorem exec_faultQuery (hj : mgmtAt s job 0x0B21 j = true) {k : Nat} (hk : unitBit (j.desc.pn 44 2) = some k) (io : JobIo) :
    ∃ rest, exec (.faultQuery job io) s = .next (answer s j io (JobRes.done (leBytes 1 (getUnit s k).state.code ++ rest) 0)) := by
  constructor
  refine (runMgmt_of_mgmtAt hj _).trans ?_
  simp only [hk, List.append_assoc]
  rfl

theorem exec_almanacQuery (hj : mgmtAt s job 0x0B50 j = true) (io : JobIo) :
    ∃ rest, exec (.almanacQuery job io) s = .next (answer s j io (JobRes.done (padTo 64
      (leBytes 2 (sparesUsed s) ++ leBytes 2 (1024 - sparesUsed s) ++ leBytes 4 s.alm.lost ++ rest)) 0)) := by
  constructor
  refine (runMgmt_of_mgmtAt hj _).trans ?_
  simp only [List.append_assoc]
  rfl

end

/-- Settles O9: a command that may run answers its record; `drew'` counts the free values of BUILD (log entry 28) and of the ALG bytes
of LANE_QUERY (log entry 16). -/
theorem queriesAnswerAndChangeNothing : Obligations.QueriesAnswerAndChangeNothing := by
  intro s job io j
  refine ⟨fun hj => exec_deviceQuery hj io, fun hj => exec_sliceQuery hj io, fun hj hslot => exec_keyQuery hj hslot io,
    fun hj i g rid l hsrc hleaf => ?stateful, fun hj => runMgmt_of_mgmtAt hj _, fun hj v hv => exec_eventQuery hj hv io,
    fun hj => ?lane, fun hj halone => exec_cardQuery hj halone io,
    fun hj halone => ⟨fun hcer => exec_ceremonyQuery_none hj halone hcer io, fun c hcer => exec_ceremonyQuery_some hj halone hcer io⟩,
    fun hj => runMgmt_of_mgmtAt hj _, fun hj k hk => exec_faultQuery hj hk io, fun hj => exec_almanacQuery hj io,
    fun hj => runMgmt_of_mgmtAt hj _⟩
  case stateful =>
    obtain ⟨mid, h⟩ := exec_statefulQuery hj hsrc hleaf io
    exact ⟨_, h, mid, rfl⟩
  case lane =>
    obtain ⟨rest, h⟩ := exec_laneQuery hj io
    exact ⟨_, h, rest, rfl⟩

/-! ### The commands of slices (R115 to R121, R138, R139, R533, R534) -/

section
variable {s : State} {job : Nat} {j : Job}

/-- R116, R118, R119: an input block that passes its checks becomes the record of the slice. -/
theorem withBlock_of {io : JobIo} {b : List Byte} (hin : inputIs j io b = true) (hcfg : cfgOk b = true) {n : Nat}
    {ok : SliceCfg → Bool} (hok : ok (SliceCfg.ofBytes b) = true) (hquota : quotaOk s n (SliceCfg.ofBytes b) = true)
    (st : SliceState) :
    withBlock s j io n ok st =
      withRead s j (takeRec s j io n { state := st, cfg := SliceCfg.ofBytes b, removal := false }) := by
  simp [withBlock, withInput_of hin, hcfg, hok, hquota]

theorem exec_sliceCreate (hj : mgmtAt s job 0x0102 j = true) (hx : (getSlice s (j.desc.pb 40)).state = .absent)
    (hblank : s.chip.lc ≠ .blank) (hsealed : s.chip.lc ≠ .sealed) {io : JobIo} {b : List Byte} (hin : inputIs j io b = true)
    (hcfg : cfgOk b = true) (hquota : quotaOk s (j.desc.pb 40) (SliceCfg.ofBytes b) = true) :
    exec (.sliceCreate job io) s = .next (withRead s j
      (takeRec s j io (j.desc.pb 40) { state := .configured, cfg := SliceCfg.ofBytes b, removal := false })) := by
  have creates : ¬ ((getSlice s (j.desc.pb 40)).state ≠ .absent ∨ s.chip.lc = .blank ∨ s.chip.lc = .sealed) := by
    simp [hx, hblank, hsealed]
  exact (runMgmt_of_mgmtAt hj _).trans (congrArg _ ((if_neg creates).trans (withBlock_of hin hcfg rfl hquota _)))

/-- R118: the fields that are not live change while the slice is CONFIGURED, and those of S00 at any time; the live ones change in
every state (log entry 47). -/
theorem exec_sliceConfigure (hj : mgmtAt s job 0x0103 j = true) (hx : (getSlice s (j.desc.pb 40)).state ≠ .absent) {io : JobIo}
    {b : List Byte} (hin : inputIs j io b = true) (hcfg : cfgOk b = true)
    (hlive : (getSlice s (j.desc.pb 40)).state = .configured ∨ j.desc.pb 40 = 0 ∨
      (SliceCfg.ofBytes b).fixed = (getSlice s (j.desc.pb 40)).cfg.fixed)
    (hquota : quotaOk s (j.desc.pb 40) (SliceCfg.ofBytes b) = true) :
    exec (.sliceConfigure job io) s = .next (withRead s j (takeRec s j io (j.desc.pb 40)
      { state := recState (getSlice s (j.desc.pb 40)), cfg := SliceCfg.ofBytes b, removal := false })) :=
  (runMgmt_of_mgmtAt hj _).trans (congrArg _ ((if_neg hx).trans
    (withBlock_of hin hcfg (by simpa [or_assoc] using hlive) hquota _)))

/-- R115: a slice in the state that the change leaves takes the state it leads to. -/
theorem changeState_of_old {old : SliceState} (hx : (getSlice s (j.desc.pb 40)).state = old) (io : JobIo) (new : SliceState) :
    changeState s j io old new = takeRec s j io (j.desc.pb 40)
      { state := new, cfg := (getSlice s (j.desc.pb 40)).cfg, removal := false } :=
  if_pos hx

theorem changeState_of_other {old : SliceState} (hx : (getSlice s (j.desc.pb 40)).state ≠ old) (io : JobIo) (new : SliceState) :
    changeState s j io old new = refuse s j io eMode :=
  if_neg hx

theorem exec_sliceActivate (hj : mgmtAt s job 0x0104 j = true) (io : JobIo) :
    exec (.sliceActivate job io) s = .next (changeState s j io .configured .active) :=
  runMgmt_of_mgmtAt hj _

theorem exec_sliceQuiesce (hj : mgmtAt s job 0x0105 j = true) (io : JobIo) :
    exec (.sliceQuiesce job io) s = .next (changeState s j io .active .quiescing) :=
  runMgmt_of_mgmtAt hj _

/-- R117, R138: the reset of a slice begins, and the record of a QUIESCING one takes the state that the reset gives. -/
theorem exec_sliceReset (hj : mgmtAt s job 0x0106 j = true) (hnew : j.parked = false) (hfirst : isResetJob s j = false)
    (hx : (getSlice s (j.desc.pb 40)).state ≠ .absent) (hreset : (getSlice s (j.desc.pb 40)).state ≠ .resetting)
    (hcer : j.desc.pb 40 ≠ 0 ∨ s.chip.mode ≠ .ceremony) (io : JobIo) :
    exec (.sliceReset job io) s = .next (let t := beginReset (park s j) (j.desc.pb 40) (some j.id) false
      if (getSlice s (j.desc.pb 40)).state = .quiescing then saveSlice t (j.desc.pb 40) else t) := by
  have resets : ¬ ((getSlice s (j.desc.pb 40)).state = .absent ∨ (getSlice s (j.desc.pb 40)).state = .resetting ∨
      (j.desc.pb 40 = 0 ∧ s.chip.mode = .ceremony)) := by
    simpa [hx, hreset, or_iff_not_imp_left] using hcer
  refine (runMgmt_of_mgmtAt hj _).trans (congrArg _ ?_)
  simp only [hnew, hfirst, Bool.false_eq_true, if_false]
  exact if_neg resets

/-- R117, R139: a removal begins with its intent. -/
theorem exec_sliceRemove (hj : mgmtAt s job 0x0107 j = true) (hnew : j.parked = false) (hfirst : isResetJob s j = false)
    (hx : (getSlice s (j.desc.pb 40)).state ≠ .absent) (hreset : (getSlice s (j.desc.pb 40)).state ≠ .resetting) (io : JobIo) :
    exec (.sliceRemove job io) s = .next (beginRemoval s j (j.desc.pb 40)) := by
  refine (runMgmt_of_mgmtAt hj _).trans (congrArg _ ?_)
  simp only [hnew, hfirst, hx, hreset, Bool.false_eq_true, if_false]

/-- R121: a binding replaces what the index held (log entry 47). -/
theorem exec_pasidBind (hj : mgmtAt s job 0x0108 j = true) (hx : pasidTarget (getSlice s (j.desc.pb 40)) = true)
    (hfree : pasidTaken s (j.desc.pb 40) (BitVec.ofNat 20 (j.desc.pn 44 4)) = false) (io : JobIo) :
    exec (.pasidBind job io) s = .next (answerOk (modSlice s (j.desc.pb 40) (fun y => { y with
      pasids := mapSet .unbound y.pasids (j.desc.pb 41) (.pasid (BitVec.ofNat 20 (j.desc.pn 44 4))) })) j io) := by
  refine (runMgmt_of_mgmtAt hj _).trans (congrArg _ ?_)
  simp only [hx, hfree, Bool.not_true, Bool.false_eq_true, if_false]

theorem exec_pasidUnbind (hj : mgmtAt s job 0x0109 j = true) (hx : pasidTarget (getSlice s (j.desc.pb 40)) = true)
    (hidle : pasidUsed s (j.desc.pb 40) (j.desc.pb 41) = false) (io : JobIo) :
    exec (.pasidUnbind job io) s = .next (answerOk (modSlice s (j.desc.pb 40) (fun y => { y with
      pasids := mapSet .unbound y.pasids (j.desc.pb 41) .unbound })) j io) := by
  refine (runMgmt_of_mgmtAt hj _).trans (congrArg _ ?_)
  simp only [hx, hidle, Bool.not_true, Bool.false_eq_true, or_self, if_false]

end

/-- Settles O10: each command passes the conditions of its row. That a record of S00 in BLANK or SEALED is not committed is log entry
19. -/
theorem sliceCommandsComplete : Obligations.SliceCommandsComplete := by
  intro s job io j
  refine ⟨fun hj hx hblank hsealed b hin hcfg hquota => exec_sliceCreate hj hx hblank hsealed hin hcfg hquota,
    fun hj hx b hin hcfg hlive hquota => exec_sliceConfigure hj hx hin hcfg hlive hquota,
    fun hj => ⟨fun hx => ?activates, fun hx => ?activateRefused⟩, fun hj => ⟨fun hx => ?quiesces, fun hx => ?quiesceRefused⟩,
    fun hj hnew hfirst hx hreset hcer => exec_sliceReset hj hnew hfirst hx hreset hcer io,
    fun hj hnew hfirst hx hreset => exec_sliceRemove hj hnew hfirst hx hreset io,
    fun hj hx hfree => exec_pasidBind hj hx hfree io, fun hj hx hidle => exec_pasidUnbind hj hx hidle io⟩
  case activates => exact (exec_sliceActivate hj io).trans (congrArg _ (changeState_of_old hx io _))
  case activateRefused => exact (exec_sliceActivate hj io).trans (congrArg _ (changeState_of_other hx io _))
  case quiesces => exact (exec_sliceQuiesce hj io).trans (congrArg _ (changeState_of_old hx io _))
  case quiesceRefused => exact (exec_sliceQuiesce hj io).trans (congrArg _ (changeState_of_other hx io _))

/-! ### The registers of a queue pair (R124 to R127) -/

section
variable {s : State} {n q : Nat}

/-- A row of a queue pair that exists acts once its guard holds. -/
theorem qpRow_of_guard (hn : n < 64) (hq : q < 4) {p : Bool} (hp : p = true) (t : State) :
    known (decide (n < 64) && decide (q < 4)) (doIf s p t) = .next t :=
  (known_of_exists (by simp [hn, hq]) _).trans (doIf_of_guard hp _ _)

/-- R125: the device serves the ring, and the tail lies inside it; while ENABLE is 0 the tail is stored unchecked (log entry 18). -/
theorem doorbell_inside (hserves : slServes s n = true) {tail : Nat}
    (hin : (getQp s n q).enable = false ∨ tail < (getQp s n q).entries) :
    doorbell s n q tail = modQp s n q (fun x => { x with
      sqTail := tail, bells := bellsAfter x.bells ((tail + x.entries - x.sqHead) % x.entries) s.uptime }) := by
  have inside : ¬ ((getQp s n q).enable = true ∧ (getQp s n q).entries ≤ tail) := by
    rintro ⟨hen, hout⟩
    rcases hin with h | h
    · exact Bool.false_ne_true (h.symm.trans hen)
    · omega
  simp only [doorbell, hserves, if_neg inside, Bool.not_true, Bool.false_eq_true, if_false]

theorem doorbell_outside (hserves : slServes s n = true) {tail : Nat} (hen : (getQp s n q).enable = true)
    (hout : (getQp s n q).entries ≤ tail) (hruns : (getQp s n q).stopped = false) :
    doorbell s n q tail = stopQp s n q 1 := by
  simp [doorbell, hserves, hen, hout, hruns]

/-- The entries from the present CQ HEAD to `i`, around the ring (R126). -/
def consumedAt (p : Qp) (i : Nat) : Nat := (i + p.entries - p.cqHead) % p.entries

/-- R126: the head lies inside the span of unconsumed completions; while ENABLE is 0 it is stored unchecked (log entry 18). -/
theorem cqHead_inside {head : Nat} (hin : (getQp s n q).enable = false ∨ (head < (getQp s n q).entries ∧
      consumedAt (getQp s n q) head ≤ consumedAt (getQp s n q) (getQp s n q).cqTail)) :
    cqHead s n q head = modQp s n q (fun x => { x with cqHead := head }) := by
  rcases hin with hoff | ⟨hring, hspan⟩
  · simp [cqHead, hoff]
  · have inside : ¬ ((getQp s n q).entries ≤ head ∨
        consumedAt (getQp s n q) (getQp s n q).cqTail < consumedAt (getQp s n q) head) := by omega
    exact (ite_congr rfl (fun _ => rfl) (fun _ => if_neg inside)).trans (ite_self _)

theorem cqHead_outside {head : Nat} (hen : (getQp s n q).enable = true) (hruns : (getQp s n q).stopped = false)
    (hout : (getQp s n q).entries ≤ head ∨
      consumedAt (getQp s n q) (getQp s n q).cqTail < consumedAt (getQp s n q) head) :
    cqHead s n q head = stopQp s n q 2 := by
  have enabled : ¬ (!(getQp s n q).enable) = true := by simp [hen]
  exact (if_neg enabled).trans ((if_pos hout).trans (if_neg (Bool.eq_false_iff.1 hruns)))

/-- R124: a value of QPq_CFG with which slice `n` may enable a queue pair. -/
def cfgLegal (s : State) (n cfg : Nat) : Prop :=
  ((getSlice s n).state = .configured ∨ (getSlice s n).state = .active) ∧ 6 ≤ bits cfg 4 1 ∧ bits cfg 4 1 ≤ 12 ∧
    mapGet PasidBind.unbound (getSlice s n).pasids (bits cfg 7 5) ≠ .unbound

theorem not_cfgLegal_iff {cfg : Nat} : ¬ cfgLegal s n cfg ↔
    ((getSlice s n).state ≠ .configured ∧ (getSlice s n).state ≠ .active) ∨ bits cfg 4 1 < 6 ∨ 12 < bits cfg 4 1 ∨
      mapGet PasidBind.unbound (getSlice s n).pasids (bits cfg 7 5) = .unbound := by
  simp only [cfgLegal, not_and_or, not_or, not_le, ne_eq, not_not]

/-- A write of QPq_CFG that sets ENABLE; CAUSE stays as it was (log entry 47). -/
theorem writeCfg_enable {cfg : Nat} (hoff : (getQp s n q).enable = false) (hset : cfg.testBit 0 = true)
    (hlegal : cfgLegal s n cfg) :
    writeCfg s n q cfg = modQp s n q (fun y => { cfgFields y cfg with
      enable := true, draining := false, sqTail := 0, sqHead := 0, cqHead := 0, cqTail := 0, phase := true, stopped := false,
      bells := [] }) :=
  (if_neg (Bool.eq_false_iff.1 hoff)).trans ((if_pos hset).trans (if_pos hlegal))

theorem writeCfg_enable_illegal {cfg : Nat} (hoff : (getQp s n q).enable = false) (hset : cfg.testBit 0 = true)
    (hbad : ¬ cfgLegal s n cfg) :
    writeCfg s n q cfg = modQp s n q (fun y => { cfgFields y cfg with cause := 4, stopped := true }) :=
  (if_neg (Bool.eq_false_iff.1 hoff)).trans ((if_pos hset).trans (if_neg hbad))

theorem writeCfg_disable {cfg : Nat} (hon : (getQp s n q).enable = true) (hclear : cfg.testBit 0 = false) :
    writeCfg s n q cfg = modQp s n q (fun y =>
      if qpBusy s n q then { y with draining := true } else { y with enable := false, draining := false }) :=
  (if_pos hon).trans (if_neg (Bool.eq_false_iff.1 hclear))

theorem exec_sqDoorbell (hn : n < 64) (hq : q < 4) (hup : bar0Up s = true) {tail : Nat} (ht : tail < 4096) :
    exec (.sqDoorbell n q tail) s = .next (doorbell s n q tail) := by
  have field : tail % 2 ^ 12 = tail := Nat.mod_eq_of_lt ht
  exact (qpRow_of_guard hn hq hup _).trans (by rw [field])

theorem exec_cqHeadWrite (hn : n < 64) (hq : q < 4) (hup : bar0Up s = true) {head : Nat} (hh : head < 4096) :
    exec (.cqHeadWrite n q head) s = .next (cqHead s n q head) := by
  have field : head % 2 ^ 12 = head := Nat.mod_eq_of_lt hh
  exact (qpRow_of_guard hn hq hup _).trans (by rw [field])

theorem exec_qpEnable (hn : n < 64) (hq : q < 4) (hup : bar0Up s = true) {cfg : Nat} (hoff : (getQp s n q).enable = false)
    (hset : cfg.testBit 0 = true) : exec (.qpEnable n q cfg) s = .next (writeCfg s n q cfg) :=
  qpRow_of_guard hn hq (by simp [hup, hoff, hset]) _

theorem exec_qpDisable (hn : n < 64) (hq : q < 4) (hup : bar0Up s = true) (hon : (getQp s n q).enable = true) :
    exec (.qpDisable n q) s = .next (writeCfg s n q 0) :=
  qpRow_of_guard hn hq (by simp [hup, hon]) _

theorem exec_qpDisableDone (hn : n < 64) (hq : q < 4) (hdrains : (getQp s n q).draining = true) (hidle : qpBusy s n q = false) :
    exec (.qpDisableDone n q) s = .next (modQp s n q (fun y => { y with enable := false, draining := false })) :=
  qpRow_of_guard hn hq (by simp [hdrains, hidle]) _

end

/-- Settles O26: a tail is told apart by the ring, a head by the span of completions, a value of QPq_CFG by whether it is legal. -/
theorem queuePairRegistersComplete : Obligations.QueuePairRegistersComplete := by
  intro s n q hn hq hup
  refine ⟨fun tail ht hserves hin => ?tailInside, fun tail ht hserves hen hout hruns => ?tailOutside, fun head hh hin => ?headInside,
    fun head hh hen hruns hout => ?headOutside, fun cfg hoff hset => ⟨fun hlegal => ?enables, fun hbad => ?illegal⟩,
    fun hon => ?disables, exec_qpDisableDone hn hq⟩
  case tailInside => exact (exec_sqDoorbell hn hq hup ht).trans (congrArg _ (doorbell_inside hserves hin))
  case tailOutside => exact (exec_sqDoorbell hn hq hup ht).trans (congrArg _ (doorbell_outside hserves hen hout hruns))
  case headInside => exact (exec_cqHeadWrite hn hq hup hh).trans (congrArg _ (cqHead_inside hin))
  case headOutside => exact (exec_cqHeadWrite hn hq hup hh).trans (congrArg _ (cqHead_outside hen hruns hout))
  case enables => exact (exec_qpEnable hn hq hup hoff hset).trans (congrArg _ (writeCfg_enable hoff hset hlegal))
  case illegal =>
    exact (exec_qpEnable hn hq hup hoff hset).trans (congrArg _ (writeCfg_enable_illegal hoff hset (not_cfgLegal_iff.2 hbad)))
  case disables => exact (exec_qpDisable hn hq hup hon).trans (congrArg _ (writeCfg_disable hon (by decide)))

/-! ### What happens in a cell beside its words (R139, R204, R209, R210, R216, R226 to R228, R232, R234) -/

/-- What a masked unit absorbs: the recombined shares of tagged lines (R248), else the lines as they are. -/
def absorbed (c : Cell) (a k : Nat) : List Byte :=
  if c.hash.masked ∧ (linesOf a k).any (fun l => tagAt c l != 0) then
    xorBytes (xorBytes (cread c a k) (cread c (a + 0x4000) k)) (cread c (a + 0x8000) k)
  else cread c a k

/-- The cell after a squeeze of `k` bytes to `a`: a masked unit writes shares. -/
def squeezedTo (c : Cell) (a k : Nat) : Cell :=
  let out := (hashOut c.hash c.draws (c.hash.squeezed + k)).drop c.hash.squeezed
  let d := drew c (c.hash.squeezed + k)
  if c.hash.masked then writeShares d a out else cwrite d a out

section
variable {s : State} {n : Nat}

/-- A row of a cell that exists acts once its guard holds. -/
theorem cellRow_of_guard (hn : n < 128) {p : Bool} (hp : p = true) (t : State) :
    known (decide (n < 128)) (doIf s p t) = .next t :=
  (known_of_exists (decide_eq_true hn) _).trans (doIf_of_guard hp _ _)

variable (hn : n < 128) (hup : ungated s = true)
include hn hup

section
variable (hrun : (getCell s n).halted = false)
include hrun

/-! #### Transfers (R216) -/

/-- A transfer that does not read the job's input. -/
theorem exec_dmaTransferDone_local {op : DmaOp}
    {rest : List DmaOp} (hdma : (getCell s n).dma = op :: rest) (hlocal : op.kind ≠ 0 ∨ op.stream ≠ 0) (io : JobIo) :
    exec (.dmaTransferDone n io) s = .next (transfer (modCell s n (fun x => { x with dma := rest })) n op []) := by
  have not_input : ¬ (op.kind = 0 ∧ op.stream = 0) := not_and_or.2 hlocal
  change execDmaTransferDone n io s = _
  simp only [execDmaTransferDone, hdma, if_neg not_input]
  exact cellRow_of_guard hn (by simp [hup, hrun]) _

/-- A transfer of the job's input, which arrived as far as the transfer reads. -/
theorem exec_dmaTransferDone_input {op : DmaOp}
    {rest : List DmaOp} {io : JobIo} {j : Job} (hdma : (getCell s n).dma = op :: rest) (hkind : op.kind = 0)
    (hstream : op.stream = 0) (hjob : cellJob s n = some j) (hok : (jobInputTo j io (op.offset + op.len)).status = stOk) :
    exec (.dmaTransferDone n io) s = .next (withReadAt s j op.offset op.len
      (transfer (putJob (modCell s n (fun x => { x with dma := rest })) { j with got := max j.got (op.offset + op.len) }) n op
        (jobInputTo j io (op.offset + op.len)).bytes)) := by
  change execDmaTransferDone n io s = _
  simp only [execDmaTransferDone, hdma, hkind, hstream, hjob, hok, and_self, if_true]
  exact cellRow_of_guard hn (by simp [hup, hrun]) _

/-! #### The hash unit (R227, R228) -/

section
variable {sq : Bool} {a k : Nat}

/-- The pool does not hold the mask units that are due: the unit takes what there is and stays busy. -/
theorem exec_hashOpDone_waits
    (hbusy : (getCell s n).hash.busy = some (sq, a, k)) (hshort : (getCell s n).maskLevel < (getCell s n).hash.due) :
    exec (.hashOpDone n) s = .next (modCell s n (fun _ => { getCell s n with
      hash := { (getCell s n).hash with due := (getCell s n).hash.due - (getCell s n).maskLevel }, maskLevel := 0 })) := by
  have pays : min (getCell s n).hash.due (getCell s n).maskLevel = (getCell s n).maskLevel := Nat.min_eq_right hshort.le
  change execHashOpDone n s = _
  simp only [execHashOpDone, hbusy, pays, if_pos hshort, Nat.sub_self]
  exact cellRow_of_guard hn (by simp [hup, hrun]) _

theorem exec_hashOpDone_absorbs
    (hbusy : (getCell s n).hash.busy = some (false, a, k)) (hpaid : (getCell s n).hash.due ≤ (getCell s n).maskLevel) :
    exec (.hashOpDone n) s = .next (modCell s n (fun _ => { getCell s n with
      maskLevel := (getCell s n).maskLevel - (getCell s n).hash.due
      hash := { (getCell s n).hash with
        busy := none, due := 0, input := (getCell s n).hash.input ++ absorbed (getCell s n) a k,
        odd := (getCell s n).hash.odd || decide (0 < (getCell s n).hash.squeezed) } })) := by
  have pays : min (getCell s n).hash.due (getCell s n).maskLevel = (getCell s n).hash.due := Nat.min_eq_left hpaid
  change execHashOpDone n s = _
  simp only [execHashOpDone, hbusy, pays, lt_irrefl, Bool.false_eq_true, if_false]
  exact cellRow_of_guard hn (by simp [hup, hrun]) _

theorem exec_hashOpDone_squeezes
    (hbusy : (getCell s n).hash.busy = some (true, a, k)) (hpaid : (getCell s n).hash.due ≤ (getCell s n).maskLevel) :
    exec (.hashOpDone n) s = .next (modCell s n (fun _ => { squeezedTo (getCell s n) a k with
      maskLevel := (getCell s n).maskLevel - (getCell s n).hash.due
      hash := { (getCell s n).hash with busy := none, due := 0, squeezed := (getCell s n).hash.squeezed + k } })) := by
  have pays : min (getCell s n).hash.due (getCell s n).maskLevel = (getCell s n).hash.due := Nat.min_eq_left hpaid
  change execHashOpDone n s = _
  simp only [execHashOpDone, hbusy, pays, lt_irrefl, if_false, if_true]
  exact cellRow_of_guard hn (by simp [hup, hrun]) _

end

/-! #### Share checks, waits and limits -/

/-- R226: the verdict of a share check. -/
theorem exec_schkDone (hchk : (getCell s n).schk = true) (ok : Bool) :
    let c := getCell s n
    let t := modCell s n (fun x => { x with schk := false })
    exec (.schkDone n ok) s = .next
      (if !ok || !c.schkOk then machineCheck t n 3 (wCond (mapGet 0 c.store c.pc)) (custPc c)
       else if c.ending then endMacro t n else t) :=
  cellRow_of_guard hn (by simp [hup, hrun, hchk]) _

/-- R204, R210: a wait whose condition holds takes its successor. -/
theorem exec_waitConditionMet {w : MicroWord}
    (hw : mapGet 0 (getCell s n).store (getCell s n).pc = w) (hold : (getCell s n).hold = true)
    (hgoes : (getCell s n).ending = false) (hcond : 8 ≤ wCond w) (hmet : condHolds (getCell s n) (wCond w) = true)
    (hnext : transferOk (getCell s n) (wNext w) = true) :
    exec (.waitConditionMet n) s =
      .next (enterPc (modCell s n (fun x => { x with hold := false, wd := 0 })) n (wNext w)) := by
  subst hw
  exact (cellRow_of_guard hn (by simpa [hup, hrun, hold, hgoes] using ⟨hcond, hmet⟩) _).trans (congrArg _ (if_pos hnext))

/-- R209, R249: the watchdog counts over a word that stalls or waits, and over a gate that runs. -/
theorem exec_waitTimeout {w : MicroWord}
    (hw : mapGet 0 (getCell s n).store (getCell s n).pc = w) (hfull : 2 ^ (getCell s n).wdogExp ≤ (getCell s n).wd)
    (hbusy : (getCell s n).stalled = true ∨
      ((getCell s n).job.isSome = true ∧ gateEntry (getCell s n).pc = true ∧ (getCell s n).hold = false) ∨
      ((getCell s n).hold = true ∧ 8 ≤ wCond w ∧ condHolds (getCell s n) (wCond w) = false)) :
    exec (.waitTimeout n) s =
      .next (machineCheck s n 2 (if (getCell s n).hold then wCond w else 0) (custPc (getCell s n))) := by
  subst hw
  exact cellRow_of_guard hn (by simpa [hup, hrun, hfull, and_assoc, or_assoc] using hbusy) _

/-- R204, R234: the timer ends with a nanosecond of the model, which is 1.6 cycles (log entry 2). -/
theorem exec_cellTimerExpire (htimer : (getCell s n).timer ≤ 2)
    (hfree : (getCell s n).hold = false ∨ wCond (mapGet 0 (getCell s n).store (getCell s n).pc) ≠ 12) :
    exec (.cellTimerExpire n) s = .next (modCell s n (fun x => { x with timer := 0 })) := by
  have no_wait : ¬ ((getCell s n).hold && wCond (mapGet 0 (getCell s n).store (getCell s n).pc) == 12) = true := by
    simpa [or_iff_not_imp_left] using hfree
  exact (cellRow_of_guard hn (by simp [hup, hrun, htimer]) _).trans (congrArg _ (if_neg no_wait))

theorem exec_joblim (hjob : (getCell s n).job ≠ none) (hcust : custPc (getCell s n) = true) (hlim : (getCell s n).jobLim = 0) :
    exec (.joblim n) s = .next (machineCheck s n 7 0 true) :=
  cellRow_of_guard hn (by simp [hup, hrun, hcust, hlim, Option.isSome_iff_ne_none, hjob]) _

end

/-! #### Aborts and reseeds, in a halted cell too -/

theorem exec_cellJobAbort {j : Job} (hjob : cellJob s n = some j)
    (hsq : squashDue s j = true) : exec (.cellJobAbort n) s = .next (failJob s { j with unit := n } eAborted 0 false) := by
  change execCellJobAbort n s = _
  simp only [execCellJobAbort, hjob]
  exact cellRow_of_guard hn (by simp [hup, hsq]) _

/-- R228, R307: an expander that serves the region gives the new seed. -/
theorem exec_maskReseed (hused : 2 ^ 20 ≤ (getCell s n).maskOut) {r : Nat} (hr : servingDrbg s (n / 32) = some r) :
    exec (.maskReseed n) s =
      .next (modCell (drew' (callDrbg s r 1) 32) n (fun x => { x with maskOut := 0, maskStopped := false })) := by
  change execMaskReseed n s = _
  simp only [execMaskReseed, hr]
  exact cellRow_of_guard hn (by simpa [hup] using hused) _

end

/-- Settles O23: each event meets the guard of its row; a hash operation is then told apart by its mask units, a share check by its sums. -/
theorem cellEventsComplete : Obligations.CellEventsComplete := by
  intro s n hn hup
  refine ⟨fun hrun => ⟨fun op rest io hdma hlocal => exec_dmaTransferDone_local hn hup hrun hdma hlocal io,
    fun op rest io j hdma hkind hstream hjob hok => exec_dmaTransferDone_input hn hup hrun hdma hkind hstream hjob hok,
    fun sq a k hbusy => ⟨fun hshort => exec_hashOpDone_waits hn hup hrun hbusy hshort, fun hpaid hsq => ?absorbs,
      fun hpaid hsq => ?squeezes⟩,
    fun hchk => ⟨fun hok hgoes => ?checked, fun hok hend => ?ended, fun ok hbad => ?differs⟩,
    fun hold hgoes hcond hmet hnext => exec_waitConditionMet hn hup hrun rfl hold hgoes hcond hmet hnext,
    fun hfull hbusy => exec_waitTimeout hn hup hrun rfl hfull hbusy,
    fun htimer hfree => exec_cellTimerExpire hn hup hrun htimer hfree,
    fun hjob hcust hlim => exec_joblim hn hup hrun hjob hcust hlim⟩,
    fun j hjob hsq => exec_cellJobAbort hn hup hjob hsq, fun r hused hr => exec_maskReseed hn hup hused hr⟩
  case absorbs => exact exec_hashOpDone_absorbs hn hup hrun (hsq ▸ hbusy) hpaid
  case squeezes => exact exec_hashOpDone_squeezes hn hup hrun (hsq ▸ hbusy) hpaid
  case checked => exact (exec_schkDone hn hup hrun hchk true).trans (by simp [hok, hgoes])
  case ended => exact (exec_schkDone hn hup hrun hchk true).trans (by simp [hok, hend])
  case differs =>
    have fails : (!ok || !(getCell s n).schkOk) = true := by simpa using hbad
    exact (exec_schkDone hn hup hrun hchk ok).trans (congrArg _ (if_pos fails))

end Sys2Proof.Proofs

/-! SUPPORT. The key commands of group 0x02: those that management answers (R142 to R160), and those that run on cells and BNEs (R148 to
R163, R259, R270). -/

namespace Sys2Proof.Proofs

open Sys2Proof Machine Laws

/-! ### Key commands of management (R142, R152, R154, R156, R157, R160) -/

section
variable {s : State} {job : Nat} {j : Job}

/-- R152: the slot has a key to retire, as a LIVE (1) and a WITHDRAWN (3) one have. -/
theorem exec_keyRetire (hj : mgmtAt s job 0x0203 j = true)
    (hstate : (slotEnt s (hIndex j.desc.keyHandle)).state = 1 ∨ (slotEnt s (hIndex j.desc.keyHandle)).state = 3) (io : JobIo) :
    exec (.keyRetire job io) s = .next (stageCommit s j (JobRes.done [] 0) (retireOps s (hIndex j.desc.keyHandle))) :=
  (runMgmt_of_mgmtAt hj _).trans (congrArg _ (if_neg (not_not.2 hstate)))

theorem exec_derive_labelOk (hj : mgmtAt s job 0x0204 j = true) {io : JobIo} {l : List Byte} (hin : inputIs j io l = true)
    (hlabel : labelOk j.desc.alg l = true) (hres : keysResolve s j = true) :
    exec (.derive job io) s = .next (withRead s j (answer (keysHeld s j) j io { JobRes.done [] 0 with
      fills := [derivedFill j (j.desc.pn 44 4) j.desc.alg (j.desc.pn 42 2) l] })) := by
  refine (runMgmt_of_mgmtAt hj _).trans (congrArg _ ?_)
  rw [withInput_of hin, hlabel, withKeys_of hres]
  rfl

theorem exec_derive_labelBad (hj : mgmtAt s job 0x0204 j = true) {io : JobIo} {l : List Byte} (hin : inputIs j io l = true)
    (hlabel : labelOk j.desc.alg l = false) :
    exec (.derive job io) s = .next (withRead s j (endJob s j (Cpl.bare s eParam 0x02FF unitNone) 0 io.cplFault)) := by
  refine (runMgmt_of_mgmtAt hj _).trans (congrArg _ ?_)
  rw [withInput_of hin, hlabel]
  rfl

/-- R157: the epoch that EPOCH_HANDLE names. The job keeps the successor of the epoch current at its admission, or 0 where there is
none; all ones stand for that current epoch. -/
def epochNamed (j : Job) : Nat := if j.desc.pn 40 8 = 2 ^ 64 - 1 then leNat (j.saved.headD []) - 1 else j.desc.pn 40 8

/-- R157: the epoch exists and lies from one before the current one to one after it. -/
theorem exec_epochHandle (hj : mgmtAt s job 0x0205 j = true) (hcur : leNat (j.saved.headD []) ≠ 0)
    (hlow : leNat (j.saved.headD []) ≤ epochNamed j + 2) (hhigh : epochNamed j ≤ leNat (j.saved.headD []))
    (hexists : epochExists j.cfg (epochNamed j) = true) (hres : keysResolve s j = true) (io : JobIo) :
    exec (.epochHandle job io) s = .next (answer (keysHeld s j) j io { JobRes.done (leBytes 8 (epochNamed j)) 0 with
      fills := [derivedFill j (j.desc.pn 48 4) 0x0C02
        (j.key0.policy - polEpoch - (if hasPol j.key0.policy polDerive then polDerive else 0))
        (epochLabel (epochNamed j) j.cfg.epochLength)] }) := by
  have in_time : ¬ (leNat (j.saved.headD []) = 0 ∨ epochNamed j + 2 < leNat (j.saved.headD []) ∨
      leNat (j.saved.headD []) < epochNamed j ∨ ¬ epochExists j.cfg (epochNamed j) = true) := by
    simpa only [not_or, not_lt, not_not] using ⟨hcur, hlow, hhigh, hexists⟩
  exact (runMgmt_of_mgmtAt hj _).trans (congrArg _ ((if_neg in_time).trans (withKeys_of hres _)))

/-! #### CACHE_CONTROL (R160) -/

/-- R160: what every form of CACHE_CONTROL answers, the regions that hold the key as RESULT. -/
def cacheAnswer (j : Job) (io : JobIo) (t : State) : State :=
  answer t j io (JobRes.done [] (expandedMask t j.desc.keyHandle))

/-- R160: the form of the job's key enters the ONLINE regions that the command names, every ONLINE region for 0. -/
def prefetched (s : State) (j : Job) : State :=
  (List.range 4).foldl (fun t r =>
    if regionOnline s r ∧ (j.desc.pb 41 = 0 ∨ (j.desc.pb 41).testBit r) then
      expand t j.slice r j.desc.keyHandle j.alg ((keyValues s j).headD []) (expandedSize j.alg (j.key0.kind != 2)) else t)
    (keysHeld s j)

section
variable (hj : mgmtAt s job 0x0208 j = true)
include hj

theorem exec_cacheControl_prefetch (hact : j.desc.pb 40 = 0) (hres : keysResolve s j = true) (io : JobIo) :
    exec (.cacheControl job io) s = .next (cacheAnswer j io (prefetched s j)) := by
  refine (runMgmt_of_mgmtAt hj _).trans (congrArg _ ?_)
  simp only [hact]
  exact withKeys_of hres _

theorem exec_cacheControl_pin (hact : j.desc.pb 40 = 1) (io : JobIo) :
    exec (.cacheControl job io) s = .next (cacheAnswer j io (pinEntries s j.desc.keyHandle true)) := by
  refine (runMgmt_of_mgmtAt hj _).trans (congrArg _ ?_)
  simp only [hact]
  rfl

theorem exec_cacheControl_unpin (hact : j.desc.pb 40 = 2) (io : JobIo) :
    exec (.cacheControl job io) s = .next (cacheAnswer j io (pinEntries s j.desc.keyHandle false)) := by
  refine (runMgmt_of_mgmtAt hj _).trans (congrArg _ ?_)
  simp only [hact]
  rfl

/-- A key in use is evicted once the jobs that hold it have ended. -/
theorem exec_cacheControl_evict (hact : 3 ≤ j.desc.pb 40) (io : JobIo) :
    exec (.cacheControl job io) s = .next (cacheAnswer j io
      (if keyInUse s j.desc.keyHandle j.id then
        { s with scrubs := s.scrubs ++ [{ handle := j.desc.keyHandle, before := s.nextJob, expOnly := true }] }
      else filterExpanded s (fun x => x.handle != j.desc.keyHandle))) := by
  obtain ⟨k, hk⟩ := Nat.exists_eq_add_of_le' hact
  refine (runMgmt_of_mgmtAt hj _).trans (congrArg _ ?_)
  simp only [hk]
  rfl

end

end

/-- Settles O12: each command may run; DERIVE is then told apart by its label, CACHE_CONTROL by its action and by whether the key to
evict is in use. -/
theorem keyManagementCommandsComplete : Obligations.KeyManagementCommandsComplete := by
  intro s job io j
  refine ⟨fun hj hstate => exec_keyRetire hj hstate io,
    fun hj l hin hlabel hres => exec_derive_labelOk hj hin hlabel hres,
    fun hj l hin hlabel => exec_derive_labelBad hj hin hlabel,
    fun hj hcur hlow hhigh hexists hres => exec_epochHandle hj hcur hlow hhigh hexists hres io,
    fun hj => runMgmt_of_mgmtAt hj _,
    fun hj => ⟨fun hact hres => exec_cacheControl_prefetch hj hact hres io, fun hact => exec_cacheControl_pin hj hact io,
      fun hact => exec_cacheControl_unpin hj hact io, fun hact hfree => ?evicted, fun hact hused => ?waits⟩⟩
  case evicted =>
    have not_in_use : ¬ keyInUse s j.desc.keyHandle j.id = true := Bool.eq_false_iff.1 hfree
    exact (exec_cacheControl_evict hj hact io).trans (congrArg _ (congrArg (cacheAnswer j io) (if_neg not_in_use)))
  case waits => exact (exec_cacheControl_evict hj hact io).trans (congrArg _ (congrArg (cacheAnswer j io) (if_pos hused)))

/-! ### Key commands on cells and BNEs (R148 to R163, R259, R270) -/

section
variable {s : State} {job : Nat} {j : Job}

/-! #### KEY_GENERATE (R148, R149) -/

/-- R148: a hybrid seed is drawn in the cell, and the block's BNE is asked for the public key of its classical half. -/
theorem cellSeed_of_hybrid {r : Nat} (hr : jobDrbg s j = some r) (hf : famOf j.desc.alg = some .hybrid)
    (hb : cellAndBne s j = true) (io : JobIo) (f : State → List Byte → State) :
    cellSeed s j io f =
      let seed := newSeed j.desc.alg (drawnBytes s r (seedLen j.desc.alg))
      askWith (drawn s r (seedLen j.desc.alg)) j [seed]
        (jobReq j 1 (hybridScalar j.desc.alg seed).1 (hybridScalar j.desc.alg seed).2 [] []) := by
  simp only [cellAndBne, Bool.and_eq_true, Option.isSome_iff_exists] at hb
  obtain ⟨⟨-, b, hserves⟩, hroom⟩ := hb
  rw [hserves, Option.getD_some] at hroom
  unfold cellSeed
  simp only [if_pos hf, hserves, if_pos hroom]
  exact withDraw_of hr io _ _

/-- R148, R259: the BNE makes an RSA key of the drawn bytes. -/
theorem bneSeed_of_rsa {r : Nat} (hr : jobDrbg s j = some r) (hf : famOf j.desc.alg = some .rsa) (io : JobIo) :
    bneSeed s j io = askWith (drawn s r (seedLen j.desc.alg)) j []
      (jobReq j 0x0A j.desc.alg [] [] (drawnBytes s r (seedLen j.desc.alg))) := by
  unfold bneSeed
  rw [withDraw_of hr, if_pos hf]

theorem exec_keyGenerate_cell (hj : onCellAt s job 0x0200 j = true) (hf : bneFam j.alg = false) (io : JobIo) :
    exec (.keyGenerate job io) s = .next (cellSeed s j io (fun t seed => keepGenerated t j seed)) :=
  runCellBne_cell hj hf _ _

theorem exec_keyGenerate_bne (hj : engineAt s job 0x0200 j = true) (hb : atBne s j = true) (hf : bneFam j.alg = true)
    (io : JobIo) : exec (.keyGenerate job io) s = .next (bneSeed s j io) :=
  runCellBne_bne hj hb hf _ _

/-! #### KEY_PUBLIC (R149, R270, R320) -/

theorem getJob_of_mgmtAt {op : Nat} (hj : mgmtAt s job op j = true) : getJob s job = some j := by
  simp only [mgmtAt, Bool.and_eq_true, decide_eq_true_eq] at hj
  obtain ⟨hget, -⟩ := hj
  exact hget

theorem getJob_of_engineAt {op : Nat} (hj : engineAt s job op j = true) : getJob s job = some j := by
  simp only [engineAt, Bool.and_eq_true, decide_eq_true_eq] at hj
  obtain ⟨⟨⟨hget, -⟩, -⟩, -⟩ := hj
  exact hget

theorem engineAt_of_onCellAt {op : Nat} (hj : onCellAt s job op j = true) : engineAt s job op j = true :=
  (Bool.and_eq_true_iff.1 hj).1

/-- R149: a management core answers the public key of a peer (kind 2). -/
theorem exec_keyPublic_peer (hj : mgmtAt s job 0x0202 j = true) (hkind : j.key0.kind = 2) (hres : keysResolve s j = true)
    (io : JobIo) :
    exec (.keyPublic job io) s = .next (answer (keysHeld s j) j io (JobRes.done ((keyValues s j).headD []) 0)) := by
  change execKeyPublic job io s = _
  simp only [execKeyPublic, getJob_of_mgmtAt hj, if_pos hkind]
  exact (runMgmt_of_mgmtAt hj _).trans (congrArg _ (withKeys_of hres _))

theorem exec_keyPublic_cell (hj : onCellAt s job 0x0202 j = true) (hkind : j.key0.kind ≠ 2) (hf : bneFam j.alg = false)
    (hres : keysResolve s j = true) (io : JobIo) :
    let t := keysHeld s j
    let v := (keyValues s j).headD []
    exec (.keyPublic job io) s = .next
      (if famOf j.alg = some .hybrid then askWith t j [v] (jobReq j 1 (hybridScalar j.alg v).1 (hybridScalar j.alg v).2 [] [])
       else givePublic t j (pubOfKey t j.key0 v)) := by
  change execKeyPublic job io s = _
  simp only [execKeyPublic, getJob_of_engineAt (engineAt_of_onCellAt hj), if_neg hkind]
  exact (runCellBne_cell hj hf _ _).trans (congrArg _ (withKeys_of hres _))

theorem exec_keyPublic_bne (hj : engineAt s job 0x0202 j = true) (hb : atBne s j = true) (hkind : j.key0.kind ≠ 2)
    (hf : bneFam j.alg = true) (hres : keysResolve s j = true) (io : JobIo) :
    let t := keysHeld s j
    let v := (keyValues s j).headD []
    exec (.keyPublic job io) s = .next
      (if famOf j.alg = some .rsa then givePublic t j (pubOfKey t j.key0 v)
       else askWith t j [v] (jobReq j 1 j.alg v [] [])) := by
  change execKeyPublic job io s = _
  simp only [execKeyPublic, getJob_of_engineAt hj, if_neg hkind]
  exact (runCellBne_bne hj hb hf _ _).trans (congrArg _ (withKeys_of hres _))

/-- R320: a public key that matches its digest is staged. -/
theorem givePublic_of_digestOk {pub : List Byte} (hpub : pubDigestOk s j.key0 pub = true) :
    givePublic s j pub =
      slotRead s j (stage s j { JobRes.done pub 0 with guarantee := maskedFlag s j j.alg } false) :=
  congrArg (slotRead s j) (if_pos hpub)

/-! #### PEER_LOAD (R158, R270) -/

theorem exec_peerLoad_cell (hj : onCellAt s job 0x0206 j = true) (hf : bneFam j.alg = false) {io : JobIo} {b : List Byte}
    (hin : inputIs j io b = true) (hpub : pubStatus j.desc.alg b = stOk) :
    exec (.peerLoad job io) s = .next (withRead s j (keepPeer s j b)) :=
  (runCellBne_cell hj hf _ _).trans (congrArg _ ((engineInput_of hin _).trans (congrArg _ (if_pos hpub))))

theorem exec_peerLoad_bne (hj : engineAt s job 0x0206 j = true) (hb : atBne s j = true) (hf : bneFam j.alg = true)
    {io : JobIo} {b : List Byte} (hin : inputIs j io b = true) :
    exec (.peerLoad job io) s = .next (withRead s j (askWith s j [b] (jobReq j 0x0C j.desc.alg [] b []))) :=
  (runCellBne_bne hj hb hf _ _).trans (congrArg _ (engineInput_of hin _))

/-! #### Transport (R161 to R163) -/

/-- What TRANSPORT_ESTABLISH stages for a public key, once its randomness is drawn (R161, R168). -/
def transportEstablished (j : Job) (r : Nat) (t : State) (pk : List Byte) (forms : List FormUse) : State :=
  let e := encaps 0x0103 pk (drawnBytes t r 32)
  stage (drawn t r 32) j { JobRes.done e.1 0 with
    guarantee := formHit t forms, forms, fills := [transportFill j (transportKey e.2 e.1)] } j.dual

theorem exec_transportEstablish_input {r : Nat} (hj : onCellAt s job 0x0209 j = true) (hr : jobDrbg s j = some r)
    (hk : j.keys = []) {io : JobIo} {pk : List Byte} (hin : inputIs j io pk = true) (hpk : pubStatus 0x0103 pk = stOk) :
    exec (.transportEstablish job io) s = .next (withRead s j (transportEstablished j r s pk [])) := by
  refine (runCell_of_onCellAt hj _).trans (congrArg _ ?_)
  simp only [hk, List.isEmpty_nil, if_true]
  rw [engineInput_of hin, if_pos hpk, withDraw_of hr]
  rfl

theorem exec_transportEstablish_key {r : Nat} (hj : onCellAt s job 0x0209 j = true) (hr : jobDrbg (keysHeld s j) j = some r)
    (hk : j.keys ≠ []) (hres : keysResolve s j = true) (io : JobIo) :
    exec (.transportEstablish job io) s = .next (transportEstablished j r (keysHeld s j) ((keyValues s j).headD [])
      (formUse j false ((keyValues s j).headD []))) := by
  refine (runCell_of_onCellAt hj _).trans (congrArg _ ?_)
  rw [if_neg (by simpa using hk), withKeys_of hres]
  exact withDraw_of hr io _ _

theorem exec_transportAccept (hj : onCellAt s job 0x020A j = true) {io : JobIo} {ct : List Byte} (hin : inputIs j io ct = true)
    (hres : keysResolve s j = true) :
    let t := keysHeld s j
    let v := (keyValues s j).headD []
    exec (.transportAccept job io) s = .next (withRead s j (stage t j { JobRes.done [] 0 with
      guarantee := maskedFlag s j 0x0103 + formHit t (formUse j true v), forms := formUse j true v,
      fills := [transportFill j (transportKey (decaps 0x0103 v ct) ct)] } false)) :=
  (runCell_of_onCellAt hj _).trans (congrArg _ (engineInput_withKeys_of hin hres _))

theorem exec_keyExport (hj : onCellAt s job 0x020B j = true) (hres : keysResolve s j = true) (io : JobIo) :
    let v := (keyValues s j).headD []
    let hd := blobHeader j.key0.alg j.key0.policy (createdOf s j.key0) v.length
    exec (.keyExport job io) s = .next (slotRead s j (stage (keysHeld s j) j
      (JobRes.done (hd ++ kwpWrap (blobKey ((keyValues s j).getD 1 []) hd) v) 0) false)) :=
  (runCell_of_onCellAt hj _).trans (congrArg _ (congrArg (slotRead s j) (withKeys_of hres _)))

/-- What KEY_IMPORT does with an unwrapped seed: the BNE checks a P-curve scalar, a hybrid's classical half too (R163, R271). -/
def seedImported (j : Job) (t : State) (a pol : Nat) (seed : List Byte) : State :=
  if famOf a = some .nist then askWith t j [seed, leBytes 2 a, leBytes 2 pol] (jobReq j 0x0D a [] seed [])
  else if a = 0x0D02 then askWith t j [seed, leBytes 2 a, leBytes 2 pol] (jobReq j 0x0D 0x0402 [] (seed.take 48) [])
  else keepImported t j a pol seed

/-- R163: a blob that passes its checks gives its seed. -/
theorem exec_keyImport (hj : onCellAt s job 0x020C j = true) {io : JobIo} {b : List Byte} (hin : inputIs j io b = true)
    (hres : keysResolve s j = true) (hhead : blobHeaderOk b = true) {seed : List Byte}
    (hseed : kwpUnwrap (blobKey ((keyValues s j).headD []) (b.take 24)) (b.drop 24) = some seed)
    (hlen : seed.length = seedLen (fieldLe b 6 2)) {pol : Nat} (hpol : fieldLe b 8 2 &&& j.desc.pn 42 2 = pol)
    (hstatus : importStatus j (fieldLe b 6 2) pol = stOk) :
    exec (.keyImport job io) s = .next (withRead s j (seedImported j (keysHeld s j) (fieldLe b 6 2) pol seed)) := by
  subst hpol
  refine (runCell_of_onCellAt hj _).trans (congrArg _ ?_)
  rw [engineInput_withKeys_of hin hres]
  simp only [hhead, hseed, if_neg (not_not.2 hlen), if_neg (not_not.2 hstatus)]
  rfl

end

/-- Settles O13: each command stands on its unit, with its draw, its input and its keys at hand; what is left is told apart by the family
of the key. -/
theorem keyEngineCommandsComplete : Obligations.KeyEngineCommandsComplete := by
  intro s job io j
  refine ⟨fun r hr => ⟨fun hj hf hplain => ?generate, fun hj hf hhybrid hb => ?generateHybrid, fun hj hb hf => ?generateBne⟩,
    fun hj hkind hres => exec_keyPublic_peer hj hkind hres io,
    fun hres hkind => ⟨fun hj hf hplain hdigest => ?publicCell, fun hj hf hhybrid => ?publicHybrid,
      fun hj hb hf => ⟨fun hcurve => ?publicBne, fun hrsa hdigest => ?publicRsa⟩⟩,
    fun b hin => ⟨fun hj hf hpub => exec_peerLoad_cell hj hf hin hpub, fun hj hb hf => exec_peerLoad_bne hj hb hf hin,
      fun r hr hj hk hpk => exec_transportEstablish_input hj hr hk hin hpk, fun hj hres => exec_transportAccept hj hin hres,
      fun hj hres hhead seed hseed hlen hstatus => ?imported⟩,
    fun r hr hj hk hres => exec_transportEstablish_key hj hr hk hres io, fun hj hres => exec_keyExport hj hres io⟩
  case generate => exact (exec_keyGenerate_cell hj hf io).trans (congrArg _ (cellSeed_of hr hplain io _))
  case generateHybrid => exact (exec_keyGenerate_cell hj hf io).trans (congrArg _ (cellSeed_of_hybrid hr hhybrid hb io _))
  case generateBne =>
    by_cases hrsa : famOf j.desc.alg = some .rsa
    · rw [exec_keyGenerate_bne hj hb hf, bneSeed_of_rsa hr hrsa, if_pos hrsa]
    · rw [exec_keyGenerate_bne hj hb hf, bneSeed_of hr hrsa, if_neg hrsa]
  case publicCell =>
    exact (exec_keyPublic_cell hj hkind hf hres io).trans (congrArg _ ((if_neg hplain).trans (givePublic_of_digestOk hdigest)))
  case publicHybrid => exact (exec_keyPublic_cell hj hkind hf hres io).trans (congrArg _ (if_pos hhybrid))
  case publicBne => exact (exec_keyPublic_bne hj hb hkind hf hres io).trans (congrArg _ (if_neg hcurve))
  case publicRsa =>
    exact (exec_keyPublic_bne hj hb hkind hf hres io).trans (congrArg _ ((if_pos hrsa).trans (givePublic_of_digestOk hdigest)))
  case imported =>
    have seeded := exec_keyImport hj hin hres hhead hseed hlen rfl hstatus
    refine ⟨fun hother hpure => ?kept, fun hcurve => ?checked, fun hhybrid => ?checkedHalf⟩
    case kept => exact seeded.trans (congrArg _ (congrArg (withRead s j) ((if_neg hother).trans (if_neg hpure))))
    case checked => exact seeded.trans (congrArg _ (congrArg (withRead s j) (if_pos hcurve)))
    case checkedHalf =>
      have not_curve : famOf (fieldLe b 6 2) ≠ some .nist := by rw [hhybrid]; decide
      exact seeded.trans (congrArg _ (congrArg (withRead s j) ((if_neg not_curve).trans (if_pos hhybrid))))

end Sys2Proof.Proofs

/-! SUPPORT. Group 0x04: keys, signatures and verdicts on cells and BNEs (R171 to R182), stateful keys and the trees below them (R183 to
R190). -/

namespace Sys2Proof.Proofs

open Sys2Proof Machine Laws

/-! ### Signing and verification (R171 to R182) -/

section
variable {s : State} {job : Nat} {j : Job}

/-- SIG_KEYGEN in a cell keeps the seed of `cellSeed`. -/
theorem exec_sigKeygen_cell (hj : onCellAt s job 0x0400 j = true) (hf : bneFam j.alg = false) (io : JobIo) :
    exec (.sigKeygen job io) s = .next (cellSeed s j io (fun t seed => keepKem t j seed)) :=
  runCellBne_cell hj hf _ _

/-- SIG_KEYGEN on a BNE passes on the seed of `bneSeed`. -/
theorem exec_sigKeygen_bne (hj : engineAt s job 0x0400 j = true) (hb : atBne s j = true) (hf : bneFam j.alg = true)
    (io : JobIo) : exec (.sigKeygen job io) s = .next (bneSeed s j io) :=
  runCellBne_bne hj hb hf _ _

/-! #### SIGN -/

/-- A command on its input, its keys and a draw reads the first, holds the second and has the third from the expander that serves. -/
theorem engineInput_withKeys_withDraw_of {io : JobIo} {m : List Byte} (hin : inputIs j io m = true) (hres : keysResolve s j = true)
    {r : Nat} (hr : jobDrbg (keysHeld s j) j = some r) (n : Nat)
    (f : List Byte → State → List (List Byte) → State → List Byte → State) :
    engineInput s j io (fun i => withKeys s j (fun t vs => withDraw t j io n (f i t vs))) =
      withRead s j (f m (keysHeld s j) (keyValues s j) (drawn (keysHeld s j) r n) (drawnBytes (keysHeld s j) r n)) := by
  rw [engineInput_withKeys_of hin hres, withDraw_of hr]

/-- What a cell stages as the signature of an input with the bytes `d` drawn, in the state `u` (R171, R181). -/
def cellSigned (s : State) (j : Job) (io : JobIo) (m : List Byte) (u : State) (d : List Byte) : State :=
  let v := (keyValues s j).headD []
  stage u j { JobRes.done (signature j.alg 0 0 j.desc.sMode j.desc.sHash 0 v (m.take j.desc.sCtx) (m.drop j.desc.sCtx)
      (signNonce j.alg j.desc v d) 0) 0 with
    guarantee := maskedFlag s j j.alg + formHit u (formUse j true v), forms := formUse j true v, spoilt := readsDiffer j io } true

theorem exec_sign_cell (hj : onCellAt s job 0x0401 j = true) (hf : bneFam j.alg = false)
    (hplain : famIn j.alg [.lms, .xmss] = false) {io : JobIo} {m : List Byte} (hin : inputIs j io m = true)
    (hres : keysResolve s j = true) {r : Nat} (hr : jobDrbg (keysHeld s j) j = some r) :
    exec (.sign job io) s = .next (withRead s j (cellSigned s j io m (drawn (keysHeld s j) r (signRnd j.alg j.desc))
      (drawnBytes (keysHeld s j) r (signRnd j.alg j.desc)))) := by
  refine (runCellBne_cell hj hf _ _).trans (congrArg _ ?_)
  rw [if_neg (Bool.eq_false_iff.1 hplain)]
  exact engineInput_withKeys_withDraw_of hin hres hr _ _

/-- What SIGN asks of the BNE: an RSA key whose expanded form is not cached is rebuilt first (R158, R254). -/
def bneSigned (s : State) (j : Job) (io : JobIo) (m : List Byte) (u : State) (d : List Byte) : State :=
  let v := (keyValues s j).headD []
  let ctx := m.take j.desc.sCtx
  let msg := m.drop j.desc.sCtx
  if famOf j.alg = some .rsa ∧ ¬ expandedIn u j.region j.key0.handle then
    askWith u j [v, ctx, msg, d] (jobReq j 0x0B j.alg v [] [])
  else
    askWith u j [leBytes 1 (formHit u (formUse j true v)), v]
      { sigReq j (bneSignFunc j.alg) (if famOf j.alg = some .rsa then rsaForm u j.region j.key0 v else v) [] ctx msg [] d with
        spoilt := readsDiffer j io }

theorem exec_sign_bne (hj : engineAt s job 0x0401 j = true) (hb : atBne s j = true) (hf : bneFam j.alg = true) {io : JobIo}
    {m : List Byte} (hin : inputIs j io m = true) (hres : keysResolve s j = true) {r : Nat}
    (hr : jobDrbg (keysHeld s j) j = some r) :
    exec (.sign job io) s = .next (withRead s j (bneSigned s j io m (drawn (keysHeld s j) r (signRnd j.alg j.desc))
      (drawnBytes (keysHeld s j) r (signRnd j.alg j.desc)))) :=
  (runCellBne_bne hj hb hf _ _).trans (congrArg _ (engineInput_withKeys_withDraw_of hin hres hr _ _))

section
variable {io : JobIo} {m d : List Byte} {u : State}

theorem bneSigned_of_rebuild (hrsa : famOf j.alg = some .rsa) (hnone : expandedIn u j.region j.key0.handle = false) :
    bneSigned s j io m u d = askWith u j [(keyValues s j).headD [], m.take j.desc.sCtx, m.drop j.desc.sCtx, d]
      (jobReq j 0x0B j.alg ((keyValues s j).headD []) [] []) :=
  if_pos ⟨hrsa, Bool.eq_false_iff.1 hnone⟩

theorem bneSigned_of_form (hrsa : famOf j.alg = some .rsa) (hsome : expandedIn u j.region j.key0.handle = true) :
    let v := (keyValues s j).headD []
    bneSigned s j io m u d = askWith u j [leBytes 1 (formHit u (formUse j true v)), v]
      { sigReq j (bneSignFunc j.alg) (rsaForm u j.region j.key0 v) [] (m.take j.desc.sCtx) (m.drop j.desc.sCtx) [] d with
        spoilt := readsDiffer j io } := by
  simp only [bneSigned, hrsa, hsome, not_true, and_false, if_false, if_true]

theorem bneSigned_of_curve (hcurve : famOf j.alg ≠ some .rsa) :
    let v := (keyValues s j).headD []
    bneSigned s j io m u d = askWith u j [leBytes 1 (formHit u (formUse j true v)), v]
      { sigReq j (bneSignFunc j.alg) v [] (m.take j.desc.sCtx) (m.drop j.desc.sCtx) [] d with spoilt := readsDiffer j io } := by
  simp only [bneSigned, hcurve, false_and, if_false]

end

/-! #### VERIFY -/

/-- R180: a verification that has reached its verdict completes. -/
theorem endVerify_of_ok {v : Nat × Nat} (hv : v.1 = stOk) (io : JobIo) (forms : List FormUse) :
    endVerify s j io v forms = stage s j { JobRes.done [] (if v.2 = 0 then 1 else 0) with
      detail := v.2, guarantee := formHit s forms, forms } false :=
  if_pos hv

/-- The verdict on a signature under a public key, for the input `m` (R171, R180). -/
def verdictOn (j : Job) (m pub : List Byte) : Nat × Nat :=
  let x := verifyParts j m
  verdict j.alg j.desc.sMode j.desc.sHash j.desc.sSalt pub x.2.2.1 x.2.2.2 x.2.1

section
variable {io : JobIo} {m : List Byte} (hin : inputIs j io m = true)
include hin

/-- R320: a cell takes the public key of a job's key once it matches its digest. -/
theorem exec_verify_cell_key (hj : onCellAt s job 0x0402 j = true) (hf : bneFam j.alg = false) (hk : j.keys ≠ [])
    (hres : keysResolve s j = true)
    (hpub : pubDigestOk (keysHeld s j) j.key0 (pubOfKey (keysHeld s j) j.key0 ((keyValues s j).headD [])) = true) :
    exec (.verify job io) s = .next (withRead s j (endVerify (keysHeld s j) j io
      (verdictOn j m (pubOfKey (keysHeld s j) j.key0 ((keyValues s j).headD [])))
      (formUse j (j.key0.kind != 2) ((keyValues s j).headD [])))) := by
  refine (runCellBne_cell hj hf _ _).trans (congrArg _ ((engineInput_of hin _).trans (congrArg (withRead s j) ?_)))
  rw [if_neg (by simpa using hk), withKeys_of hres]
  exact if_pos hpub

/-- R320: so does a BNE. -/
theorem exec_verify_bne_key (hj : engineAt s job 0x0402 j = true) (hb : atBne s j = true) (hf : bneFam j.alg = true)
    (hk : j.keys ≠ []) (hres : keysResolve s j = true)
    (hpub : pubDigestOk (keysHeld s j) j.key0 (pubOfKey (keysHeld s j) j.key0 ((keyValues s j).headD [])) = true) :
    let x := verifyParts j m
    exec (.verify job io) s = .next (withRead s j (askWith (keysHeld s j) j [] (sigReq j (bneVerifyFunc j.alg) []
      (pubOfKey (keysHeld s j) j.key0 ((keyValues s j).headD [])) x.2.2.1 x.2.2.2 x.2.1 []))) := by
  refine (runCellBne_bne hj hb hf _ _).trans (congrArg _ ((engineInput_of hin _).trans (congrArg (withRead s j) ?_)))
  rw [if_neg (by simpa using hk), withKeys_of hres]
  exact if_pos hpub

/-- R179: a cell takes a public key of the input once it passes its checks. -/
theorem exec_verify_cell_input (hj : onCellAt s job 0x0402 j = true) (hf : bneFam j.alg = false) (hk : j.keys = [])
    (hpub : pubStatus j.alg (verifyParts j m).1 = stOk) :
    exec (.verify job io) s = .next (withRead s j (endVerify s j io (verdictOn j m (verifyParts j m).1) [])) := by
  refine (runCellBne_cell hj hf _ _).trans (congrArg _ ((engineInput_of hin _).trans (congrArg (withRead s j) ?_)))
  rw [if_pos (by simp [hk])]
  exact if_pos hpub

/-- R270: a BNE is asked for these checks (FUNC 0x0C). -/
theorem exec_verify_bne_input (hj : engineAt s job 0x0402 j = true) (hb : atBne s j = true) (hf : bneFam j.alg = true)
    (hk : j.keys = []) :
    let x := verifyParts j m
    exec (.verify job io) s = .next (withRead s j (askWith s j [x.1, x.2.1, x.2.2.1, x.2.2.2] (jobReq j 0x0C j.alg [] x.1 []))) := by
  refine (runCellBne_bne hj hb hf _ _).trans (congrArg _ ((engineInput_of hin _).trans (congrArg (withRead s j) ?_)))
  exact if_pos (by simp [hk])

end

/-! ### Stateful keys (R183 to R188) -/

theorem exec_statefulCreate (hj : onCellAt s job 0x0403 j = true) {r : Nat} (hr : jobDrbg s j = some r) (io : JobIo) :
    let a := j.desc.alg
    let lv := j.desc.pb 48
    let lo := j.desc.pb 49
    let t := drawn s r (seedLen a)
    let seed := drawnBytes s r (seedLen a)
    exec (.statefulCreate job io) s = .next (stage t j (slotResult t j a (j.desc.pn 42 2) 2 seed (publicOf a lv lo seed) []
      (some (lv, lo, 2 ^ totalHeight a lv lo))) false) :=
  (runCell_of_onCellAt hj _).trans (congrArg _ (withDraw_of hr _ _ _))

/-- R187: with its trees built and a leaf reserved, the next leaf is handed out and signs. -/
theorem signStateful_of_leaf {io : JobIo} {m : List Byte} (hin : inputIs j io m = true) (hres : keysResolve s j = true)
    {i g rid : Nat} {l : Leaf} (hsrc : j.key0.src = .slot i g) (hl : leafFor s i g = some (rid, l))
    (htop : (getTree s rid).topReady = true) (hleft : (getTree s rid).next < l.total) (hlower : lowerOk s rid l = true)
    (hstarted : (getTree s rid).startCommit = false) (hreserved : (getTree s rid).next < l.highWater) :
    let n := (getTree s rid).next
    signStateful s j io = withRead s j (stage (takeLeaf (keysHeld s j) rid l) { j with leaf := some n }
      (JobRes.done (signature j.alg l.levels l.lower j.desc.sMode 0 0 ((keyValues s j).headD []) [] m [] n) (n % 2 ^ 32)) true) := by
  have no_commit_first : ¬ ((getTree s rid).startCommit = true ∨ l.highWater ≤ (getTree s rid).next) := by
    simp [hstarted, hreserved]
  refine (engineInput_of hin _).trans (congrArg (withRead s j) ?_)
  simp only [hsrc, hl, htop, hlower, Bool.not_true, Bool.false_eq_true, if_false, if_neg (not_le.2 hleft), if_neg no_commit_first]
  exact withKeys_of hres _

theorem exec_sign_stateful (hj : onCellAt s job 0x0401 j = true) (hf : bneFam j.alg = false)
    (hstateful : famIn j.alg [.lms, .xmss] = true) (io : JobIo) : exec (.sign job io) s = .next (signStateful s j io) :=
  (runCellBne_cell hj hf _ _).trans (congrArg _ (if_pos hstateful))

end

/-! #### Trees -/

section
variable {s : State} {rid : Nat} {l : Leaf}

/-- The state once the slice of a stateful key is charged for building a part of its trees (R136, R186). -/
def builtPart (s : State) (l : Leaf) (part : Nat) : State :=
  chargeSlice s l.slice (getSlice s l.slice).cfg.weight (buildCycles l part)

variable (hl : leafOf s rid = some l) (hs : serving s = true) (hrgn : noRegion s = false)
include hl hs hrgn

/-- R185: the top tree is the first to be built. -/
theorem exec_treeBuildDone_top (htop : (getTree s rid).topReady = false) :
    exec (.treeBuildDone rid 0) s =
      .next (modTree (builtPart s l 0) rid (fun y => { y with topReady := true, percent := 100 })) := by
  change execTreeBuildDone rid 0 s = _
  simp only [execTreeBuildDone, hl]
  exact doIf_of_guard (by simp [hs, hrgn, htop]) _ _

/-- R185: under a complete top tree the active lower ones are built. -/
theorem exec_treeBuildDone_lower (htop : (getTree s rid).topReady = true) (hsingle : l.single = false)
    (hlower : (getTree s rid).lowerReady = false) :
    exec (.treeBuildDone rid 1) s = .next (modTree (builtPart s l 1) rid (fun y => { y with lowerReady := true })) := by
  change execTreeBuildDone rid 1 s = _
  simp only [execTreeBuildDone, hl]
  exact doIf_of_guard (by simp [hs, hrgn, htop, hsingle, hlower]) _ _

/-- R185, R186: once half of the active lowest tree is used, the next one is built. -/
theorem exec_treeBuildDone_next (hlower : (getTree s rid).lowerReady = true) (hsingle : l.single = false)
    (hnext : (getTree s rid).nextReady = false) (hhalf : 2 ^ l.bottom ≤ 2 * ((getTree s rid).next % 2 ^ l.bottom)) :
    exec (.treeBuildDone rid 2) s = .next (modTree (builtPart s l 2) rid (fun y => { y with nextReady := true })) := by
  change execTreeBuildDone rid 2 s = _
  simp only [execTreeBuildDone, hl]
  exact doIf_of_guard (by simp [hs, hrgn, hlower, hsingle, hnext, hhalf]) _ _

end

/-- Settles O15: SIGN is told apart by the family of its key, a BNE's RSA key by its cached form, VERIFY by where its public key
comes from, and a finished part by its number. -/
theorem signatureCommandsComplete : Obligations.SignatureCommandsComplete := by
  intro s job io j
  refine ⟨fun r hr => ⟨fun hj hf hplain => ?keyCell, fun hj hb hf hother => ?keyBne, fun hj => exec_statefulCreate hj hr io⟩,
    fun m hin hres => ⟨fun r hr => ⟨fun hj hf hplain => exec_sign_cell hj hf hplain hin hres hr, fun hj hb hf => ?signBne⟩,
      fun i g rid l hj hf hstateful hsrc hl htop hleft hlower hstarted hreserved => ?leaf,
      fun hj hf hk hpub hverdict => ?verifyKey, fun hj hb hf hk hpub => exec_verify_bne_key hin hj hb hf hk hres hpub⟩,
    fun m hin hk => ⟨fun hj hf hpub hverdict => ?verifyInput, fun hj hb hf => exec_verify_bne_input hin hj hb hf hk⟩,
    fun rid l hl hs hrgn => ⟨fun htop => exec_treeBuildDone_top hl hs hrgn htop,
      fun htop hsingle hlower => exec_treeBuildDone_lower hl hs hrgn htop hsingle hlower,
      fun hlower hsingle hnext hhalf => exec_treeBuildDone_next hl hs hrgn hlower hsingle hnext hhalf⟩⟩
  case keyCell => exact (exec_sigKeygen_cell hj hf io).trans (congrArg _ (cellSeed_of hr hplain io _))
  case keyBne => exact (exec_sigKeygen_bne hj hb hf io).trans (congrArg _ (bneSeed_of hr hother io))
  case signBne =>
    have asked := exec_sign_bne hj hb hf hin hres hr
    refine ⟨fun hrsa hnone => ?rebuild, fun hcurve => ?curve, fun hrsa hsome => ?form⟩
    case rebuild => exact asked.trans (congrArg _ (congrArg (withRead s j) (bneSigned_of_rebuild hrsa hnone)))
    case curve => exact asked.trans (congrArg _ (congrArg (withRead s j) (bneSigned_of_curve hcurve)))
    case form => exact asked.trans (congrArg _ (congrArg (withRead s j) (bneSigned_of_form hrsa hsome)))
  case leaf =>
    exact (exec_sign_stateful hj hf hstateful io).trans
      (congrArg _ (signStateful_of_leaf hin hres hsrc hl htop hleft hlower hstarted hreserved))
  case verifyKey =>
    exact (exec_verify_cell_key hin hj hf hk hres hpub).trans (congrArg _ (congrArg (withRead s j) (endVerify_of_ok hverdict io _)))
  case verifyInput =>
    exact (exec_verify_cell_input hin hj hf hk hpub).trans (congrArg _ (congrArg (withRead s j) (endVerify_of_ok hverdict io _)))

end Sys2Proof.Proofs

/-! SUPPORT. Group 0x05 on the digest engine (R170, R192 to R195), and GET_RANDOM and RNG_TEST (R196, R197, R304, R308). -/

namespace Sys2Proof.Proofs

open Sys2Proof Machine Laws

/-! ### Digests, tags and derived keys (R192 to R195) -/

section
variable {s : State} {job : Nat} {j : Job} {io : JobIo} {m : List Byte}

theorem exec_digest (hj : engineAt s job 0x0500 j = true) (hde : deHolds s j = true) (hin : inputIs j io m = true) :
    let p := m.take (j.desc.pb 46)
    let q := (m.drop (j.desc.pb 46)).take (j.desc.pb 47)
    let r := m.drop (j.desc.pb 46 + j.desc.pb 47)
    exec (.digest job io) s = .next (withRead s j (deResult s j [digestPlan (j.desc.pb 40) (j.desc.pn 42 4) p q r] none
      (JobRes.done (digestOf (j.desc.pb 40) (j.desc.pn 42 4) p q r) 0))) :=
  (runEngine_of_engineAt hj hde _).trans (congrArg _ (engineInput_of hin _))

section
variable (hde : deHolds s j = true) (hin : inputIs j io m = true) (hres : keysResolve s j = true)
include hde hin hres

theorem exec_macGenerate (hj : engineAt s job 0x0501 j = true) :
    let d := j.desc
    let v := (keyValues s j).headD []
    let c := m.take (d.pb 47)
    let r := m.drop (d.pb 47)
    exec (.macGenerate job io) s = .next (withRead s j (deKeyed (keysHeld s j) j (d.pb 40) c (macPlan (d.pb 40) v c r (d.pn 42 2))
      (JobRes.done (macOf (d.pb 40) (d.pn 42 2) v c r) 0))) :=
  (runEngine_of_engineAt hj hde _).trans (congrArg _ (engineInput_withKeys_of hin hres _))

theorem exec_macVerify (hj : engineAt s job 0x0502 j = true) :
    let d := j.desc
    let n := d.pn 42 2
    let v := (keyValues s j).headD []
    let c := m.take (d.pb 47)
    let r := m.drop (d.pb 47)
    exec (.macVerify job io) s = .next (withRead s j (deKeyed (keysHeld s j) j (d.pb 40) c (macPlan (d.pb 40) v c (r.drop n) n)
      (JobRes.done [] (b2n (macOf (d.pb 40) n v c (r.drop n) == r.take n))))) :=
  (runEngine_of_engineAt hj hde _).trans (congrArg _ (engineInput_withKeys_of hin hres _))

end

/-- What KDF loads for `k` bytes of key with the result `x`: a KMAC256 with the label as its S, or the HMACs of HKDF (R194, R286). -/
def kdfLoaded (s : State) (j : Job) (m : List Byte) (k : Nat) (x : JobRes) : State :=
  let d := j.desc
  let v := (keyValues s j).headD []
  if d.pb 40 = 0 then deKeyed (keysHeld s j) j 0x19 (m.take (d.pb 56)) (kmacPlan 136 v (m.take (d.pb 56)) (m.drop (d.pb 56)) k) x
  else deResult (keysHeld s j) j (hkdfPlans (d.pb 41) v (m.take (d.pb 56)) (m.drop (d.pb 56)) k) none x

section
variable (hj : engineAt s job 0x0503 j = true) (hde : deHolds s j = true) (hin : inputIs j io m = true)
  (hres : keysResolve s j = true)
include hj hde hin hres

/-- R195: with OUT_KIND 1 the key is the output. -/
theorem exec_kdf_output (hout : j.desc.pb 50 ≠ 0) :
    exec (.kdf job io) s = .next (withRead s j (kdfLoaded s j m (j.desc.pn 52 4)
      (JobRes.done (kdfOf j.desc (j.desc.pn 52 4) ((keyValues s j).headD []) m) 0))) := by
  refine (runEngine_of_engineAt hj hde _).trans (congrArg _ ?_)
  simp only [if_neg hout]
  exact engineInput_withKeys_of hin hres _

/-- R195: with OUT_KIND 0 its 32 bytes fill an ephemeral index, rooted as its parent is. -/
theorem exec_kdf_fill (hout : j.desc.pb 50 = 0) {k : KeyRef} {ks : List KeyRef} (hk : j.keys = k :: ks) :
    let d := j.desc
    exec (.kdf job io) s = .next (withRead s j (kdfLoaded s j m 32 { JobRes.done [] 0 with
      fills := [ephFill (d.pn 44 4) (d.pn 48 2) (d.pn 42 2) (kdfOf d 32 ((keyValues s j).headD []) m) (rootedParent k)] })) := by
  refine (runEngine_of_engineAt hj hde _).trans (congrArg _ ?_)
  simp only [if_pos hout, hk]
  exact engineInput_withKeys_of hin hres _

end

/-! ### Random bits (R196, R197, R304, R308) -/

/-- GET_RANDOM answered by expander `r` in the state `x`: LENGTH free values of the model (log entry 7), 4,096 bytes a generate call
(R302). -/
def randomGiven (j : Job) (io : JobIo) (r : Nat) (x : State) : State :=
  let n := j.desc.pn 44 4
  let t := callDrbg x r ((n + 4095) / 4096)
  answer (drew' t n) j io (JobRes.done (drawBytes t n) 0)

section
variable (hj : mgmtAt s job 0x0600 j = true) {r : Nat} (hr : servingDrbg s 0 = some r)
include hj hr

theorem exec_getRandom_plain (hpr : j.desc.pb 40 % 2 = 0) (io : JobIo) :
    exec (.getRandom job io) s = .next (randomGiven j io r s) := by
  refine (runMgmt_of_mgmtAt hj _).trans (congrArg _ ?_)
  simp only [hr, hpr]
  rfl

/-- R304: with PR an unused block reseeds the expander first. -/
theorem exec_getRandom_reseeded (hpr : j.desc.pb 40 % 2 = 1) (hblock : hasBlock s (rngOf s r).seedSrc = true) (io : JobIo) :
    exec (.getRandom job io) s = .next (randomGiven j io r (reseeded (useBlock s (rngOf s r).seedSrc) r)) := by
  refine (runMgmt_of_mgmtAt hj _).trans (congrArg _ ?_)
  simp only [hr, hpr, hblock, if_true]
  rfl

end

section
variable (hj : mgmtAt s job 0x0B40 j = true)
include hj

/-- R308: the known-answer test shows the block of its conditioner. -/
theorem exec_rngTest_knownAnswer (htest : j.desc.pb 41 = 0) (io : JobIo) :
    exec (.rngTest job io) s = .next (answer (knownAnswer s (j.desc.pb 40) io.tests).2 j io (JobRes.done
      (if io.tests.getD 0 true then katBlock else freeByteList 0 s.freeCtr 48) (knownAnswer s (j.desc.pb 40) io.tests).1)) := by
  refine (runMgmt_of_mgmtAt hj _).trans (congrArg _ ?_)
  simp only [if_pos htest, if_neg (not_not.2 htest)]

/-- R301, R309: a restart shows none. -/
theorem exec_rngTest_restart (htest : j.desc.pb 41 ≠ 0) (io : JobIo) :
    exec (.rngTest job io) s = .next (answer (restartSource s (j.desc.pb 40) io.tests).2 j io
      (JobRes.done (List.replicate 48 0) (restartSource s (j.desc.pb 40) io.tests).1)) := by
  refine (runMgmt_of_mgmtAt hj _).trans (congrArg _ ?_)
  simp only [if_neg htest, if_pos htest]

end

end

/-- Settles O16: a context waits for its input and gets it, with the keys of a keyed function; KDF is told apart by OUT_KIND, GET_RANDOM by PR,
RNG_TEST by its test. -/
theorem digestAndRandomCommandsComplete : Obligations.DigestAndRandomCommandsComplete := by
  intro s job io j
  refine ⟨fun m hin => ⟨fun hj hde => exec_digest hj hde hin, fun hres hde => ⟨fun hj => exec_macGenerate hde hin hres hj,
      fun hj => exec_macVerify hde hin hres hj, fun hj => ⟨fun hout => exec_kdf_output hj hde hin hres hout,
        fun hout k ks hk => exec_kdf_fill hj hde hin hres hout hk⟩⟩⟩,
    fun hj r hr => ⟨fun hpr => exec_getRandom_plain hj hr hpr io, fun hpr hblock => exec_getRandom_reseeded hj hr hpr hblock io⟩,
    fun hj => ⟨fun htest => exec_rngTest_knownAnswer hj htest io, fun htest => exec_rngTest_restart hj htest io⟩⟩

end Sys2Proof.Proofs

/-! SUPPORT. The scalar words of a cell (R201 to R215): what each operation makes of a legal word, and the frame of a word that goes on to an
ordinary address of its window. -/

namespace Sys2Proof.Proofs

open Sys2Proof Machine Laws

/-! ### How a word ends -/

section
variable {s : State} {n op : Nat} {w : MicroWord} {f : CellCtx → MicroWord → Cell → WordEnd}

/-- An operation that is done completes its word. -/
theorem runRow_of_done (hw : wordAt s n w = true) (hop : wOp w = op) {d : Cell} (hf : f (cellCtx s n) w (getCell s n) = .done d) :
    runRow op f n s = .next (cellGoes s n w d) := by
  rw [runRow_of_wordAt hw hop, hf]
  rfl

/-- An operation that names its successor goes there. -/
theorem runRow_of_goto (hw : wordAt s n w = true) (hop : wOp w = op) {d : Cell} {pc : Nat}
    (hf : f (cellCtx s n) w (getCell s n) = .goto d pc) :
    runRow op f n s = .next (enterPc (modCell s n (fun _ => d)) n pc) := by
  rw [runRow_of_wordAt hw hop, hf]
  rfl

end

/-- A legal operation runs. -/
theorem legalIf_of {p : Bool} (hp : p = true) (c : Cell) (e : WordEnd) : legalIf c p e = e := if_pos hp

/-! ### What the scalar operations compute (R212, R213, R230) -/

section
variable {c : Cell} {w : MicroWord} {t : Nat} (k : CellCtx)

theorem flagsZN_setX (r : W64) : flagsZN (setX c (wA w) r t) r t = aluZN c w r t := by
  unfold flagsZN aluZN
  split <;> rfl

theorem flagsZNC_setX (r : W64) (carry : Bool) : flagsZNC (setX c (wA w) r t) r carry t = aluZNC c w r carry t := by
  unfold flagsZNC aluZNC aluZN
  split <;> rfl

section
variable (hform : formRRR w = true)
include hform

/-- Two shares that may meet give their operation. -/
theorem opJoin_of_tag (ht : joinTag (tagX c (wB w)) (tagX c (wC w)) = some t) (f : W64 → W64 → Cell → Nat → Cell) :
    opJoin w c f = .done (f (getX c (wB w)) (getX c (wC w)) c t) := by
  simp [opJoin, hform, ht]

theorem opAdd_done (ht : joinTag (tagX c (wB w)) (tagX c (wC w)) = some t) :
    opAdd k w c = .done (aluZNC c w (getX c (wB w) + getX c (wC w))
      (decide (2 ^ 64 ≤ (getX c (wB w)).toNat + (getX c (wC w)).toNat)) t) :=
  (opJoin_of_tag hform ht _).trans (congrArg _ (flagsZNC_setX _ _))

theorem opSub_done (ht : joinTag (tagX c (wB w)) (tagX c (wC w)) = some t) :
    opSub k w c = .done (aluZNC c w (getX c (wB w) - getX c (wC w))
      (decide ((getX c (wC w)).toNat ≤ (getX c (wB w)).toNat)) t) :=
  (opJoin_of_tag hform ht _).trans (congrArg _ (flagsZNC_setX _ _))

theorem opXor_done (ht : joinTag (tagX c (wB w)) (tagX c (wC w)) = some t) :
    opXor k w c = .done (aluZN c w (getX c (wB w) ^^^ getX c (wC w)) t) :=
  (opJoin_of_tag hform ht _).trans (congrArg _ (flagsZN_setX _))

theorem opAnd_done (ht : oneTag (tagX c (wB w)) (tagX c (wC w)) = some t) :
    opAnd k w c = .done (aluZN c w (getX c (wB w) &&& getX c (wC w)) t) := by
  simp [opAnd, hform, ht, flagsZN_setX]

/-- Two public sources give their operation (OR, MUL and MULHU). -/
theorem opPublic_done (hb : tagX c (wB w) = 0) (hc : tagX c (wC w) = 0) (f : W64 → W64 → W64) :
    opPublic w c f = .done (aluZN c w (f (getX c (wB w)) (getX c (wC w))) 0) :=
  (legalIf_of (by simp [hform, hb, hc]) _ _).trans (congrArg _ (flagsZN_setX _))

end

theorem opAddi_done (ha : reg (wA w) = true) (hb : reg (wB w) = true) (hc : wC w = 0) (ht : tagX c (wB w) = 0) :
    opAddi k w c = .done (aluZNC c w (getX c (wB w) + immS w)
      (decide (2 ^ 64 ≤ (getX c (wB w)).toNat + (immS w).toNat)) 0) :=
  (legalIf_of (by simp [ha, hb, hc, ht]) _ _).trans (congrArg _ (flagsZNC_setX _ _))

/-- SHL, SHR and SAR by the count the word names. -/
theorem opShift_done (hform : formShift w = true) (ht : oneTag (tagX c (wB w)) (shiftTag c w) = some t) (f : W64 → Nat → W64) :
    opShift w c f = .done (aluZN c w (f (getX c (wB w)) (shiftCount c w)) t) := by
  simp [opShift, hform, ht, flagsZN_setX]

theorem opLds_done (ha : reg (wA w) = true) (hb : wB w = 0) (hc : wC w = 0) (ht : tagX c (wA w) = 0) :
    opLds k w c = .done (aluZN c w ((getX c (wA w) <<< 9) ||| BitVec.ofNat 64 (wImm w)) 0) :=
  (legalIf_of (by simp [ha, hb, hc, ht]) _ _).trans (congrArg _ (flagsZN_setX _))

theorem opCmp_done (ha : wA w = 0) (hb : reg (wB w) = true) (hc : reg (wC w) = true) (hi : wImm w = 0)
    (htb : tagX c (wB w) = 0) (htc : tagX c (wC w) = 0) :
    opCmp k w c = .done { c with
      z := decide (getX c (wB w) - getX c (wC w) = 0), n := (getX c (wB w) - getX c (wC w)).msb,
      c := decide ((getX c (wC w)).toNat ≤ (getX c (wB w)).toNat) } :=
  legalIf_of (by simp [ha, hb, hc, hi, htb, htc]) _ _

end

/-- Settles O1: each word meets the form of its operation, which is then done. -/
theorem scalarArithmetic : Obligations.ScalarArithmetic := fun _ _ _ hw =>
  ⟨fun _ hop hf ht => runRow_of_done hw hop (opAdd_done _ hf ht),
    fun _ hop hf ht => runRow_of_done hw hop (opSub_done _ hf ht),
    fun hop ha hb hc ht => runRow_of_done hw hop (opAddi_done _ ha hb hc ht),
    fun hop hf ⟨hb, hc⟩ => runRow_of_done hw hop (opPublic_done hf hb hc (· * ·)),
    fun hop hf ⟨hb, hc⟩ => runRow_of_done hw hop (opPublic_done hf hb hc (fun a b => BitVec.ofNat 64 (a.toNat * b.toNat / 2 ^ 64))),
    fun hop ha hb hc hi ⟨htb, htc⟩ => runRow_of_done hw hop (opCmp_done _ ha hb hc hi htb htc)⟩

/-- Settles O2: each word meets the form of its operation, which is then done. -/
theorem scalarLogicAndShifts : Obligations.ScalarLogicAndShifts := fun _ _ _ hw =>
  ⟨fun _ hop hf ht => runRow_of_done hw hop (opAnd_done _ hf ht),
    fun hop hf hb hc => runRow_of_done hw hop (opPublic_done hf hb hc (· ||| ·)),
    fun _ hop hf ht => runRow_of_done hw hop (opXor_done _ hf ht),
    fun _ hf ht => ⟨fun hop => runRow_of_done hw hop (opShift_done hf ht (· <<< ·)),
      fun hop => runRow_of_done hw hop (opShift_done hf ht (· >>> ·)),
      fun hop => runRow_of_done hw hop (opShift_done hf ht BitVec.sshiftRight)⟩,
    fun hop ha hb hc ht => runRow_of_done hw hop (opLds_done _ ha hb hc ht)⟩

/-! ### The frame of a word that goes on in its window (R205, R206) -/

/-- The cell once control has passed to `pc`. -/
def wentOn (d : Cell) (pc : Nat) : Cell := { d with pc := pc, hold := false, stalled := false, wd := 0 }

/-- With COND 0 and an ordinary NEXT of the same window, a word that is done changes its cell and passes control to NEXT. -/
theorem cellGoes_of_ordinary {w : MicroWord} {d : Cell} (s : State) (n : Nat) (hcond : wCond w = 0) (hnext : wNext w ≠ 1)
    (hwin : custPc d = false ∨ 0xC00 ≤ wNext w) :
    cellGoes s n w d = modCell s n (fun _ => wentOn d (wNext w)) := by
  have here : getCell (modCell s n (fun _ => d)) n = d := getCell_modCell ..
  have succ : successor d w = some (d, wNext w) := by simp [successor, hcond]
  have legal : transferOk d (wNext w) = true := by
    rcases hwin with h | h <;> simp [transferOk, h]
  simp only [cellGoes, takeNext, here, succ, legal, if_true, modCell_modCell, enterPc, hnext, if_false]
  rfl

/-- What a scalar word keeps of its cell: all but the registers, their tags, Z, N, C and the sequencing; of the registers all but X[A],
where it has a destination, and C where the word keeps it. -/
structure ScalarKeeps (c d : Cell) (w : MicroWord) (dest keepsC : Bool) : Prop where
  rest : d = { c with x := d.x, xt := d.xt, z := d.z, n := d.n, c := d.c }
  regs : ∀ k, (dest = false ∨ k ≠ wA w) → getX d k = getX c k ∧ tagX d k = tagX c k
  carry : keepsC = true → d.c = c.c

section
variable {c : Cell} {w : MicroWord}

theorem setX_regs_other {i k : Nat} (v : W64) (t : Nat) (h : k ≠ i) :
    getX (setX c i v t) k = getX c k ∧ tagX (setX c i v t) k = tagX c k :=
  ⟨mapGet_set_other _ _ _ h, mapGet_set_other _ _ _ h⟩

theorem aluZN_keeps (r : W64) (t : Nat) : ScalarKeeps c (aluZN c w r t) w true true where
  rest := rfl
  regs k hk := setX_regs_other r t (by simpa using hk)
  carry _ := rfl

theorem aluZNC_keeps (r : W64) (carry : Bool) (t : Nat) : ScalarKeeps c (aluZNC c w r carry t) w true false where
  rest := rfl
  regs k hk := setX_regs_other r t (by simpa using hk)
  carry h := by cases h

theorem compare_keeps (z n carry : Bool) : ScalarKeeps c { c with z := z, n := n, c := carry } w false false where
  rest := rfl
  regs _ _ := ⟨rfl, rfl⟩
  carry h := by cases h

end

/-- The frame of a scalar word, from what it computes. -/
theorem frame_of_scalarKeeps {s : State} {n : Nat} {w : MicroWord} {i : Instr} {d : Cell} {dest keepsC : Bool}
    (hcond : wCond w = 0) (hnext : wNext w ≠ 1) (hwin : custPc (getCell s n) = false ∨ 0xC00 ≤ wNext w)
    (hexec : exec i s = .next (cellGoes s n w d)) (hkeeps : ScalarKeeps (getCell s n) d w dest keepsC) :
    ∃ t, exec i s = .next t ∧ t = { s with cells := t.cells } ∧
      (∀ m, m ≠ n → getCell t m = getCell s m) ∧
      (∀ k, (dest = false ∨ k ≠ wA w) → getX (getCell t n) k = getX (getCell s n) k ∧ tagX (getCell t n) k = tagX (getCell s n) k) ∧
      (keepsC = true → (getCell t n).c = (getCell s n).c) ∧
      ∃ e, getCell t n = e ∧ e.pc = wNext w ∧ e = { getCell s n with
        x := e.x, xt := e.xt, z := e.z, n := e.n, c := e.c, pc := e.pc, hold := false, stalled := false, wd := 0 } := by
  obtain ⟨hrest, hregs, hcarry⟩ := hkeeps
  have stays : custPc d = custPc (getCell s n) := by rw [hrest]; rfl
  have goes : cellGoes s n w d = modCell s n (fun _ => wentOn d (wNext w)) :=
    cellGoes_of_ordinary s n hcond hnext (stays ▸ hwin)
  have here : getCell (modCell s n (fun _ => wentOn d (wNext w))) n = wentOn d (wNext w) := getCell_modCell ..
  refine ⟨_, hexec.trans (congrArg _ goes), rfl, fun m hm => getCell_modCell_other s _ hm, ?_, ?_, _, here, rfl, ?_⟩
  · rw [here]; exact hregs
  · rw [here]; exact hcarry
  · conv_lhs => rw [hrest]
    rfl

/-- Settles O57: each word completes as O1 and O2 say, and what it computes keeps the rest of its cell. -/
theorem scalarWordsChangeTheirDestinationOnly : Obligations.ScalarWordsChangeTheirDestinationOnly := by
  intro s n w hw hcond hnext hwin
  obtain ⟨add, sub, addi, mul, mulhu, cmp⟩ := scalarArithmetic s n w hw
  obtain ⟨and, or, xor, shifts, lds⟩ := scalarLogicAndShifts s n w hw
  have framed {i : Instr} {d : Cell} {dest keepsC : Bool} := @frame_of_scalarKeeps s n w i d dest keepsC hcond hnext hwin
  refine ⟨fun hop hf ht => ?_, fun hop hf ht => ?_,
    fun hop ha hb hc ht => framed (addi hop ha hb hc ht) (aluZNC_keeps ..), fun hop hf ht => ?_,
    fun hop hf hb hc => framed (or hop hf hb hc) (aluZN_keeps ..), fun hop hf ht => ?_,
    fun hf ht => ?_,
    fun hop hf hb hc => framed (mul hop hf ⟨hb, hc⟩) (aluZN_keeps ..),
    fun hop hf hb hc => framed (mulhu hop hf ⟨hb, hc⟩) (aluZN_keeps ..),
    fun hop ha hb hc ht => framed (lds hop ha hb hc ht) (aluZN_keeps ..),
    fun hop ha hb hc hi htb htc => framed (cmp hop ha hb hc hi ⟨htb, htc⟩) (compare_keeps ..)⟩
  all_goals obtain ⟨t, ht⟩ := Option.isSome_iff_exists.1 ht
  · exact framed (add t hop hf ht) (aluZNC_keeps ..)
  · exact framed (sub t hop hf ht) (aluZNC_keeps ..)
  · exact framed (and t hop hf ht) (aluZN_keeps ..)
  · exact framed (xor t hop hf ht) (aluZN_keeps ..)
  · obtain ⟨shl, shr, sar⟩ := shifts t hf ht
    exact ⟨fun hop => framed (shl hop) (aluZN_keeps ..), fun hop => framed (shr hop) (aluZN_keeps ..),
      fun hop => framed (sar hop) (aluZN_keeps ..)⟩

end Sys2Proof.Proofs

/-! SUPPORT. The words of a cell that reach its memories and ports, and those that steer its sequence (R207, R212 to R217, R222 to R227, R259,
R498 to R500). -/

namespace Sys2Proof.Proofs

open Sys2Proof Machine Laws

/-! ### Loads and stores (R214, R219, R222, R223) -/

/-- One access without a fault lets a legal operation go ahead. -/
theorem legalAccess_of {c : Cell} {p : Bool} {a len : Nat} {e : WordEnd} (hp : p = true) (ha : accessKind c a len = 0) :
    legalIf c p (guardAccess c len [a] e) = e :=
  (legalIf_of hp c _).trans (guardAccess_ok (by simpa using ha) e)

section
variable {c : Cell} {w : MicroWord} (k : CellCtx)

theorem opVgath_done {t : Nat} (hform : formVVV w = true) (hb : tagX c (wB w) = 0) (hc : tagV c (wC w) = 0)
    (hacc : ∀ x ∈ eaElems c w, accessKind c x (elemW (wImm w) / 8) = 0) (ht : joinTags c (eaElems c w) = some t) :
    opVgath k w c = .done (setV c (wA w)
      (ofElems (elemW (wImm w)) ((eaElems c w).map (fun x => leNat (cread c x (elemW (wImm w) / 8))))) t) := by
  refine (legalIf_of (by simp [hform, hb, hc]) _ _).trans ?_
  rw [ht]
  exact guardAccess_ok hacc _

theorem opVscat_done (hform : formVVV w = true) (hb : tagX c (wB w) = 0) (hc : tagV c (wC w) = 0)
    (hacc : ∀ x ∈ eaElems c w, accessKind c x (elemW (wImm w) / 8) = 0)
    (hst : ∀ x ∈ eaElems c w, storeTagOk c x (tagV c (wA w)) = true) :
    opVscat k w c = .done (scatterAll (elemW (wImm w) / 8) (tagV c (wA w)) c
      ((eaElems c w).zip (elems (elemW (wImm w)) (getV c (wA w))))) :=
  (legalIf_of (by simpa [hform, hb, hc] using hst) _ _).trans (guardAccess_ok hacc _)

end

/-- Settles O4: each word meets its form, and its accesses no fault. -/
theorem loadsAndStores : Obligations.LoadsAndStores := fun _ _ _ hw =>
  ⟨fun hop ha hb hc ht hk => runRow_of_done hw hop (legalAccess_of (by simp [ha, hb, hc, ht]) hk),
    fun hop ha hb hc ht hst hk => runRow_of_done hw hop (legalAccess_of (by simp [ha, hb, hc, ht, hst]) hk),
    fun hop ha hb hc ht hk => runRow_of_done hw hop (legalAccess_of (by simp [ha, hb, hc, ht]) hk),
    fun hop ha hb hc ht hst hk => runRow_of_done hw hop (legalAccess_of (by simp [ha, hb, hc, ht, hst]) hk),
    fun hf hb hc hacc => ⟨fun _ hop ht => runRow_of_done hw hop (opVgath_done _ hf hb hc hacc ht),
      fun hop hst => runRow_of_done hw hop (opVscat_done _ hf hb hc hacc hst)⟩⟩

/-! ### A store to the window and the addresses between the two ranges -/

/-- `ST X[2], [X[1]]` with NEXT 0x101. -/
def windowStore : MicroWord := 0x3C0110000404

/-- Cell 5 stands at the word with X[1] the first byte of the block window, whose first page is mapped, and X[2] = 7. -/
def beforeWindowStore : State :=
  { State.reset with
    chip := { State.reset.chip with mode := .service, lc := .owned }
    cells := [(5, { Cell.reset with
      pc := 0x100, store := [(0x100, windowStore)], x := [(1, 0x100000), (2, 7)], pages := [(0, true)] })] }

/-- What cell 5 then reads at an address. -/
def readAfterWindowStore (a : Nat) : List Byte :=
  match exec (.st 5) beforeWindowStore with
  | .next t => cread (getCell t 5) a 1
  | _ => []

/-- Refutes O58: `cread` reads an address between scratch and the window, 0x20000, as the window's first byte, so a store to 0x100000
changes what that address reads. -/
theorem not_cellStoresChangeTheirBytesOnly : ¬ Obligations.CellStoresChangeTheirBytesOnly := by
  intro h
  have ready : wordAt beforeWindowStore 5 windowStore = true := by decide +kernel
  have plain : wCond windowStore = 0 ∧ wNext windowStore ≠ 1 ∧ custPc (getCell beforeWindowStore 5) = false := by decide +kernel
  have legal : wOp windowStore = 0x0F ∧ wA windowStore = 0 ∧ reg (wB windowStore) = true ∧ reg (wC windowStore) = true := by
    decide +kernel
  have stores : tagX (getCell beforeWindowStore 5) (wB windowStore) = 0 ∧
      storeTagOk (getCell beforeWindowStore 5) (eaScalar (getCell beforeWindowStore 5) windowStore)
        (tagX (getCell beforeWindowStore 5) (wC windowStore)) = true ∧
      accessKind (getCell beforeWindowStore 5) (eaScalar (getCell beforeWindowStore 5) windowStore) 8 = 0 := by decide +kernel
  have below : 0x20000 < eaScalar (getCell beforeWindowStore 5) windowStore := by decide +kernel
  have old : cread (getCell beforeWindowStore 5) 0x20000 1 = [0] := by decide +kernel
  have new : readAfterWindowStore 0x20000 = [7] := by decide +kernel
  obtain ⟨hcond, hnext, hcust⟩ := plain
  obtain ⟨hop, ha, hb, hc⟩ := legal
  obtain ⟨ht, hst, hacc⟩ := stores
  obtain ⟨t, hexec, -, -, kept, -⟩ :=
    (h beforeWindowStore 5 windowStore ready hcond hnext (.inl hcust)).1 hop ha hb hc ht hst hacc
  rw [readAfterWindowStore, hexec] at new
  have same : ([7] : List Byte) = [0] := new.symm.trans ((kept 0x20000 (.inl below)).trans old)
  exact absurd same (by decide)

/-! ### Words that steer the cell (R203, R207, R212, R215, R224, R234) -/

section
variable {c : Cell} {w : MicroWord} (k : CellCtx) (ha : wA w = 0) (hb : wB w = 0) (hc : wC w = 0) (hnext : wNext w = 0)
include ha hb hc hnext

/-- RET pops its successor (R207). -/
theorem opRet_pops {pc : Nat} {st : List Nat} (hi : wImm w = 0) (hstack : c.stack = pc :: st) (ht : transferOk c pc = true) :
    opRet k w c = .goto { c with stack := st } pc := by
  simp [opRet, legalIf, ha, hb, hc, hnext, hi, hstack, ht]

/-- RET 1 is the fault return (R224). -/
theorem opRet_returns (hi : wImm w = 1) (ht : transferOk c c.fPc = true) :
    opRet k w c = .goto { c with fValid := false } c.fPc := by
  simp [opRet, legalIf, ha, hb, hc, hnext, hi, ht]

end

section
variable {s : State} {n : Nat} {w : MicroWord} (hw : wordAt s n w = true)
include hw

/-- A read of CELL_MSG takes the oldest message. -/
theorem exec_cellMsgRead (hop : wOp w = 0x10) (ha : reg (wA w) = true) (hb : wB w = 0) (hc : wC w = 0) (hi : wImm w = 0x1C) :
    exec (.cellMsgRead n) s = .next (cellGoes s n w { setX (getCell s n) (wA w) ((getCell s n).msgs.headD 0) 0 with
      msgs := (getCell s n).msgs.tail }) := by
  have done : opMfc n (cellCtx s n) w (getCell s n) = .done { setX (getCell s n) (wA w) ((getCell s n).msgs.headD 0) 0 with
      msgs := (getCell s n).msgs.tail } := by
    simp [opMfc, legalIf, ha, hb, hc, hi, cellRegRead, cellRegSide, setX]
  have runs : runWord (opMfc n) s n = _ := (runWord_of_wordAt hw _).trans (congrArg _ done)
  obtain ⟨hn, hrun, hgate, hword, -, -⟩ := (wordAt_iff s n w).1 hw
  exact (cellRow_of_guard hn (by simp only [hrun, hgate, hword, hop, hi]; rfl) _).trans (congrArg _ runs)

/-- A reserved OP is machine check 4. -/
theorem exec_reservedOp (hop : wOp w = 0x26 ∨ wOp w = 0x27 ∨ wOp w = 0x3F) :
    exec (.reservedOp n) s =
      .next (machineCheck (modCell s n (fun _ => getCell s n)) n 4 (wCond w) (custPc (getCell s n))) := by
  have runs := runWord_of_wordAt hw (fun _ _ c => illegal c)
  obtain ⟨hn, hrun, hgate, hword, -, -⟩ := (wordAt_iff s n w).1 hw
  exact (cellRow_of_guard hn (by rw [hrun, hgate, hword]; simpa [or_assoc] using hop) _).trans (congrArg _ runs)

end

/-- A cell whose CELL_PWR names state `p`. -/
def aimedAt (p : Nat) (c : Cell) : Cell := { c with pwrTarget := p }

/-- The cell stands at the same word whatever CELL_PWR holds. -/
theorem wordAt_aimedAt (s : State) (n p : Nat) (w : MicroWord) : wordAt (modCell s n (aimedAt p)) n w = wordAt s n w := by
  simp only [wordAt, cellRuns, getCell_modCell]
  rfl

/-- A cell that holds on the COND of its word. -/
def heldOn (c : Cell) : Cell := { c with hold := true, stalled := false, wd := 0 }

/-- COND 15 never holds: a word that is done waits on it. -/
theorem cellGoes_of_never {w : MicroWord} (hcond : wCond w = 15) (s : State) (n : Nat) (d : Cell) :
    cellGoes s n w d = modCell s n (fun _ => heldOn d) := by
  have waits : successor d w = none := by simp [successor, condHolds, hcond]
  simp only [cellGoes, takeNext, getCell_modCell, waits, modCell_modCell]
  rfl

/-- PWAIT with a TARGET from 1 to 4, outside the customer window and without a job (R234). -/
theorem opPwait_done {c : Cell} {w : MicroWord} (k : CellCtx) (ha : wA w = 0) (hb : wB w = 0) (hc : wC w = 0) (hi : wImm w = 0)
    (hcust : custPc c = false) (hjob : c.job = none) (hlow : 1 ≤ c.pwrTarget) (hhigh : c.pwrTarget ≤ 4) :
    opPwait k w c = .done { c with pwrAborted := false } :=
  legalIf_of (by simp [ha, hb, hc, hi, hcust, hjob, hlow, hhigh]) _ _

/-- PWAIT holds and begins the entry into the state that CELL_PWR, or the core, names (R499, R500). -/
theorem exec_pwait {s : State} {n target : Nat} {w : MicroWord} {core : Option Nat} (hw : wordAt s n w = true)
    (htarget : core.getD (getCell s n).pwrTarget = target) (hop : wOp w = 0x15) (ha : wA w = 0) (hb : wB w = 0) (hc : wC w = 0)
    (hi : wImm w = 0) (hcust : custPc (getCell s n) = false) (hjob : (getCell s n).job = none) (hlow : 1 ≤ target)
    (hhigh : target ≤ 4) (hkeeps : target = 1 ∨ regionKeeps s n = true) (hforced : (getDom s n).forced = false)
    (hfailed : (getDom s n).failed = false) :
    exec (.pwait n core) s = .next (modDom
      (modCell s n (fun x => { x with pwrTarget := target, pwrAborted := false, hold := true, stalled := false, wd := 0 })) n
      (fun d => Dom.latched { d with state := target, target := target, entry := some s.uptime, aborted := false } s n target)) := by
  have aimed : getCell (modCell s n (aimedAt target)) n = aimedAt target (getCell s n) := getCell_modCell ..
  obtain ⟨hn, hrun, hgate, hword, -, hcond⟩ := (wordAt_iff s n w).1 hw
  have never : wCond w = 15 := by simpa [condLegal, hop] using hcond
  have done : opPwait (cellCtx (modCell s n (aimedAt target)) n) w (aimedAt target (getCell s n)) =
      .done { aimedAt target (getCell s n) with pwrAborted := false } :=
    opPwait_done _ ha hb hc hi hcust hjob hlow hhigh
  have runs : runWord opPwait (modCell s n (aimedAt target)) n =
      modCell s n (fun x => { x with pwrTarget := target, pwrAborted := false, hold := true, stalled := false, wd := 0 }) := by
    rw [runWord_of_wordAt ((wordAt_aimedAt ..).trans hw), aimed, done]
    exact (cellGoes_of_never never ..).trans (modCell_modCell ..)
  have holds : (getCell (runWord opPwait (modCell s n (aimedAt target)) n) n).hold = true := by
    rw [runs, getCell_modCell]
  have inRange : (decide (target < 8) && (decide (target ≤ 1) || decide (4 < target) || regionKeeps s n)) = true := by
    rcases hkeeps with rfl | h
    · rfl
    · simp only [h, Bool.or_true, Bool.and_true, decide_eq_true_eq]
      omega
  change execPwait n core s = _
  simp only [execPwait, htarget]
  refine (cellRow_of_guard hn ?_ _).trans (congrArg _ ((if_pos holds).trans (congrArg (modDom · n _) runs)))
  rw [hrun, hgate, hword, hop, hforced, hfailed]
  simpa using inRange

/-- Settles O3: each word meets its form; PWAIT alone changes a domain beside its cell. -/
theorem cellControlWords : Obligations.CellControlWords := fun _ _ _ hw =>
  ⟨fun hop ha hb hc hi => runRow_of_done hw hop (legalIf_of (by simp [ha, hb, hc, hi]) _ _),
    fun hop ha hb hc => runRow_of_done hw hop (legalIf_of (by simp [ha, hb, hc]) _ _),
    fun hop ha hb hc hi => exec_cellMsgRead hw hop ha hb hc hi,
    fun hop ha hb hc ht hcust => runRow_of_done hw hop (legalIf_of (by simpa [ha, hb, hc, ht] using hcust) _ _),
    fun hop h41 hi hroom hcust => runRow_of_goto hw hop (legalIf_of (by simpa [h41, hi, hroom, or_assoc] using hcust) _ _),
    fun _ _ hop ha hb hc hnext hi hstack ht => runRow_of_goto hw hop (opRet_pops _ ha hb hc hnext hi hstack ht),
    fun hop ha hb hc hnext hi ht => runRow_of_goto hw hop (opRet_returns _ ha hb hc hnext hi ht),
    fun hop ha hb hc hi ht => runRow_of_done hw hop (legalIf_of (by simp [ha, hb, hc, hi, ht]) _ _),
    fun hop => exec_reservedOp hw hop,
    fun _ hop ha hb hc hi hcust hjob hlow hhigh hkeeps hforced hfailed =>
      exec_pwait hw rfl hop ha hb hc hi hcust hjob hlow hhigh hkeeps hforced hfailed⟩

/-! #### Ports (R216, R217, R226, R227, R259) -/

/-- Every probe of a byte range lies in it. -/
theorem rangeProbe_lt {a len x : Nat} (h : x ∈ rangeProbe a len) : x < a + len := by
  by_cases hn : min len 0x40001 = 0
  · simp [rangeProbe, hn] at h
  · simp only [rangeProbe, hn, if_false, List.cons_append, List.mem_cons, List.mem_append, List.mem_map, List.mem_range,
      List.not_mem_nil, or_false] at h
    rcases h with rfl | ⟨i, hi, rfl⟩ | rfl <;> omega

/-- A byte of scratch may be reached. -/
theorem accessKind_of_scratch {x : Nat} (h : x < 0x10000) (c : Cell) : accessKind c x 1 = 0 := by
  unfold accessKind
  rw [if_neg (by omega), if_pos (by omega)]

section
variable {c : Cell} {w : MicroWord} {k : CellCtx}

/-- A transfer within its stream and in the ranges of the cell joins the queue. -/
theorem issueDma_done {op : DmaOp} (hext : op.offset + op.len ≤ streamExtent k op.stream)
    (hacc : ∀ x ∈ rangeProbe op.addr op.len ++ windowProbe op.stream op.offset op.len, accessKind c x 1 = 0)
    (hroom : c.dma.length < 8) : issueDma k c op = .done { c with dma := c.dma ++ [op] } := by
  unfold issueDma
  rw [if_neg hext.not_gt, guardAccess_ok hacc, if_pos hroom]

/-- LOADKEY of a key that bank 0 can take (R217, R228). -/
theorem opLoadkey_done {sel a len : Nat} (hsel : (getX c (wB w)).toNat = sel) (haddr : (getX c (wA w)).toNat = a)
    (hlen : k.keyLens.getD sel 0 = len) (ha : reg (wA w) = true) (hb : reg (wB w) = true) (hc : reg (wC w) = true) (hi : wImm w = 0)
    (hta : tagX c (wA w) = 0) (htb : tagX c (wB w) = 0) (h2 : sel < 2) (hkey : sel < k.keyLens.length) (hbank : a + len ≤ 0x4000)
    (hst : ∀ p ∈ shareLines a len, storeTagOk c p.1 p.2 = true) (hroom : c.dma.length < 8) (hmask : shareMask len ≤ c.maskLevel) :
    opLoadkey k w c = .done { setX c (wC w) (BitVec.ofNat 64 len) 0 with
      dma := c.dma ++ [⟨2, sel, 0, a, len⟩], maskLevel := c.maskLevel - shareMask len } := by
  subst hsel haddr hlen
  have inScratch : ∀ x ∈ rangeProbe (getX c (wA w)).toNat (k.keyLens.getD (getX c (wB w)).toNat 0), accessKind c x 1 = 0 :=
    fun x hx => accessKind_of_scratch (by have := rangeProbe_lt hx; omega) c
  refine (legalIf_of ?_ _ _).trans ((guardForbidden_ok inScratch _).trans ((legalIf_of ?_ _ _).trans (if_pos ⟨hroom, hmask⟩)))
  · simp [ha, hb, hc, hi, hta, htb, h2, hkey]
  · rw [decide_eq_true hbank, List.all_eq_true.2 hst]
    rfl

/-- SCHK with enough mask units (R226, R228). -/
theorem opSchk_done (ha : wA w = 0) (hb : wB w = 0) (hc : wC w = 0) (hi : wImm w = 0) (hmask : Config.checkMask.val ≤ c.maskLevel) :
    opSchk k w c = .done c.startCheck.drawProj :=
  (legalIf_of (by simp [ha, hb, hc, hi]) _ _).trans (if_neg hmask.not_gt)

/-- HINIT with a function that IMM names, and for raw Keccak a rate that X[B] gives (R227). -/
theorem opHinit_done {f r : Nat} (hfun : wImm w % 16 = f) (hidle : c.hash.busy = none) (ha : wA w = 0) (hc : wC w = 0) (hi : bits (wImm w) 7 4 = 0)
    (hmask : bit (wImm w) 8 = false ∨ 3 ≤ f)
    (hf : (f < 8 ∧ wB w = 0 ∧ r = 0) ∨ (f = 8 ∧ reg (wB w) = true ∧ tagX c (wB w) = 0 ∧
      8 ≤ (getX c (wB w)).toNat ∧ (getX c (wB w)).toNat ≤ 168 ∧ (getX c (wB w)).toNat % 8 = 0 ∧ r = (getX c (wB w)).toNat)) :
    opHinit k w c = .done { c with hash := ⟨f, bit (wImm w) 8, r, [], 0, false, none, 0⟩ } := by
  have free : ¬ c.hash.busy.isSome = true := by simp [hidle]
  subst hfun
  have masks : (!bit (wImm w) 8 || decide (3 ≤ wImm w % 16)) = true := by simpa using hmask
  refine (legalIf_of ?_ _ _).trans ((if_neg free).trans ?_)
  · rcases hf with ⟨hlt, hb, -⟩ | ⟨heq, hb, ht, h8, h168, hr, -⟩
    · simp [ha, hc, hi, masks, hb, hlt.le, hlt.ne]
    · simp [ha, hc, hi, heq, hb, ht, h8, h168, hr]
  · rcases hf with ⟨hlt, -, rfl⟩ | ⟨heq, -, -, -, -, -, rfl⟩
    · rw [if_neg hlt.ne]
    · rw [if_pos heq]

/-- HABS (R227, R248): the lines are public, or hold the shares of a masked unit. -/
theorem opHabs_done {a len : Nat} (haddr : (getX c (wB w)).toNat = a) (hlen : (getX c (wC w)).toNat = len)
    (hidle : c.hash.busy = none) (ha : wA w = 0) (hb : reg (wB w) = true)
    (hc : reg (wC w) = true) (hi : wImm w = 0) (htb : tagX c (wB w) = 0) (htc : tagX c (wC w) = 0)
    (hacc : ∀ x ∈ rangeProbe a len, accessKind c x 1 = 0)
    (htags : (∀ l ∈ linesOf a (min len 0x40001), tagAt c l = 0) ∨
      (c.hash.masked = true ∧ a + len ≤ 0x4000 ∧ ∀ p ∈ shareLines a len, tagAt c p.1 = p.2)) :
    opHabs k w c = .done { c with hash := { c.hash with busy := some (false, a, len), due := hashDue c.hash false len } } := by
  subst haddr hlen
  have free : ¬ c.hash.busy.isSome = true := by simp [hidle]
  refine (legalIf_of ?_ _ _).trans ((guardAccess_ok hacc _).trans (if_neg free))
  rcases htags with h | ⟨hm, hbank, h⟩
  · have untagged : (linesOf (getX c (wB w)).toNat (min (getX c (wC w)).toNat 0x40001)).any (fun l => tagAt c l != 0) = false := by
      simpa using h
    simp [ha, hb, hc, hi, htb, htc, untagged]
  · have shared : (shareLines (getX c (wB w)).toNat (getX c (wC w)).toNat).all (fun p => tagAt c p.1 == p.2) = true :=
      List.all_eq_true.2 (fun p hp => beq_of_eq (h p hp))
    simp [ha, hb, hc, hi, htb, htc, hm, inBank0, hbank, shared]

/-- HSQZ (R227, R248): a masked unit writes shares. -/
theorem opHsqz_done {a len : Nat} (haddr : (getX c (wA w)).toNat = a) (hlen : (getX c (wC w)).toNat = len)
    (hidle : c.hash.busy = none) (ha : reg (wA w) = true) (hb : wB w = 0)
    (hc : reg (wC w) = true) (hi : wImm w = 0) (hta : tagX c (wA w) = 0) (htc : tagX c (wC w) = 0)
    (hacc : ∀ x ∈ rangeProbe a len, accessKind c x 1 = 0)
    (htags : c.hash.masked = false ∨ (a + len ≤ 0x4000 ∧ ∀ p ∈ shareLines a len, storeTagOk c p.1 p.2 = true)) :
    opHsqz k w c = .done { c with hash := { c.hash with busy := some (true, a, len), due := hashDue c.hash true len } } := by
  subst haddr hlen
  have free : ¬ c.hash.busy.isSome = true := by simp [hidle]
  refine (legalIf_of (by simp [ha, hb, hc, hi, hta, htc]) _ _).trans
    ((guardAccess_ok hacc _).trans ((legalIf_of ?_ _ _).trans (if_neg free)))
  rcases htags with h | ⟨hbank, h⟩
  · simp [h]
  · simp [inBank0, hbank, List.all_eq_true.2 h]

end

/-- A cell with one more BNE request pending. -/
def bneAsked (c : Cell) : Cell := { c with bnePend := c.bnePend + 1 }

/-- BNEREQ passes the request block to the BNE that serves the cell's block (R217, R259, R261). -/
theorem exec_bnereq {s : State} {n b xb : Nat} {w : MicroWord} {j : Job} (hw : wordAt s n w = true) (hop : wOp w = 0x19)
    (hxb : (getX (getCell s n) (wB w)).toNat = xb) (ha : wA w = 0)
    (hb : reg (wB w) = true) (hc : wC w = 0) (hi : wImm w = 0) (ht : tagX (getCell s n) (wB w) = 0)
    (hacc : ∀ x ∈ rangeProbe (0x100000 + xb) 32, accessKind (getCell s n) x 1 = 0) (hroom : (cellCtx s n).bneRoom = true)
    (hjob : (getCell s n).job.bind (getJob s) = some j) (hbne : bneFor s (n / 8) = some b) (hfree : bneRoom s b = true)
    (hpend : (getCell (cellGoes s n w (bneAsked (getCell s n))) n).bnePend =
      (getCell s n).bnePend + 1) :
    exec (.bnereq n) s = .next (drew'
      (modBne (cellGoes s n w (bneAsked (getCell s n))) b
        (fun x => { x with queue := x.queue ++ [rawReq s n j xb] }))
      (seedLen (fieldLe (bytesGet (getCell s n).win xb 32) 2 2))) := by
  subst hxb
  have done : opBnereq (cellCtx s n) w (getCell s n) = .done (bneAsked (getCell s n)) :=
    (legalIf_of (by simp [ha, hb, hc, hi, ht]) _ _).trans ((guardAccess_ok hacc _).trans (if_pos hroom))
  have runs : runWord opBnereq s n = cellGoes s n w (bneAsked (getCell s n)) :=
    (runWord_of_wordAt hw _).trans (congrArg _ done)
  obtain ⟨k, hk, hget⟩ := Option.bind_eq_some_iff.1 hjob
  obtain ⟨hn, hrun, hgate, hword, -, -⟩ := (wordAt_iff s n w).1 hw
  change execBnereq n s = _
  simp only [execBnereq, hword, runs, hk, hget, hbne, hfree, Bool.not_true, Bool.false_eq_true, if_false, if_pos hpend]
  exact cellRow_of_guard hn (by rw [hrun, hgate, hop]; rfl) _

/-- Settles O5: each word meets its form, its accesses no fault, and its port has room. -/
theorem cellPortsComplete : Obligations.CellPortsComplete := fun _ _ _ hw =>
  ⟨fun hroom hacc hext =>
      ⟨fun hop hf ht => runRow_of_done hw hop ((legalIf_of (by simp [hf, ht]) _ _).trans (issueDma_done hext hacc hroom)),
        fun hop hf ht => runRow_of_done hw hop ((legalIf_of (by simp [hf, ht]) _ _).trans (issueDma_done hext hacc hroom))⟩,
    fun hop ha hb hc hi hta htb h2 hkey hbank hst hroom hmask =>
      runRow_of_done hw hop (opLoadkey_done rfl rfl rfl ha hb hc hi hta htb h2 hkey hbank hst hroom hmask),
    fun _ _ hop ha hb hc hi ht hacc hroom hjob hbne hfree hpend =>
      exec_bnereq hw hop rfl ha hb hc hi ht hacc hroom hjob hbne hfree hpend,
    fun hop ha hb hc hi hmask => runRow_of_done hw hop (opSchk_done ha hb hc hi hmask),
    fun hidle =>
      ⟨fun hop ha hc hi hf hb hm => runRow_of_done hw hop (opHinit_done rfl hidle ha hc hi hm (.inl ⟨hf, hb, rfl⟩)),
        fun hop ha hc hi hf hb ht h8 h168 hr => runRow_of_done hw hop
          (opHinit_done hf hidle ha hc hi (.inr (by decide)) (.inr ⟨rfl, hb, ht, h8, h168, hr, rfl⟩)),
        fun hop ha hb hc hi htb htc hacc htags =>
          runRow_of_done hw hop (opHabs_done rfl rfl hidle ha hb hc hi htb htc hacc htags),
        fun hop ha hb hc hi hta htc hacc htags =>
          runRow_of_done hw hop (opHsqz_done rfl rfl hidle ha hb hc hi hta htc hacc htags)⟩⟩

end Sys2Proof.Proofs

/-! SUPPORT. The vector words of a cell (R218 to R221, R228 to R231). -/

namespace Sys2Proof.Proofs

open Sys2Proof Machine Laws

/-! ### Element-wise words (R218 to R220) -/

section
variable {c : Cell} {w : MicroWord} {t : Nat} (k : CellCtx)

/-- Both sources public: the result is. -/
theorem noTag_of_public (hb : tagV c (wB w) = 0) (hc : tagV c (wC w) = 0) : noTag (tagV c (wB w)) (tagV c (wC w)) = some 0 := by
  simp [noTag, hb, hc]

section
variable (ha : reg (wA w) = true) (hb : reg (wB w) = true) (hc : reg (wC w) = true)
include ha hb hc

/-- Sources whose tags join give the elements of their operation. -/
theorem vec2_of_tag {form : Bool} {j : Nat → Nat → Option Nat} (hform : form = true)
    (ht : j (tagV c (wB w)) (tagV c (wC w)) = some t) (f : Nat → Nat → Nat → Nat) :
    vec2 w c form j f = .done (vecTakes c w t (f (elemW (wImm w)))) := by
  simp [vec2, hform, ha, hb, hc, ht, vecTakes]

/-- The form whose only immediate is the width. -/
theorem formVVV_of_width (hi : wImm w / 4 = 0) : formVVV w = true := by simp [formVVV, ha, hb, hc, hi]

section
variable (hi : wImm w / 4 = 0)
include hi

section
variable (ht : joinTag (tagV c (wB w)) (tagV c (wC w)) = some t)
include ht

theorem opVadd_done : opVadd k w c = .done (vecTakes c w t (fun a b => (a + b) % 2 ^ elemW (wImm w))) :=
  vec2_of_tag ha hb hc (formVVV_of_width ha hb hc hi) ht _

theorem opVsub_done : opVsub k w c = .done (vecTakes c w t (fun a b => (a + (2 ^ elemW (wImm w) - b)) % 2 ^ elemW (wImm w))) :=
  vec2_of_tag ha hb hc (formVVV_of_width ha hb hc hi) ht _

theorem opVaddm_done : opVaddm k w c = .done (vecTakes c w t
    (fun a b => (if c.vmod.toNat ≤ a + b then a + b - c.vmod.toNat else a + b) % 2 ^ elemW (wImm w))) := by
  simp only [opVaddm, vec2_of_tag ha hb hc (formVVV_of_width ha hb hc hi) ht]

theorem opVsubm_done : opVsubm k w c = .done (vecTakes c w t (fun a b => toElem (elemW (wImm w))
    (if (a : Int) - b < 0 then (a : Int) - b + c.vmod.toNat else (a : Int) - b))) := by
  simp only [opVsubm, vec2_of_tag ha hb hc (formVVV_of_width ha hb hc hi) ht]

theorem opVxor_done : opVxor k w c = .done (vecTakes c w t (fun a b => a ^^^ b)) :=
  vec2_of_tag ha hb hc (formVVV_of_width ha hb hc hi) ht _

end

section
variable (ht : oneTag (tagV c (wB w)) (tagV c (wC w)) = some t)
include ht

theorem opVmul_done : opVmul k w c = .done (vecTakes c w t (fun a b => a * b % 2 ^ elemW (wImm w))) :=
  vec2_of_tag ha hb hc (formVVV_of_width ha hb hc hi) ht _

theorem opVand_done : opVand k w c = .done (vecTakes c w t (fun a b => a &&& b)) :=
  vec2_of_tag ha hb hc (formVVV_of_width ha hb hc hi) ht _

end

end

section
variable (htb : tagV c (wB w) = 0) (htc : tagV c (wC w) = 0)
include htb htc

/-- VADDS and VSUBS clamp the exact result of their operands, signed or not (R220). -/
theorem satOp_of_public (hi : wImm w / 8 = 0) (f : Int → Int → Int) :
    satOp w c f = .done (vecTakes c w 0 (fun a b => clampElem (bit (wImm w) 2) (elemW (wImm w))
      (f (if bit (wImm w) 2 then sElem (elemW (wImm w)) a else a) (if bit (wImm w) 2 then sElem (elemW (wImm w)) b else b)))) := by
  simp only [satOp, vec2_of_tag ha hb hc (beq_of_eq hi) (noTag_of_public htb htc)]
  cases bit (wImm w) 2 <;> rfl

theorem opVmulhr_done (hi : wImm w / 4 = 0) (hwide : wImm w % 4 = 1 ∨ wImm w % 4 = 2) :
    opVmulhr k w c = .done (vecTakes c w 0 (fun a b => toElem (elemW (wImm w)) ((sElem (elemW (wImm w)) a *
      sElem (elemW (wImm w)) b + 2 ^ (elemW (wImm w) - 1)) / (2 ^ elemW (wImm w) : Int)))) :=
  vec2_of_tag ha hb hc (by simpa [formVVV_of_width ha hb hc hi] using hwide) (noTag_of_public htb htc) _

theorem opVor_done (hi : wImm w / 4 = 0) : opVor k w c = .done (vecTakes c w 0 (fun a b => a ||| b)) :=
  vec2_of_tag ha hb hc (formVVV_of_width ha hb hc hi) (noTag_of_public htb htc) _

/-- VCMP: VZ says whether no element meets the predicate. -/
theorem opVcmp_done (hi : wImm w / 32 = 0) (hp : bits (wImm w) 4 2 < 6) :
    let d := vecTakes c w 0 (fun a b => if cmpPred (bits (wImm w) 4 2) (elemW (wImm w)) a b then 2 ^ elemW (wImm w) - 1 else 0)
    opVcmp k w c = .done { d with vz := decide (getV d (wA w) = 0) } := by
  have hform : (wImm w / 32 == 0 && decide (bits (wImm w) 4 2 < 6)) = true := by simp [hi, hp]
  simp only [opVcmp, vec2_of_tag ha hb hc hform (noTag_of_public htb htc)]
  rfl

end

end

end

/-- Settles O6: each word meets its form, and the tags of its sources join. -/
theorem vectorArithmetic : Obligations.VectorArithmetic := fun _ _ _ hw ha hb hc =>
  ⟨fun _ hi ht => ⟨fun hop => runRow_of_done hw hop (opVadd_done _ ha hb hc hi ht),
      fun hop => runRow_of_done hw hop (opVsub_done _ ha hb hc hi ht),
      fun hop => runRow_of_done hw hop (opVaddm_done _ ha hb hc hi ht),
      fun hop => runRow_of_done hw hop (opVsubm_done _ ha hb hc hi ht),
      fun hop => runRow_of_done hw hop (opVxor_done _ ha hb hc hi ht)⟩,
    fun _ hi ht => ⟨fun hop => runRow_of_done hw hop (opVmul_done _ ha hb hc hi ht),
      fun hop => runRow_of_done hw hop (opVand_done _ ha hb hc hi ht)⟩,
    fun htb htc => ⟨fun hop hi => runRow_of_done hw hop (satOp_of_public ha hb hc htb htc hi (· + ·)),
      fun hop hi => runRow_of_done hw hop (satOp_of_public ha hb hc htb htc hi (· - ·)),
      fun hop hi hwide => runRow_of_done hw hop (opVmulhr_done _ ha hb hc htb htc hi hwide),
      fun hop hi => runRow_of_done hw hop (opVor_done _ ha hb hc htb htc hi),
      fun hop hi hp => runRow_of_done hw hop (opVcmp_done _ ha hb hc htb htc hi hp)⟩⟩

/-! ### Words of one source, and compression (R218, R220, R221) -/

section
variable {c : Cell} {q : Nat}

theorem modElems_of_ne (h : q ≠ 0) (wd : Nat) (l : List Nat) : modElems c wd q l = l := if_neg h
theorem modElems_zero (wd : Nat) (l : List Nat) : modElems c wd 0 l = (List.range l.length).map (freeElem c wd) := if_pos rfl
theorem drewMod_of_ne (h : q ≠ 0) (n : Nat) : drewMod c q n = c := if_neg h
theorem drewMod_zero (n : Nat) : drewMod c 0 n = drew c n := if_pos rfl

end

section
variable {c : Cell} {w : MicroWord} (k : CellCtx)

/-- A legal word of one source gives the elements of its operation. -/
theorem vec1_of {form tagged : Bool} (ha : reg (wA w) = true) (hb : reg (wB w) = true) (hform : form = true) (hc : wC w = 0)
    (ht : tagged = true ∨ tagV c (wB w) = 0) (f : Nat → Nat → Nat) :
    vec1 w c form tagged f = .done (vecMaps c w (f (elemW (wImm w)))) :=
  legalIf_of (by simpa [ha, hb, hform, hc] using ht) _ _

theorem opVbcast_done (ha : reg (wA w) = true) (hb : reg (wB w) = true) (hc : wC w = 0) (hi : wImm w / 4 = 0) :
    opVbcast k w c = .done (setV c (wA w) (ofElems (elemW (wImm w))
      (List.replicate (128 / elemW (wImm w)) ((getX c (wB w)).toNat % 2 ^ elemW (wImm w)))) (tagX c (wB w))) :=
  legalIf_of (by simp [ha, hb, hc, hi]) _ _

theorem opVext_done (ha : reg (wA w) = true) (hb : reg (wB w) = true) (hc : wC w = 0) (hi : wImm w / 64 = 0) :
    opVext k w c = .done (setX c (wA w) (BitVec.ofNat 64
      ((elems (elemW (wImm w)) (getV c (wB w))).getD (bits (wImm w) 5 2 % (128 / elemW (wImm w))) 0)) (tagV c (wB w))) :=
  legalIf_of (by simp [ha, hb, hc, hi]) _ _

theorem opVperm_done (hform : formVVV w = true) (ht : tagV c (wC w) = 0) :
    opVperm k w c = .done (setV c (wA w) (ofElems (elemW (wImm w)) ((elems (elemW (wImm w)) (getV c (wC w))).map
      (fun i => (elems (elemW (wImm w)) (getV c (wB w))).getD (i % (128 / elemW (wImm w))) 0))) (tagV c (wB w))) :=
  legalIf_of (by simp [hform, ht]) _ _

/-- VRSHR by less than the width (R220). -/
theorem opVrshr_done (ha : reg (wA w) = true) (hb : reg (wB w) = true) (hc : wC w = 0) (hs : bits (wImm w) 7 2 < elemW (wImm w))
    (ht : tagV c (wB w) = 0) :
    opVrshr k w c = .done (vecMaps c w (fun a => if bits (wImm w) 7 2 = 0 then a else toElem (elemW (wImm w))
      (((if bit (wImm w) 8 then sElem (elemW (wImm w)) a else (a : Int)) + 2 ^ (bits (wImm w) 7 2 - 1)) / (2 ^ bits (wImm w) 7 2 : Int)))) := by
  simp only [opVrshr, vec1_of ha hb (decide_eq_true hs) hc (.inr ht)]

theorem opVsh_done (ha : reg (wA w) = true) (hb : reg (wB w) = true) (hc : wC w = 0) :
    opVsh k w c = .done (vecMaps c w (fun a => if elemW (wImm w) ≤ bits (wImm w) 7 2 then 0
      else if bit (wImm w) 8 then a / 2 ^ bits (wImm w) 7 2 else a * 2 ^ bits (wImm w) 7 2 % 2 ^ elemW (wImm w))) := by
  simp only [opVsh, vec1_of ha hb rfl hc (.inl rfl)]

/-- Compression and decompression work on elements of 16 bits. -/
theorem elemW_of_formComp (h : formComp w = true) : elemW (wImm w) = 16 := by
  simp only [formComp, Bool.and_eq_true, beq_iff_eq] at h
  simp [elemW, h.1.1.1]

section
variable (hform : formComp w = true) (ha : reg (wA w) = true) (hb : reg (wB w) = true) (hc : wC w = 0) (ht : tagV c (wB w) = 0)
include hform ha hb hc ht

theorem opVcomp_done (hq : c.vmod.toNat ≠ 0) :
    opVcomp k w c = .done (vecMaps c w (compressD c.vmod.toNat (bits (wImm w) 5 2))) := by
  refine (legalIf_of (by simp [hform, ha, hb, hc, ht]) _ _).trans ?_
  rw [modElems_of_ne hq, drewMod_of_ne hq, vecMaps, elemW_of_formComp hform, ht]

theorem opVcomp_free (hq : c.vmod.toNat = 0) :
    opVcomp k w c = .done (drew (setV c (wA w) (ofElems 16 ((List.range 8).map (freeElem c 16))) 0) 8) := by
  refine (legalIf_of (by simp [hform, ha, hb, hc, ht]) _ _).trans ?_
  rw [hq, modElems_zero, drewMod_zero, List.length_map]
  rfl

theorem opVdecomp_done : opVdecomp k w c = .done (vecMaps c w (decompressD c.vmod.toNat (bits (wImm w) 5 2))) :=
  vec1_of ha hb hform hc (.inr ht) _

end

end

/-! ### Gadgets and UNMASK (R228, R229, R231) -/

/-- The shares of a triple at the width of a word. -/
def sharesIn (c : Cell) (w : MicroWord) (t : Nat) : List (Nat × Nat × Nat) := tripleElems c (elemW (wImm w)) t

/-- The cell once a gadget has taken its mask units. -/
def paidGadget (c : Cell) (w : MicroWord) : Cell := { c with maskLevel := c.maskLevel - gadgetMask (bits (wImm w) 8 6) }

/-- The fresh sharing of these values that a gadget leaves. -/
def reshared (c : Cell) (w : MicroWord) (arith : Bool) (vals : List Nat) : Cell :=
  writeTriple (paidGadget c w) (elemW (wImm w)) (wA w) arith vals

section
variable {c : Cell} {w : MicroWord} (k : CellCtx) (hform : gadgetForm w = true) (hpaid : gadgetMask (bits (wImm w) 8 6) ≤ c.maskLevel)
include hform hpaid

theorem opGadget_refresh (hf : bits (wImm w) 8 6 = 0) :
    opGadget k w c = .done (reshared c w false ((sharesIn c w (wB w)).map boolVal)) := by
  simp only [opGadget, legalIf_of hform, if_neg hpaid.not_gt]
  simp only [hf, reshared, paidGadget, sharesIn]

theorem opGadget_and (hf : bits (wImm w) 8 6 = 1) :
    opGadget k w c = .done (reshared c w false
      (List.zipWith (fun x y => boolVal x &&& boolVal y) (sharesIn c w (wB w)) (sharesIn c w (wC w)))) := by
  simp only [opGadget, legalIf_of hform, if_neg hpaid.not_gt]
  simp only [hf, reshared, paidGadget, sharesIn]

theorem opGadget_toBoolean (hf : bits (wImm w) 8 6 = 2) :
    opGadget k w c = .done (reshared c w false ((sharesIn c w (wB w)).map (arithVal (2 ^ elemW (wImm w))))) := by
  simp only [opGadget, legalIf_of hform, if_neg hpaid.not_gt]
  simp only [hf, reshared, paidGadget, sharesIn]

theorem opGadget_toArithmetic (hf : bits (wImm w) 8 6 = 3) :
    opGadget k w c = .done (reshared c w true ((sharesIn c w (wB w)).map boolVal)) := by
  simp only [opGadget, legalIf_of hform, if_neg hpaid.not_gt]
  simp only [hf, reshared, paidGadget, sharesIn]

theorem opGadget_compress (hf : bits (wImm w) 8 6 = 4) (hq : c.vmod.toNat ≠ 0) :
    opGadget k w c = .done (reshared c w false
      ((sharesIn c w (wB w)).map (fun x => compressD c.vmod.toNat (bits (wImm w) 5 2) (arithVal c.vmod.toNat x)))) := by
  simp only [opGadget, legalIf_of hform, if_neg hpaid.not_gt, modElems_of_ne hq, drewMod_of_ne hq]
  simp only [hf, reshared, paidGadget, sharesIn]

theorem opGadget_compress_free (hf : bits (wImm w) 8 6 = 4) (hq : c.vmod.toNat = 0) :
    opGadget k w c = .done (writeTriple (drew (paidGadget c w) (sharesIn c w (wB w)).length) (elemW (wImm w)) (wA w) false
      ((List.range (sharesIn c w (wB w)).length).map (freeElem (paidGadget c w) (elemW (wImm w))))) := by
  simp only [opGadget, legalIf_of hform, if_neg hpaid.not_gt, hq, modElems_zero, drewMod_zero, List.length_map]
  simp only [hf, paidGadget, sharesIn]

theorem opGadget_highBits (hf : bits (wImm w) 8 6 = 5) :
    opGadget k w c = .done (reshared c w false ((sharesIn c w (wB w)).map
      (fun x => highBits (if bits (wImm w) 5 2 = 0 then 95232 else 261888) (arithVal 8380417 x)))) := by
  simp only [opGadget, legalIf_of hform, if_neg hpaid.not_gt]
  simp only [hf, reshared, paidGadget, sharesIn]

theorem opGadget_norm (hf : bits (wImm w) 8 6 = 6) (hq : c.vmod.toNat ≠ 0) :
    opGadget k w c = .done { paidGadget c w with
      vz := (sharesIn c w (wB w)).all (fun x => decide (centredAbs c.vmod.toNat (arithVal c.vmod.toNat x) < c.vbound.toNat)) } := by
  simp only [opGadget, legalIf_of hform, if_neg hpaid.not_gt, if_neg hq, drewMod_of_ne hq]
  simp only [hf, flagVz, paidGadget, sharesIn]

theorem opGadget_norm_free (hf : bits (wImm w) 8 6 = 6) (hq : c.vmod.toNat = 0) :
    opGadget k w c = .done { drew (paidGadget c w) 1 with vz := (freeBits (paidGadget c w) 0).getLsbD 0 } := by
  simp only [opGadget, legalIf_of hform, if_neg hpaid.not_gt, hq, if_true, drewMod_zero]
  simp only [hf, flagVz, paidGadget]

theorem opGadget_equal (hf : bits (wImm w) 8 6 = 7) :
    opGadget k w c = .done { paidGadget c w with
      vz := (List.zipWith (fun x y => boolVal x == boolVal y) (sharesIn c w (wB w)) (sharesIn c w (wC w))).all id } := by
  simp only [opGadget, legalIf_of hform, if_neg hpaid.not_gt]
  simp only [hf, flagVz, paidGadget, sharesIn]

end

section
variable {c : Cell} {w : MicroWord} (k : CellCtx) (ha : reg (wA w) = true) (hb : wB w ≤ 4) (hc : wC w = 0) (hi : wImm w / 8 = 0)
  (hcust : custPc c = false ∨ c.customOut = true)
include ha hb hc hi hcust

/-- UNMASK recombines the shares of its triple (R231). -/
theorem opUnmask_done (hq : bit (wImm w) 2 = true → c.vmod.toNat ≠ 0) :
    opUnmask k w c = .done (setV c (wA w) (ofElems (elemW (wImm w))
      (if bit (wImm w) 2 then (sharesIn c w (wB w)).map (arithVal c.vmod.toNat) else (sharesIn c w (wB w)).map boolVal)) 0) := by
  have legal : (reg (wA w) && decide (wB w ≤ 4) && wC w == 0 && wImm w / 8 == 0 && (!custPc c || c.customOut)) = true := by
    simpa [ha, hb, hc, hi] using hcust
  cases hbit : bit (wImm w) 2 with
  | false => simp only [opUnmask, legalIf_of legal, hbit, sharesIn, Bool.false_eq_true, if_false, drewMod_of_ne one_ne_zero]
  | true => simp only [opUnmask, legalIf_of legal, hbit, sharesIn, if_true, modElems_of_ne (hq hbit), drewMod_of_ne (hq hbit)]

theorem opUnmask_free (hbit : bit (wImm w) 2 = true) (hq : c.vmod.toNat = 0) :
    opUnmask k w c = .done (drew (setV c (wA w) (ofElems (elemW (wImm w))
      ((List.range (sharesIn c w (wB w)).length).map (freeElem c (elemW (wImm w))))) 0) (sharesIn c w (wB w)).length) := by
  have legal : (reg (wA w) && decide (wB w ≤ 4) && wC w == 0 && wImm w / 8 == 0 && (!custPc c || c.customOut)) = true := by
    simpa [ha, hb, hc, hi] using hcust
  simp only [opUnmask, legalIf_of legal, hbit, hq, sharesIn, if_true, modElems_zero, drewMod_zero, List.length_map]

end

/-- Settles O7: each word meets its form; GADGET is told apart by its function, and what needs a modulus by VMOD.Q. -/
theorem vectorMovesAndScaling : Obligations.VectorMovesAndScaling := fun _ _ _ hw =>
  ⟨fun ha hb => ⟨fun hop hc hi => runRow_of_done hw hop (opVbcast_done _ ha hb hc hi),
      fun hop hc hi => runRow_of_done hw hop (opVext_done _ ha hb hc hi),
      fun hop hc hs ht => runRow_of_done hw hop (opVrshr_done _ ha hb hc hs ht),
      fun hop hc => runRow_of_done hw hop (opVsh_done _ ha hb hc),
      fun hform hc ht => ⟨fun hop hq => runRow_of_done hw hop (opVcomp_done _ hform ha hb hc ht hq),
        fun hop hq => runRow_of_done hw hop (opVcomp_free _ hform ha hb hc ht hq),
        fun hop => runRow_of_done hw hop (opVdecomp_done _ hform ha hb hc ht)⟩,
      fun hop hc hi ht => runRow_of_done hw hop (opVperm_done _ (formVVV_of_width ha hb hc hi) ht)⟩,
    fun hop hform hpaid => ⟨fun hf => runRow_of_done hw hop (opGadget_refresh _ hform hpaid hf),
      fun hf => runRow_of_done hw hop (opGadget_and _ hform hpaid hf),
      fun hf => runRow_of_done hw hop (opGadget_toBoolean _ hform hpaid hf),
      fun hf => runRow_of_done hw hop (opGadget_toArithmetic _ hform hpaid hf),
      fun hf hq => runRow_of_done hw hop (opGadget_compress _ hform hpaid hf hq),
      fun hf => runRow_of_done hw hop (opGadget_highBits _ hform hpaid hf),
      fun hf hq => runRow_of_done hw hop (opGadget_norm _ hform hpaid hf hq),
      fun hf => runRow_of_done hw hop (opGadget_equal _ hform hpaid hf)⟩,
    fun hop ha hb hc hi hcust hq => runRow_of_done hw hop (opUnmask_done _ ha hb hc hi hcust hq),
    fun hq => ⟨fun hop hform hpaid => ⟨fun hf => runRow_of_done hw hop (opGadget_compress_free _ hform hpaid hf hq),
        fun hf => runRow_of_done hw hop (opGadget_norm_free _ hform hpaid hf hq)⟩,
      fun hop ha hb hc hi hcust hbit => runRow_of_done hw hop (opUnmask_free _ ha hb hc hi hcust hbit hq)⟩⟩

end Sys2Proof.Proofs

/-! SUPPORT. The polynomial words of a cell (R199, R225, R226). -/

namespace Sys2Proof.Proofs

open Sys2Proof Machine Laws

/-- A masked word whose public operand lies in bank 3: the second source is there in every share. -/
theorem publicOperand_of {c : Cell} {w : MicroWord} (hc : reg (wC w) = true) (ht : tagX c (wC w) = 0)
    (hfits : (getX c (wC w)).toNat % 4 = 0 ∧ (getX c (wC w)).toNat + 4 * polyN w ≤ 0x10000)
    (hbank : inBank 3 (getX c (wC w)).toNat (polyN w) = true) (hpub : polyTag c (getX c (wC w)).toNat (polyN w) = some 0) :
    if true then reg (wC w) = true ∧ tagX c (wC w) = 0 ∧
      ((getX c (wC w)).toNat % 4 = 0 ∧ (getX c (wC w)).toNat + 4 * polyN w ≤ 0x10000) ∧
      inBank 3 (getX c (wC w)).toNat (polyN w) = true ∧ polyTag c (getX c (wC w)).toNat (polyN w) = some 0 else wC w = 0 :=
  (if_pos rfl).mpr ⟨hc, ht, hfits, hbank, hpub⟩

/-- Settles O8: an unmasked word of one or two sources, and a masked one, as the polynomial unit runs them. -/
theorem polynomialWords : Obligations.PolynomialWords := by
  intro s n w hw ra rb c q k pa pb pd fits isPub mul three sharesFit ta tb fa fb
  refine ⟨fun hc hform => ⟨fun hm t ht hst => ?transform, fun hm hshares => ?maskedTransform⟩,
    fun rc tc fc => ⟨fun hm u d t hu hd ht => ⟨fun hst => ?product, fun a v ha hv hst hop hform => ?accumulate⟩,
      fun hm hshares hbank hpub => ?maskedProduct⟩⟩
  case transform =>
    exact ⟨fun hop => runRow_of_done hw hop (runPoly_one hform ra rb hc ta tb hm fa fb ht hst),
      fun hop => runRow_of_done hw hop (runPoly_one hform ra rb hc ta tb hm fa fb ht hst)⟩
  case maskedTransform =>
    obtain ⟨ia, ib, hs⟩ := hshares
    exact ⟨fun hop => runRow_of_done hw hop (runPoly_masked hform ra rb hc ta tb hm fa fb ia ib hs),
      fun hop => runRow_of_done hw hop (runPoly_masked hform ra rb hc ta tb hm fa fb ia ib hs)⟩
  case product =>
    have goes {mul : Bool} (hform : polyForm c w false mul = true) {f} :=
      (runPoly_two (f := f) hform ra rb rc ta tb tc hm fa fb fc hu hd ht).1 hst
    exact ⟨fun hop hform => runRow_of_done hw hop (goes hform), fun hop hform => runRow_of_done hw hop (goes hform),
      fun hop hform => runRow_of_done hw hop (goes hform)⟩
  case accumulate =>
    exact runRow_of_done hw hop ((runPoly_two hform ra rb rc ta tb tc hm fa fb fc hu hd ht).2 a v ha hv hst)
  case maskedProduct =>
    obtain ⟨ia, ib, hs⟩ := hshares
    have second := publicOperand_of rc tc fc hbank hpub
    have goes {mul needA : Bool} (hform : polyForm c w false mul = true) {f} :=
      runPoly_masked (needA := needA) (f := f) hform ra rb second ta tb hm fa fb ia ib hs
    exact ⟨fun hop hform => runRow_of_done hw hop (goes hform), fun hop hform => runRow_of_done hw hop (goes hform),
      fun hop hform => runRow_of_done hw hop (goes hform), fun hop hform => runRow_of_done hw hop (goes hform)⟩

end Sys2Proof.Proofs

/-! SUPPORT. The microstore, fault, power, life-cycle and firmware commands (R211, R241 to R245, R456, R460, R475, R478, R506). -/

namespace Sys2Proof.Proofs

open Sys2Proof Machine Laws

section
variable {s : State} {job : Nat} {j : Job}

/-! ### The microstore (R241 to R245) -/

/-- R241: an image that passes every check commits its record. -/
theorem exec_microLoad (hj : mgmtAt s job 0x0A00 j = true) {io : JobIo} {b : List Byte} (hin : inputIs j io b = true)
    (hok : imgCheck s (j.desc.pb 40) b = none) :
    exec (.microLoad job io) s = .next (withRead s j (stageCommit s j (JobRes.done [] 0)
      [.image (j.desc.pb 40) (imgSeq b) (sha384 b) b])) := by
  refine (runMgmt_of_mgmtAt hj _).trans (congrArg _ ((withInput_of hin _).trans ?_))
  simp only [hok]

/-- R245: the operation of an image starts at its ENTRY, on the cell that holds its job. -/
theorem exec_customerMacroOp {m : Nat} (hm : m < 64) (hj : engineAt s job (0x0AC0 + m) j = true) (hcell : j.onCell = true)
    (hown : (getCell s j.unit).job = some j.id) (hfresh : (getCell s j.unit).macroOp < 0xC0)
    (hrun : (getCell s j.unit).halted = false) (hserves : cellServes s j.unit = true) (io : JobIo) :
    exec (.customerMacroOp job io) s = .next (modCell s j.unit (fun x => { x with
      macroOp := 0xC0 + m, customOut := bit (imgEntry j.image m).keys 2 && j.keys.all (fun k => hasPol k.policy polCustom),
      jobLim := jobLimOf s j, jobSub := 0, pc := (imgEntry j.image m).entry, hold := false, stalled := false, wd := 0 })) := by
  have hget := getJob_of_engineAt hj
  simp only [engineAt, Bool.and_eq_true, beq_iff_eq] at hj
  obtain ⟨⟨⟨-, hup⟩, hop⟩, hres⟩ := hj
  have which : j.desc.opcode - 0x0AC0 = m := by omega
  change execCustomerMacroOp job io s = _
  simp only [execCustomerMacroOp, hget, which]
  exact doIf_of_guard (by simp [hup, hop, hres, hcell, hown, hfresh, hrun, hserves]; omega) _ _

/-! ### Faults (R475, R478) -/

section
variable (hj : mgmtAt s job 0x0B20 j = true)
include hj

theorem exec_faultConfig_severity (hn : j.desc.pb 40 = 0) (io : JobIo) :
    exec (.faultConfig job io) s = .next (stageCommit s j (JobRes.done [] 0)
      [.faultSev (j.desc.pb 41) (if j.desc.pb 42 = 0xFF then 0 else j.desc.pb 42 + 1)]) := by
  refine (runMgmt_of_mgmtAt hj _).trans (congrArg _ ?_)
  simp only [hn]

theorem exec_faultConfig_quiet (hn : j.desc.pb 40 = 1) (io : JobIo) :
    exec (.faultConfig job io) s = .next (stageCommit s j (JobRes.done [] 0) [.faultQuiet (j.desc.pn 44 4)]) := by
  refine (runMgmt_of_mgmtAt hj _).trans (congrArg _ ?_)
  simp only [hn]

theorem exec_faultConfig_limit (hn : 2 ≤ j.desc.pb 40) (io : JobIo) :
    exec (.faultConfig job io) s = .next (stageCommit s j (JobRes.done [] 0) [.faultLimit (j.desc.pb 41) (j.desc.pn 44 2)]) := by
  obtain ⟨k, hk⟩ := Nat.exists_eq_add_of_le' hn
  refine (runMgmt_of_mgmtAt hj _).trans (congrArg _ ?_)
  simp only [hk]

end

section
variable (hj : mgmtAt s job 0x0B22 j = true)
include hj

/-- R478: ACTION 0 clears the records of a handler. -/
theorem exec_faultClear_records (hn : j.desc.pb 40 = 0) (io : JobIo) :
    exec (.faultClear job io) s = .next (answerOk (clearChecks (noteFirst s
      (modHandler s (handlerOf (j.desc.pn 44 2)) (fun h => { h with first := none, hist := [] }))) (handlerOf (j.desc.pn 44 2))) j io) :=
  (runMgmt_of_mgmtAt hj _).trans (congrArg _ (if_pos hn))

/-- R478: ACTION 1 returns a FAILED unit. -/
theorem exec_faultClear_unit (hn : j.desc.pb 40 ≠ 0) {k : Nat} (hk : unitBit (j.desc.pn 44 2) = some k)
    (hfailed : (getUnit s k).state = .failed) (io : JobIo) :
    exec (.faultClear job io) s = .next (stageCommit s j (JobRes.done [] 0) [.faultClear k (j.desc.pn 44 2)]) := by
  refine (runMgmt_of_mgmtAt hj _).trans (congrArg _ ((if_neg hn).trans ?_))
  simp only [hk, hfailed, ne_eq, not_true_eq_false, if_false]

end

/-! ### Power (R506) -/

section
variable (hj : mgmtAt s job 0x0B30 j = true)
include hj

theorem exec_powerForce_release (hn : j.desc.pb 40 = 1) (io : JobIo) :
    exec (.powerForce job io) s =
      .next (answerOk (modDom s (j.desc.pn 44 2) (fun y => { y with forced := false })) j io) :=
  (runMgmt_of_mgmtAt hj _).trans (congrArg (fun t => Host.Outcome.next (answerOk t j io)) (if_pos hn))

/-- The state in which a domain is held in state `st`. -/
def domForced (s : State) (dom st : Nat) : State :=
  modDom s dom (fun y => Dom.latched { y with forced := true, state := st, target := st, entry := none, waking := none } s dom st)

/-- A cell that is raised takes up its work. -/
theorem exec_powerForce_cell (hn : j.desc.pb 40 ≠ 1) (hcell : j.desc.pn 44 2 < 128)
    (hup : j.desc.pb 41 < (getDom s (j.desc.pn 44 2)).state) (io : JobIo) :
    exec (.powerForce job io) s = .next (answerOk (modCell (domForced s (j.desc.pn 44 2) (j.desc.pb 41)) (j.desc.pn 44 2)
      (cellExit (getDom s (j.desc.pn 44 2)).state)) j io) :=
  (runMgmt_of_mgmtAt hj _).trans (congrArg (fun t => Host.Outcome.next (answerOk t j io)) ((if_neg hn).trans (if_pos ⟨hcell, hup⟩)))

theorem exec_powerForce_region (hn : j.desc.pb 40 ≠ 1) (hdom : 128 ≤ j.desc.pn 44 2) (hkind : domKind (j.desc.pn 44 2) = 2)
    (hlow : 3 ≤ j.desc.pb 41) (io : JobIo) :
    exec (.powerForce job io) s = .next (answerOk (modRng (domForced s (j.desc.pn 44 2) (j.desc.pb 41)) (j.desc.pn 44 2 - 144)
      (fun r => { r with src := 0, drbg := 0, blocks := [] })) j io) :=
  (runMgmt_of_mgmtAt hj _).trans (congrArg (fun t => Host.Outcome.next (answerOk t j io))
    ((if_neg hn).trans ((if_neg (fun h => hdom.not_gt h.1)).trans (if_pos ⟨hkind, hlow⟩))))

theorem exec_powerForce_other (hn : j.desc.pb 40 ≠ 1)
    (hdom : 128 ≤ j.desc.pn 44 2 ∨ (getDom s (j.desc.pn 44 2)).state ≤ j.desc.pb 41)
    (hkind : domKind (j.desc.pn 44 2) ≠ 2 ∨ j.desc.pb 41 < 3) (io : JobIo) :
    exec (.powerForce job io) s = .next (answerOk (domForced s (j.desc.pn 44 2) (j.desc.pb 41)) j io) := by
  have no_cell : ¬ (j.desc.pn 44 2 < 128 ∧ j.desc.pb 41 < (getDom s (j.desc.pn 44 2)).state) := by omega
  have no_region : ¬ (domKind (j.desc.pn 44 2) = 2 ∧ 3 ≤ j.desc.pb 41) := by omega
  exact (runMgmt_of_mgmtAt hj _).trans (congrArg (fun t => Host.Outcome.next (answerOk t j io))
    ((if_neg hn).trans ((if_neg no_cell).trans (if_neg no_region))))

end

/-! ### Life cycle and firmware (R456, R460) -/

/-- R456: a transition that is allowed commits its intent. -/
theorem exec_lcAdvance (hj : mgmtAt s job 0x0B60 j = true) (hfirst : intentOf s = none)
    (hok : lcAdvanceOk s.chip.lc.code (j.desc.pb 40) = true) (hfuses : j.desc.pb 40 ≠ 2 ∨ fusesIncomplete s = false) (io : JobIo) :
    exec (.lcAdvance job io) s =
      .next (stageCommit s j (JobRes.done [] 0) [.intent (newIntent s (j.desc.pb 40) [] 0)]) := by
  have complete : ¬ (j.desc.pb 40 = 2 ∧ fusesIncomplete s = true) := by
    rcases hfuses with h | h <;> simp [h]
  refine (runMgmt_of_mgmtAt hj _).trans (congrArg _ ?_)
  simp only [hfirst, hok, if_neg complete, Option.isSome_none, Bool.not_true, Bool.false_eq_true, if_false]

/-- R460: a good newer image goes to the area that is not running; what the read-back finds decides the answer. -/
theorem exec_fwUpdate (hj : mgmtAt s job 0x0B61 j = true) (hfirst : ∀ k ∈ s.jobs, k.id < j.id → k.desc.opcode ≠ 0x0B61)
    {io : JobIo} {b : List Byte} (hin : inputIs j io b = true) (hlen : j.desc.inLen = 8192 + fieldLe b 12 4)
    (hok : imageReason s s.chip.lc b = 0) (hnew : imageSeq (runningImage s) < imageSeq b) :
    exec (.fwUpdate job io) s = .next (withRead s j (
      if io.storeOk then answer (storeImage s b) j io (JobRes.done [] (imageSeq b))
      else answer (storeImage s ((List.range b.length).map (fun i => freeAlm i s.alm.logSeq))) j io
        (JobRes.status0 eFirmware (8 * 2 ^ 12)))) := by
  have alone : ¬ (s.jobs.any (fun k => decide (k.id < j.id) && k.desc.opcode == 0x0B61)) = true := by
    simpa using hfirst
  refine (runMgmt_of_mgmtAt hj _).trans (congrArg _ ((if_neg alone).trans ((withInput_of hin _).trans (congrArg _ ?_))))
  simp only [hlen, hok, ne_eq, not_true_eq_false, if_false, if_neg hnew.not_ge]
  cases io.storeOk <;> rfl

end

/-- Settles O20: each command is ready; FAULT_CONFIG, FAULT_CLEAR and POWER_FORCE are told apart by their ACTION. -/
theorem serviceCommandsComplete : Obligations.ServiceCommandsComplete := fun _ _ io _ =>
  ⟨fun hj _ hin hok => exec_microLoad hj hin hok,
    fun hj => runMgmt_of_mgmtAt hj _,
    fun _ hm hj hcell hown hfresh hrun hserves => exec_customerMacroOp hm hj hcell hown hfresh hrun hserves io,
    fun hj => runMgmt_of_mgmtAt hj _,
    fun hj => ⟨fun hn => exec_faultConfig_severity hj hn io, fun hn => exec_faultConfig_quiet hj hn io,
      fun hn => exec_faultConfig_limit hj hn io⟩,
    fun hj => ⟨fun hn => exec_faultClear_records hj hn io, fun _ hn hk hfailed => exec_faultClear_unit hj hn hk hfailed io⟩,
    fun hj => runMgmt_of_mgmtAt hj _,
    fun hj => ⟨fun hn => exec_powerForce_release hj hn io, fun hn hcell hup => exec_powerForce_cell hj hn hcell hup io,
      fun hn hdom hkind => exec_powerForce_other hj hn hdom hkind io,
      fun hn hdom hkind hlow => exec_powerForce_region hj hn hdom hkind hlow io⟩,
    fun hj hfirst hok hfuses => exec_lcAdvance hj hfirst hok hfuses io,
    fun hj hfirst _ hin hlen hok hnew => ⟨fun hstored => (exec_fwUpdate hj hfirst hin hlen hok hnew).trans (by rw [if_pos hstored]),
      fun hfailed => (exec_fwUpdate hj hfirst hin hlen hok hnew).trans (by simp [hfailed])⟩⟩

end Sys2Proof.Proofs

/-! SUPPORT. The service gates of customer microcode (R249 to R251). -/

namespace Sys2Proof.Proofs

open Sys2Proof Machine Laws

/-! ### What the gates build on -/

/-- A range without faults has no first fault of a kind other than 0. -/
theorem firstFault_eq_none {c : Cell} {k : Nat} {p : Nat → Bool} (hp : p 0 = false) {as : List Nat}
    (h : ∀ a ∈ as, accessKind c a k = 0) (i : Nat) : firstFault c k p i as = none := by
  induction as generalizing i with
  | nil => rfl
  | cons a as ih =>
    have here : ¬ p (accessKind c a k) = true := by simp [h a List.mem_cons_self, hp]
    exact (if_neg here).trans (ih (fun b hb => h b (List.mem_cons_of_mem a hb)) (i + 1))

@[simp] theorem cwrite_stack (c : Cell) (a : Nat) (bs : List Byte) : (cwrite c a bs).stack = c.stack := by
  unfold cwrite
  split <;> rfl

/-- R249: a gate pops the entry that its CALL pushed, and no other. -/
theorem gateReturn_of_stack {s : State} {n pc : Nat} {st : List Nat} (h : (getCell s n).stack = pc :: st) :
    gateReturn s n = enterPc (modCell s n (fun x => { x with stack := st })) n pc := by
  simp only [gateReturn, h]

/-- R251: what PUT_KEY asks of the cell's X[1] and X[2], given the selector-0 key of its job. -/
structure PutKeyAdmits (c : Cell) (parent : KeyRef) : Prop where
  aligned : (getX c 2).toNat % 64 = 0
  bank : (getX c 2).toNat < 0x4000
  shares : sharesTagged c (getX c 2).toNat = true
  first : c.putKey = none
  index : bits (getX c 1).toNat 31 0 ≤ 65535
  alg : bits (getX c 1).toNat 63 48 = 0x0C01 ∨ bits (getX c 1).toNat 63 48 = 0x0C02
  child : childPolOk parent.policy (bits (getX c 1).toNat 47 32) = true
  carried : polOk (bits (getX c 1).toNat 63 48) (bits (getX c 1).toNat 47 32) = true

section
variable {s : State} {n pc : Nat} {st : List Nat}

/-- A gate's effect on its cell keeps the return address of the CALL. -/
theorem gateReturn_modCell {f : Cell → Cell} (h : (f (getCell s n)).stack = pc :: st) :
    gateReturn (modCell s n f) n = enterPc (modCell (modCell s n f) n (fun x => { x with stack := st })) n pc :=
  gateReturn_of_stack ((congrArg Cell.stack (getCell_modCell s n f)).trans h)

variable (hn : n < 128) (hst : (getCell s n).stack = pc :: st)
include hn hst

/-! ### The gates -/

theorem exec_getParams (hgate : atGate s n 4 = true) :
    exec (.getParams n) s = .next (enterPc (modCell (modCell s n (fun x => setX (setX (setX (setX x
      1 (BitVec.ofNat 64 (fieldLe (cellCtx s n).params 8 8)) 0) 2 (BitVec.ofNat 64 (fieldLe (cellCtx s n).params 16 8)) 0)
      3 (BitVec.ofNat 64 (cellCtx s n).inLen) 0) 4 (BitVec.ofNat 64 (cellCtx s n).outCap) 0)) n
      (fun x => { x with stack := st })) n pc) :=
  (cellRow_of_guard hn hgate _).trans (congrArg _ (gateReturn_modCell hst))

theorem exec_setResult (hgate : atGate s n 8 = true) :
    exec (.setResult n) s = .next (enterPc (modCell (modCell s n
      (fun x => { x with outLen := some (getX x 1).toNat, result := (getX x 2).truncate 32 })) n
      (fun x => { x with stack := st })) n pc) :=
  (cellRow_of_guard hn hgate _).trans (congrArg _ (gateReturn_modCell hst))

/-- R251: of the four ways PUT_KEY can end the job, none applies to a key that is admitted. -/
theorem exec_putKey {j : Job} {p : KeyRef} (hgate : atGate s n 0x0C = true) (hjob : (getCell s n).job.bind (getJob s) = some j)
    (hkey : j.keys.head? = some p) (h : PutKeyAdmits (getCell s n) p) :
    let c := getCell s n
    let x1 := (getX c 1).toNat
    let a := (getX c 2).toNat
    exec (.putKey n) s = .next (enterPc (modCell (modCell s n (fun x => { x with
      putKey := some ⟨bits x1 31 0, bits x1 47 32, bits x1 63 48,
        xorBytes (xorBytes (cread c a 32) (cread c (a + 0x4000) 32)) (cread c (a + 0x8000) 32)⟩ })) n
      (fun x => { x with stack := st })) n pc) := by
  intro c x1 a
  obtain ⟨id, hid, hget⟩ := Option.bind_eq_some_iff.1 hjob
  have legal : ¬ (a % 64 ≠ 0 ∨ 0x4000 ≤ a ∨ (!sharesTagged c a) = true ∨ c.putKey.isSome = true) := by
    simp [a, c, h.aligned, h.bank, h.shares, h.first]
  have named : ¬ (65535 < bits x1 31 0 ∨ (bits x1 63 48 ≠ 0x0C01 ∧ bits x1 63 48 ≠ 0x0C02)) := by
    have hindex : bits x1 31 0 ≤ 65535 := h.index
    have halg : bits x1 63 48 = 0x0C01 ∨ bits x1 63 48 = 0x0C02 := h.alg
    omega
  change execPutKey n s = _
  simp only [execPutKey, hid, hget, hkey, h.child, h.carried, Bool.not_true, Bool.false_eq_true, if_false]
  exact (cellRow_of_guard hn hgate _).trans
    (congrArg _ ((if_neg legal).trans ((if_neg named).trans (gateReturn_modCell hst))))

/-- R197, R249: an expander that serves the region gives the bytes, which X[1] and the count let go to the window or to scratch. -/
theorem exec_random {a len r : Nat} (hgate : atGate s n 0x10 = true) (ha : (getX (getCell s n) 1).toNat = a)
    (hlen : (getX (getCell s n) 2).toNat = len) (hpos : 1 ≤ len) (hmax : len ≤ 4096)
    (hacc : ∀ x ∈ rangeProbe a len, accessKind (getCell s n) x 1 = 0) (hr : servingDrbg s (n / 32) = some r) :
    let t := callDrbg s r 1
    exec (.random n) s = .next (enterPc (modCell
      (drew' (modCell t n (fun y => cwrite y a (drawBytes t len))) len) n (fun x => { x with stack := st })) n pc) := by
  intro t
  have legal : ¬ (len = 0 ∨ 4096 < len) := by omega
  have kept : (getCell (modCell t n (fun y => cwrite y a (drawBytes t len))) n).stack = pc :: st :=
    (congrArg Cell.stack (getCell_modCell t n _)).trans ((cwrite_stack _ _ _).trans hst)
  change execRandom n s = _
  simp only [execRandom, ha, hlen, if_neg legal, firstFault_eq_none (p := fun k => decide (2 ≤ k)) rfl hacc,
    firstFault_eq_none (p := fun k => k == 1) rfl hacc, hr]
  exact (cellRow_of_guard hn hgate _).trans (congrArg _ (gateReturn_of_stack kept))

end

/-- Settles O24: each gate meets its guard and none of its refusals, and what it changes is not the return stack. -/
theorem serviceGatesComplete : Obligations.ServiceGatesComplete := fun _ _ _ _ hn hst =>
  ⟨fun hgate => exec_getParams hn hst hgate, fun hgate => exec_setResult hn hst hgate,
    fun _ _ hgate haligned hbank hshares hfirst hindex halg hjob hkey hchild hpol =>
      exec_putKey hn hst hgate hjob hkey ⟨haligned, hbank, hshares, hfirst, hindex, halg, hchild, hpol⟩,
    fun _ hgate hpos hmax hacc hr => exec_random hn hst hgate rfl rfl hpos hmax hacc hr⟩

end Sys2Proof.Proofs

/-! SUPPORT. The requests of the big-number engine (R259 to R262, R270, R277). -/

namespace Sys2Proof.Proofs

open Sys2Proof Machine Laws

/-! ### What becomes of a request -/

/-- A half once its function has run: the operands of its request, what the digest engine sent back, and the result (R292). Their order
is the model's choice (log entry 52). -/
def halfAfter (r : Option BneReq) (h : Option (List Byte)) : FMap (BitVec 256) :=
  wordsOf (match r with | some y => y.operands ++ h.getD [] ++ (bneCompute y).out | none => [])

/-- The BNE once a function has run on the request in H0. -/
def ranInH0 (e : Bne) : Bne := { e with res := e.run.map bneCompute, h0Mem := halfAfter e.run e.hashed }

/-- The BNE once a function has run on the long operation in H1. -/
def ranInH1 (e : Bne) : Bne := { e with longRes := e.long.map bneCompute, h1Mem := halfAfter e.long e.longHashed }

/-- A request with the bytes it takes from the blinding buffer (R274). -/
def blindedFor (s : State) (r : BneReq) : BneReq := { r with blind := drawBytes s (blindNeed r) }

/-- Block `b` once its BNE has taken request `r` into the half it runs in, and a held request has moved up (R253, R262). -/
def tookRequest (s : State) (b : Nat) (r : BneReq) : State :=
  modBne (drew' s (blindNeed r)) b (fun e =>
    bneUnhold (if r.long then bneEnterLong e r (blindedFor s r) else bneEnter e r (blindedFor s r) s.uptime))

/-- BNE_REQUEST_DONE's verdict on a request: the check of its input (R272) and, for a signature, the check before release (R277). -/
def passesChecks (io : JobIo) (r : BneReq) : Bool := !r.inputBad && (!r.signs || (io.tests.getD 0 true && !r.spoilt))

/-! ### The digest engine is asked where the request hashes (R260) -/

section
variable {s : State} {b : Nat} {r : BneReq}

theorem askHash_of_no_hash (h : r.hashes = false ∨ r.refused = true) : askHash s b r = s := by
  have asks_not : ¬ (r.hashes = true ∧ (!r.refused) = true) := by
    rcases h with h | h <;> simp [h]
  exact if_neg asks_not

theorem askHash_of_hashes (hhash : r.hashes = true) (hserved : r.refused = false) :
    askHash s b r = modDe s b (fun d => { d with waiting := d.waiting ++
      [{ job := r.job, bne := true, slice := r.slice, lc := r.lc,
         hash := if r.alg = 0x0503 then 3 else if r.alg = 0x0504 then 8 else r.hash, priv := true, since := s.uptime }] }) := by
  have asks : r.hashes = true ∧ (!r.refused) = true := by simp [hhash, hserved]
  exact if_pos asks

end

/-! ### The rows -/

theorem ungated_of_serving {s : State} (h : serving s = true) : ungated s = true := by
  simp only [serving, Bool.and_eq_true] at h
  obtain ⟨⟨⟨hup, -⟩, -⟩, -⟩ := h
  exact hup

section
variable {s : State} {b : Nat}

/-- A row of a block that exists acts once its guard holds. -/
theorem blockRow_of_guard (hb : b < 16) {p : Bool} (hp : p = true) (t : State) :
    known (decide (b < 16)) (doIf s p t) = .next t :=
  (known_of_exists (decide_eq_true hb) _).trans (doIf_of_guard hp _ _)

variable (hb : b < 16) (hup : serving s = true)
include hb hup

section
variable (hbne : bneServes s b = true) {r : BneReq}
include hbne

section
variable (hawake : blockAwake s b = true)
include hawake

/-- R261, R262: the request that is next starts once its blinding is there. -/
theorem exec_bneRequestStart (hidle : (getBlock s b).bne.run = none) (hslack : bneSlack (getBlock s b).bne = true)
    (hnext : bneNext (fun x => if (getBlock s b).bne.long.isSome then !x.long && decide (x.lc ≤ 1) else true)
      (getBlock s b).bne.queue = some r) (hblind : blindNeed r ≤ (getBlock s b).bne.blind) :
    exec (.bneRequestStart b) s = .next (askHash (tookRequest s b r) b (blindedFor s r)) := by
  change execBneRequestStart b s = _
  simp only [execBneRequestStart, hslack, hnext, if_true, if_neg hblind.not_gt]
  exact blockRow_of_guard hb (by simp [hup, hbne, hawake, hidle]) _

/-- A function runs on the request in H0, once the hash it asked for and the wipe of the half are done. -/
theorem bneRow_of_run (hrun : (getBlock s b).bne.run = some r) (hres : (getBlock s b).bne.res = none)
    (hhash : r.hashes = false ∨ (getBlock s b).bne.hashed.isSome = true ∨ r.refused = true)
    (hwiped : (getBlock s b).bne.till0 ≤ s.uptime) {func : Nat} (hfunc : r.func = func) :
    bneRow func b s = .next (modBne s b ranInH0) := by
  have inH0 : (r.func == func && (getBlock s b).bne.res.isNone && (!r.hashes || (getBlock s b).bne.hashed.isSome || r.refused) &&
      decide ((getBlock s b).bne.till0 ≤ s.uptime)) = true := by
    simpa [hfunc, hres, hwiped, or_assoc] using hhash
  simp only [bneRow, hrun, inH0, if_true]
  exact blockRow_of_guard hb (by simp [hup, hbne, hawake]) _

/-- A function runs on the long operation in H1, while no request runs in H0. -/
theorem bneRow_of_long (hidle : (getBlock s b).bne.run = none) (hlong : (getBlock s b).bne.long = some r)
    (hres : (getBlock s b).bne.longRes = none) (hgoes : (getBlock s b).bne.paused = false)
    (hhash : r.hashes = false ∨ (getBlock s b).bne.longHashed.isSome = true ∨ r.refused = true)
    (hwiped : (getBlock s b).bne.till1 ≤ s.uptime) {func : Nat} (hfunc : r.func = func) :
    bneRow func b s = .next (modBne s b ranInH1) := by
  simp only [bneRow, hidle, hlong, Bool.false_eq_true, if_false]
  exact blockRow_of_guard hb (by simpa [hup, hbne, hawake, hfunc, hres, hgoes, hwiped, or_assoc] using hhash) _

end

/-! #### The end of a request (R265 to R268, R272, R277) -/

section
variable {x : BneRes} (io : JobIo)

theorem exec_bneRequestDone_run (hrun : (getBlock s b).bne.run = some r) (hres : (getBlock s b).bne.res = some x) :
    exec (.bneRequestDone b io) s = .next (endRequest (leaveH0 s b r (passesChecks io r)) b io r x
      (passesChecks io r || x.status != stOk)) := by
  change execBneRequestDone b io s = _
  simp only [execBneRequestDone, hrun, hres]
  exact blockRow_of_guard hb (by simp [hup, hbne]) _

theorem exec_bneRequestDone_long (hidle : (getBlock s b).bne.run = none) (hlong : (getBlock s b).bne.long = some r)
    (hres : (getBlock s b).bne.longRes = some x) (hgoes : (getBlock s b).bne.paused = false) :
    exec (.bneRequestDone b io) s = .next (endRequest (leaveH1 s b) b io r x (passesChecks io r || x.status != stOk)) := by
  change execBneRequestDone b io s = _
  simp only [execBneRequestDone, hidle, hlong, hres, hgoes, Bool.false_eq_true, if_false]
  exact blockRow_of_guard hb (by simp [hup, hbne]) _

end

end

/-- R262: a long operation whose job is not squashed pauses at the end of its segment. -/
theorem exec_bneSegmentEnd_pauses {r : BneReq} (hidle : (getBlock s b).bne.run = none) (hlong : (getBlock s b).bne.long = some r)
    (hres : (getBlock s b).bne.longRes = none) (hgoes : (getBlock s b).bne.paused = false)
    (hkept : ∀ j, getJob s r.job = some j → squashDue s j = false) :
    exec (.bneSegmentEnd b) s = .next (modBne s b (fun x => { x with paused := true, spent := 0 })) := by
  have acts : execBneSegmentEnd b s = known (decide (b < 16))
      (doIf s (ungated s) (modBne s b (fun x => { x with paused := true, spent := 0 }))) := by
    cases hjob : getJob s r.job with
    | none => simp [execBneSegmentEnd, hidle, hlong, hres, hgoes, hjob]
    | some j => simp [execBneSegmentEnd, hidle, hlong, hres, hgoes, hjob, hkept j hjob]
  exact acts.trans (blockRow_of_guard hb (ungated_of_serving hup) _)

end

/-- Settles O21: each row meets its guard; a start is then told apart by whether the request hashes, the end of a request by its half.
The order of a half's contents is log entry 52, how a request leaves H0 log entry 26. -/
theorem bigNumberRequestsComplete : Obligations.BigNumberRequestsComplete := by
  intro s b hb hup hbne
  refine ⟨fun r hawake hidle hslack hnext hblind => ⟨fun hno => ?starts, fun hhash hserved => ?startsAndAsks⟩,
    fun r hawake hrun hres hhash hwiped => ?ranInH0, fun r hawake hidle hlong hres hgoes hhash hwiped => ?ranInH1,
    fun io r x => ⟨fun hrun hres => exec_bneRequestDone_run hb hup hbne io hrun hres,
      fun hidle hlong hres hgoes => exec_bneRequestDone_long hb hup hbne io hidle hlong hres hgoes⟩,
    fun r hidle hlong hres hgoes hkept => exec_bneSegmentEnd_pauses hb hup hidle hlong hres hgoes hkept⟩
  case starts =>
    exact (exec_bneRequestStart hb hup hbne hawake hidle hslack hnext hblind).trans (congrArg _ (askHash_of_no_hash hno))
  case startsAndAsks =>
    exact (exec_bneRequestStart hb hup hbne hawake hidle hslack hnext hblind).trans (congrArg _ (askHash_of_hashes hhash hserved))
  case ranInH0 =>
    have row {func : Nat} : r.func = func → bneRow func b s = .next (modBne s b ranInH0) :=
      bneRow_of_run hb hup hbne hawake hrun hres hhash hwiped
    exact ⟨row, row, row, row, row, row, row, row, row, row, row, row, row⟩
  case ranInH1 =>
    have row {func : Nat} : r.func = func → bneRow func b s = .next (modBne s b ranInH1) :=
      bneRow_of_long hb hup hbne hawake hidle hlong hres hgoes hhash hwiped
    exact ⟨row, row, row⟩

end Sys2Proof.Proofs

/-! SUPPORT. The digest engine: contexts, block boundaries and starvation (R281 to R283, R291, R292). -/

namespace Sys2Proof.Proofs

open Sys2Proof Machine Laws

/-! ### A block boundary, piece by piece -/

/-- One more block of the running context counts; a context chosen for having starved is kept for 64 of them (R283). -/
def deCounted (t : State) (b : Nat) : State :=
  modDe t b (fun d => { d with blocks := d.blocks + 1, hold64 := d.hold64 && decide (d.blocks + 1 < 64) })

/-- What DE_RESULT shows of context `x` after a block for job `j`: of a BNE's request nothing (R291, R292). -/
def deShown (j : Job) (n : Nat) (x : DeCtx) (d : De) : De :=
  match j.res with
  | some r => if x.req.bne then d else dePublish d n x j.desc.opcode r
  | none => d

/-- Context `n` has run a block and stands as `x` instead of `c`, its result registers changed by `f`. -/
def deRan (t : State) (b n : Nat) (c x : DeCtx) (f : De → De) : State :=
  modDe (deKeep (deCounted t b) b c) b (fun d => f { d with ctx := mapSet none d.ctx n (some x) })

/-- At time `now` the engine goes on with what it chooses after context `n` (R283). -/
def deGoesOn (now : Nat) (u : State) (b n : Nat) : State := modDe u b (fun d => deSwitch d n (deChoose d n) now)

section
variable {s : State} {b n : Nat} {c x : DeCtx} {j : Job}

/-- What becomes of a digest engine depends on its state alone. -/
theorem modDe_congr {f g : De → De} (h : f (getBlock s b).de = g (getBlock s b).de) : modDe s b f = modDe s b g :=
  congrArg (fun d => { s with blocks := mapSet Block.idle s.blocks b { getBlock s b with de := d } }) h

/-! ### A block of a message keeps the requester and the hash it asked for -/

theorem step_keeps (c : DeCtx) : c.step.req = c.req ∧ c.step.value = c.value := by
  unfold DeCtx.step
  split
  · exact ⟨rfl, rfl⟩
  · split <;> exact ⟨rfl, rfl⟩

theorem await_keeps (c : DeCtx) (more : Bool) : (c.await more).req = c.req ∧ (c.await more).value = c.value := by
  unfold DeCtx.await
  split
  · split <;> exact ⟨rfl, rfl⟩
  · exact ⟨rfl, rfl⟩

theorem step_await_req (c : DeCtx) (more : Bool) : (c.step.await more).req = c.req :=
  (await_keeps c.step more).1.trans (step_keeps c).1

theorem step_await_value (c : DeCtx) (more : Bool) : (c.step.await more).value = c.value :=
  (await_keeps c.step more).2.trans (step_keeps c).2

/-! ### What a block publishes, and how a message ends (R291, R292) -/

theorem deShown_of_bne (h : x.req.bne = true) : deShown j n x = id := by
  funext d
  cases hres : j.res <;> simp [deShown, hres, h]

theorem deShown_of_job {r : JobRes} (h : x.req.bne = false) (hres : j.res = some r) :
    deShown j n x = fun d => dePublish d n x j.desc.opcode r := by
  funext d
  simp [deShown, hres, h]

/-- R292: a hash goes to the half of the BNE whose request asked for it. -/
theorem deEnds_of_bne (h : x.req.bne = true) :
    deEnds s b n x j = modBne (modDe s b (fun d => { d with ctx := mapErase d.ctx n })) b (fun y =>
      if y.run.any (fun r => r.job == x.req.job && r.hashes) then { y with hashed := some x.value }
      else { y with longHashed := some x.value }) :=
  if_pos h

theorem deEnds_of_job {r : JobRes} (h : x.req.bne = false) (hres : j.res = some r) :
    deEnds s b n x j = modDe s b (fun d => { d with ctx := mapSet none d.ctx n (some { x with done := true }) }) := by
  simp [deEnds, h, hres]

/-! ### The rows -/

variable (hb : b < 16) (hserves : blockServes s b = true) (hawake : blockAwake s b = true)
include hb hserves hawake

section
variable (hup : serving s = true) {r : DeReq} (hnext : deNext ((getBlock s b).de.waiting.filter (deWaits s b)) = some r)
  (hfree : deFree (getBlock s b).de r.lc = some n)
include hup hnext hfree

theorem exec_deContextGrant_bne (hbne : r.bne = true) : exec (.deContextGrant b) s = .next (deGrant s b n r) := by
  change execDeContextGrant b s = _
  simp only [execDeContextGrant, hnext, hfree, hbne, if_true]
  exact blockRow_of_guard hb (by simp [hup, hserves, hawake]) _

theorem exec_deContextGrant_job (hjob : r.bne = false) (hget : getJob s r.job = some j) (hres : keysResolve s j = true) :
    exec (.deContextGrant b) s = .next (putJob (deGrant (keysHeld s j) b n r)
      { j with pos := .running (0x90 + b), unit := 0x90 + b, vals := some (keyValues s j) }) := by
  change execDeContextGrant b s = _
  simp only [execDeContextGrant, hnext, hfree, hjob, Bool.false_eq_true, if_false, hget, withKeys_of hres]
  exact blockRow_of_guard hb (by simp [hup, hserves, hawake]) _

end

variable (hup : ungated s = true)
include hup

section
/-! `t` is the state at the block boundary, before the engine's block counts: the results that stand ready are copied (R291; at the next
boundary by log entry 26), and the input that contexts waited for has arrived (R283; log entry 52). -/

variable {t : State} (ht : modDe (deCopyAll s b) b (fun d => deArrive d s.uptime) = t)
include ht

theorem exec_deBlockDone_idle (more : Bool) (hidle : (getBlock t b).de.running = none) :
    exec (.deBlockDone b more) s = .next (deGoesOn t.uptime t b 4) := by
  change execDeBlockDone b more s = _
  simp only [execDeBlockDone, ht, hidle]
  exact blockRow_of_guard hb (by simp [hup, hserves, hawake]) _

/-- R280, R291: a context with a message in progress runs one block of it, and what this block ends depends on what is left. -/
theorem exec_deBlockDone_running (more : Bool) (hrun : (getBlock t b).de.running = some n) (hctx : deCtx (getBlock t b).de n = some c)
    (hjob : getJob t c.req.job = some j) (hkept : squashDue t j = false) (hplans : c.plans ≠ [])
    (hx : c.step.await more = x) :
    exec (.deBlockDone b more) s = .next (deGoesOn t.uptime
      (if x.plans = [] then deEnds (deRan t b n c x (deShown j n x)) b n x j else deRan t b n c x (deShown j n x)) b n) := by
  subst hx
  change execDeBlockDone b more s = _
  simp only [execDeBlockDone, ht, hrun, hctx, hjob, hkept, Bool.false_eq_true, if_false, if_neg hplans, deRan, deShown, step_await_req]
  exact blockRow_of_guard hb (by simp [hup, hserves, hawake]) _

end

theorem exec_deStarvationExpire (hbest : deBest (getBlock s b).de
      (fun n x => some n != (getBlock s b).de.running && decide (x.waitFrom + 655360 ≤ s.uptime)) = some n)
    (hctx : deCtx (getBlock s b).de n = some c) :
    exec (.deStarvationExpire b) s =
      .next (modDe s b (fun d => { d with ctx := mapSet none d.ctx n (some { c with starved := true }) })) := by
  change execDeStarvationExpire b s = _
  simp only [execDeStarvationExpire, hbest]
  refine (blockRow_of_guard hb (by simp [hup, hserves, hawake]) _).trans (congrArg _ (modDe_congr ?_))
  simp only [hctx]

end

/-- Settles O22: each row meets its guard; a block is then told apart by who asked for it and by whether its message goes on. When a result
is copied is log entry 26, when input that was late counts as arrived and what DE_RESULT holds of a verdict log entry 52. -/
theorem digestEngineRowsComplete : Obligations.DigestEngineRowsComplete := by
  intro s b hb hserves hawake hup
  refine ⟨fun r n hup' hnext hfree => ⟨fun hbne => exec_deContextGrant_bne hb hserves hawake hup' hnext hfree hbne,
      fun j hjob hget hres => exec_deContextGrant_job hb hserves hawake hup' hnext hfree hjob hget hres⟩,
    ⟨fun more hidle => exec_deBlockDone_idle hb hserves hawake hup rfl more hidle, fun n c j more hrun hctx hget hkept hplans => ?block⟩,
    fun n c hbest hctx => exec_deStarvationExpire hb hserves hawake hup hbest hctx⟩
  have row := exec_deBlockDone_running hb hserves hawake hup rfl more hrun hctx hget hkept hplans rfl
  have asker {v : Bool} (h : c.req.bne = v) : (c.step.await more).req.bne = v := by rw [step_await_req, h]
  refine ⟨fun hbne hmore => ?bneGoesOn, fun hbne hlast => ?bneEnds, fun r hjob hres => ⟨fun hmore => ?jobGoesOn, fun hlast => ?jobEnds⟩⟩
  case bneGoesOn =>
    rw [if_neg hmore, deShown_of_bne (asker hbne)] at row
    exact row
  case bneEnds =>
    rw [if_pos hlast, deEnds_of_bne (asker hbne), deShown_of_bne (asker hbne), step_await_req, step_await_value] at row
    exact row
  case jobGoesOn =>
    rw [if_neg hmore, deShown_of_job (asker hjob) hres] at row
    exact row
  case jobEnds =>
    rw [if_pos hlast, deEnds_of_job (asker hjob) hres, deShown_of_job (asker hjob) hres] at row
    exact row

end Sys2Proof.Proofs

/-! SUPPORT. What every step keeps: the fuse bits (R448, R453), the queue and the time since power-on; and that every command is
answered. The spec's chapter of steps is 95_what_each_step_holds.md. -/

namespace Sys2Proof.Proofs

open Sys2Proof Machine Laws

/-! ### One step -/

/-- Settles O47: both sides are the same match on the queue. -/
theorem stepRunsTheFrontCommand : Obligations.StepRunsTheFrontCommand := fun _ _ _ => rfl

/-- Settles O53: what `Keeps` says of the queue and of the time. That a command takes no time, so that time passes only on an empty
queue, is log entry 2. -/
theorem commandsLeaveTheQueue : Obligations.CommandsLeaveTheQueue := fun c s t hexec =>
  have kept := keepsR_exec (Keeps.refl s) c t hexec
  ⟨kept.pending, kept.uptime⟩

/-- A step keeps every fuse bit that is set, whether it takes a command from the queue or lets time pass. -/
theorem step_keeps_fuses {f : FMap Byte} {s t : State} (hstep : step s = .next t) (hset : fusesHold f s) : fusesHold f t := by
  cases hqueue : s.pending with
  | nil =>
    obtain ⟨u, -, kept⟩ := keeps_clockTick s
    obtain rfl : clockTick s = t := by simpa [step_of_empty hqueue] using hstep
    exact kept.fuses f hset
  | cons c rest =>
    rw [step, hqueue] at hstep
    exact (keepsR_exec (Keeps.refl { s with pending := rest }) c t hstep).fuses f hset

/-- Settles O52: what `Keeps` says of the fuse array, for every command and for the clock. -/
theorem fuseBitsStaySet : Obligations.FuseBitsStaySet := fun _ _ _ hset hstep => step_keeps_fuses hstep hset

/-! ### Every frame of a command answers a next state -/

section
variable (s : State) (job op : Nat)

theorem runMgmt_next (f : Job → State) : ∃ t, runMgmt s job op f = .next t := by
  unfold runMgmt
  split <;> exact ⟨_, rfl⟩

theorem runEngine_next (p : Job → Bool) (f : Job → State) : ∃ t, runEngine s job op p f = .next t := by
  unfold runEngine
  split <;> exact ⟨_, rfl⟩

theorem endCheck_next (dual : Bool) (flag : Nat) (ok : Bool) : ∃ t, endCheck s job dual flag ok = .next t := by
  unfold endCheck
  repeat' split
  all_goals exact ⟨_, rfl⟩

end

/-- A row of a unit that exists passes its answer on, and a row of any other stops: the shape of every row. -/
theorem known_next {r : Res} (h : ∃ t, r = .next t) (p : Bool) : ∃ t, known p r = known p (.next t) :=
  h.imp fun _ ht => congrArg (known p) ht

/-- R468: the units a fault can be raised for are those with a number. -/
theorem unitKnown_eq_unitNumber (u : Nat) : unitKnown u = unitNumber u := by
  cases hn : unitNumber u with
  | false => exact unitKnown_of_number u hn
  | true =>
    unfold unitNumber at hn
    simp only [Bool.or_eq_true, Bool.and_eq_true, decide_eq_true_eq, beq_iff_eq] at hn
    unfold unitKnown unitBit
    repeat' split
    all_goals simp
    omega

/-- A command whose units exist is answered with a next state, and any other stops. The rows that look up a job, a record or a queue are
told apart by what they find; every other row is one guarded change. -/
theorem exec_answers (i : Instr) (s : State) : ∃ t, exec i s = known i.wf (.next t) := by
  cases i
  case deviceQuery | sliceQuery | sliceCreate | sliceConfigure | sliceActivate | sliceQuiesce | sliceReset | sliceRemove
      | pasidBind | pasidUnbind | hdmWindowSet | hdmApertureSet | biasSet | ideRequiredSet | ownerCertInstall | drainBegin | drainCancel
      | maintEnter | deviceReset | keyQuery | keyRetire | derive | epochHandle | handleRelease | cacheControl | statefulQuery | getRandom
      | setNextSecond | timeQuery | timeConfig | eventSchedule | eventCancel | eventQuery | lanePair | laneUnpair | laneBind | laneUnbind
      | laneQuery | lanePrefill | laneLoopback | cardQuery | ceremonyBegin | ceremonyStep | ceremonyAbort | ceremonyQuery | microLoad
      | microUnload | microQuery | wdogConfig | faultConfig | faultQuery | faultClear | faultInject | powerForce | rngTest | almanacQuery
      | logRead | lcAdvance | fwUpdate =>
    exact runMgmt_next _ _ _ _
  case keyGenerate | peerLoad | kemKeygen | sigKeygen | sign | verify | transportEstablish | transportAccept | keyExport | keyImport
      | kemEncaps | kemDecaps | statefulCreate | dhAgree | hybridEncaps | hybridDecaps | digest | macGenerate | macVerify | kdf =>
    exact runEngine_next _ _ _ _ _
  case verifyBeforeReleaseDone => exact endCheck_next _ _ _ _ _
  case dualCompare job ok io =>
    change ∃ t, execDualCompare job ok io s = .next t
    unfold execDualCompare
    split
    next =>
      split
      · split
        · exact endCheck_next _ _ _ _ _
        · exact ⟨_, rfl⟩
      · exact endCheck_next _ _ _ _ _
    next => exact ⟨_, rfl⟩
  case keyPublic job io =>
    change ∃ t, execKeyPublic job io s = .next t
    unfold execKeyPublic
    split
    next =>
      split
      · exact runMgmt_next _ _ _ _
      · exact runEngine_next _ _ _ _ _
    next => exact ⟨_, rfl⟩
  case unassignedBoundExpire | jobAbandonTimeout | customerMacroOp | treeBuildDone | slotWriteCommit | atsInvalidateComplete
      | bar0LowHalfRead | registerWrite =>
    dsimp only [exec, execUnassignedBoundExpire, execJobAbandonTimeout, execCustomerMacroOp, execTreeBuildDone, execSlotWriteCommit,
      execAtsInvalidateComplete, execBar0LowHalfRead, execRegisterWrite]
    split <;> exact ⟨_, rfl⟩
  case blockAssign | jobRelease =>
    dsimp only [exec, execBlockAssign, execJobRelease]
    repeat' split
    all_goals exact ⟨_, rfl⟩
  case dispatchPick | cellJobStart | cellJobAbort | eventPrepare | eventIndexFree | klMissDone =>
    refine known_next ?_ _
    split <;> exact ⟨_, rfl⟩
  case sliceResetDone | sliceRemoveDone | dmaTransferDone | hashOpDone | klResponseSend =>
    refine known_next ?_ _
    dsimp only
    split <;> exact ⟨_, rfl⟩
  case faultDetect src unit info =>
    rw [Instr.wf, ← unitKnown_eq_unitNumber]
    exact ⟨_, rfl⟩
  all_goals exact ⟨_, rfl⟩

/-- Settles O54: what a row answers, by whether the units it names exist. The fault for a unit that does not exist is log entry 6, and
that a command whose condition does not hold answers too is log entry 1. -/
theorem wellFormedCommandsAreAnswered : Obligations.WellFormedCommandsAreAnswered := by
  intro c s
  obtain ⟨t, answered⟩ := exec_answers c s
  cases hwf : c.wf with
  | true =>
    rw [hwf] at answered
    have next : exec c s = .next t := answered
    exact ⟨fun _ => ⟨t, next⟩, by simp [next], by simp [next]⟩
  | false =>
    rw [hwf] at answered
    have stops : exec c s = .fault .noSuchUnit := answered
    exact ⟨by simp, by simp [stops], by simp [stops]⟩

end Sys2Proof.Proofs

/-! SUPPORT. The random bit chains (R295 to R306) and the writes of the Almanac (R322, R324, R341, R342, R344). -/

namespace Sys2Proof.Proofs

open Sys2Proof Machine Laws

/-- A row of a unit below the number of its kind acts once its guard holds. -/
theorem unitRow_of_guard {n k : Nat} (hn : n < k) {p : Bool} (hp : p = true) (s t : State) :
    known (decide (n < k)) (doIf s p t) = .next t :=
  (known_of_exists (decide_eq_true hn) _).trans (doIf_of_guard hp s t)

/-! ### Random bit chains -/

/-- Chain `r` once a failed RCT (1) or APT (2) is counted (R298). -/
def failureCounted (s : State) (r k : Nat) : State :=
  modRng s r (fun x =>
    { x with rct := if k = 1 then satInc 0xFFFF x.rct else x.rct, apt := if k = 2 then satInc 0xFFFF x.apt else x.apt })

/-- Chain `r` once a start-up test has failed (R301, R305). -/
def startupFailed (s : State) (r : Nat) : State :=
  modRng s r (fun x => { x with startFails := x.startFails + 1, cond := 0, blocks := [], cause := 4 })

/-- Chain `r` once its conditioner has put a healthy block out (R295 to R297). -/
def conditioned (s : State) (r : Nat) (raw : BitVec 1024) : State :=
  let b := condBlock (rngOf s r).cond (rawSample raw)
  modRng s r (fun x => { x with cond := b.1, blocks := if x.blocks.length < 4 then x.blocks ++ [b.2] else x.blocks })

/-- The expander that a block of chain `r` goes to: the next in turn that waits for it (R306). -/
def nextExpander (s : State) (r : Nat) (raw : BitVec 1024) : Option Nat :=
  ((List.range 4).map (fun i => ((rngOf s r).turn + 1 + i) % 4)).find? (waitsFor (conditioned s r raw) r)

section
variable {s : State} {r : Nat} (hr : r < 4) (hs : alive s = true)
include hr hs

theorem exec_healthTestFailure (hmode : s.chip.mode ≠ .boot) {k : Nat} (hk : k = 1 ∨ k = 2)
    (hsrc : (rngOf s r).src = 1 ∨ (rngOf s r).src = 2 ∨ (rngOf s r).src = 3) :
    exec (.healthTestFailure r k) s =
      .next (if (rngOf s r).src = 2 then healthFail (failureCounted s r k) r k else failureCounted s r k) :=
  unitRow_of_guard hr (by simp [hs, hmode, hk, hsrc, or_assoc]) _ _

theorem exec_rngStartupDone (hmode : s.chip.mode ≠ .boot) (hsrc : (rngOf s r).src = 1 ∨ (rngOf s r).src = 3) (ok : Bool) :
    exec (.rngStartupDone r ok) s =
      .next (if ok then startupPass s r
        else if (rngOf s r).src = 1 then startupFailed s r else healthFail (startupFailed s r) r 4) :=
  unitRow_of_guard hr (by simp [hs, hmode, hsrc]) _ _

theorem exec_conditionerBlockReady {raw : BitVec 1024} (hsrc : (rngOf s r).src = 2) (hraw : healthy raw = true) :
    exec (.conditionerBlockReady r raw) s = .next ((nextExpander s r raw).elim (conditioned s r raw)
      (fun m => modRng (feed (conditioned s r raw) m) r (fun y => { y with turn := m }))) := by
  refine (unitRow_of_guard hr (by simp [hs, hsrc, hraw]) _ _).trans (congrArg _ ?_)
  unfold nextExpander conditioned
  dsimp only
  cases List.find? _ _ <;> rfl

theorem exec_drbgAutoReseed (hdrbg : (rngOf s r).drbg = 1)
    (hdue : 2 ^ 20 ≤ (rngOf s r).calls ∨ (rngOf s r).seededAt + 10 ^ 9 ≤ s.uptime) :
    exec (.drbgAutoReseed r) s = .next (feed (modRng s r (fun y => { y with drbg := 2 })) r) :=
  unitRow_of_guard hr (by
    simp only [hs, hdrbg, beq_self_eq_true, Bool.and_self, Bool.true_and, Bool.or_eq_true, decide_eq_true_eq]
    exact hdue) _ _

end

/-- Settles O43: each row meets its guard; a failure is then told apart by the state of the source, and a block by whether an expander
waits for it. -/
theorem randomBitRowsComplete : Obligations.RandomBitRowsComplete := by
  intro s r hr hs
  refine ⟨fun k hmode hk => ⟨fun hserves => ?stops, fun hstarts => ?counts⟩,
    fun hmode hsrc => ⟨exec_rngStartupDone hr hs hmode hsrc true, fun hfirst => ?startFails, fun hagain => ?restartFails⟩,
    fun raw hsrc hraw => ⟨fun hnext => ?kept, fun m hnext => ?given⟩,
    fun hdrbg hdue => exec_drbgAutoReseed hr hs hdrbg hdue, unitRow_of_guard hr hs _ _⟩
  case stops => exact (exec_healthTestFailure hr hs hmode hk (.inr (.inl hserves))).trans (congrArg _ (if_pos hserves))
  case counts =>
    exact (exec_healthTestFailure hr hs hmode hk (by omega)).trans (congrArg _ (if_neg (by omega)))
  case startFails => exact (exec_rngStartupDone hr hs hmode hsrc false).trans (congrArg _ ((if_neg Bool.false_ne_true).trans (if_pos hfirst)))
  case restartFails =>
    have started_before : (rngOf s r).src ≠ 1 := by omega
    exact (exec_rngStartupDone hr hs hmode hsrc false).trans (congrArg _ ((if_neg Bool.false_ne_true).trans (if_neg started_before)))
  case kept =>
    change nextExpander s r raw = none at hnext
    rw [exec_conditionerBlockReady hr hs hsrc hraw, hnext]
    rfl
  case given =>
    change nextExpander s r raw = some m at hnext
    rw [exec_conditionerBlockReady hr hs hsrc hraw, hnext]
    rfl

/-! ### Writes of the Almanac -/

section
variable {s : State} (hs : alive s = true)
include hs

/-- The write of record `rid` that has begun commits with its readback (R341), after a step whose time-out came first has been taken back (R79). -/
theorem exec_ledgerCommit {rid : Nat} (hrid : rid < 2 ^ 20) (hbegun : (mapGet WriteQ.none s.alm.writes rid).started = true)
    (hfree : holdsRelease s (reqJobs (mapGet WriteQ.none s.alm.writes rid).reqs) = false) (rb : List Bool) (io : JobIo) {t : State}
    (ht : (if timeoutDue s then ceremonyTimesOut io s else s) = t) :
    exec (.ledgerCommit rid rb io) s =
      .next (if (mapGet WriteQ.none t.alm.writes rid).started then cerCommitted t (commitWrite t rid rb io) rid io.tests else t) := by
  subst ht
  exact doIf_of_guard (by
    simp only [hs, decide_eq_true hrid, hbegun, hfree, Bool.not_false, Bool.and_self]) _ _

section
variable {job k : Nat} {op : AlmOp} (hwrite : slotWriteOf s job = some (k, op)) (hfree : holdsRelease s [job] = false)
include hwrite hfree

/-- A slot record is programmed for a job that has gone meanwhile (R322). -/
theorem exec_slotWriteCommit_gone (hgone : getJob (endWrite (opEffect s op) k) job = none) :
    exec (.slotWriteCommit job true) s = .next (endWrite (opEffect s op) k) := by
  change execSlotWriteCommit job true s = _
  simp only [execSlotWriteCommit, hwrite, if_true, hgone]
  exact doIf_of_guard (by simp [hs, hfree]) _ _

/-- The slot record of a job is programmed, or not, and its write taken off the queue (R322). -/
theorem exec_slotWriteCommit_job {ok : Bool} {t : State} {j : Job} {r : JobRes} {n : SlotNew}
    (ht : endWrite (if ok then opEffect s op else s) k = t) (hjob : getJob t job = some j) (hres : j.res = some r)
    (hslot : r.slot = some n) :
    exec (.slotWriteCommit job ok) s = .next (if ok then slotWritten t j n else replayJob t j false) := by
  change execSlotWriteCommit job ok s = _
  simp only [execSlotWriteCommit, hwrite, ht, hjob, hres, hslot]
  exact doIf_of_guard (by simp [hs, hfree]) _ _

end

/-- A slot that is being deleted and that nothing else writes is zeroed, or spared where the zeroing failed (R321, R324). -/
theorem exec_slotZeroing {n : Nat} (hn : n < 262144) (hstate : (slotEnt s n).state = 2) (humbra : s.chip.mode ≠ .umbra)
    (hboot : s.chip.mode ≠ .boot) (hhalt : s.chip.mode ≠ .halt) (hpending : slotEntPending s n = false)
    (hscrubs : ∀ w ∈ s.scrubs, w.handle ≠ slotHandle s n) (ok : Bool) :
    exec (.slotZeroing n ok) s = .next (requestWrite (if ok then opEffect s (.slotZero n) else s) 5
      { job := none, op := .slotEnt n { SlotEnt.free with gen := (slotEnt s n).gen, state := if ok then 0 else 4 } }) := by
  have unused : s.scrubs.all (fun w => w.handle != slotHandle s n) = true :=
    List.all_eq_true.2 fun w hw => bne_iff_ne.2 (hscrubs w hw)
  exact unitRow_of_guard hn (by simp [hs, hstate, humbra, hboot, hhalt, hpending, unused]) _ _

/-- The state once the patrol scrub has asked for a pair it corrected to be written again. -/
def pairRewritten (s : State) (rid : Nat) : State :=
  if rid < 64432 ∧ viewRec s rid ≠ .empty ∧ viewRec s rid ≠ .lost ∧ mapGet WriteQ.none s.alm.writes rid = WriteQ.none then
    requestWrite s 5 { job := none, op := .copy rid }
  else s

/-- The patrol scrub rewrites the pairs it corrected and raises fault 0x36 with their number (R467). -/
theorem exec_almanacScrub (hroot : rootPresent s = true) (hboot : s.chip.mode ≠ .boot) (hhalt : s.chip.mode ≠ .halt)
    (pairs slots : List Nat) :
    exec (.almanacScrub pairs slots) s =
      .next (if pairs.length + slots.length = 0 then pairs.foldl pairRewritten s
        else raiseFault (pairs.foldl pairRewritten s) 0x36 0xC0 (pairs.length + slots.length)) :=
  doIf_of_guard (by simp [hs, hroot, hboot, hhalt]) _ _

end

/-- Settles O38: each row meets its guard; a ledger write is then told apart by what the ceremony's time-out left of it, a slot write by
its job and its readback. -/
theorem almanacRowsComplete : Obligations.AlmanacRowsComplete := by
  intro s hs
  refine ⟨fun rid rb io hrid hbegun hfree => ⟨fun hearly => ?inTime, fun hlate => ⟨fun hkept => ?kept, fun hgone => ?taken⟩⟩,
    fun job k op hwrite hfree => ⟨exec_slotWriteCommit_gone hs hwrite hfree, ?replayed, ?written⟩,
    fun n hn hstate humbra hboot hhalt hpending hscrubs => ?zeroing, fun ok hpage => ?page, fun hroot hboot hhalt => ?scrub⟩
  case inTime =>
    have row := exec_ledgerCommit hs hrid hbegun hfree rb io (if_neg (Bool.eq_false_iff.1 hearly))
    exact row.trans (congrArg _ (if_pos hbegun))
  case kept => exact (exec_ledgerCommit hs hrid hbegun hfree rb io (if_pos hlate)).trans (congrArg _ (if_pos hkept))
  case taken =>
    exact (exec_ledgerCommit hs hrid hbegun hfree rb io (if_pos hlate)).trans (congrArg _ (if_neg (Bool.eq_false_iff.1 hgone)))
  case replayed => exact fun j r n hjob hres hslot => exec_slotWriteCommit_job (ok := false) hs hwrite hfree rfl hjob hres hslot
  case written => exact fun j r n hjob hres hslot => exec_slotWriteCommit_job (ok := true) hs hwrite hfree rfl hjob hres hslot
  case zeroing =>
    have row := exec_slotZeroing hs hn hstate humbra hboot hhalt hpending hscrubs
    exact ⟨row true, row false⟩
  case page => exact doIf_of_guard (by simp [hs, hpage]) _ _
  case scrub =>
    have row := exec_almanacScrub hs hroot hboot hhalt
    refine ⟨row [] [], fun a => row [] [a], fun rid hrid hfull hfound hidle => ?_⟩
    have rewritten : pairRewritten s rid = requestWrite s 5 { job := none, op := .copy rid } := if_pos ⟨hrid, hfull, hfound, hidle⟩
    have scrubbed := row [rid] []
    rw [List.foldl_cons, List.foldl_nil, rewritten] at scrubbed
    exact scrubbed

end Sys2Proof.Proofs

/-! SUPPORT. Time declarations and events (R359 to R380). -/

namespace Sys2Proof.Proofs

open Sys2Proof Machine Laws

/-! ### The commands -/

section
variable {s : State} {job : Nat} {j : Job}

theorem exec_setNextSecond (hj : mgmtAt s job 0x0700 j = true) (hwaits : j.parked = false) (io : JobIo) :
    exec (.setNextSecond job io) s = .next (putJob s { j with parked := true }) :=
  (runMgmt_of_mgmtAt hj _).trans (congrArg _ (if_neg (Bool.eq_false_iff.1 hwaits)))

section
variable (hj : mgmtAt s job 0x0710 j = true) {io : JobIo} {b : List Byte} (hin : inputIs j io b = true) {t : State}
  (ht : modJob s j.id (fun x => { x with reserved := none }) = t)
  (hstatus : scheduleStatus t j.slice (leNat (j.saved.headD [])) b = (stOk, 0)) {i : Nat} (hfree : freeEvent t = some i)
include hj hin ht hstatus hfree

/-- A durable event takes its index with the commit of its record (R371). -/
theorem exec_eventSchedule_durable (hdurable : (EvSpec.ofBytes b).durable = true) :
    exec (.eventSchedule job io) s = .next (withRead s j (stageCommit t { j with reserved := some i } (JobRes.done [] (eventIdAt t i))
      [.event i (some { id := eventIdAt t i, slice := j.slice, state := 0, spec := EvSpec.ofBytes b })])) := by
  refine (runMgmt_of_mgmtAt hj _).trans ?_
  rw [withInput_of hin]
  simp only [ht, hstatus, hfree, hdurable, Option.getD_some, ne_eq, not_true_eq_false, if_false, if_true]

/-- Any other event takes its index at once. -/
theorem exec_eventSchedule_volatile (hvolatile : (EvSpec.ofBytes b).durable = false) :
    exec (.eventSchedule job io) s = .next (withRead s j (answer { t with eph := { t.eph with
      events := mapSet none t.eph.events i (some (EvRec.fresh (eventIdAt t i) j.slice (EvSpec.ofBytes b))) } } j io
        (JobRes.done [] (eventIdAt t i)))) := by
  refine (runMgmt_of_mgmtAt hj _).trans ?_
  rw [withInput_of hin]
  simp only [ht, hstatus, hfree, hvolatile, Option.getD_some, ne_eq, not_true_eq_false, if_false, Bool.false_eq_true]

end

/-- An open event that is suspended, or still 1 ms away, is cancelled (R373): a durable one with the commit of its record. -/
theorem exec_eventCancel (hj : mgmtAt s job 0x0711 j = true) {v : EvRec} (hfound : findEvent s j.slice (j.desc.pn 40 4) = some v)
    (hopen : v.isOpen = true) (hearly : v.state = 5 ∨ leNat (j.saved.headD []) + 1000000 ≤ v.spec.instant) (io : JobIo) :
    exec (.eventCancel job io) s = .next (if v.spec.durable then
        stageCommit s j (JobRes.done [] 0)
          [.event (j.desc.pn 40 4 % 2 ^ 16) (some { id := v.id, slice := v.slice, state := 6, spec := v.spec })]
      else answerOk (endEvent s (j.desc.pn 40 4 % 2 ^ 16) (fun x => { x with state := 6 })) j io) := by
  have in_time : (!v.isOpen || (v.state != 5 && decide (v.spec.instant < leNat (j.saved.headD []) + 1000000))) = false := by
    rcases hearly with h | h
    · simp [hopen, h]
    · simp only [hopen, Nat.not_lt.2 h, decide_false, Bool.and_false, Bool.not_true, Bool.or_self]
  refine (runMgmt_of_mgmtAt hj _).trans ?_
  simp only [hfound, in_time, Bool.false_eq_true, if_false]

end

/-- Settles O17: each command may run; scheduling and cancelling are then told apart by whether the record is durable. -/
theorem timeAndEventCommandsComplete : Obligations.TimeAndEventCommandsComplete := by
  intro s job io j
  refine ⟨fun hj hwaits => exec_setNextSecond hj hwaits io, fun hserving => doIf_of_guard hserving _ _, fun hj => runMgmt_of_mgmtAt hj _,
    fun hj b hin => ?schedule, fun hj v hfound hopen hearly => ?cancel⟩
  case schedule =>
    intro t e hstatus i hfree
    exact ⟨exec_eventSchedule_durable hj hin rfl hstatus hfree, exec_eventSchedule_volatile hj hin rfl hstatus hfree⟩
  case cancel =>
    have row := exec_eventCancel hj hfound hopen hearly io
    exact ⟨fun hdurable => by rw [row, if_pos hdurable], fun hvolatile => by rw [row, hvolatile, if_neg Bool.false_ne_true]⟩

/-! ### The events -/

theorem prepDue_of {s : State} {v : EvRec} (hfire : eventsFire s = true) (hset : s.tb.set = true) (hpending : v.state = 0)
    (hkind : v.spec.kind = 1) (hsound : v.corrupt = false) (hnear : v.spec.instant ≤ s.tb.time + 1000000) : prepDue s v = true := by
  simp [prepDue, hfire, hset, hpending, hkind, hsound, hnear]

/-- The events due at the present tick, in the order they fire in (R376). -/
def dueNow (s : State) : List (Nat × EvRec) :=
  evSort ((eventList s).filter (fun e => (e.2.state == 0 || e.2.state == 1) && e.2.spec.instant == s.tb.time))

section
variable {s : State} (hs : alive s = true)
include hs

/-- An activation whose instant is 1 ms ahead or less is prepared (R380). -/
theorem exec_eventPrepare {ev : Nat} {v : EvRec} (hev : ev < 65536) (hrec : mapGet none s.eph.events ev = some v)
    (hdue : prepDue s v = true) : exec (.eventPrepare ev) s = .next (prepareEvent s ev v) := by
  refine (known_of_exists (decide_eq_true hev) _).trans ?_
  rw [hrec]
  exact doIf_of_guard (by simp [hs, hdue]) _ _

/-- An event that ended 60 s ago frees its index (R372). -/
theorem exec_eventIndexFree {ev : Nat} {v : EvRec} (hev : ev < 65536) (hrec : mapGet none s.eph.events ev = some v)
    (hended : v.isOpen = false) (hold : v.endedAt + 60 * secNs ≤ s.uptime) (hheld : heldActivation s v = false) :
    exec (.eventIndexFree ev) s = .next (freeEventIdx s ev) := by
  refine (known_of_exists (decide_eq_true hev) _).trans ?_
  rw [hrec]
  exact doIf_of_guard (by simp [hs, hended, hold, hheld]) _ _

/-- Every event due at the present tick fires, or is suspended (R374 to R376). -/
theorem exec_eventFire (hmode : s.chip.mode ≠ .boot) (hset : s.tb.set = true) (hdue : dueNow s ≠ []) (tests : List Bool) :
    exec (.eventFire tests) s = .next (sendEpochs (dueNow s) ((dueNow s).foldl (fun t e =>
      if eventAble s e.2 then fireEvent false tests t e.1 else modEvent t e.1 (fun v => { v with state := 5 })) s)) := by
  have some_due : (dueNow s).isEmpty = false := List.isEmpty_eq_false_iff.2 hdue
  exact doIf_of_guard (p := alive s && s.chip.mode != .boot && s.tb.set && !(dueNow s).isEmpty) (by simp [hs, hmode, hset, some_due]) _ _

end

/-- Settles O40: each row meets its guard. An instant that has passed is for the catch-up alone (log entry 15); the order in which events
fire is R376's, and where one may not run it is suspended (R375). -/
theorem ephemerisRowsComplete : Obligations.EphemerisRowsComplete := by
  intro s hs
  refine ⟨fun ev v hev hrec => ⟨fun hfire hset hpending hkind hsound hnear => ?prepare, fun hended hold hheld => ?free⟩,
    fun tests hmode hset hdue => exec_eventFire hs hmode hset hdue tests, fun tests hlate => ?catchUp⟩
  case prepare => exact exec_eventPrepare hs hev hrec (prepDue_of hfire hset hpending hkind hsound hnear)
  case free => exact exec_eventIndexFree hs hev hrec hended hold hheld
  case catchUp =>
    have some_late : (overdue s).isEmpty = false := List.isEmpty_eq_false_iff.2 hlate
    exact doIf_of_guard (by simp [hs, some_late]) _ _

end Sys2Proof.Proofs

/-! SUPPORT. Key lanes (R381 to R401): the commands of the ports and what happens on them. -/

namespace Sys2Proof.Proofs

open Sys2Proof Machine Laws

/-! ### The commands -/

section
variable {s : State} {job : Nat} {j : Job}

/-- LANE_PAIR with a slot that can be read (R391, R392). -/
theorem exec_lanePair (hj : mgmtAt s job 0x0800 j = true) (hseed : (slotSeed s (hIndex j.desc.keyHandle)).isSome = true) (io : JobIo) :
    exec (.lanePair job io) s =
      .next (stageCommit (modPort (wakeOne false s (152 + j.desc.pb 40)) (j.desc.pb 40) (fun x => { disablePort x with
          cache := [], nakTimes := [], nakCrc := 0, nakCounter := 0, nakCredit := 0, rekey := true, epochFrame := none })) j
        (JobRes.done [] 0) [.port (j.desc.pb 40) {
          slot := hIndex j.desc.keyHandle, slotGen := hGen j.desc.keyHandle, g := ((portNow s (j.desc.pb 40)).g + 1) % 2 ^ 32,
          paired := true, quarantined := false }]) := by
  obtain ⟨seed, hread⟩ := Option.isSome_iff_exists.1 hseed
  refine (runMgmt_of_mgmtAt hj _).trans ?_
  simp only [hread]

theorem exec_laneBind (hj : mgmtAt s job 0x0802 j = true) (hfree : bindingOf s j.slice (j.desc.pb 40) = 0) (io : JobIo) :
    exec (.laneBind job io) s =
      .next (stageCommit s j (JobRes.done [] 0) [.binding j.slice (j.desc.pb 40) j.desc.keyHandle]) :=
  (runMgmt_of_mgmtAt hj _).trans (congrArg _ (if_pos hfree))

theorem exec_laneUnbind (hj : mgmtAt s job 0x0803 j = true) (hbound : bindingOf s j.slice (j.desc.pb 40) ≠ 0) (io : JobIo) :
    exec (.laneUnbind job io) s = .next (stageCommit s j (JobRes.done [] 0) [.binding j.slice (j.desc.pb 40) 0]) :=
  (runMgmt_of_mgmtAt hj _).trans (congrArg _ (if_neg hbound))

/-- LANE_PREFILL of a live binding whose base key has a value (R391). -/
theorem exec_lanePrefill (hj : mgmtAt s job 0x0805 j = true) {b : LaneBase} (hlive : laneBase s j.slice (j.desc.pb 40) = some b)
    (hvalue : (keyValue s b.src).isSome = true) (io : JobIo) :
    exec (.lanePrefill job io) s =
      .next (answer (prefill s j.slice (j.desc.pb 40) (j.desc.pn 44 4) (j.desc.pn 48 4)).1 j io
        (JobRes.done [] (prefill s j.slice (j.desc.pb 40) (j.desc.pn 44 4) (j.desc.pn 48 4)).2)) := by
  obtain ⟨v, hread⟩ := Option.isSome_iff_exists.1 hvalue
  refine (runMgmt_of_mgmtAt hj _).trans ?_
  simp only [hlive, hread]
  cases slotOf b.src <;> rfl

end

/-- Settles O18: each command may run; the binding is free or taken, and the slot or the base key can be read. -/
theorem laneCommandsComplete : Obligations.LaneCommandsComplete := by
  intro s job io j p
  exact ⟨fun hj hseed => exec_lanePair hj hseed io, fun hj => runMgmt_of_mgmtAt hj _, fun hj hfree => exec_laneBind hj hfree io,
    fun hj hbound => exec_laneUnbind hj hbound io, fun hj b hlive hvalue => exec_lanePrefill hj hlive hvalue io,
    fun hj => runMgmt_of_mgmtAt hj _⟩

/-! ### The ports -/

/-- A port can have its oldest miss served: it serves, holds a generation and has a nonce left (R398). -/
theorem missReady_iff {s : State} {p : Nat} :
    missReady s p = true ↔ portOn s p = true ∧ (∃ q qs, (getPort s p).pendingMiss = q :: qs) ∧
      (getPort s p).seals.isSome = true ∧ (getPort s p).nonce + 1 < 2 ^ 28 := by
  cases hmiss : (getPort s p).pendingMiss <;> simp [missReady, hmiss, and_assoc]

theorem missSince_of {s : State} {p : Nat} {q : KlReq} {qs : List KlReq} (h : (getPort s p).pendingMiss = q :: qs) :
    missSince s p = q.arrived := by
  simp only [missSince, h]

/-- No port that can serve a miss holds an older one (R156, R398). -/
theorem oldest_of {s : State} {a : Nat}
    (h : ∀ k qk qt, k < 8 → portOn s k = true → (getPort s k).pendingMiss = qk :: qt → (getPort s k).seals.isSome = true →
      (getPort s k).nonce + 1 < 2 ^ 28 → a ≤ qk.arrived) :
    (List.range 8).all (fun k => !missReady s k || decide (a ≤ missSince s k)) = true := by
  refine List.all_eq_true.2 fun k hk => ?_
  cases hready : missReady s k with
  | false => rfl
  | true =>
    obtain ⟨hon, ⟨q, qs, hmiss⟩, hseals, hnonce⟩ := missReady_iff.1 hready
    have older := h k q qs (List.mem_range.1 hk) hon hmiss hseals hnonce
    rw [missSince_of hmiss]
    simp [older]

/-- The bytes of a response in the queue of port `p`. -/
def frameBytes (s : State) (p : Nat) : TxFrame → List Byte
  | .sealed b _ => b
  | .nak g r _ => nakFrame g r (nakExpected s (getPort s p))

/-- Whether a response returns a credit (R393). -/
def frameCredits : TxFrame → Bool
  | .sealed _ c => c
  | .nak _ _ c => c

section
variable {s : State} {p : Nat} (hp : p < 8) (hs : alive s = true)
include hp hs

/-- A request frame, which came over a link that is up (log entry 16), is judged where the port serves (R394) and discarded where it does not (R40, R392). -/
theorem klRequest_of {f : List Byte} {op : Nat → Bool} (hop : op (rqOp f) = true) :
    klRequest p f op s = .next (if portOn s p then judgeRequest (modPort s p (fun x => { x with linkUp := true })) p f
      else modPort s p (fun x => { x with linkUp := true })) :=
  unitRow_of_guard hp (by simp [hs, hop]) _ _

theorem exec_klMissDone {q : KlReq} {qs : List KlReq} (hready : missReady s p = true) (hmiss : (getPort s p).pendingMiss = q :: qs)
    (holdest : (List.range 8).all (fun k => !missReady s k || decide (q.arrived ≤ missSince s k)) = true) :
    exec (.klMissDone p) s = .next (missDone (modPort s p (fun x => { x with pendingMiss := qs })) p q) := by
  refine (known_of_exists (decide_eq_true hp) _).trans ?_
  rw [hmiss]
  exact doIf_of_guard (by rw [hs, hready, holdest]; rfl) _ _

theorem exec_klResponseSend (hon : portOn s p = true) {f : TxFrame} {fs : List TxFrame} (htx : (getPort s p).tx = f :: fs) :
    exec (.klResponseSend p) s = .next (modPort (drew' (emit s (.frame p (frameBytes s p f))) 1) p (fun y => { y with
      tx := fs, credits := if frameCredits f then min 16 (y.credits + 1) else y.credits })) := by
  refine (known_of_exists (decide_eq_true hp) _).trans ?_
  dsimp only
  rw [htx]
  refine (doIf_of_guard (by simp [hs, hon]) _ _).trans ?_
  cases f <;> rfl

theorem exec_klRekey (hon : portOn s p = true) (hseals : (getPort s p).seals.isSome = true) (hidle : (getPort s p).rekey = false)
    (hnonce : 2 ^ 28 - 2 ^ 16 ≤ (getPort s p).nonce) (hahead : meridianAhead s ((portSlice s p).getD 0) = false) :
    exec (.klRekey p) s = .next (raiseGen s p 2 none) :=
  unitRow_of_guard hp (by
    rw [hs, hon, hseals, hidle, hahead, decide_eq_true hnonce]
    rfl) _ _

end

/-- Settles O41: the five rows of a request are one (R394), each for its OPCODE; the other rows meet their guards. -/
theorem keyLaneRowsComplete : Obligations.KeyLaneRowsComplete := by
  intro s p hp hs
  refine ⟨fun f => ⟨fun hop => ?keyCur, fun hop => ?keyNext, fun hop => ?keyPrev, fun hop => ?ping, fun hop => ?invalid⟩,
    fun q qs hon hmiss hseals hnonce holdest => ?miss, fun b c fs hon htx => exec_klResponseSend hp hs hon htx,
    fun g r c fs hon htx => exec_klResponseSend hp hs hon htx,
    fun hon hseals hidle hnonce hahead => exec_klRekey hp hs hon hseals hidle hnonce hahead, unitRow_of_guard hp hs _ _,
    unitRow_of_guard hp hs _ _⟩
  case keyCur => exact klRequest_of (op := (· == 1)) hp hs (by simp [hop])
  case keyNext => exact klRequest_of (op := (· == 2)) hp hs (by simp [hop])
  case keyPrev => exact klRequest_of (op := (· == 3)) hp hs (by simp [hop])
  case ping => exact klRequest_of (op := (· == 4)) hp hs (by simp [hop])
  case invalid => exact klRequest_of (op := fun o => o == 0 || decide (4 < o)) hp hs (by simpa using hop)
  case miss =>
    exact exec_klMissDone hp hs (missReady_iff.2 ⟨hon, ⟨q, qs, hmiss⟩, hseals, hnonce⟩) hmiss (oldest_of holdest)

end Sys2Proof.Proofs

/-! SUPPORT. The card slots (R402 to R411) and the tamper sources (R430 to R445, R513). -/

namespace Sys2Proof.Proofs

open Sys2Proof Machine Laws

/-! ### Card slots -/

section
variable {s : State} {n : Nat} (hn : n < 4)
include hn

theorem exec_cardDetectRise (hs : alive s = true) (hcard : (getCard s n).det = true ∨ (getCard s n).state ≠ 0) :
    exec (.cardDetectRise n) s =
      .next (if cardsServed s then vecCard (modCard (dropStep s n) n (fun _ => CardSlot.empty))
        else modCard (dropStep s n) n (fun _ => CardSlot.empty)) :=
  unitRow_of_guard hn (by simpa [hs] using hcard) _ _

variable (hserved : cardsServed s = true)
include hserved

theorem exec_cardIdentify (hpowered : (getCard s n).state = 2) (hdue : (getCard s n).since + 10000000 ≤ s.uptime)
    (ans : List (List Byte)) :
    exec (.cardIdentify n ans) s = .next (identify n { s := modCard s n (fun c => { c with state := 3 }), ans }) :=
  unitRow_of_guard hn (by simp [hserved, hpowered, hdue]) _ _

theorem exec_cardResponse (hcmd : (getCard s n).cmd.isSome = true) (hidle : (getCard s n).busy = false) (hstate : 3 ≤ (getCard s n).state)
    (b : List Byte) (wp : Bool) :
    exec (.cardResponse n b wp) s = .next (cardAnswer (modCard s n (fun x => { x with wp })) n (some b)) :=
  unitRow_of_guard hn (by simp [hserved, hcmd, hidle, hstate]) _ _

theorem exec_cardResponseTimeout (hcmd : (getCard s n).cmd.isSome = true) (hidle : (getCard s n).busy = false)
    (hstate : 3 ≤ (getCard s n).state) (hdue : 128 * cardPeriod (getCard s n) ≤ 10 * (s.uptime - (getCard s n).since)) :
    exec (.cardResponseTimeout n) s = .next (cardAnswer s n none) :=
  unitRow_of_guard hn (by simp [hserved, hcmd, hidle, hstate, hdue]) _ _

theorem exec_cardStatusPoll (hbusy : (getCard s n).busy = true) (hdue : (getCard s n).since + 20000 ≤ s.uptime) (st : Nat) (wp : Bool) :
    exec (.cardStatusPoll n st wp) s =
      .next (pollStep (emit (modCard s n (fun x => { x with wp })) (.card n 0x02 (cardFrame 0x02 0))) n st) :=
  unitRow_of_guard hn (by simp [hserved, hbusy, hdue]) _ _

section
variable (hbusy : (getCard s n).busy = true) (hdue : (getCard s n).since + 10000000 < s.uptime)
include hbusy hdue

theorem exec_cardBusyTimeout_idle (hstep : stepOn s n = none) : exec (.cardBusyTimeout n) s = .next (idleCards s) :=
  (unitRow_of_guard hn (by simp [hserved, hbusy, hdue]) _ _).trans (by rw [hstep])

theorem exec_cardBusyTimeout_step {x : Ceremony × CardStep} (hstep : stepOn s n = some x) :
    exec (.cardBusyTimeout n) s = .next (refuseStep s eCardIo 0) :=
  (unitRow_of_guard hn (by simp [hserved, hbusy, hdue]) _ _).trans (by rw [hstep])

end

end

/-- Settles O42: each row meets its guard; removal is then told apart by whether cards are served, the end of the busy time by whether a
step runs on the card. One row of an answer is one whole answer of the card (log entry 17). -/
theorem cardSlotRowsComplete : Obligations.CardSlotRowsComplete := by
  intro s n hn c
  refine ⟨fun hs hcard => ⟨fun hserved => ?served, fun hunserved => ?unserved⟩, fun hserved =>
    ⟨fun wp hnew => ?insert, fun ans hpowered hdue => exec_cardIdentify hn hserved hpowered hdue ans,
    fun b wp hcmd hidle hstate => exec_cardResponse hn hserved hcmd hidle hstate b wp,
    fun hcmd hidle hstate hdue => exec_cardResponseTimeout hn hserved hcmd hidle hstate hdue,
    fun st wp hbusy hdue => exec_cardStatusPoll hn hserved hbusy hdue st wp,
    fun hbusy hdue => ⟨exec_cardBusyTimeout_idle hn hserved hbusy hdue, fun x => exec_cardBusyTimeout_step hn hserved hbusy hdue⟩⟩⟩
  case served => exact (exec_cardDetectRise hn hs hcard).trans (congrArg _ (if_pos hserved))
  case unserved => exact (exec_cardDetectRise hn hs hcard).trans (congrArg _ (if_neg (Bool.eq_false_iff.1 hunserved)))
  case insert => exact unitRow_of_guard hn (by rw [hserved, decide_eq_true hnew]; rfl) _ _

/-! ### Tamper sources -/

/-- Cell `c` halted by its clock monitor (R430). -/
def clockHalted (s : State) (c : Nat) : State := modCell s c (fun x => { x with halted := true })

/-- The state once source `k` is armed again (R441). -/
def rearmed (s : State) (k : Nat) : State := { s with tamper := { s.tamper with src := mapErase s.tamper.src k } }

/-- Cell `c` fenced where it is in service. -/
def fencedIfOnline (s : State) (c : Nat) : State := if unitOnline s c then fence s c 0 else s

section
variable {s : State}

/-- R430, R441: a clock trip alarms from the halted cell, anew where its source has not tripped for 1 s. -/
theorem exec_clockMonitorTrip {c k : Nat} (hc : c < 128) (hs : alive s = true) (hlc : s.chip.lc ≠ .scrapped) (hlow : 6 ≤ k) (hhigh : k ≤ 8)
    (hactive : (getDom s c).state = 0 ∨ k = 8) (w : WriteIo) {x : TmpSrc} (hx : mapGet TmpSrc.armed s.tamper.src (32 + c) = x) :
    exec (.clockMonitorTrip c k w) s = .next (fencedIfOnline
      (alarm (if !x.tripped || decide (x.lastAt + 1000000000 ≤ s.uptime) then rearmed (clockHalted s c) (32 + c) else clockHalted s c)
        (32 + c) 0x20 k c (clockResponse s.chip.lc.code) w) c) := by
  subst hx
  refine (unitRow_of_guard hc (by simp [hs, hlc, hlow, hhigh, hactive]) _ _).trans (congrArg _ ?_)
  split <;> rfl

theorem exec_loopAlarm {l k : Nat} (hl : l < 16) (hs : alive s = true) (henrol : enrolled s s.chip.lc.code l = true) (hlow : 1 ≤ k)
    (hhigh : k ≤ 4) (hseed : k ≠ 3 ∨ mapGet 0 s.tamper.seeds l ≠ 0) (w : WriteIo) :
    exec (.loopAlarm l k w) s = .next (alarm s l l k 0 (loopResponse s.chip.lc.code) w) :=
  unitRow_of_guard hl (by simpa [hs, henrol, hlow, hhigh] using hseed) _ _

theorem exec_caseAlarm {n k : Nat} (hn : n < 2) (hs : alive s = true) (henrol : enrolled s s.chip.lc.code (16 + n) = true)
    (hkind : k = 4 ∨ k = 5) (w : WriteIo) :
    exec (.caseAlarm n k w) s = .next (alarm s (16 + n) (0x10 + n) k 0 (loopResponse s.chip.lc.code) w) :=
  unitRow_of_guard hn (by simpa [hs, henrol] using hkind) _ _

theorem exec_sensorRearm {n : Nat} (hn : n < 160) (htripped : (mapGet TmpSrc.armed s.tamper.src n).tripped = true)
    (hold : (mapGet TmpSrc.armed s.tamper.src n).lastAt + 1000000000 ≤ s.uptime) :
    exec (.sensorRearm n) s = .next (rearmed s n) :=
  unitRow_of_guard hn (by simp [htripped, hold]) _ _

/-! ### On the battery -/

/-- An enrolled loop or case switch that opened, as the battery side records it (R442). -/
def openRecorded (s : State) (n : Nat) : State := if n < 16 then batAlarm s n n 1 else batAlarm s n (0x10 + (n - 16)) 5

section
variable (haux : s.supply.onAux = false)
include haux

/-- The loops watched are told once, in the state the pulse found (R442). -/
theorem exec_batteryLoopPulse (hbat : s.supply.vbat = true) (opens shorts : List Nat) :
    exec (.batteryLoopPulse opens shorts) s = .next
      ((opens.filter (fun n => decide (n < 18) && enrolled s s.root.lcHeld n)).foldl openRecorded
        ((shorts.filter (fun n => decide (n < 16) && enrolled s s.root.lcHeld n)).foldl (fun x n => batAlarm x n n 2) s)) :=
  doIf_of_guard (by simp [haux, hbat]) _ _

section
variable (hbat : s.supply.vbat = true) {n : Nat} (henrol : enrolled s s.root.lcHeld n = true)
include hbat henrol

theorem exec_batteryLoopPulse_open (hn : n < 18) : exec (.batteryLoopPulse [n] []) s = .next (openRecorded s n) := by
  rw [exec_batteryLoopPulse haux hbat]
  simp [hn, henrol]

theorem exec_batteryLoopPulse_short (hn : n < 16) : exec (.batteryLoopPulse [] [n]) s = .next (batAlarm s n n 2) := by
  rw [exec_batteryLoopPulse haux hbat]
  simp [hn, henrol]

end

theorem exec_btimeTick_battery : exec .btimeTick s =
    .next { s with root := { s.root with btime := if s.root.btime = 0 then 0 else s.root.btime + 1 } } := by
  change execBtimeTick s = _
  simp only [execBtimeTick, haux, Bool.false_eq_true, if_false]

end

section
variable (haux : s.supply.onAux = true)
include haux

theorem exec_btimeTick_set (hset : s.tb.set = true) :
    exec .btimeTick s = .next { s with root := { s.root with btime := s.tb.time / 1000000000 } } := by
  change execBtimeTick s = _
  simp only [execBtimeTick, haux, hset, if_true]

theorem exec_btimeTick_unset (hunset : s.tb.set = false) : exec .btimeTick s = .next s := by
  change execBtimeTick s = _
  simp only [execBtimeTick, haux, hunset, Bool.false_eq_true, if_false, if_true]

end

end

/-- Settles O36: each row meets its guard; a clock trip is then told apart by when its source last tripped, a pulse by what it found. -/
theorem tamperRowsComplete : Obligations.TamperRowsComplete := by
  intro s
  refine ⟨fun aux => rfl, fun c k w hc hs hlc hlow hhigh hactive => ⟨fun htripped hlast => ?sameAlarm, fun harmed => ?newAlarm⟩,
    fun l k w hl hs henrol hlow hhigh hseed => exec_loopAlarm hl hs henrol hlow hhigh hseed w,
    fun n k w hn hs henrol hkind => exec_caseAlarm hn hs henrol hkind w,
    fun n hn htripped hold => exec_sensorRearm hn htripped hold,
    fun n hn haux hbat henrol => ⟨?opened, exec_batteryLoopPulse_short haux hbat henrol hn⟩,
    fun n hn haux hbat henrol => ?caseOpened, exec_btimeTick_set, exec_btimeTick_unset, exec_btimeTick_battery,
    fun hs hboot hhalt => doIf_of_guard (by simp [hs, hboot, hhalt]) _ _⟩
  case sameAlarm =>
    have row := exec_clockMonitorTrip hc hs hlc hlow hhigh hactive w rfl
    rw [if_neg (by simp [htripped]; omega)] at row
    exact row
  case newAlarm =>
    have row := exec_clockMonitorTrip hc hs hlc hlow hhigh hactive w rfl
    rw [if_pos (by simpa using harmed)] at row
    exact row
  case opened => exact (exec_batteryLoopPulse_open haux hbat henrol (by omega)).trans (congrArg _ (if_pos hn))
  case caseOpened =>
    refine (exec_batteryLoopPulse_open haux hbat henrol (by omega)).trans (congrArg _ ((if_neg (by omega)).trans ?_))
    rw [Nat.add_sub_cancel_left]

end Sys2Proof.Proofs

/-! SUPPORT. The debug port (R462 to R464). -/

namespace Sys2Proof.Proofs

open Sys2Proof Machine Laws

/-- The state with instruction `code` in the instruction register (R462). -/
def selected (s : State) (code : Nat) : State := { s with tap := { s.tap with instr := code } }

section
variable {s : State} {code : Nat}

theorem tapSelect_of_allowed (hok : tapOk (tapColumn s) code = true) : tapSelect s code = selected s code := by
  simp only [tapSelect, hok, if_true, selected]

theorem tapSelect_of_barred (hno : tapOk (tapColumn s) code = false) : tapSelect s code = selected s 0xFF := by
  simp only [tapSelect, hno, Bool.false_eq_true, if_false, selected]

/-- R462, R463: an instruction that the life-cycle column allows is selected and acts. -/
theorem tapRun_of_allowed (hs : alive s = true) (hok : tapOk (tapColumn s) code = true) (f : State → State) :
    tapRun s code f = .next (f (selected s code)) :=
  (doIf_of_guard hs _ _).trans (congrArg _ ((if_pos hok).trans (congrArg f (tapSelect_of_allowed hok))))

/-- R462, R463: any other instruction selects BYPASS and does nothing. -/
theorem tapRun_of_barred (hs : alive s = true) (hno : tapOk (tapColumn s) code = false) (f : State → State) :
    tapRun s code f = .next (selected s 0xFF) :=
  (doIf_of_guard hs _ _).trans (congrArg _ ((if_neg (Bool.eq_false_iff.1 hno)).trans (tapSelect_of_barred hno)))

end

/-! ### What a fuse read shows: the range of SPDM_SECRET reads as zeros, the model's own choice -/

/-- The byte of the fuse array that a debug read shows. -/
def shownFuse (s : State) (a : Nat) : Byte := if 0x240 ≤ a ∧ a < 0x260 then 0 else byteGet s.fuses a

theorem shownFuse_outside {a : Nat} (h : a < 0x240 ∨ 0x260 ≤ a) (s : State) : shownFuse s a = byteGet s.fuses a :=
  if_neg (by omega)

theorem shownFuse_secret {a : Nat} (hlow : 0x240 ≤ a) (hhigh : a < 0x260) (s : State) : shownFuse s a = 0 := if_pos ⟨hlow, hhigh⟩

theorem shownFuses_outside {a n : Nat} (h : a + n ≤ 0x240 ∨ 0x260 ≤ a) (s : State) :
    (List.range n).map (fun i => shownFuse s (a + i)) = (List.range n).map (fun i => byteGet s.fuses (a + i)) :=
  List.map_congr_left fun i hi => shownFuse_outside (by have := List.mem_range.1 hi; omega) s

theorem shownFuses_secret {a n : Nat} (hlow : 0x240 ≤ a) (hhigh : a + n ≤ 0x260) (s : State) :
    (List.range n).map (fun i => shownFuse s (a + i)) = List.replicate n 0 := by
  rw [List.map_congr_left (g := fun _ => 0) fun i hi => shownFuse_secret (by omega) (by have := List.mem_range.1 hi; omega) s]
  simp

section
variable {s : State} (hs : alive s = true) (hok : tapOk (tapColumn s) 0x40 = true) {a n : Nat}
include hs hok

theorem exec_fuseRead : exec (.dbgAccess (.fuseRead a n)) s =
    .next (emit (selected s 0x40) (.tap 0x40 ((List.range n).map (fun i => shownFuse (selected s 0x40) (a + i))))) :=
  (tapRun_of_allowed hs hok _ : execDbgAccess (.fuseRead a n) s = _)

theorem exec_fuseRead_outside (h : a + n ≤ 0x240 ∨ 0x260 ≤ a) : exec (.dbgAccess (.fuseRead a n)) s =
    .next (emit (selected s 0x40) (.tap 0x40 ((List.range n).map (fun i => byteGet (selected s 0x40).fuses (a + i))))) := by
  rw [exec_fuseRead hs hok, shownFuses_outside h]

theorem exec_fuseRead_secret (hlow : 0x240 ≤ a) (hhigh : a + n ≤ 0x260) :
    exec (.dbgAccess (.fuseRead a n)) s = .next (emit (selected s 0x40) (.tap 0x40 (List.replicate n 0))) := by
  rw [exec_fuseRead hs hok, shownFuses_secret hlow hhigh]

end

/-! ### Programming fuses -/

/-- Whether the bytes to program lie within a field that the debug port may program (R448, R464). -/
def inDbgField (a n : Nat) : Bool := dbgFields.any (fun f => decide (f.1 ≤ a) && decide (a + n ≤ f.1 + f.2))

/-- What programming does once selected: SPDM_SECRET takes drawn bytes, a field that may be programmed the bytes given. -/
def programmed (t : State) (a : Nat) (b : List Byte) : State :=
  if a = 0x240 then fuseProg [] (drew' t 32) 0x240 (drawBytes t 32) else if inDbgField a b.length then fuseProg [] t a b else t

theorem exec_dbgFuse {s : State} (hs : alive s = true) (hok : tapOk (tapColumn s) 0x41 = true) (a : Nat) (b : List Byte) :
    exec (.dbgFuse a b) s = .next (programmed (selected s 0x41) a b) :=
  (tapRun_of_allowed hs hok _ : execDbgFuse a b s = _)

/-- Settles O46: every row is told apart by whether the life-cycle column allows its instruction; what a read shows of SPDM_SECRET is the
model's own choice. -/
theorem testPortRowsComplete : Obligations.TestPortRowsComplete := by
  intro s
  refine ⟨rfl, fun hs => ?_⟩
  intro c sel
  refine ⟨?bypass, fun p => ⟨fun hok => ?extest, fun hno => ?noExtest, fun hok => ?preload, fun hno => ?noPreload⟩,
    fun hok => ?clamp, fun hno => ?noClamp, fun hok => ?highz, fun hno => ?noHighz, fun hno r => ?noAccess, fun hok => ?access,
    fun hno a b => ?noProgram, fun hok a b => ?program⟩
  case bypass => exact (tapRun_of_allowed hs rfl _ : execBypass s = _)
  case extest => exact (tapRun_of_allowed hs hok _ : execExtest p s = _)
  case noExtest => exact (tapRun_of_barred hs hno _ : execExtest p s = _)
  case preload => exact (tapRun_of_allowed hs hok _ : execSamplePreload p s = _)
  case noPreload => exact (tapRun_of_barred hs hno _ : execSamplePreload p s = _)
  case clamp => exact (tapRun_of_allowed hs hok _ : execClamp s = _)
  case noClamp => exact (tapRun_of_barred hs hno _ : execClamp s = _)
  case highz => exact (tapRun_of_allowed hs hok _ : execHighz s = _)
  case noHighz => exact (tapRun_of_barred hs hno _ : execHighz s = _)
  case noAccess => exact (tapRun_of_barred hs hno _ : execDbgAccess r s = _)
  case access =>
    have acts := fun req => (tapRun_of_allowed hs hok _ : execDbgAccess req s = _)
    exact ⟨fun a n => acts (.almRead a n), fun a b => ⟨acts (.imageWrite true a b), acts (.imageWrite false a b)⟩,
      fun a n hout => exec_fuseRead_outside hs hok hout, fun a n hlow hhigh => exec_fuseRead_secret hs hok hlow hhigh,
      fun k a n => acts (.scratchRead k a n), fun k a b => acts (.scratchWrite k a b), fun k a w => acts (.microWrite k a w),
      fun a n => acts (.hdmRead a n), fun a b => acts (.hdmWrite a b)⟩
  case noProgram => exact (tapRun_of_barred hs hno _ : execDbgFuse a b s = _)
  case program =>
    have row := exec_dbgFuse hs hok a b
    exact ⟨fun hsecret => row.trans (congrArg _ (if_pos hsecret)),
      fun hother hfield => row.trans (congrArg _ ((if_neg hother).trans (if_pos hfield))),
      fun hother hnone => row.trans (congrArg _ ((if_neg hother).trans (if_neg (Bool.eq_false_iff.1 hnone))))⟩

end Sys2Proof.Proofs

/-! SUPPORT. The interrupt controller (R490 to R497). -/

namespace Sys2Proof.Proofs

open Sys2Proof Machine Laws

/-! ### One source, one processor -/

@[simp] theorem getIc_modIc (s : State) (id : Nat) (f : IcSrc → IcSrc) : getIc (modIc s id f) id = f (getIc s id) :=
  mapGet_mod_same _ _ _ _

@[simp] theorem modIc_flt (s : State) (id : Nat) (f : IcSrc → IcSrc) : (modIc s id f).flt = s.flt := rfl

@[simp] theorem alive_modIc (s : State) (id : Nat) (f : IcSrc → IcSrc) : alive (modIc s id f) = alive s := rfl

@[simp] theorem getProc_modIc (s : State) (id p : Nat) (f : IcSrc → IcSrc) : getProc (modIc s id f) p = getProc s p := rfl

/-- The state a source takes when its line rises (R491). -/
def risen : IcState → IcState
  | .idle | .pending => .pending
  | .active | .activePending => .activePending

/-! ### The rows -/

section
variable {s : State} (hs : alive s = true)
include hs

section
variable {id : Nat} (hid : id < 1023) (hexists : icExists id = true)
include hid hexists

/-- R491: an edge moves the state of its source. -/
theorem exec_icSourceAssert_edge (hedge : icEdge id = true) (on : Bool) :
    exec (.icSourceAssert id on) s =
      .next (icSettle (if on then modIc s id (fun y => { y with state := risen (getIc s id).state }) else s) id) := by
  refine (unitRow_of_guard hid (by simp [hs, hexists]) _ _).trans (congrArg _ (congrArg (fun t => icSettle t id) ?_))
  simp only [hedge, if_true]
  cases (getIc s id).state <;> rfl

/-- R491: a level that rises sets its line and moves the state. -/
theorem exec_icSourceAssert_rise (hlevel : icEdge id = false) (hlow : (getIc s id).asserted = false) :
    exec (.icSourceAssert id true) s =
      .next (icSettle (modIc s id (fun y => { y with asserted := true, state := risen (getIc s id).state })) id) := by
  refine (unitRow_of_guard hid (by simp [hs, hexists]) _ _).trans (congrArg _ (congrArg (fun t => icSettle t id) ?_))
  simp only [hlevel, hlow, Bool.false_eq_true, if_false, if_true]
  cases (getIc s id).state <;> rfl

/-- R494: a level that falls clears its line alone. -/
theorem exec_icSourceAssert_fall (hlevel : icEdge id = false) :
    exec (.icSourceAssert id false) s = .next (icSettle (modIc s id (fun y => { y with asserted := false })) id) := by
  refine (unitRow_of_guard hid (by simp [hs, hexists]) _ _).trans (congrArg _ (congrArg (fun t => icSettle t id) ?_))
  simp only [hlevel, Bool.false_eq_true, if_false]

end

section
variable {p : Nat} (hp : p < 22)
include hp

/-- R492: the processor claims the best source offered to it. -/
theorem exec_icClaim_some {id : Nat} {x : IcSrc} (hbest : icBest s p s.intc.src = some (id, x)) :
    exec (.icClaim p) s = .next (emit (icNotify (modProc (modIc s id (fun x => { x with state := .active, proc := p })) p
      (fun x => { x with notified := false }))) (.readData (leBytes 4 id))) := by
  refine (unitRow_of_guard hp hs _ _).trans ?_
  simp only [hbest]

/-- R492: with none, it reads 1023 where it had been notified and 0 where not. -/
theorem exec_icClaim_none (hbest : icBest s p s.intc.src = none) :
    exec (.icClaim p) s = .next (emit (icNotify (modProc s p (fun x => { x with notified := false })))
      (.readData (leBytes 4 (if (getProc s p).notified then 1023 else 0)))) := by
  refine (unitRow_of_guard hp hs _ _).trans ?_
  simp only [hbest]

/-- R493: a completion by a processor that does not serve the source is counted as bad. -/
theorem exec_icComplete_bad {id : Nat}
    (hbad : ((getIc s id).state ≠ .active ∧ (getIc s id).state ≠ .activePending) ∨ (getIc s id).proc ≠ p) :
    exec (.icComplete p id) s = .next (modProc s p (fun y => { y with badcomp := satInc 0xFFFF y.badcomp })) := by
  have not_owned : (((getIc s id).state == .active || (getIc s id).state == .activePending) && (getIc s id).proc == p) = false := by
    rcases hbad with ⟨h1, h2⟩ | h <;> simp [*]
  refine (unitRow_of_guard hp hs _ _).trans (congrArg _ ?_)
  simp only [not_owned, Bool.false_eq_true, if_false]

section
variable {id : Nat} (howned : ((getIc s id).state == .active || (getIc s id).state == .activePending) = true)
  (hproc : (getIc s id).proc = p)
include howned hproc

/-- R493: the owner completes a source whose line is low, or an edge: it is pending again only where it asserted meanwhile. -/
theorem exec_icComplete_low (hlow : icEdge id = true ∨ (getIc s id).asserted = false) :
    exec (.icComplete p id) s = .next (icSettle (modIc s id (fun y => { y with
      state := if (getIc s id).state = .activePending then .pending else .idle, count := 0 })) id) := by
  have no_level : (!icEdge id && (getIc s id).asserted) = false := by rcases hlow with h | h <;> simp [h]
  refine (unitRow_of_guard hp hs _ _).trans (congrArg _ ?_)
  simp [howned, hproc, no_level]

/-- R493, R497: the owner completes a level source whose line stays high: it is pending again, and storms after 1024 completions. -/
theorem exec_icComplete_high (hlevel : icEdge id = false) (hhigh : (getIc s id).asserted = true) :
    exec (.icComplete p id) s = .next (icSettle
      (if 1024 ≤ (getIc s id).count + 1 then
        raiseFault (modIc s id (fun y => { y with
          state := .pending, count := (getIc s id).count + 1, enable := false, storm := true, polled := s.uptime })) 0x3D 0xC4 id
      else modIc s id (fun y => { y with state := .pending, count := (getIc s id).count + 1 })) id) := by
  refine (unitRow_of_guard hp hs _ _).trans (congrArg _ ?_)
  by_cases hstorm : 1024 ≤ (getIc s id).count + 1
  · simp [howned, hproc, hlevel, hhigh, hstorm]
  · simp [howned, hproc, hlevel, hhigh, hstorm]

end

end

/-- Writing IC_SRC sets its fields; enabling the source ends its storm (R497). -/
theorem exec_icSrcEnable {id : Nat} (hfirst : 1 ≤ id) (hid : id < 1023) (v : W32) :
    exec (.icSrcEnable id v) s = .next (icSettle (modIc s id (fun y => { y with
      enable := v.getLsbD 31, priority := bits v.toNat 26 24, targets := v.truncate 22, count := 0,
      storm := y.storm && !v.getLsbD 31 })) id) :=
  unitRow_of_guard hid (by simp [hs, hfirst]) _ _

/-- R497: a stormed source is polled 1 ms after its last poll. -/
theorem exec_intStormPoll {id : Nat} (hid : id < 1023) (hstorm : (getIc s id).storm = true)
    (hdue : (getIc s id).polled + 1000000 ≤ s.uptime) :
    exec (.intStormPoll id) s = .next (icSettle (modIc s id (fun y =>
      if y.asserted then { y with polled := s.uptime } else { y with enable := true, storm := false, count := 0, polled := s.uptime })) id) :=
  unitRow_of_guard hid (by simp [hs, hstorm, hdue]) _ _

end

/-- Settles O45: an assertion is told apart by the kind of the source, a completion by its owner, its line and its count. That an assertion
comes as a row alone is log entry 42. -/
theorem interruptControllerRowsComplete : Obligations.InterruptControllerRowsComplete := by
  intro s hs
  refine ⟨fun id hid hexists => ⟨fun hedge => ?edge, fun hlevel => ?level⟩,
    fun p hp => ⟨fun id pr hbest => exec_icClaim_some hs hp hbest, fun hnone => exec_icClaim_none hs hp hnone⟩,
    fun p id hp => ⟨fun hbad => exec_icComplete_bad hs hp hbad, fun hproc hlow => ?low, fun hproc howned hlevel hhigh => ?high⟩,
    fun id v hfirst hid => exec_icSrcEnable hs hfirst hid v, fun id hid hstorm hdue => exec_intStormPoll hs hid hstorm hdue⟩
  case edge =>
    have row := exec_icSourceAssert_edge hs hid hexists hedge
    exact ⟨row true, row false⟩
  case level =>
    exact ⟨fun hlow => exec_icSourceAssert_rise hs hid hexists hlevel hlow, exec_icSourceAssert_fall hs hid hexists hlevel⟩
  case low =>
    refine ⟨fun hactive => ?_, fun hagain => ?_⟩
    · simpa [hactive] using exec_icComplete_low hs hp (by simp [hactive]) hproc hlow
    · simpa [hagain] using exec_icComplete_low hs hp (by simp [hagain]) hproc hlow
  case high =>
    have row := exec_icComplete_high hs hp (by simpa using howned) hproc hlevel hhigh
    refine ⟨fun hfew => ?_, fun hmany => ?_⟩
    · rw [if_neg (by omega)] at row
      exact row
    · rw [if_pos (by omega)] at row
      exact row

/-! ### What the controller leaves alone once a source has changed -/

/-- A wake changes power domains and cells alone (R500). -/
theorem wakeOne_frame (early : Bool) (s : State) (d : Nat) : ∃ cells power, wakeOne early s d = { s with cells, power } := by
  unfold wakeOne
  dsimp only
  repeat' split
  all_goals exact ⟨_, _, rfl⟩

theorem foldl_wakeOne_frame (early : Bool) (ds : List Nat) (s : State) :
    ∃ cells power, ds.foldl (wakeOne early) s = { s with cells, power } := by
  induction ds generalizing s with
  | nil => exact ⟨_, _, rfl⟩
  | cons d ds ih =>
    obtain ⟨c, p, woken⟩ := wakeOne_frame early s d
    obtain ⟨cells, power, rest⟩ := ih (wakeOne early s d)
    exact ⟨cells, power, by rw [List.foldl_cons, rest, woken]⟩

theorem wakeUnit_frame (early : Bool) (s : State) (d : Nat) : ∃ cells power, wakeUnit early s d = { s with cells, power } := by
  obtain ⟨c, p, parents⟩ := foldl_wakeOne_frame early (domParents d) s
  obtain ⟨cells, power, woken⟩ := wakeOne_frame early ((domParents d).foldl (wakeOne early) s) d
  exact ⟨cells, power, by rw [wakeUnit, woken, parents]⟩

theorem icWake_frame (s : State) (id : Nat) : ∃ cells power, icWake s id = { s with cells, power } := by
  unfold icWake
  dsimp only
  split
  · exact ⟨_, _, rfl⟩
  · split
    · split
      · exact wakeUnit_frame _ _ _
      · exact ⟨_, _, rfl⟩
    · exact ⟨_, _, rfl⟩

/-- A processor that is told of an interrupt keeps its count of bad completions. -/
theorem getProc_notified_badcomp (s : State) (p q : Nat) :
    (getProc (modProc s p (fun x => { x with notified := true })) q).badcomp = (getProc s q).badcomp := by
  by_cases hq : q = p
  · subst hq
    simp only [getProc, modProc, mapGet_mod_same]
  · simp only [getProc, modProc, mapGet_mod_other _ _ _ hq]

/-- Telling processors of interrupts changes their side of the controller alone. -/
theorem foldl_notify_frame (line : Nat → Bool) (ps : List Nat) (s : State) :
    ∃ proc, ps.foldl (fun t p => if line p then modProc t p (fun x => { x with notified := true }) else t) s =
        { s with intc := { s.intc with proc } } ∧
      ∀ q, (mapGet IcProc.idle proc q).badcomp = (getProc s q).badcomp := by
  induction ps generalizing s with
  | nil => exact ⟨s.intc.proc, rfl, fun _ => rfl⟩
  | cons p ps ih =>
    rw [List.foldl_cons]
    split
    · obtain ⟨proc, told, counts⟩ := ih (modProc s p (fun x => { x with notified := true }))
      exact ⟨proc, told, fun q => (counts q).trans (getProc_notified_badcomp s p q)⟩
    · exact ih s

/-- After a change of a source, wakes and notifications follow: domains, cells and the processors' sides alone change. -/
theorem icSettle_frame (s : State) (id : Nat) :
    ∃ cells power proc, icSettle s id = { s with cells, power, intc := { s.intc with proc } } ∧
      ∀ q, (mapGet IcProc.idle proc q).badcomp = (getProc s q).badcomp := by
  obtain ⟨cells, power, woken⟩ := icWake_frame s id
  obtain ⟨proc, told, counts⟩ := foldl_notify_frame (icLine (icWake s id)) (List.range 22) (icWake s id)
  rw [woken] at told counts
  exact ⟨cells, power, proc, by rw [icSettle, icNotify, woken]; exact told, counts⟩

section
variable (s : State) (id : Nat)

@[simp] theorem icSettle_src : (icSettle s id).intc.src = s.intc.src := by
  obtain ⟨_, _, _, settled, -⟩ := icSettle_frame s id
  rw [settled]

@[simp] theorem icSettle_flt : (icSettle s id).flt = s.flt := by
  obtain ⟨_, _, _, settled, -⟩ := icSettle_frame s id
  rw [settled]

@[simp] theorem icSettle_supply : (icSettle s id).supply = s.supply := by
  obtain ⟨_, _, _, settled, -⟩ := icSettle_frame s id
  rw [settled]

@[simp] theorem getProc_icSettle_badcomp (p : Nat) : (getProc (icSettle s id) p).badcomp = (getProc s p).badcomp := by
  obtain ⟨_, _, _, settled, counts⟩ := icSettle_frame s id
  rw [settled]
  exact counts p

@[simp] theorem getIc_icSettle (k : Nat) : getIc (icSettle s id) k = getIc s k := by
  rw [getIc, icSettle_src]
  rfl

@[simp] theorem alive_icSettle : alive (icSettle s id) = alive s := by
  rw [alive, icSettle_supply]
  rfl

end

/-! ### What is offered (R492) -/

/-- The source offered to a processor is listed and may interrupt it. -/
theorem icBest_spec {s : State} {p k : Nat} {x : IcSrc} {m : FMap IcSrc} (h : icBest s p m = some (k, x)) :
    (k, x) ∈ m ∧ icEligible s x p = true := by
  induction m with
  | nil => simp [icBest] at h
  | cons e m ih =>
    obtain ⟨i, y⟩ := e
    have tail (hm : icBest s p m = some (k, x)) : (k, x) ∈ (i, y) :: m ∧ icEligible s x p = true :=
      (ih hm).imp_left (List.mem_cons_of_mem _)
    have head (hy : icEligible s y p = true) (heq : (i, y) = (k, x)) : (k, x) ∈ (i, y) :: m ∧ icEligible s x p = true := by
      cases heq
      exact ⟨List.mem_cons_self, hy⟩
    rw [icBest] at h
    split at h
    · split at h
      next hy => exact head hy (Option.some.inj h)
      next => cases h
    · split at h
      next hbest hy =>
        rw [Bool.and_eq_true] at hy
        exact head hy.1 (Option.some.inj h)
      next hbest _ => exact tail (hbest.trans h)

theorem mem_mapInsert {α : Type} {m : FMap α} {k : Nat} {v : α} {e : Nat × α} (h : e ∈ mapInsert m k v) : e = (k, v) ∨ e ∈ m := by
  induction m with
  | nil => simpa [mapInsert] using h
  | cons y m ih =>
    obtain ⟨i, w⟩ := y
    by_cases hk : k < i
    · simpa [mapInsert, hk] using h
    · rw [mapInsert, if_neg hk, List.mem_cons] at h
      rcases h with rfl | h
      · exact .inr List.mem_cons_self
      · exact (ih h).imp_right (List.mem_cons_of_mem _)

/-- The one entry that a write leaves of its key. -/
theorem mem_mapSet_same {α : Type} [DecidableEq α] {d : α} {m : FMap α} {k : Nat} {v x : α} (h : (k, x) ∈ mapSet d m k v) : x = v := by
  unfold mapSet at h
  split at h
  · exact absurd rfl (fresh_erase m k _ h)
  · rcases mem_mapInsert h with hnew | hold
    · exact congrArg Prod.snd hnew
    · exact absurd rfl (fresh_erase m k _ hold)

/-- A source that is not pending is offered to no processor. -/
theorem icBest_ne_of_not_pending {s t : State} {id p : Nat} {f : IcSrc → IcSrc} (hsrc : t.intc.src = (modIc s id f).intc.src)
    (hstate : (f (getIc s id)).state ≠ .pending) (x : IcSrc) : icBest t p t.intc.src ≠ some (id, x) := by
  intro hbest
  obtain ⟨listed, eligible⟩ := icBest_spec hbest
  rw [hsrc] at listed
  obtain rfl : x = f (getIc s id) := mem_mapSet_same listed
  simp [icEligible, hstate] at eligible

/-- Settles O56: the fall clears the line alone, so that the completion finds it low and makes the source IDLE, which no processor is
offered. -/
theorem deassertedSourceCostsOneClaim : Obligations.DeassertedSourceCostsOneClaim := by
  intro s id p hid hp hs hexists hlevel hactive hproc
  have falls := exec_icSourceAssert_fall hs hid hexists hlevel
  have completes := exec_icComplete_low (s := icSettle (modIc s id (fun y => { y with asserted := false })) id) (id := id)
    (by simpa using hs) hp (by simp [hactive]) (by simpa using hproc) (.inr (by simp))
  refine ⟨_, _, falls, by simp, by simp [hactive], completes, by simp [hactive], by simp, by simp, by simp, fun q pr => ?notOffered⟩
  case notOffered => exact icBest_ne_of_not_pending (icSettle_src _ _) (by simp [hactive]) pr

end Sys2Proof.Proofs

/-! SUPPORT. The power domains (R499 to R506). -/

namespace Sys2Proof.Proofs

open Sys2Proof Machine Laws

/-! ### Entry and wake -/

/-- A block with nothing queued, running or held in its BNE and no context in its digest engine (R499). -/
def blockQuiet (b : Block) : Prop :=
  b.bne.queue = [] ∧ b.bne.held = [] ∧ b.bne.run = none ∧ b.bne.long = none ∧ b.de.ctx = []

section
variable {s : State} {d : Nat} (hd : d < 160) (hs : alive s = true)
include hd hs

section
variable {target : Nat} (hmay : mayEnter s d target = true)
include hmay

theorem exec_coreWait_region (hkind : domKind d = 2) : exec (.coreWait d target) s = .next (beginEntry s d target) :=
  unitRow_of_guard hd (by simp [hs, hkind, hmay]) _ _

theorem exec_coreWait_block (hkind : domKind d = 1) (hquiet : blockQuiet (getBlock s (d - 128))) :
    exec (.coreWait d target) s = .next (beginEntry s d target) := by
  obtain ⟨hqueue, hheld, hrun, hlong, hctx⟩ := hquiet
  exact unitRow_of_guard hd (by simp [hs, hkind, hmay, hqueue, hheld, hrun, hlong, hctx]) _ _

theorem exec_pwrCtlEntry (hkind : domKind d = 3 ∨ (domKind d = 4 ∧ (portEnt s (d - 152)).paired = false)) :
    exec (.pwrCtlEntry d target) s = .next (beginEntry s d target) :=
  unitRow_of_guard hd (by rcases hkind with h | ⟨h, hp⟩ <;> simp [*]) _ _

end

theorem exec_pwrStatAbortedClear :
    exec (.pwrStatAbortedClear d) s =
      .next (if d < 128 then modCell (modDom s d (fun x => { x with aborted := false })) d (fun c => { c with pwrAborted := false })
        else modDom s d (fun x => { x with aborted := false })) :=
  unitRow_of_guard hd hs _ _

/-- Domain `d` ACTIVE again, with the banks to check that it kept (R503 to R505). -/
def backActive (s : State) (d : Nat) : State :=
  let x := getDom s d
  modDom s d (fun y =>
    { y with state := 0, waking := none, checks := if x.state = 2 ∨ x.state = 3 then retBanks d else [],
             differ := if x.state = 2 ∨ x.state = 3 then differing s d else [] })

section
variable {t0 l : Nat} (hwaking : (getDom s d).waking = some t0) (hlimit : wakeLimit d (getDom s d).state = some l)
include hwaking hlimit

/-- R503: a wake that ends within its limit. -/
theorem exec_wakeComplete (htime : s.uptime < t0 + l) :
    exec (.wakeComplete d) s = .next (if d < 128 then modCell (backActive s d) d (cellExit (getDom s d).state)
      else if domKind d = 2 ∧ 3 ≤ (getDom s d).state then modRng (backActive s d) (d - 144) (fun r => { r with src := 3 })
      else backActive s d) :=
  unitRow_of_guard hd (by simp [hs, hwaking, hlimit, htime]) _ _

/-- R503: a wake past its limit. -/
theorem exec_wakeFail (hlate : t0 + l ≤ s.uptime) :
    exec (.wakeFail d) s = .next (raiseFault (forJobs (fun j => jobOn s (domBit d) j && !j.isReleased)
      (fun y j => putJob y (placeJob y { j with avoid := some j.unit }))
      (modDom s d (fun y => { y with waking := none, failed := true }))) 0x08 (domUnit d) 0) :=
  unitRow_of_guard hd (by simp [hs, hwaking, hlimit, hlate]) _ _

end

/-- R504, R505: a bank is read back, good or not. -/
theorem exec_retentionCheckDone {bank : Nat} (hcheck : (getDom s d).checks.contains bank = true) (ok : Bool) :
    exec (.retentionCheckDone d bank ok) s =
      .next (if ok && !(getDom s d).differ.contains bank then modDom s d (fun y => { y with checks := y.checks.erase bank })
        else raiseFault (modDom s d (fun y => { y with checks := y.checks.erase bank })) 0x07 (domUnit d) bank) :=
  unitRow_of_guard hd (by rw [hs, hcheck]; rfl) _ _

end

/-! ### A bank that is lost (R505) -/

/-- Domain `k` with one more lost bank. -/
def lossCounted (s : State) (k : Nat) : State := modDom s k (fun y => { y with retLost := satInc 0xFF y.retLost })

/-- The jobs on unit `m` replayed: those that may have used a bank that is lost (log entry 47). -/
def usersReplayed (s : State) (m : Nat) (v : State) : State :=
  forJobs (fun j => jobOn s m j && !j.isReleased) (fun y j => replayJob y j false) v

/-- The state with the content of a bank lost. -/
def contentLost (t : State) (k bank : Nat) : State :=
  if k < 128 then modCell t k (fun c => if bank = 3 then c.clearWindow else c.reloadMaker (fun b => b == bank))
  else if k < 144 then
    (if 32 ≤ bank then modBne t (k - 128) (fun b =>
       if bank = 32 then { b with dirty := true, h0 := none, h0Mem := [], owner := none } else { b with dirty := true, h1Mem := [] })
     else modBlock t (k - 128) (fun b => { b with cache := [] }))
  else modRegion t (k - 144) (fun r => { r with cache := [] })

section
variable {s : State} {k bank : Nat}

theorem srcAction_retention {u : Nat} (hu : unitBit u = some k) :
    srcAction s 0x07 u bank = usersReplayed (lossCounted s k) (bankUnit k bank) (contentLost (lossCounted s k) k bank) := by
  simp only [srcAction, hu]
  rfl

/-- R468: a unit's number names its bit. -/
theorem unitBit_unitNo (hk : k < 148) : unitBit (unitNo k) = some k := by
  rcases Nat.lt_or_ge k 128 with hcell | hother
  · simp [unitNo, unitBit, hcell]
  rcases Nat.lt_or_ge k 144 with hblock | hregion
  · have not_cell : ¬ k < 128 := by omega
    have number : unitNo k = k := by rw [unitNo, if_neg not_cell, if_pos hblock]; omega
    have low : 0x80 ≤ k ∧ k < 0x90 := ⟨hother, hblock⟩
    rw [number, unitBit, if_neg not_cell, if_pos low, Nat.add_sub_cancel' hother]
  · have number : unitNo k = 0x90 + (k - 144) := by
      rw [unitNo, if_neg (by omega), if_neg (by omega), if_pos hk]
    rw [number, unitBit, if_neg (by omega), if_neg (by omega), if_pos (by omega), Nat.add_sub_cancel_left, Nat.add_sub_cancel' hregion]

theorem srcAction_retention_unit (hk : k < 148) : srcAction s 0x07 (unitNo k) bank =
    usersReplayed (lossCounted s k) (bankUnit k bank) (contentLost (lossCounted s k) k bank) :=
  srcAction_retention (unitBit_unitNo hk)

theorem unitNo_cell (hk : k < 128) : unitNo k = k := if_pos hk

/-! ### Which content is lost -/

variable {t : State}

theorem contentLost_window (hk : k < 128) : contentLost t k 3 = modCell t k (fun c => c.clearWindow) := if_pos hk

theorem contentLost_microstore (hk : k < 128) (hbank : bank ≠ 3) :
    contentLost t k bank = modCell t k (fun c => c.reloadMaker (fun b => b == bank)) := by
  rw [contentLost, if_pos hk]
  simp only [hbank, if_false]

theorem contentLost_h0 (hlow : 128 ≤ k) (hhigh : k < 144) :
    contentLost t k 32 = modBne t (k - 128) (fun b => { b with dirty := true, h0 := none, h0Mem := [], owner := none }) := by
  rw [contentLost, if_neg (by omega), if_pos hhigh]
  rfl

theorem contentLost_h1 (hlow : 128 ≤ k) (hhigh : k < 144) (hbank : 32 < bank) :
    contentLost t k bank = modBne t (k - 128) (fun b => { b with dirty := true, h1Mem := [] }) := by
  have hother : bank ≠ 32 := by omega
  rw [contentLost, if_neg (by omega), if_pos hhigh, if_pos (by omega)]
  simp only [hother, if_false]

theorem contentLost_keyCache (hlow : 128 ≤ k) (hhigh : k < 144) (hbank : bank < 32) :
    contentLost t k bank = modBlock t (k - 128) (fun b => { b with cache := [] }) := by
  rw [contentLost, if_neg (by omega), if_pos hhigh, if_neg (by omega)]

theorem contentLost_region (hlow : 144 ≤ k) : contentLost t k bank = modRegion t (k - 144) (fun r => { r with cache := [] }) := by
  rw [contentLost, if_neg (by omega), if_neg (by omega)]

theorem bankUnit_bne (hlow : 128 ≤ k) (hhigh : k < 144) (hbank : 32 ≤ bank) : bankUnit k bank = 148 + (k - 128) :=
  if_pos ⟨hlow, hhigh, hbank⟩

theorem bankUnit_own (h : k < 128 ∨ 144 ≤ k ∨ bank < 32) : bankUnit k bank = k := if_neg (by omega)

end

/-- Settles O37: each row meets its guard; a wake is then told apart by its time and by the kind of domain, a loss by the bank. That a lost
bank was used by every job on its domain is log entry 47, the number of a bank as INFO entry 52, and the check words of the banks entry 53. -/
theorem powerDomainRowsComplete : Obligations.PowerDomainRowsComplete := by
  intro s d hd hs
  refine ⟨fun target hmay hkind => exec_coreWait_region hd hs hmay hkind, fun target hmay hkind hquiet => exec_coreWait_block hd hs hmay hkind hquiet,
    fun target hmay hkind => exec_pwrCtlEntry hd hs hmay hkind, ⟨fun hcell => ?clearCell, fun hother => ?clearOther⟩,
    fun early => unitRow_of_guard hd hs _ _, fun t0 hwaking => ⟨fun l hlimit htime => ?wakes, fun l hlimit hlate => ?wakeFails⟩,
    fun bank ok hcheck => ⟨fun hok hsame => ?kept, fun hbad => ?lost⟩, fun k bank hk => ?action⟩
  case clearCell => exact (exec_pwrStatAbortedClear hd hs).trans (congrArg _ (if_pos hcell))
  case clearOther => exact (exec_pwrStatAbortedClear hd hs).trans (congrArg _ (if_neg (by omega)))
  case wakes =>
    have row := exec_wakeComplete hd hs hwaking hlimit htime
    refine ⟨fun hcell => row.trans (congrArg _ (if_pos hcell)), fun hother hkind hdeep => ?_, fun hother hshallow => ?_⟩
    · exact row.trans (congrArg _ ((if_neg (by omega)).trans (if_pos ⟨hkind, hdeep⟩)))
    · exact row.trans (congrArg _ ((if_neg (by omega)).trans (if_neg (by omega))))
  case wakeFails => exact exec_wakeFail hd hs hwaking hlimit hlate
  case kept => exact (exec_retentionCheckDone hd hs hcheck ok).trans (congrArg _ (if_pos (by rw [hok, hsame]; rfl)))
  case lost =>
    refine (exec_retentionCheckDone hd hs hcheck ok).trans (congrArg _ (if_neg ?_))
    rcases hbad with h | h <;> rw [h] <;> simp
  case action =>
    have action := srcAction_retention_unit (s := s) (bank := bank) hk
    refine ⟨fun hcell hbank => ?window, fun hcell hbank => ?microstore, fun hlow hhigh hbank => ?h0, fun hlow hhigh hbank => ?h1,
      fun hlow hhigh hbank => ?keyCache, fun hlow => ?region⟩
    case window =>
      subst hbank
      rw [unitNo_cell hcell, bankUnit_own (.inl hcell), contentLost_window hcell] at action
      exact action
    case microstore =>
      rw [unitNo_cell hcell, bankUnit_own (.inl hcell), contentLost_microstore hcell hbank] at action
      exact action
    case h0 =>
      subst hbank
      rw [bankUnit_bne hlow hhigh (by omega), contentLost_h0 hlow hhigh] at action
      exact action
    case h1 =>
      rw [bankUnit_bne hlow hhigh (by omega), contentLost_h1 hlow hhigh hbank] at action
      exact action
    case keyCache =>
      rw [bankUnit_own (.inr (.inr hbank)), contentLost_keyCache hlow hhigh hbank] at action
      exact action
    case region =>
      rw [bankUnit_own (.inr (.inl hlow)), contentLost_region hlow] at action
      exact action

end Sys2Proof.Proofs

/-! SUPPORT. Faults: recovery and the halt (R465 to R489). -/

namespace Sys2Proof.Proofs

open Sys2Proof Machine Laws

/-- A unit that failed its recovery test, fenced again: recorded by its own handler and, where another fences it, by that one (R472, R475). -/
def fencedAgain (s : State) (k : Nat) : State :=
  let r := newRec s (getUnit s k).src 2 (unitNo k) 0 []
  let t := if handlerOf (unitNo k) = fencerOf k then s else record s (handlerOf (unitNo k)) r []
  modUnit (setUnit (record t (fencerOf k) r [k]) k .fenced) k (fun x => { x with acting := true, quietFrom := none })

/-- What a fence that has acted makes of its unit: FAILED at the recovery limit, and the quiet period before it (R475, R476). -/
def afterFence (s : State) (k : Nat) : State :=
  let t := actedIn s (fencerOf k) k
  if s.flt.recov.limit ≤ recoveries s (unitNo k) then
    (if 144 ≤ k ∧ k < 148 then failRegion t (k - 144) (getUnit s k).src 0 else failUnit t k (getUnit s k).src 0)
  else modUnit t k (fun x => { x with acting := false, quietFrom := some s.uptime })

section
variable {s : State} (hs : alive s = true)
include hs

/-- R465: a fault detected at a unit it can concern is raised. -/
theorem exec_faultDetect {src u info : Nat} (hu : unitKnown u = true) (hsrc : srcUnitOk src u = true) (hhalt : s.chip.mode ≠ .halt) :
    exec (.faultDetect src u info) s = .next (raiseFault s src u info) :=
  (known_of_exists hu _).trans (doIf_of_guard (by simp [hs, hhalt, hsrc]) _ _)

section
variable {k : Nat} (hk : k < 174)
include hk

theorem exec_fenceActed (hfenced : (getUnit s k).state = .fenced) (hacting : (getUnit s k).acting = true) :
    exec (.fenceActed k) s = .next (afterFence s k) :=
  unitRow_of_guard hk (by simp [hs, hfenced, hacting]) _ _

variable (hboot : s.chip.mode ≠ .boot) (hhalt : s.chip.mode ≠ .halt)
include hboot hhalt

/-- R475: once the quiet period is over, the unit recovers. -/
theorem exec_quietPeriodEnd (hfenced : (getUnit s k).state = .fenced) (hacted : (getUnit s k).acting = false)
    (hover : quietOver s (getUnit s k) = true) :
    exec (.quietPeriodEnd k) s =
      .next (noteRecovery (modUnit (setUnit s k .recovering) k (fun x => { x with quietFrom := none })) (unitNo k)) :=
  unitRow_of_guard hk (by simp [hs, hboot, hhalt, hfenced, hacted, hover]) _ _

/-- R475, R476: a unit that passes its recovery test returns, and one that fails it is fenced again. -/
theorem exec_recoveryTestDone (hrecovering : (getUnit s k).state = .recovering) (ok : Bool) :
    exec (.recoveryTestDone k ok) s =
      .next (if ok then placeCopies (recovered (setUnit s k .online) k) else fencedAgain s k) :=
  unitRow_of_guard hk (by simp [hs, hboot, hhalt, hrecovering]) _ _

end

end

/-- Settles O44: each row meets its guard; a fence that acted is then told apart by the recovery limit and the kind of unit. That a
takeover replays what the fenced core held is log entry 34. -/
theorem faultRowsComplete : Obligations.FaultRowsComplete := by
  intro s hs
  refine ⟨fun src u info hu hsrc hhalt => exec_faultDetect hs hu hsrc hhalt, fun k hk hfenced hacting => ?fence,
    fun k hk hboot hhalt => ⟨fun hfenced hacted hover => exec_quietPeriodEnd hs hk hboot hhalt hfenced hacted hover,
      fun hrecovering => ?test⟩,
    fun hdown hup => doIf_of_guard (by rw [hs, hdown, hup]; rfl) _ _,
    fun io hfatal hhalt => doIf_of_guard (by simp [hs, hfatal, hhalt]) _ _⟩
  case fence =>
    have row := exec_fenceActed hs hk hfenced hacting
    refine ⟨fun hlimit hlow hhigh => ?_, fun hlimit hother => ?_, fun hbelow => row.trans (congrArg _ (if_neg (Nat.not_le.2 hbelow)))⟩
    · exact row.trans (congrArg _ ((if_pos hlimit).trans (if_pos ⟨hlow, hhigh⟩)))
    · exact row.trans (congrArg _ ((if_pos hlimit).trans (if_neg (by omega))))
  case test =>
    have row := exec_recoveryTestDone hs hk hboot hhalt hrecovering
    exact ⟨row true, row false⟩

end Sys2Proof.Proofs
